-- ==== Sys2Proof/Word.lean ====
section
/-! DEFINITION. The word types of the N2: what the manual treats as bits (spec/00_scope.md R15, R21). -/

namespace Sys2Proof

/-- One byte of a beat, a line, an image or a record. -/
abbrev Byte := BitVec 8

/-- A 32-bit register, header field or binary32 pattern. -/
abbrev Word := BitVec 32

/-- A 64-bit turret register or store word. -/
abbrev DWord := BitVec 64

/-- Bits [hi:lo] of a register value, as a number. -/
def Word.field (w : Word) (hi lo : Nat) : Nat := (w.toNat >>> lo) % 2 ^ (hi + 1 - lo)

/-- Bit i of a register value. -/
def Word.bit (w : Word) (i : Nat) : Bool := w.toNat.testBit i

/-- What a line is allocated for (12 Table 12.4): the context, descriptor, pages or tree of a stream; a vocabulary image; an automaton or a
Cupola entry of one; a stop set; a program; a private Cupola entry; the long-piece area or the staged output of a job; a queue. -/
inductive AllocFor where
  | stream (id : Nat)
  | vocabulary
  | automaton (n : Nat)
  | stopSet (owner : Nat)
  | program
  | privateEntry (stream : Nat)
  | job (ticket : Nat)
  | queue (q : Nat)
  deriving DecidableEq, Repr

/-- The work that a request to a macro is part of (12 Table 12.2). -/
inductive StoreWork where
  | restore | migration | repair | emergency
  | selector | capture | finial
  | home | commit | staging | egress
  | bulk | image | lineOut | pack | checkpoint | drain | scrub
  | march | writeBack
  | query | eqData
  deriving DecidableEq, Repr

/-- What one access to a store macro does (12 R429, R431, R439, R452). -/
inductive StoreOp where
  /-- read one line -/
  | read
  /-- write the bytes of one word that the enables name -/
  | write (word : Nat) (enables : BitVec 8) (value : DWord)
  /-- write whole words of the line: each word with its value -/
  | writeWords (words : List (Nat × DWord))
  /-- through the bit-set window -/
  | setBits (word : Nat) (mask : DWord)
  /-- through the bit-clear window -/
  | clearBits (word : Nat) (mask : DWord)
  /-- the first write of a line that the unit allocates: all its words, and the tag that Table 12.4 gives -/
  | allocate (what : AllocFor) (words : List DWord)
  deriving DecidableEq, Repr

/-- One request presented to a macro's arbiter (12 R433, R453): who asks, for which work, for which owner (none: the
block itself), at which line of the macro. -/
structure StoreReq where
  requester : Nat
  work : StoreWork
  owner : Option Nat
  line : Nat
  op : StoreOp
  deriving DecidableEq, Repr

end Sys2Proof
end

