-- ==== Sys2Proof/Syntax.lean ====
section
/-! DEFINITION. The commands of the block: one constructor per row of spec/opcode_table.json, in the table's order.
Operands: a ring, stream, queue, turret ... number is a natural number; a value written to a register is a 32-bit word;
a beat, line or message is its list of bytes. A block command of the command rings names the TICKET that the Ring Unit
gave it at fetch: its fields are the entry that the Ring Unit holds (02 R79, R83). A turret instruction names the
physical turret p that issues it and the fields of its word (07 R267). What only the silicon decides is an operand too:
the requests presented to an arbiter in one cycle (12 R433), whether a march compare failed (R447), which turrets failed
the self-test of a start (13 Table 13.4 step 5). -/

namespace Sys2Proof

/-- The commands of the block. -/
inductive Instr where
  -- command and completion rings (02)
  | ringCtailDoorbell (ring : Nat) (value : Word)
  | cmdRingEnable (ring : Nat) (value : Word)
  | cmdRingDisable (ring : Nat) (value : Word)
  | cqRingEnable (ring : Nat) (value : Word)
  | cqRingDisable (ring : Nat) (value : Word)
  | ringQheadWrite (ring : Nat) (value : Word)
  | commandFetch (ring : Nat)
  | commandDispatch
  | completionWrite (cq : Nat)
  | ringStall (ring : Nat)
  -- block commands (02 Table 2.9)
  | nop (ticket : Nat)
  | fence (ticket : Nat)
  | commitConfig (ticket : Nat)
  | loadVocab (ticket : Nat)
  | dropVocab (ticket : Nat)
  | loadAutomaton (ticket : Nat)
  | dropAutomaton (ticket : Nat)
  | loadProgram (ticket : Nat)
  | loadStopset (ticket : Nat)
  | ownerKey (ticket : Nat)
  | ownerRelease (ticket : Nat)
  | streamOpen (ticket : Nat)
  | streamParams (ticket : Nat)
  | prompt (ticket : Nat)
  | stepArm (ticket : Nat)
  | draft (ticket : Nat)
  | streamClose (ticket : Nat)
  | epochSet (ticket : Nat)
  | epochRevoke (ticket : Nat)
  | tokenize (ticket : Nat)
  | detokenize (ticket : Nat)
  | pack (ticket : Nat)
  | maskReplay (ticket : Nat)
  | snapshot (ticket : Nat)
  | checkpoint (ticket : Nat)
  | suspend (ticket : Nat)
  | resume (ticket : Nat)
  | reattach (ticket : Nat)
  | flush (ticket : Nat)
  -- masks, selection and sampling (06, 08, 15)
  | cupolaFillDone (aut : Nat) (state : Nat) (syms : List Nat) (exact : Bool)
  | cupolaSpaceFree (stream : Nat)
  | maskRdy (stream : Nat)
  | maskRdyDeliver
  | stepIssued (stream : Nat) (step : Nat)
  | logitHeaderBeat (port : Nat) (beat : List Byte)
  | logitDataBeat (port : Nat) (vcnt : Nat) (beat : List Byte)
  | stepDeadlineExpire (stream : Nat) (step : Nat) (node : Nat)
  | finialTokenRecord (stream : Nat)
  | peerPartialList (source : Nat) (type : Nat) (message : List Byte)
  | tokenNotice (source : Nat) (message : List Byte)
  -- commits and their timers (01, 10, 12, 14)
  | tokenCommit (stream : Nat)
  | recordLineTimer (owner : Nat) (replay : Bool)
  | ckptTimeInterval
  | streamIdle (stream : Nat)
  -- speculation (09)
  | draftTreeAttach (stream : Nat)
  | draftVerifyStep (stream : Nat)
  -- fabric ports and queue reads (11, 15)
  | fabricFetchReturn (port : Nat) (tag : Nat) (err : Bool) (line : List Byte)
  | fabricStoreAck (port : Nat) (tag : Nat) (err : Bool)
  | fabricResponseTimeout (port : Nat)
  | drainRead (port : Nat) (ofs : Nat) (tag : Nat)
  | drainWrite (port : Nat) (ofs : Nat) (tag : Nat)
  | eqDataRead (queue : Nat)
  -- bulk jobs (04)
  | unitOutputWrite (ticket : Nat)
  | stagingPieceFree (ticket : Nat) (unit : Nat)
  | longPieceAreaGrant (cluster : Nat)
  -- stores (12)
  | storeAccessGrant (store : Nat) (unit : Nat) (reqs : List StoreReq)
  | arbStarvePromote (store : Nat) (unit : Nat) (requester : Nat)
  | marchRegionStart
  | marchRegionDone (fails : Bool) (row : Nat)
  | contextRestoreDone (stream : Nat)
  | imageRepairDone (kind : Nat) (id : Nat) (owner : Nat)
  | turretWatchdogExpire (turret : Nat)
  | snapshotMarkerReturn
  -- register accesses with a row of their own, and the rest (10, 14, 16)
  | ctxQuery (value : Word)
  | ctxEnumGo (value : Word)
  | ctxEnumDone
  | pkrRecHeadWrite (value : Word)
  | belLogDataRead (word : Nat)
  | rcCounterRead (offset : Nat)
  | registerWrite (offset : Nat) (value : Word)
  -- Lantern: resets, watchdog, keys, fence, power (13)
  | swCold
  | swWarm
  | ltnWdogCtlWrite (value : Word)
  | ltnWdogKick (value : Word)
  | blockWatchdogExpire
  | ltnKeyZero (value : Word)
  | ltnFence (value : Word)
  | pwrTargetOn
  | pwrTargetRetain
  | pwrTargetOff
  | powerEntryQuiesced
  | powerRailAck (array : Bool) (level : Bool)
  | localResetTurret (index : Nat)
  | localResetIngressPort (index : Nat)
  | localResetFabricPort (index : Nat)
  | powerOnAssert
  | powerOnRelease
  | blkRstAssert
  | blkRstRelease
  | warmQuiesceDone
  | ckRootOkFall
  | ckRootOkRise
  | domainResetRelease (domain : Nat)
  | startStepDone (failedTurrets : List Nat)
  | optionWordResponse (err : Bool) (data : Word)
  | optionBusTimeout
  | startTimerExpire
  | startRetry
  | pfWarn
  | emergencyCkptDone
  | pfHoldExpire
  | dukKeyValid (key : List Byte)
  | dukTimeout
  -- IEEE 1500 wrapper (15)
  | wsBypass
  | n2Idcode
  | n2Lantern (offset : Nat)
  | wsExtest
  | wsIntest
  | n2Scan
  | n2Mbist
  | n2Repair
  -- Knalen (07 Table 7.4)
  | add (p : Nat) (d a b : Nat)
  | sub (p : Nat) (d a b : Nat)
  | and (p : Nat) (d a b : Nat)
  | or (p : Nat) (d a b : Nat)
  | xor (p : Nat) (d a b : Nat)
  | slt (p : Nat) (d a b : Nat)
  | addi (p : Nat) (d a : Nat) (imm : BitVec 18)
  | andi (p : Nat) (d a : Nat) (imm : BitVec 18)
  | shli (p : Nat) (d a : Nat) (imm : BitVec 18)
  | shri (p : Nat) (d a : Nat) (imm : BitVec 18)
  | movi (p : Nat) (d : Nat) (imm : BitVec 18)
  | movh (p : Nat) (d : Nat) (imm : BitVec 18)
  | ld (p : Nat) (d a : Nat) (imm : BitVec 18)
  | ldw (p : Nat) (d a : Nat) (imm : BitVec 18)
  | ldb (p : Nat) (d a : Nat) (imm : BitVec 18)
  | st (p : Nat) (d a : Nat) (imm : BitVec 18)
  | stw (p : Nat) (d a : Nat) (imm : BitVec 18)
  | stb (p : Nat) (d a : Nat) (imm : BitVec 18)
  | push (p : Nat) (a : Nat)
  | pop (p : Nat) (d : Nat)
  | peek (p : Nat) (d : Nat) (imm : BitVec 18)
  | tld (p : Nat) (d a : Nat) (imm : BitVec 18)
  | tldw (p : Nat) (d a : Nat) (imm : BitVec 18)
  | hprobe (p : Nat) (d a b : Nat)
  | tstep (p : Nat) (d a b : Nat) (longest : Bool)
  | astep (p : Nat) (d a : Nat)
  | aspec (p : Nat) (d a : Nat)
  | asave (p : Nat) (d a : Nat)
  | ares (p : Nat) (a : Nat)
  | mset (p : Nat) (a b : Nat) (cupola : Bool)
  | mclr (p : Nat) (a b : Nat) (cupola : Bool)
  | vld (p : Nat) (d a : Nat) (imm : BitVec 18)
  | vst (p : Nat) (d a : Nat) (imm : BitVec 18)
  | vin (p : Nat) (d a : Nat) (imm : BitVec 18)
  | vcls (p : Nat) (d a b : Nat)
  | vcmpeq (p : Nat) (d a b : Nat)
  | vfind (p : Nat) (d a b : Nat)
  | vutf (p : Nat) (d a b : Nat) (writeCs : Bool)
  | emit (p : Nat) (a : Nat) (kind : Nat)
  | emitv (p : Nat) (a b : Nat)
  | steal (p : Nat) (d : Nat)
  | post (p : Nat) (a : Nat)
  | bar (p : Nat)
  | fin (p : Nat)
  | trap (p : Nat) (code : BitVec 8)
  | beq (p : Nat) (a b : Nat) (off : BitVec 18)
  | bne (p : Nat) (a b : Nat) (off : BitVec 18)
  | blt (p : Nat) (a b : Nat) (off : BitVec 18)
  | j (p : Nat) (off : BitVec 18)
  | jal (p : Nat) (d : Nat) (off : BitVec 18)
  | jr (p : Nat) (a : Nat)
  -- rows the table adds at its end
  | pfWarnRelease
  | idleClockGate (turret : Nat)
  | wrapperReset
  deriving DecidableEq, Repr

end Sys2Proof
end

