-- ==== Sys2Proof/WellFormed.lean ====
section
/-! DEFINITION. Well-formed commands: every number an operand carries lies in the range the manual gives it (00 R3
Table 0.2, 02 R58, 07 R262 and R267, 14 Table 14.1, 15 Table 15.1). A command that is not well formed names nothing of the N2. -/

namespace Sys2Proof

namespace Operand

/-- One of the 64 rings, queues, owners or automata. -/
def six (n : Nat) : Bool := n < 64

/-- A physical turret of the largest configuration (07 R262). -/
def turret (p : Nat) : Bool := p < 272

/-- A general register (07 R267). -/
def reg (r : Nat) : Bool := r < 16

/-- A byte-vector register: a field of 8 to 15 is illegal (07 R267). -/
def vreg (r : Nat) : Bool := r < 8

/-- A stream of the largest configuration (00 Table 0.2). -/
def stream (s : Nat) : Bool := s < 16384

/-- A shift amount: imm[17:6] is 0 (07 Table 7.4). -/
def shift (imm : BitVec 18) : Bool := imm.toNat < 64

/-- A port of the largest configuration. -/
def ingressPort (p : Nat) : Bool := p < 32

/-- A fabric port of the largest configuration. -/
def fabricPort (p : Nat) : Bool := p < 4

/-- An ingress beat of 128 bytes (08 Table 8.1, R300). -/
def beat (b : List Byte) : Bool := b.length = 128

/-- A token notice: one flit of 64 bytes (15 R547). -/
def flit (b : List Byte) : Bool := b.length = 64

/-- A fabric line of 128 bytes (15 R550). -/
def line (b : List Byte) : Bool := b.length = 128

/-- A 32-bit access at a 4-byte-aligned offset of the 1 MiB window (15 R554, 16 R566). -/
def offset (o : Nat) : Bool := o < 1048576 ∧ o % 4 = 0

/-- A macro: store code 0 to 8 (12 Table 12.1), at most 512 macros. -/
def macroName (store unit : Nat) : Bool := store < 9 ∧ unit < 512

/-- The stores whose words have bit windows (12 R439). -/
def bitWindows (store : Nat) : Bool := store = 0 ∨ store = 4 ∨ store = 8

/-- A request at a row of its macro: an owner of the 64, words of the 16, named once (12 R429). -/
def storeReq (store : Nat) (r : StoreReq) : Bool :=
  decide (r.line < if store = 6 ∨ store = 8 then 512 else 1024) &&
    decide (r.owner.getD 0 < 64) && match r.op with
  | .write w _ _ => decide (w < 16)
  | .writeWords ws => !ws.isEmpty && ws.all (fun p => decide (p.1 < 16)) && decide (ws.map Prod.fst).Nodup
  | .setBits w _ => decide (w < 16) && bitWindows store
  | .clearBits w _ => decide (w < 16) && bitWindows store
  | .allocate _ ws => ws.length == 16 && store != 6
  | _ => true

/-- A 32-bit number. -/
def word (n : Nat) : Bool := n < 4294967296

/-- An aperture offset of a drain (15 R553). -/
def aperture (o : Nat) : Bool := o < 1048576

end Operand

open Operand

/-- Three general registers. -/
def wfRRR (p d a b : Nat) : Bool := turret p && reg d && reg a && reg b

/-- Two general registers. -/
def wfRR (p d a : Nat) : Bool := turret p && reg d && reg a

/-- Well-formed commands. -/
def Instr.wf : Instr → Bool
  | .ringCtailDoorbell r _ | .cmdRingEnable r _ | .cmdRingDisable r _ | .cqRingEnable r _ | .cqRingDisable r _
  | .ringQheadWrite r _ | .commandFetch r | .completionWrite r | .ringStall r => six r
  | .commandDispatch => true
  | .nop _ | .fence _ | .commitConfig _ | .loadVocab _ | .dropVocab _ | .loadAutomaton _ | .dropAutomaton _
  | .loadProgram _ | .loadStopset _ | .ownerKey _ | .ownerRelease _ | .streamOpen _ | .streamParams _ | .prompt _
  | .stepArm _ | .draft _ | .streamClose _ | .epochSet _ | .epochRevoke _ | .tokenize _ | .detokenize _ | .pack _
  | .maskReplay _ | .snapshot _ | .checkpoint _ | .suspend _ | .resume _ | .reattach _ | .flush _ => true
  | .cupolaFillDone a _ syms _ => six a && syms.length ≤ 4
  | .cupolaSpaceFree s | .maskRdy s | .finialTokenRecord s | .tokenCommit s | .streamIdle s | .draftTreeAttach s
  | .draftVerifyStep s | .contextRestoreDone s => stream s
  | .maskRdyDeliver => true
  | .stepIssued s n => stream s && word n
  | .logitHeaderBeat p b => ingressPort p && beat b
  | .logitDataBeat p _ b => ingressPort p && beat b
  | .stepDeadlineExpire s n _ => stream s && word n
  | .peerPartialList src ty m => src < 256 && ty < 4 && m.length % 64 = 0
  | .tokenNotice src m => src < 256 && flit m
  | .recordLineTimer o _ => six o
  | .ckptTimeInterval => true
  | .fabricFetchReturn p _ _ l => fabricPort p && line l
  | .fabricStoreAck p _ _ | .fabricResponseTimeout p => fabricPort p
  | .drainRead p o _ | .drainWrite p o _ => fabricPort p && aperture o
  | .eqDataRead q => six q
  | .unitOutputWrite _ | .stagingPieceFree _ _ => true
  | .longPieceAreaGrant c => c < 16
  | .storeAccessGrant m u rs => macroName m u && rs.all (storeReq m)
  | .arbStarvePromote m u _ => macroName m u
  | .marchRegionStart | .marchRegionDone _ _ => true
  | .imageRepairDone _ _ o => six o
  | .turretWatchdogExpire p => turret p
  | .snapshotMarkerReturn | .ctxQuery _ | .ctxEnumGo _ | .ctxEnumDone | .pkrRecHeadWrite _ => true
  | .belLogDataRead w => w < 8
  | .rcCounterRead o | .registerWrite o _ => offset o
  | .swCold | .swWarm | .ltnWdogCtlWrite _ | .ltnWdogKick _ | .blockWatchdogExpire | .ltnKeyZero _ | .ltnFence _
  | .pwrTargetOn | .pwrTargetRetain | .pwrTargetOff | .powerEntryQuiesced | .powerRailAck _ _ => true
  | .localResetTurret i | .localResetIngressPort i | .localResetFabricPort i => i < 512
  | .powerOnAssert | .powerOnRelease | .blkRstAssert | .blkRstRelease | .warmQuiesceDone | .ckRootOkFall
  | .ckRootOkRise => true
  | .domainResetRelease d => d < 512
  | .startStepDone _ | .optionWordResponse _ _ | .optionBusTimeout | .startTimerExpire | .startRetry | .pfWarn
  | .emergencyCkptDone | .pfHoldExpire => true
  | .dukKeyValid k => k.length = 32
  | .dukTimeout | .wsBypass | .n2Idcode | .wsExtest | .wsIntest | .n2Scan | .n2Mbist | .n2Repair => true
  | .n2Lantern o => o < 1024
  | .add p d a b | .sub p d a b | .and p d a b | .or p d a b | .xor p d a b | .slt p d a b | .hprobe p d a b
  | .tstep p d a b _ => wfRRR p d a b
  | .addi p d a _ | .andi p d a _ | .ld p d a _ | .ldw p d a _ | .ldb p d a _ | .st p d a _ | .stw p d a _
  | .stb p d a _ | .tld p d a _ | .tldw p d a _ => wfRR p d a
  | .shli p d a i | .shri p d a i => wfRR p d a && shift i
  | .movi p d _ => turret p && reg d
  | .movh p d i => turret p && reg d && i.toNat < 65536
  | .push p a | .post p a | .ares p a | .jr p a => turret p && reg a
  | .pop p d | .steal p d | .jal p d _ => turret p && reg d
  | .peek p d i => turret p && reg d && i.toNat < 512
  | .astep p d a | .aspec p d a | .asave p d a => wfRR p d a
  | .mset p a b _ | .mclr p a b _ => wfRR p a b
  | .vld p d a _ | .vst p d a _ | .vin p d a _ => turret p && vreg d && reg a
  | .vcls p d a b => turret p && vreg d && vreg a && reg b
  | .vcmpeq p d a b | .vfind p d a b | .vutf p d a b _ => turret p && reg d && vreg a && reg b
  | .emit p a k => turret p && reg a && k < 4
  | .emitv p a b => turret p && vreg a && reg b
  | .bar p | .fin p => turret p
  | .trap p _ => turret p
  | .beq p a b _ | .bne p a b _ | .blt p a b _ => wfRR p a b
  | .j p _ => turret p
  | .pfWarnRelease | .wrapperReset => true
  | .idleClockGate p => turret p

end Sys2Proof
end

