-- ==== Sys2Proof/Decode.lean ====
section
/-! DEFINITION. spec/opcode_table.json gives no row any bits, so no word spells a command: `decodeTableWord` answers none
(the commands of the N2 arrive on its ports). The one encoding the manual gives inside the block is that of a Knalen
instruction (07 Table 7.3, Table 7.4): `decodeKnalen` and `encodeKnalen` are written from those tables. A loaded
program's words are read with `decodeKnalen`. Register fields and immediate bits that an instruction does not use are
reserved and must be 0 (DEDUCED, log entry 26). -/

namespace Sys2Proof

/-- The command a word spells by the table's bits: the table gives no row any bits. -/
def decodeTableWord (_nbits _w : Nat) : Option Instr := none

namespace Knalen

/-- A word from OPCODE, [25:22], [21:18], [17:14] and [13:0] (07 Table 7.3). -/
def pack (op x y z lo : Nat) : Word :=
  BitVec.ofNat 32 (op * 67108864 + x * 4194304 + y * 262144 + z * 16384 + lo)

/-- A word of format I or B: the last two fields are one 18-bit number. -/
def packI (op x y : Nat) (imm : BitVec 18) : Word :=
  BitVec.ofNat 32 (op * 67108864 + x * 4194304 + y * 262144 + imm.toNat)

/-- OPCODE. -/
def fop (w : Word) : Nat := w.toNat / 67108864

/-- Bits [25:22]. -/
def f1 (w : Word) : Nat := w.toNat / 4194304 % 16

/-- Bits [21:18]. -/
def f2 (w : Word) : Nat := w.toNat / 262144 % 16

/-- Bits [17:14]. -/
def f3 (w : Word) : Nat := w.toNat / 16384 % 16

/-- Bits [13:0]. -/
def fsub (w : Word) : Nat := w.toNat % 16384

/-- Bits [17:0]. -/
def fimm (w : Word) : BitVec 18 := BitVec.ofNat 18 (w.toNat % 262144)

/-- An instruction where its condition on reserved fields holds. -/
def whenOk (b : Bool) (i : Instr) : Option Instr := if b then some i else none

end Knalen

open Knalen

/-- The instruction of a code word that physical turret p issues; none raises ILLEGAL_INSTR (07 Table 7.5). EMIT with
kind 3 decodes: the kind is reserved to every role (log entry 26). -/
def decodeKnalen (p : Nat) (w : Word) : Option Instr :=
  let d := f1 w
  let a := f2 w
  let b := f3 w
  let s := fsub w
  let i := fimm w
  match fop w with
  | 0x01 => whenOk (s == 0) (.add p d a b)
  | 0x02 => whenOk (s == 0) (.sub p d a b)
  | 0x03 => whenOk (s == 0) (.and p d a b)
  | 0x04 => whenOk (s == 0) (.or p d a b)
  | 0x05 => whenOk (s == 0) (.xor p d a b)
  | 0x06 => whenOk (s == 0) (.slt p d a b)
  | 0x08 => some (.addi p d a i)
  | 0x09 => some (.andi p d a i)
  | 0x0A => whenOk (Operand.shift i) (.shli p d a i)
  | 0x0B => whenOk (Operand.shift i) (.shri p d a i)
  | 0x0C => whenOk (a == 0) (.movi p d i)
  | 0x0D => whenOk (a == 0 && decide (i.toNat < 65536)) (.movh p d i)
  | 0x10 => some (.ld p d a i)
  | 0x11 => some (.ldw p d a i)
  | 0x12 => some (.ldb p d a i)
  | 0x13 => some (.st p d a i)
  | 0x14 => some (.stw p d a i)
  | 0x15 => some (.stb p d a i)
  | 0x16 => whenOk (d == 0 && b == 0 && s == 0) (.push p a)
  | 0x17 => whenOk (a == 0 && b == 0 && s == 0) (.pop p d)
  | 0x18 => whenOk (a == 0 && decide (i.toNat < 512)) (.peek p d i)
  | 0x19 => some (.tld p d a i)
  | 0x1A => some (.tldw p d a i)
  | 0x1B => whenOk (s == 0) (.hprobe p d a b)
  | 0x1C => whenOk (decide (s < 2)) (.tstep p d a b (s == 1))
  | 0x20 => whenOk (b == 0 && s == 0) (.astep p d a)
  | 0x21 => whenOk (b == 0 && s == 0) (.aspec p d a)
  | 0x22 => whenOk (b == 0 && s == 0) (.asave p d a)
  | 0x23 => whenOk (d == 0 && b == 0 && s == 0) (.ares p a)
  | 0x24 => whenOk (d == 0 && decide (s < 2)) (.mset p a b (s == 1))
  | 0x25 => whenOk (d == 0 && decide (s < 2)) (.mclr p a b (s == 1))
  | 0x28 => whenOk (Operand.vreg d) (.vld p d a i)
  | 0x29 => whenOk (Operand.vreg d) (.vst p d a i)
  | 0x2A => whenOk (Operand.vreg d) (.vin p d a i)
  | 0x2B => whenOk (Operand.vreg d && Operand.vreg a && s == 0) (.vcls p d a b)
  | 0x2C => whenOk (Operand.vreg a && s == 0) (.vcmpeq p d a b)
  | 0x2D => whenOk (Operand.vreg a && s == 0) (.vfind p d a b)
  | 0x2E => whenOk (Operand.vreg a && decide (s < 2)) (.vutf p d a b (s == 1))
  | 0x30 => whenOk (d == 0 && decide (i.toNat < 4)) (.emit p a i.toNat)
  | 0x31 => whenOk (d == 0 && Operand.vreg a && s == 0) (.emitv p a b)
  | 0x32 => whenOk (a == 0 && b == 0 && s == 0) (.steal p d)
  | 0x33 => whenOk (d == 0 && b == 0 && s == 0) (.post p a)
  | 0x34 => whenOk (d == 0 && a == 0 && b == 0 && s == 0) (.bar p)
  | 0x35 => whenOk (d == 0 && a == 0 && b == 0 && s == 0) (.fin p)
  | 0x36 => whenOk (d == 0 && a == 0 && decide (i.toNat < 256)) (.trap p (BitVec.ofNat 8 i.toNat))
  | 0x38 => some (.beq p d a i)
  | 0x39 => some (.bne p d a i)
  | 0x3A => some (.blt p d a i)
  | 0x3B => whenOk (d == 0 && a == 0) (.j p i)
  | 0x3C => whenOk (a == 0) (.jal p d i)
  | 0x3D => whenOk (d == 0 && b == 0 && s == 0) (.jr p a)
  | _ => none

/-- The physical turret a Knalen instruction names and its code word (07 Table 7.3, Table 7.4); none for a command of
the other families. -/
def encodeKnalen : Instr → Option (Nat × Word)
  | .add p d a b => some (p, pack 0x01 d a b 0)
  | .sub p d a b => some (p, pack 0x02 d a b 0)
  | .and p d a b => some (p, pack 0x03 d a b 0)
  | .or p d a b => some (p, pack 0x04 d a b 0)
  | .xor p d a b => some (p, pack 0x05 d a b 0)
  | .slt p d a b => some (p, pack 0x06 d a b 0)
  | .addi p d a i => some (p, packI 0x08 d a i)
  | .andi p d a i => some (p, packI 0x09 d a i)
  | .shli p d a i => some (p, packI 0x0A d a i)
  | .shri p d a i => some (p, packI 0x0B d a i)
  | .movi p d i => some (p, packI 0x0C d 0 i)
  | .movh p d i => some (p, packI 0x0D d 0 i)
  | .ld p d a i => some (p, packI 0x10 d a i)
  | .ldw p d a i => some (p, packI 0x11 d a i)
  | .ldb p d a i => some (p, packI 0x12 d a i)
  | .st p d a i => some (p, packI 0x13 d a i)
  | .stw p d a i => some (p, packI 0x14 d a i)
  | .stb p d a i => some (p, packI 0x15 d a i)
  | .push p a => some (p, pack 0x16 0 a 0 0)
  | .pop p d => some (p, pack 0x17 d 0 0 0)
  | .peek p d i => some (p, packI 0x18 d 0 i)
  | .tld p d a i => some (p, packI 0x19 d a i)
  | .tldw p d a i => some (p, packI 0x1A d a i)
  | .hprobe p d a b => some (p, pack 0x1B d a b 0)
  | .tstep p d a b l => some (p, pack 0x1C d a b l.toNat)
  | .astep p d a => some (p, pack 0x20 d a 0 0)
  | .aspec p d a => some (p, pack 0x21 d a 0 0)
  | .asave p d a => some (p, pack 0x22 d a 0 0)
  | .ares p a => some (p, pack 0x23 0 a 0 0)
  | .mset p a b c => some (p, pack 0x24 0 a b c.toNat)
  | .mclr p a b c => some (p, pack 0x25 0 a b c.toNat)
  | .vld p d a i => some (p, packI 0x28 d a i)
  | .vst p d a i => some (p, packI 0x29 d a i)
  | .vin p d a i => some (p, packI 0x2A d a i)
  | .vcls p d a b => some (p, pack 0x2B d a b 0)
  | .vcmpeq p d a b => some (p, pack 0x2C d a b 0)
  | .vfind p d a b => some (p, pack 0x2D d a b 0)
  | .vutf p d a b c => some (p, pack 0x2E d a b c.toNat)
  | .emit p a k => some (p, packI 0x30 0 a (BitVec.ofNat 18 k))
  | .emitv p a b => some (p, pack 0x31 0 a b 0)
  | .steal p d => some (p, pack 0x32 d 0 0 0)
  | .post p a => some (p, pack 0x33 0 a 0 0)
  | .bar p => some (p, pack 0x34 0 0 0 0)
  | .fin p => some (p, pack 0x35 0 0 0 0)
  | .trap p c => some (p, packI 0x36 0 0 (BitVec.ofNat 18 c.toNat))
  | .beq p a b o => some (p, packI 0x38 a b o)
  | .bne p a b o => some (p, packI 0x39 a b o)
  | .blt p a b o => some (p, packI 0x3A a b o)
  | .j p o => some (p, packI 0x3B 0 0 o)
  | .jal p d o => some (p, packI 0x3C d 0 o)
  | .jr p a => some (p, pack 0x3D 0 a 0 0)
  | _ => none

end Sys2Proof
end

