-- ==== Sys2Proof/Machine/Bits.lean ====
section
/-! DEFINITION. Bytes, words and lists: little-endian fields (00 R15), CRC-32C (08 Table 8.1, RFC 3720), updates of
indexed and sparse lists. -/

namespace Sys2Proof.Machine

/-! ## Little-endian fields -/

/-- The number that little-endian bytes spell (00 R15). -/
def leNat : List Byte → Nat
  | [] => 0
  | b :: bs => b.toNat + 256 * leNat bs

/-- The n low bytes of a number, little-endian. -/
def leBytes : Nat → Nat → List Byte
  | 0, _ => []
  | n + 1, v => BitVec.ofNat 8 v :: leBytes n (v / 256)

/-- Bytes [ofs, ofs + len) of a record, missing bytes 0. -/
def slice (bs : List Byte) (ofs len : Nat) : List Byte :=
  let t := (bs.drop ofs).take len
  t ++ List.replicate (len - t.length) 0

/-- The little-endian field of len bytes at ofs. -/
def getLE (bs : List Byte) (ofs len : Nat) : Nat := leNat ((bs.drop ofs).take len)

/-- Writes bytes into a record at ofs; the record keeps its length. -/
def putBytes (bs : List Byte) (ofs : Nat) (vs : List Byte) : List Byte :=
  (bs.take ofs ++ vs ++ bs.drop (ofs + vs.length)).take bs.length

/-- Bits [hi:lo] of a number. -/
def bits (n hi lo : Nat) : Nat := (n >>> lo) % 2 ^ (hi + 1 - lo)

/-- One bit of a number as 0 or 1. -/
def b2n (b : Bool) : Nat := if b then 1 else 0

/-- n rounded up to a multiple of m. -/
def roundUp (n m : Nat) : Nat := (n + m - 1) / m * m

/-- n divided by m, rounded up. -/
def ceilDiv (n m : Nat) : Nat := (n + m - 1) / m

/-- A counter that stops at its greatest value. -/
def satAdd (n k cap : Nat) : Nat := min (n + k) cap

/-- A 32-bit counter that wraps. -/
def wrap32 (n : Nat) : Nat := n % 4294967296

/-- Cuts bytes into groups of n. -/
def chunks (n : Nat) : Nat → List Byte → List (List Byte)
  | 0, _ => []
  | _, [] => []
  | k + 1, bs => bs.take n :: chunks n k (bs.drop n)

/-- All groups of n bytes. -/
def groupsOf (n : Nat) (bs : List Byte) : List (List Byte) := chunks n bs.length bs

/-- The little-endian words of w bytes that bytes spell. -/
def leWords (w : Nat) (bs : List Byte) : List Nat := (groupsOf w bs).map leNat

/-! ## Lists as arrays and as finite maps -/

/-- Element i, or the default. -/
def getN {α : Type} [Inhabited α] (xs : List α) (i : Nat) : α := xs.getD i default

/-- Changes element i. -/
def modAt {α : Type} (xs : List α) (i : Nat) (f : α → α) : List α := xs.modify i f

/-- Sets element i. -/
def setAt {α : Type} (xs : List α) (i : Nat) (x : α) : List α := xs.set i x

/-- Changes every element that a test picks. -/
def modWhere {α : Type} (xs : List α) (p : α → Bool) (f : α → α) : List α :=
  xs.map fun x => if p x then f x else x

/-- The value at a key of a sparse array whose unlisted entries are z. -/
def sget {α : Type} (z : α) : List (Nat × α) → Nat → α
  | [], _ => z
  | (k, v) :: r, a => if k = a then v else if a < k then z else sget z r a

/-- Writes a key of a sparse array: keys stay strictly rising and no entry equals z. -/
def sput {α : Type} [DecidableEq α] (z : α) : List (Nat × α) → Nat → α → List (Nat × α)
  | [], a, x => if x = z then [] else [(a, x)]
  | (k, v) :: r, a, x =>
    if a < k then (if x = z then (k, v) :: r else (a, x) :: (k, v) :: r)
    else if a = k then (if x = z then r else (a, x) :: r)
    else (k, v) :: sput z r a x

/-- The canonical form of a sparse array (REGISTERS AND MEMORY of the inventory): keys strictly rising, no entry z. -/
def scanon {α : Type} [DecidableEq α] (z : α) : List (Nat × α) → Bool
  | [] => true
  | [(_, v)] => v ≠ z
  | (k, v) :: (k', v') :: r => (v ≠ z) && decide (k < k') && scanon z ((k', v') :: r)

/-- Writes bytes at rising keys. -/
def sputs {α : Type} [DecidableEq α] (z : α) (m : List (Nat × α)) (a : Nat) : List α → List (Nat × α)
  | [] => m
  | x :: xs => sputs z (sput z m a x) (a + 1) xs

/-- n values at rising keys. -/
def sgets {α : Type} (z : α) (m : List (Nat × α)) (a n : Nat) : List α :=
  (List.range n).map fun i => sget z m (a + i)

/-- Inserts into a list ordered by a key, replacing an entry with the same key. -/
def insertBy {α : Type} (key : α → Nat) (x : α) : List α → List α
  | [] => [x]
  | y :: r => if key x < key y then x :: y :: r else if key x = key y then x :: r else y :: insertBy key x r

/-- Whether a list of numbers rises strictly. -/
def risingNat : List Nat → Bool
  | a :: b :: r => decide (a < b) && risingNat (b :: r)
  | _ => true

/-- The numbers below n whose bit a bitmap sets. -/
def bitsOf (m n : Nat) : List Nat := (List.range n).filter m.testBit

/-- The bitmap of a list of numbers. -/
def bitmapOf (ts : List Nat) : Nat := ts.foldl (fun m t => m ||| 1 <<< t) 0

/-- The number of set bits among the first n. -/
def popCount (m n : Nat) : Nat := (bitsOf m n).length

/-- Clears the bits of one bitmap from another. -/
def bitDiff (a b : Nat) : Nat := a ^^^ (a &&& b)

/-! ## CRC-32C -/

/-- Eight steps of the reflected CRC-32C division. -/
def crcByte : Nat → Nat → Nat
  | 0, c => c
  | k + 1, c => crcByte k (if c % 2 = 1 then (c / 2) ^^^ 0x82F63B78 else c / 2)

/-- CRC-32C as RFC 3720 defines it. -/
def crc32c (bs : List Byte) : Nat :=
  bs.foldl (fun c b => crcByte 8 (c ^^^ b.toNat)) 0xFFFFFFFF ^^^ 0xFFFFFFFF

end Sys2Proof.Machine
end

