-- ==== Sys2Proof/Machine/Crypto.lean ====
section
/-! DEFINITION. The published algorithms that 12 names: SHA-256, AES-256, AES key wrap (SP 800-38F, KW) and AES-256-XTS
(IEEE 1619). PRESUMED from those standards (log entry 34). -/

namespace Sys2Proof.Machine

/-! ## SHA-256 -/

namespace Sha

/-- Word i of a table that holds 32-bit words, the first lowest. -/
def wordAt (table i : Nat) : Word := BitVec.ofNat 32 (table >>> (32 * i))

/-- The 64 round constants (FIPS 180-4), constant i in bits 32 * i and up: the first 32 bits of the fractional part of the
cube root of the i-th prime (test_sha_constants). -/
def roundTable : Nat :=
  0xC19BF1749BDC06A780DEB1FE72BE5D74550C7DC3243185BE12835B01D807AA98AB1C5ED5923F82A459F111F13956C25BE9B5DBA5B5C0FBCF71374491428A2F98 +
  0x1429296706CA6351D5A79147C6E00BF3BF597FC7B00327C8A831C66D983E515276F988DA5CB0A9DC4A7484AA2DE92C6F240CA1CC0FC19DC6EFBE4786E49B69C1 * 2 ^ 512 +
  0x106AA070F40E3585D6990624D192E819C76C51A3C24B8B70A81A664BA2BFE8A192722C8581C2C92E766A0ABB650A735453380D134D2C6DFC2E1B213827B70A85 * 2 ^ 1024 +
  0xC67178F2BEF9A3F7A4506CEB90BEFFFA8CC7020884C8781478A5636F748F82EE682E6FF35B9CCA4F4ED8AA4A391C0CB334B0BCB52748774C1E376C0819A4C116 * 2 ^ 1536

/-- The eight initial hash words, held alike: the same of the square roots. -/
def startTable : Nat :=
  0x5BE0CD191F83D9AB9B05688C510E527FA54FF53A3C6EF372BB67AE856A09E667

def k : List Word := (List.range 64).map (wordAt roundTable)
def h0 : List Word := (List.range 8).map (wordAt startTable)

def ror (x : Word) (n : Nat) : Word := x.rotateRight n

/-- The next n message words, the most recent 16 held newest first. -/
def schedule : Nat → List Word → List Word
  | 0, w => w
  | n + 1, w =>
    let w15 := w.getD 14 0
    let w2 := w.getD 1 0
    let s0 := ror w15 7 ^^^ ror w15 18 ^^^ (w15 >>> 3)
    let s1 := ror w2 17 ^^^ ror w2 19 ^^^ (w2 >>> 10)
    schedule n ((w.getD 15 0 + s0 + w.getD 6 0 + s1) :: w)

/-- One round on the eight working words. -/
def round (s : List Word) (kw : Word × Word) : List Word :=
  match s with
  | [a, b, c, d, e, f, g, h] =>
    let t1 := h + (ror e 6 ^^^ ror e 11 ^^^ ror e 25) + ((e &&& f) ^^^ (~~~e &&& g)) + kw.1 + kw.2
    let t2 := (ror a 2 ^^^ ror a 13 ^^^ ror a 22) + ((a &&& b) ^^^ (a &&& c) ^^^ (b &&& c))
    [t1 + t2, a, b, c, d + t1, e, f, g]
  | _ => s

def beWord (bs : List Byte) : Word := BitVec.ofNat 32 (leNat bs.reverse)

def block (h : List Word) (bs : List Byte) : List Word :=
  let w := (schedule 48 ((groupsOf 4 bs).map beWord).reverse).reverse
  List.zipWith (· + ·) h ((k.zip w).foldl round h)

/-- The padded message. -/
def pad (bs : List Byte) : List Byte :=
  let n := bs.length
  bs ++ 0x80 :: List.replicate ((119 - n % 64) % 64) 0 ++ (leBytes 8 (8 * n)).reverse

end Sha

/-- SHA-256: 32 bytes. -/
def sha256 (bs : List Byte) : List Byte :=
  ((groupsOf 64 (Sha.pad bs)).foldl Sha.block Sha.h0).flatMap fun w => (leBytes 4 w.toNat).reverse

/-! ## AES-256 -/

namespace Aes

/-- The S-box and its inverse (FIPS 197), entry a in byte a. -/
def sboxTable : Nat :=
  0x75b227ebe28012079a059618c323c7041531d871f1e5a534ccf73f362693fdb7c072a49cafa2d4adf04759fa7dc982ca76abd7fe2b670130c56f6bf27b777c63 +
  0xd2f3ff1021dab6bcf5389d928f40a351a89f3c507f02f94585334d43fbaaefd0cf584c4a39becb6a5bb1fc20ed00d153842fe329b3d63b52a05a6e1b1a2c8309 * 2 ^ 512 +
  0x08ae7a65eaf4566ca94ed58d6d37c8e779e4959162acd3c25c2406490a3a32e0db0b5ede14b8ee4688902a22dc4f816073195d643d7ea7c41744975fec130ccd * 2 ^ 1024 +
  0x16bb54b00f2d99416842e6bf0d89a18cdf2855cee9871e9b948ed9691198f8e19e1dc186b95735610ef6034866b53e708a8bbd4b1f74dde8c6b4a61c2e2578ba * 2 ^ 1536

def invSboxTable : Nat :=
  0x25d18b6d49a25b76b224d92866a12e084ec3fa420b954cee3d23c2a632947b54cbe9dec444438e3487ff2f9b8239e37cfbd7f3819ea340bf38a53630d56a0952 +
  0x6b8a130103bdafc1020f3fca8f1e2cd00645b3b80558e4f70ad3bc8c00abd890849d8da75746155edab9edfd5048706c92b6655dcc5ca4d41698688664f6f872 * 2 ^ 512 +
  0xf45acd78fec0db9a2079d2c64b3e56fc1bbe18aa0e62b76f89c5291d711af1476edf751ce837f9e28535ade72274ac9673e6b4f0cecff297eadc674f4111913a * 2 ^ 1024 +
  0x7d0c2155631469e126d677ba7e042b17619953833cbbebc8b0f52aae4d3be0a0ef9cc9939f7ae52d0d4ab519a97f51605fec8027591012b131c7078833a8dd1f * 2 ^ 1536

/-- Byte i of a number. -/
def byteOf (n i : Nat) : Nat := (n >>> (8 * i)) % 256

def sub (a : Nat) : Nat := byteOf sboxTable a
def invSub (a : Nat) : Nat := byteOf invSboxTable a

/-- Multiplication by x in GF(2^8). -/
def xtime (a : Nat) : Nat := if a < 128 then 2 * a else (2 * a - 256) ^^^ 0x1B

/-- A state of 16 bytes, and a column of 4, is held as the number that its bytes spell, the first byte lowest. -/
def perByte (f : Nat → Nat) (n : Nat) : Nat := (List.range n).foldl (fun w i => w ||| f i <<< (8 * i)) 0

/-- Multiplication by x of each of the 16 bytes. -/
def x2 (w : Nat) : Nat :=
  ((w &&& 0x7F7F7F7F7F7F7F7F7F7F7F7F7F7F7F7F) <<< 1) ^^^ (((w >>> 7) &&& 0x01010101010101010101010101010101) * 0x1B)

/-- Each column turned: row r takes row r + k. -/
def turn (k w : Nat) : Nat :=
  let low := 0x00000001000000010000000100000001 * (2 ^ (32 - 8 * k) - 1)
  let high := 0x00000001000000010000000100000001 * (2 ^ 32 - 2 ^ (32 - 8 * k))
  ((w >>> (8 * k)) &&& low) ||| ((w <<< (32 - 8 * k)) &&& high)

/-- The next n words of the key schedule; words newest first, i the number of words so far. -/
def expandGo : Nat → Nat → Nat → List Nat → List Nat
  | 0, _, _, w => w
  | n + 1, i, rcon, w =>
    let prev := w.headD 0
    let subWord := fun x => perByte (fun j => sub (byteOf x j)) 4
    let t := if i % 8 = 0 then subWord (prev >>> 8 ||| (prev % 256) <<< 24) ^^^ rcon
      else if i % 8 = 4 then subWord prev else prev
    expandGo n (i + 1) (if i % 8 = 0 then xtime rcon else rcon) ((w.getD 7 0 ^^^ t) :: w)

/-- The 15 round keys of a 32-byte key. -/
def roundKeys (key : List Byte) : List Nat :=
  let w := (expandGo 52 8 1 ((groupsOf 4 key).map leNat).reverse).reverse
  (List.range 15).map fun r => leNat (((w.drop (4 * r)).take 4).flatMap (leBytes 4))

/-- SubBytes and ShiftRows, and their inverses. -/
def subShift (s : Nat) : Nat := perByte (fun i => sub (byteOf s ((i + 4 * (i % 4)) % 16))) 16
def invSubShift (s : Nat) : Nat := perByte (fun i => invSub (byteOf s ((i + 12 * (i % 4)) % 16))) 16

/-- MixColumns: 2, 3, 1, 1; and its inverse: 14, 11, 13, 9. -/
def mix (w : Nat) : Nat :=
  let r1 := turn 1 w
  x2 (w ^^^ r1) ^^^ r1 ^^^ turn 2 w ^^^ turn 3 w

def invMix (w : Nat) : Nat :=
  let r1 := turn 1 w
  let r2 := turn 2 w
  let r3 := turn 3 w
  x2 (w ^^^ r1 ^^^ x2 (w ^^^ r2 ^^^ x2 (w ^^^ r1 ^^^ r2 ^^^ r3))) ^^^ r1 ^^^ r2 ^^^ r3

/-- One block under round keys in order. -/
def encNum (rk : List Nat) (b : Nat) : Nat :=
  subShift (((rk.drop 1).take 13).foldl (fun s k => mix (subShift s) ^^^ k) (b ^^^ rk.headD 0)) ^^^ rk.getD 14 0

/-- The inverse cipher. -/
def decNum (rk : List Nat) (b : Nat) : Nat :=
  invSubShift (((rk.drop 1).take 13).reverse.foldl (fun s k => invMix (invSubShift s ^^^ k)) (b ^^^ rk.getD 14 0)) ^^^ rk.headD 0

def encBlock (rk : List Nat) (b : List Byte) : List Byte := leBytes 16 (encNum rk (leNat b))
def decBlock (rk : List Nat) (b : List Byte) : List Byte := leBytes 16 (decNum rk (leNat b))

end Aes

/-- The steps of key unwrap: the integrity value and the blocks, the numbers that their bytes spell. -/
def kwSteps (rk : List Nat) (n : Nat) : List Nat → Nat → List Nat → Nat × List Nat
  | [], a, r => (a, r)
  | t :: ts, a, r =>
    let b := Aes.decNum rk ((a ^^^ leNat (leBytes 8 (t + 1)).reverse) + r.getD (t % n) 0 * 2 ^ 64)
    kwSteps rk n ts (b % 2 ^ 64) (r.set (t % n) (b / 2 ^ 64))

/-- AES-256 key unwrap (SP 800-38F): the integrity value and the unwrapped data. -/
def kwUnwrap (key blob : List Byte) : List Byte × List Byte :=
  let n := blob.length / 8 - 1
  let u := kwSteps (Aes.roundKeys key) n (List.range (6 * n)).reverse (leNat (blob.take 8)) ((groupsOf 8 (blob.drop 8)).map leNat)
  (leBytes 8 u.1, u.2.flatMap (leBytes 8))

/-! ## AES-256-XTS (12 R456) -/

/-- Multiplication of a tweak by the primitive element. -/
def xtsNext (t : List Byte) : List Byte :=
  let n := 2 * leNat t
  leBytes 16 (if n < 2 ^ 128 then n else (n - 2 ^ 128) ^^^ 0x87)

def xtsTweaks : Nat → List Byte → List (List Byte)
  | 0, _ => []
  | n + 1, t => t :: xtsTweaks n (xtsNext t)

/-- The tweak of the line at a 128-byte-aligned address: address, domain code of Table 12.5, owner (12 R456). -/
def xtsTweak (addr domain owner : Nat) : List Byte :=
  leBytes 16 (addr / 128 % 2 ^ 57 + domain * 2 ^ 64 + owner * 2 ^ 72)

/-- Applies a block cipher to the eight blocks of a line under a 64-byte key. -/
def xtsWith (f : List Nat → List Byte → List Byte) (key : List Byte) (addr domain owner : Nat)
    (line : List Byte) : List Byte :=
  let rk1 := Aes.roundKeys (key.take 32)
  let rk2 := Aes.roundKeys (key.drop 32)
  let ts := xtsTweaks 8 (Aes.encBlock rk2 (xtsTweak addr domain owner))
  (List.zipWith (fun t b => List.zipWith (· ^^^ ·) t (f rk1 (List.zipWith (· ^^^ ·) t b))) ts (groupsOf 16 line)).flatten

/-- Encrypts and decrypts the 128-byte line at an address (12 R456). -/
def xtsEncrypt := xtsWith Aes.encBlock
def xtsDecrypt := xtsWith Aes.decBlock

end Sys2Proof.Machine
end

