-- ==== Sys2Proof/Machine/Num.lean ====
section
/-! DEFINITION. The numbers of 08: binary32 with rounding to nearest-even (R305, R321, R328), the order of entries
(R307), partial sums at 2^-44 (R310), and Philox-4x32 with 10 rounds (R324). A finite binary32 is held as an exact
integer multiple of 2^-149. Logarithms and powers of e are computed to 2^-320 and then rounded once. -/

namespace Sys2Proof.Machine

namespace F32

def posInf : Word := 0x7F800000
def negInf : Word := 0xFF800000
def nan : Word := 0x7FC00000
def one : Word := 0x3F800000

/-- Sign, magnitude bits. -/
def sign (w : Word) : Bool := w.toNat ≥ 0x80000000
def mag (w : Word) : Nat := w.toNat % 0x80000000
def isNaN (w : Word) : Bool := mag w > 0x7F800000
def isInf (w : Word) : Bool := mag w = 0x7F800000
def isPosInf (w : Word) : Bool := w = posInf
def isNegInf (w : Word) : Bool := w = negInf
def isFinite (w : Word) : Bool := mag w < 0x7F800000

/-- The magnitude of a finite value in units of 2^-149. -/
def magFx (w : Word) : Nat :=
  let m := mag w
  let e := m / 8388608
  let f := m % 8388608
  if e = 0 then f else (f + 8388608) * 2 ^ (e - 1)

/-- A finite value in units of 2^-149. -/
def toFx (w : Word) : Int := if sign w then -(magFx w : Int) else (magFx w : Int)

/-- n / 2^s rounded to nearest, ties to even. -/
def rshiftRne (n s : Nat) : Nat :=
  let q := n / 2 ^ s
  let r := n % 2 ^ s
  if 2 * r < 2 ^ s then q else if 2 * r > 2 ^ s then q + 1 else q + q % 2

/-- The binary32 magnitude nearest to m / 2^k, ties to even; at or above 2^128 after rounding, infinity. -/
def roundMag (m k : Nat) : Nat :=
  if m = 0 then 0
  else
    -- the quantum of the result is 2^(u - 149)
    let u := m.log2 + 126 - k
    let n := if k + u ≤ 149 then m * 2 ^ (149 - k - u) else rshiftRne m (k + u - 149)
    min (u * 8388608 + n) 0x7F800000

/-- A sign and a magnitude pattern. -/
def ofSignMag (neg : Bool) (m : Nat) : Word := BitVec.ofNat 32 (if neg then m + 0x80000000 else m)

/-- The binary32 nearest to x / 2^k. -/
def ofFx (x : Int) (k : Nat) : Word := ofSignMag (decide (x < 0)) (roundMag x.natAbs k)

/-- The number a / b rounded to binary32, b > 0: a quotient of 400 fraction bits with a sticky bit. -/
def ofQuot (a b : Nat) : Word :=
  let q := a * 2 ^ 400 / b
  let sticky := if a * 2 ^ 400 % b = 0 then 0 else 1
  ofSignMag false (roundMag (2 * q + sticky) 401)

/-- Sum, rounded to nearest-even (08 R305). -/
def add (a b : Word) : Word :=
  if isNaN a || isNaN b then nan
  else if isInf a then (if isInf b && sign a != sign b then nan else a)
  else if isInf b then b
  else
    let s := toFx a + toFx b
    if s = 0 then ofSignMag (sign a && sign b) 0 else ofFx s 149

/-- The value with its sign turned. -/
def neg (a : Word) : Word := a ^^^ 0x80000000

/-- Difference, rounded to nearest-even. -/
def sub (a b : Word) : Word := add a (neg b)

/-- Product, rounded to nearest-even (08 R305). -/
def mul (a b : Word) : Word :=
  let s := sign a != sign b
  if isNaN a || isNaN b then nan
  else if isInf a || isInf b then (if mag a = 0 || mag b = 0 then nan else ofSignMag s 0x7F800000)
  else ofSignMag s (roundMag (magFx a * magFx b) 298)

/-- The reciprocal of a positive finite value (08 R305). -/
def recip (a : Word) : Word := ofQuot (2 ^ 149) (magFx a)

/-- A key that orders values that are not NaN; -0 has the key of +0 (08 R306, R307). -/
def key (w : Word) : Int := if sign w then -(mag w : Int) else (mag w : Int)

def lt (a b : Word) : Bool := key a < key b
def le (a b : Word) : Bool := key a ≤ key b
def max (a b : Word) : Word := if key a < key b then b else a

/-- -0 reported as +0 (08 R306). -/
def plusZero (w : Word) : Word := if w = 0x80000000 then 0 else w

/-- The value of a binary16 pattern, exact in binary32 (08 R305). -/
def ofHalf (h : Nat) : Word :=
  let s := h ≥ 32768
  let e := h / 1024 % 32
  let f := h % 1024
  if e = 31 then (if f = 0 then ofSignMag s 0x7F800000 else nan)
  else if e = 0 then ofSignMag s (roundMag f 24)
  else ofSignMag s (roundMag ((f + 1024) * 2 ^ (e - 1)) 24)

/-- The value of a bfloat16 pattern. -/
def ofBf16 (h : Nat) : Word := BitVec.ofNat 32 (h * 65536)

/-! ## Powers of e and logarithms, in units of 2^-320 -/

/-- Fraction bits of the working precision. -/
def wp : Nat := 320

/-- Terms n, n-1, ... of the series of e^y for y in units of 2^-wp, by Horner's rule. -/
def expHorner (y : Int) : Nat → Nat → Int → Int
  | 0, _, acc => acc
  | k + 1, n, acc => expHorner y k (n - 1) (2 ^ wp + y * acc / (n * 2 ^ wp : Nat))

/-- Squares k times. -/
def squareTimes : Nat → Int → Int
  | 0, a => a
  | k + 1, a => squareTimes k (a * a / 2 ^ wp)

/-- e^x for x in units of 2^-wp, |x| at most about 128: the series at x / 1024, squared ten times. -/
def expFx (x : Int) : Nat := (squareTimes 10 (expHorner (x / 1024) 50 50 (2 ^ wp))).toNat

/-- 2 atanh(z) for z in units of 2^-wp, |z| at most 1/3. -/
def atanhTerms (z2 : Nat) : Nat → Nat → Nat → Nat → Nat
  | 0, _, _, acc => acc
  | k + 1, n, p, acc => atanhTerms z2 k (n + 2) (p * z2 / 2 ^ wp) (acc + p / n)

def atanh2 (z : Nat) : Nat := 2 * atanhTerms (z * z / 2 ^ wp) 110 1 z 0

/-- ln 2. -/
def ln2 : Nat := atanh2 (2 ^ wp / 3)

/-- ln(m / 2^k), m > 0, in units of 2^-wp. -/
def lnFx (m k : Nat) : Int :=
  let l := m.log2
  -- m = f * 2^l with f in [1, 2): z = (f - 1) / (f + 1)
  let z := (m - 2 ^ l) * 2 ^ wp / (m + 2 ^ l)
  ((l : Int) - (k : Int)) * ln2 + atanh2 z

/-- The logarithm of a positive finite value, rounded to binary32 (08 R321). -/
def ln (w : Word) : Word := ofFx (lnFx (magFx w) 149) wp

/-- e^x correctly rounded to binary32 for a finite x (08 R321). -/
def exp (w : Word) : Word :=
  let x := toFx w
  if x < -(110 * 2 ^ 149) then 0
  else if 100 * 2 ^ 149 < x then posInf
  else ofFx (expFx (x * 2 ^ (wp - 149))) wp

/-- -expm1(a - b), the exact difference of two finite values, rounded to binary32 and not below 0 (08 R328; log entry 33). -/
def negExpm1 (a b : Word) : Word :=
  let d := toFx a - toFx b
  if 0 ≤ d then 0
  else if d < -(110 * 2 ^ 149) then one
  else ofFx (2 ^ wp - expFx (d * 2 ^ (wp - 149))) wp

/-! ## Partial sums (08 R310) -/

/-- e^(x - m) for finite x ≤ m, rounded to nearest at 2^-44. -/
def expPow (x m : Word) : Nat :=
  let d := toFx x - toFx m
  if d = 0 then 2 ^ 44
  else if d < -(40 * 2 ^ 149) then 0
  else rshiftRne (expFx (d * 2 ^ (wp - 149))) (wp - 44)

/-- S scaled by e^(m - m'), each product rounded to nearest at 2^-44. -/
def scaleSum (s : Nat) (m m' : Word) : Nat :=
  if s = 0 then 0 else rshiftRne (s * expPow m m') 44

/-- M + ln S rounded to binary32, with the +inf count and the empty sum (08 R310). -/
def lse (m : Word) (s inf : Nat) : Word :=
  if inf ≠ 0 then posInf
  else if s = 0 then negInf
  else plusZero (ofFx (toFx m * 2 ^ (wp - 149) + lnFx s 44) wp)

/-! ## Philox-4x32-10 (08 R324) -/

/-- One round on counter words and key. -/
def philoxRound (c : Nat × Nat × Nat × Nat) (k0 k1 : Nat) : Nat × Nat × Nat × Nat :=
  let (c0, c1, c2, c3) := c
  let p0 := 0xD2511F53 * c0
  let p1 := 0xCD9E8D57 * c2
  ((p1 / 4294967296) ^^^ c1 ^^^ k0, p1 % 4294967296, (p0 / 4294967296) ^^^ c3 ^^^ k1, p0 % 4294967296)

def philoxRounds : Nat → (Nat × Nat × Nat × Nat) → Nat → Nat → Nat × Nat × Nat × Nat
  | 0, c, _, _ => c
  | n + 1, c, k0, k1 =>
    philoxRounds n (philoxRound c k0 k1) ((k0 + 0x9E3779B9) % 4294967296) ((k1 + 0xBB67AE85) % 4294967296)

/-- Output word 0 for a seed of 64 bits and the four counter words. -/
def philox (seed c0 c1 c2 : Nat) : Nat :=
  (philoxRounds 10 (c0 % 4294967296, c1 % 4294967296, c2 % 4294967296, 0)
    (seed % 4294967296) (seed / 4294967296 % 4294967296)).1

/-- c2: the node and the purpose. -/
def purpose (node p : Nat) : Nat := node + 256 * p

/-- -ln(-ln u) with u = (r + 0.5) / 2^32, rounded to binary32 (08 R324). -/
def gumbel (r : Nat) : Word :=
  let l := (-(lnFx (2 * r + 1) 33)).toNat
  ofFx (-(lnFx l wp)) wp

end F32

end Sys2Proof.Machine
end

