-- ==== Sys2Proof/Machine/Types.lean ====
section
/-! DEFINITION. The parts of the block's state: one structure per unit of 01 Table 1.1, and the items those units hold.
Plain data throughout. INVENTORY.md lists each field with the rule that names it. -/

namespace Sys2Proof.Machine

/-! ## Text, automata, vocabulary -/

/-- A configuration of an automaton: state and stack, top symbol first (06 R216). -/
structure Conf where
  q : Nat := 0
  stk : List Nat := []
  deriving DecidableEq, Repr, Inhabited

/-- A configuration set, in canonical order (06 R217). -/
abbrev ConfSet := List Conf

/-- STATE of a slot, automaton or program (03 Table 3.8, 06 Table 6.13, 07 Table 7.18); FAULTED reads as dropping (R577). -/
inductive ItemState where
  | empty
  | loading
  | loaded
  | dropping
  | faulted
  deriving DecidableEq, Repr, Inhabited

/-- A vocabulary image as loaded (03 Table 3.2, 3.3). -/
structure VocImage where
  v : Nat := 0
  byteBase : Nat := 0xFFFFFFFF
  isV1 : Bool := false
  mergeCount : Nat := 0
  eos : List Nat := []
  cont : List Byte := []
  defMr : Nat := 0xFF
  defLm : Nat := 0xFF
  defByte : Nat := 0xFF
  maxTokenLen : Nat := 1
  strings : List (List Byte) := []
  specials : List (Nat × Nat) := []
  buckets : List Nat := []
  results : List Nat := []
  hasLm : Bool := false
  lmTrie : List Nat := []
  maskTrie : List Nat := []
  digest : List Byte := []
  sLen : Nat := 0
  lLen : Nat := 0
  deriving DecidableEq, Repr, Inhabited

/-- A slot of the Vocabulary Store (03 R110, R129, R130). -/
structure Slot where
  st : ItemState := .empty
  img : VocImage := {}
  entries : Nat := 0
  bytes : Nat := 0
  addr : Nat := 0
  len : Nat := 0
  ticket : Nat := 0
  deriving DecidableEq, Repr, Inhabited

/-- A transition entry (06 Table 6.4). -/
structure Trans where
  byte : Nat
  op : Nat
  topAny : Bool
  top : Nat
  sym : Nat
  target : Nat
  deriving DecidableEq, Repr, Inhabited

/-- A mask-class record: the class-A set as a bitmap with bit t for token t, and the class-D list (06 Table 6.5). -/
structure ClassRec where
  a : Nat := 0
  d : List Nat := []
  deriving DecidableEq, Repr, Inhabited

/-- A state of an automaton (06 Table 6.4). -/
structure AState where
  trans : List Trans := []
  accept : Bool := false
  cls : Option ClassRec := none
  specials : List (Nat × Nat) := []
  deriving DecidableEq, Repr, Inhabited

/-- The key of a Cupola entry: automaton, state, top symbols (top first), EXACT (06 R242). -/
structure CupKey where
  aut : Nat
  q : Nat
  syms : List Nat
  exact : Bool
  deriving DecidableEq, Repr, Inhabited

/-- An automaton image as loaded (06 Table 6.2, 6.3). -/
structure AutImage where
  pushdown : Bool := false
  topDepth : Nat := 0
  maxConf : Nat := 1
  start : Nat := 0
  transCount : Nat := 0
  states : List AState := []
  eager : List CupKey := []
  digest : List Byte := []
  recBytes : Nat := 0
  deriving DecidableEq, Repr, Inhabited

/-- An automaton id (06 R234 to R241). `firstSpilled` is the k of R236 in a spilled load. -/
structure Automaton where
  st : ItemState := .empty
  img : AutImage := {}
  slot : Nat := 0
  owner : Nat := 0
  shared : Bool := false
  eager : Bool := false
  spilled : Bool := false
  firstSpilled : Nat := 0
  transOn : Nat := 0
  transResv : Nat := 0
  recResv : Nat := 0
  addr : Nat := 0
  len : Nat := 0
  spillAddr : Nat := 0
  spillLen : Nat := 0
  serial : Nat := 0
  history : List (Nat × List Byte) := []
  ticket : Nat := 0
  deriving DecidableEq, Repr, Inhabited

/-- A loaded stop set: the matcher part (05 R193). `resv` is what a load under way reserves beyond `foot`. -/
structure StopSet where
  owner : Nat := 0
  id : Nat := 0
  st : ItemState := .loaded
  lens : List Nat := []
  classMap : List Nat := []
  rows : List (List Nat) := []
  foot : Nat := 0
  resv : Nat := 0
  digest : List Byte := []
  addr : Nat := 0
  len : Nat := 0
  deriving DecidableEq, Repr, Inhabited

/-- A loaded pre-split program (07 Table 7.8, 7.9). -/
structure Program where
  id : Nat := 0
  st : ItemState := .loaded
  cutAtMark : Bool := false
  code : List Word := []
  cutEntry : Nat := 0
  pieceEntry : Nat := 0
  init : List Byte := []
  tables : List (List Byte) := []
  foot : Nat := 0
  resv : Nat := 0
  digest : List Byte := []
  addr : Nat := 0
  len : Nat := 0
  deriving DecidableEq, Repr, Inhabited

/-- Vocabulary Store. -/
structure Voc where
  slots : List Slot := []
  deriving DecidableEq, Repr, Inhabited

/-- Automaton Store. -/
structure Aut where
  auts : List Automaton := []
  stops : List StopSet := []
  progs : List Program := []
  spillReads : Nat := 0
  eagerSkipped : Nat := 0
  evConf : Nat := 0
  evStack : Nat := 0
  evDead : Nat := 0
  digestSel : Nat := 0
  progSel : Nat := 0
  deriving DecidableEq, Repr, Inhabited

/-- A mask descriptor (06, 10 Table 10.5): the entries it refers to by key, or the private entry of a (stream, step, node), and
the accepted ids. `all` marks the all-ones mask of a stream without an automaton (01 R31). -/
structure MaskDesc where
  all : Bool := false
  refs : List CupKey := []
  priv : Option (Nat × Nat × Nat) := none
  ids : List Nat := []
  deriving DecidableEq, Repr, Inhabited

/-- A Cupola entry (06 R242 to R246). A private entry names its (stream, step, node) and has no key. `fillFor` is the ticket of
an eager load that waits for the entry; `fill` numbers the fill, `poster` is the turret that makes it, `left` the steal units it has
not posted yet. -/
structure CupEntry where
  key : Option CupKey := none
  priv : Option (Nat × Nat × Nat) := none
  filling : Bool := false
  a : Nat := 0
  d : List Nat := []
  pins : List (Nat × Nat) := []
  used : Nat := 0
  eager : Bool := false
  fillFor : Option Nat := none
  bytes : Nat := 0
  fill : Nat := 0
  poster : Nat := 0
  left : List Nat := []
  deriving DecidableEq, Repr, Inhabited

/-- Cupola. -/
structure Cup where
  entries : List CupEntry := []
  clock : Nat := 0
  fills : Nat := 0
  hits : Nat := 0
  misses : Nat := 0
  evictions : Nat := 0
  fillWaits : Nat := 0
  pressure : Nat := 0
  longPiece : List (Nat × Nat) := []
  longWait : List (Nat × Nat) := []
  deriving DecidableEq, Repr, Inhabited

/-! ## Streams -/

/-- Stream states (10 Table 10.4). -/
inductive StState where
  | free
  | idle
  | running
  | deadEnd
  | stepFailed
  | ended
  | suspended
  deriving DecidableEq, Repr, Inhabited

/-- How a stream was suspended (14 Table 14.7). -/
inductive SuspCause where
  | bySuspend
  | byZeroise
  | byStart
  deriving DecidableEq, Repr, Inhabited

/-- Where the service of a stream's next step stands (01 the life of a step). -/
inductive Svc where
  /-- at a token boundary: no step in flight (02 R97) -/
  | none
  /-- at a boundary, waiting for a free selection unit (08 R334) -/
  | waitUnit
  /-- the home turret builds the mask (06) -/
  | build
  /-- MASK_RDY raised; the unit or the round's units are open -/
  | open
  deriving DecidableEq, Repr, Inhabited

/-- A step result (08 Table 8.7) with what the commit needs beside it. -/
structure Result where
  token : Nat := 0
  step : Nat := 0
  stream : Nat := 0
  node : Nat := 0x7F
  path : Nat := 0
  flags : Nat := 0
  lnpAllowed : Word := 0
  lnpUncon : Word := 0
  lseAll : Word := 0
  lseAllowed : Word := 0
  lseSelected : Word := 0
  leftOut : Word := 0
  kValid : Nat := 0
  tieExcluded : Nat := 0
  nanCount : Nat := 0
  candCount : Nat := 0
  maskRef : Nat := 0
  list : List (Nat × Word) := []
  draft : Bool := false
  deriving DecidableEq, Repr, Inhabited

/-- The text state of a stream or of a DETOKENIZE job (05 R184 to R197). -/
structure TextState where
  carry : List Byte := []
  lanes : List Nat := []
  hold : List Byte := []
  deriving DecidableEq, Repr, Inhabited

/-! ### The regions of a context (10 Table 10.5) -/

/-- The identity region. `end_` is the end reason; a suspended stream has the state before in `prior`. -/
structure CtxIdentity where
  owner : Nat := 0
  slot : Nat := 0
  aut : Option Nat := Option.none
  stop : Option Nat := Option.none
  queue : Nat := 0
  home : Nat := 0
  record : Bool := false
  seed : Nat := 0
  epoch : Nat := 0
  pendEpoch : Option Nat := Option.none
  end_ : Nat := 0
  st : StState := .free
  prior : StState := .idle
  deriving DecidableEq, Repr, Inhabited

/-- The parameters: SAMPLING, LIMIT and POLICY with the reciprocal of the temperature and ln(MIN_P). -/
structure CtxParams where
  temp : Word := 0x3F800000
  topK : Nat := 0
  topP : Word := 0x3F800000
  minP : Word := 0
  recip : Word := 0x3F800000
  lnMinP : Word := 0xFF800000
  maxNew : Option Nat := Option.none
  deadPolicy : Nat := 0
  utf8Raw : Bool := false
  deriving DecidableEq, Repr, Inhabited

/-- The commit block: the token, the next step, the counts, which stack area is active, the text state (01 R27). -/
structure CtxCommit where
  token : Option Nat := Option.none
  next : Nat := 0
  gen : Nat := 0
  armed : Option Nat := some 0
  area1 : Bool := false
  text : TextState := {}
  deriving DecidableEq, Repr, Inhabited

/-- A whole context at a token boundary. -/
structure CtxImage where
  ident : CtxIdentity := {}
  params : CtxParams := {}
  commit : CtxCommit := {}
  bias : List (Nat × Word) := []
  desc : MaskDesc := {}
  stack0 : ConfSet := []
  stack1 : ConfSet := []
  deriving DecidableEq, Repr, Inhabited

/-- A stream's context and service state. `stack0` and `stack1` are the two stack areas, `area1` says that area 1 is active
(10 R380); `token` is the committed token (01 R27), `armedAt` the armed count at the last token boundary, `desc` the mask descriptor
of the root position, `kept` the contexts that its last two checkpoints hold, by serial, `spill` the lines of a spill area that its
work in progress reads (06 R237). `ckptPend` lists the checkpoints whose line writes are not all acknowledged: serial,
SEQ, writes outstanding, whether one failed. `closing` says that a STREAM_CLOSE is recorded, `inner` how and
in which state a stream that a start found SUSPENDED was suspended, `susTag` the CRC of its tag (14 R527), `endDue` is the end that waits for queue room, `endOut` that its END token record is out (01 R41), `ckptFrom` the last serial before
staging group 2 applied (10 R398), `rebuild` that a STREAM_PARAMS at a dead end asks for the mask again (06 R250). -/
structure Stream where
  id : Nat := 0
  st : StState := .free
  prior : StState := .idle
  cause : SuspCause := .bySuspend
  lost : Bool := false
  owner : Nat := 0
  slot : Nat := 0
  aut : Option Nat := Option.none
  stop : Option Nat := Option.none
  queue : Nat := 0
  home : Nat := 0
  record : Bool := false
  seed : Nat := 0
  epoch : Nat := 0
  pendEpoch : Option Nat := Option.none
  endReason : Nat := 0
  temp : Word := 0x3F800000
  topK : Nat := 0
  topP : Word := 0x3F800000
  minP : Word := 0
  recip : Word := 0x3F800000
  lnMinP : Word := 0xFF800000
  maxNew : Option Nat := Option.none
  deadPolicy : Nat := 0
  utf8Raw : Bool := false
  bias : List (Nat × Word) := []
  next : Nat := 0
  gen : Nat := 0
  armed : Option Nat := some 0
  armSpent : Bool := false
  armedAt : Option Nat := some 0
  rebuild : Bool := false
  token : Option Nat := Option.none
  stack0 : ConfSet := []
  stack1 : ConfSet := []
  area1 : Bool := false
  desc : MaskDesc := {}
  text : TextState := {}
  svc : Svc := .none
  forcedEos : Bool := false
  pagesResv : Nat := 0
  held : List Result := []
  waitQueue : Bool := false
  waitRing : Bool := false
  waitCkpt : Bool := false
  waitCup : Bool := false
  waitPages : Bool := false
  recorded : List Nat := []
  spillSaid : Bool := false
  queueSaid : Bool := false
  idleSaid : Bool := false
  resultOn : Bool := false
  resultTop : Nat := 0
  ckptSerial : Nat := 0
  ckptDone : Nat := 0
  ckptSeq : Nat := 0
  ckptSteps : Nat := 0
  ckptDue : Bool := false
  ckptPend : List (Nat × Nat × Nat × Bool) := []
  kept : List (Nat × CtxImage) := []
  restoring : Bool := false
  closing : Bool := false
  inner : Option (SuspCause × StState) := Option.none
  susTag : Nat := 0
  zeroing : Bool := false
  endDue : Nat := 0
  endOut : Bool := false
  ckptFrom : Nat := 0
  spill : List Nat := []
  deriving DecidableEq, Repr, Inhabited

/-- The configuration set of a stream: that of the active stack area (10 R380). -/
def Stream.set (x : Stream) : ConfSet := if x.area1 then x.stack1 else x.stack0

/-- A set is written into the stack area that is not active. -/
def Stream.stageSet (x : Stream) (cs : ConfSet) : Stream := if x.area1 then { x with stack0 := cs } else { x with stack1 := cs }

/-- The commit block names the other stack area. -/
def Stream.switchArea (x : Stream) : Stream := { x with area1 := !x.area1 }

/-- A set becomes the stream's: written into the inactive area, which is then named active. -/
def Stream.putSet (x : Stream) (cs : ConfSet) : Stream := (x.stageSet cs).switchArea

/-- The armed count at the last token boundary: an armed step that the step in flight has spent counts (02 R107, 10 R384). -/
def Stream.armedSeen (x : Stream) : Option Nat := if x.svc == .open then x.armedAt else x.armed

/-- The context that a stream has at its last token boundary (02 R107, 10 R379). -/
def Stream.image (x : Stream) : CtxImage :=
  { ident := {
      owner := x.owner, slot := x.slot, aut := x.aut, stop := x.stop, queue := x.queue, home := x.home, record := x.record
      seed := x.seed, epoch := x.epoch, pendEpoch := x.pendEpoch, end_ := x.endReason, st := x.st, prior := x.prior }
    params := {
      temp := x.temp, topK := x.topK, topP := x.topP, minP := x.minP, recip := x.recip, lnMinP := x.lnMinP, maxNew := x.maxNew
      deadPolicy := x.deadPolicy, utf8Raw := x.utf8Raw }
    commit := { token := x.token, next := x.next, gen := x.gen, armed := x.armedSeen, area1 := x.area1, text := x.text }
    bias := x.bias, desc := x.desc, stack0 := x.stack0, stack1 := x.stack1 }

/-- What the Context Store keeps per owner: current epoch and the revoked list, most recent first, each with its FALLBACK
(10 R386, R390, R391). -/
structure OwnerEpoch where
  epoch : Nat := 0
  revoked : List (Nat × Nat) := []
  deriving DecidableEq, Repr, Inhabited

/-- Context Store and its registers (10 Table 10.12, 14 Table 14.12). `streams` is ordered by id and holds the open
streams only. -/
structure Ctx where
  streams : List Stream := []
  owners : List OwnerEpoch := []
  qLatch : List Word := []
  ownerSel : Nat := 0
  revokedSel : Nat := 0
  idleEvents : Nat := 0
  enumAddr : Nat := 0
  enumLen : Nat := 0
  enumDone : Bool := false
  enumFull : Bool := false
  enumErr : Bool := false
  enumCount : Nat := 0
  enumBusy : Bool := false
  recovered : Nat := 0
  lost : Nat := 0
  deriving DecidableEq, Repr, Inhabited

/-! ## Status codes -/

/-- The status codes of 16 Table 16.8. -/
inductive Status where
  | ok | degradedSpill | badOpcode | badField | formatA | privilege | ownerMismatch | streamRange | slotRange
  | streamState | idBusy | noSlot | noAutomaton | noStopset | noProgram | noKey | inUse | vocabNoSpace | autNoSpace
  | imageInvalid | digestMismatch | keyFault | stepMismatch | epochRevoked | tagMismatch | configInvalid
  | configAbsent | outputFull | pieceTooLong | noByteFallback | fabricError | abortedClose
  deriving DecidableEq, Repr, Inhabited

/-- The value of a status code (16 R573). -/
def Status.code : Status → Nat
  | .ok => 0x0000 | .degradedSpill => 0x1001 | .badOpcode => 0x2001 | .badField => 0x2002 | .formatA => 0x2003
  | .privilege => 0x2004 | .ownerMismatch => 0x2005 | .streamRange => 0x2006 | .slotRange => 0x2007
  | .streamState => 0x2008 | .idBusy => 0x2009 | .noSlot => 0x200A | .noAutomaton => 0x200B | .noStopset => 0x200C
  | .noProgram => 0x200D | .noKey => 0x200E | .inUse => 0x200F | .vocabNoSpace => 0x2010 | .autNoSpace => 0x2011
  | .imageInvalid => 0x2012 | .digestMismatch => 0x2013 | .keyFault => 0x2014 | .stepMismatch => 0x2015
  | .epochRevoked => 0x2016 | .tagMismatch => 0x2017 | .configInvalid => 0x2018 | .configAbsent => 0x2019
  | .outputFull => 0x3001 | .pieceTooLong => 0x3002 | .noByteFallback => 0x3003 | .fabricError => 0x3004
  | .abortedClose => 0x4001

/-! ## Command rings -/

/-- A command ring (02 Tables 2.1 to 2.3). -/
structure CmdRing where
  base : Nat := 0
  enable : Bool := false
  fmtB : Bool := false
  priv : Bool := false
  weight : Nat := 0
  sizeLog : Nat := 0
  owner : Nat := 0
  cq : Nat := 0
  tail : Nat := 0
  head : Nat := 0
  fetchErr : Bool := false
  tailRange : Bool := false
  enRefused : Bool := false
  stopped : Bool := false
  stallSaid : Bool := false
  deriving DecidableEq, Repr, Inhabited

/-- A completion ring (02 Tables 2.1, 2.4). -/
structure CplRing where
  base : Nat := 0
  enable : Bool := false
  fmtB : Bool := false
  irqLine : Nat := 0
  sizeLog : Nat := 0
  full : Bool := false
  head : Nat := 0
  widx : Nat := 0
  phase : Bool := false
  deriving DecidableEq, Repr, Inhabited

/-- How far a fetched command has come: fetched, dispatched (its checks of R80 passed), executing (it waits for reads,
jobs, stores or boundaries), recorded against streams (R96). -/
inductive CmdPhase where
  | fetched
  | dispatched
  | executing
  | recorded
  deriving DecidableEq, Repr, Inhabited

/-- A fetched command that has not completed. `ent` is its entry in the format B layout of Table 2.10 (a format A entry is
mapped by Table 2.11); `bad` says that a reserved bit of the entry as fetched is 1. `waits` lists the streams whose boundary an owner-wide command
waits for; `n0` and `n1` are its progress: the checks passed, a target, or its DETAIL counts; `upTo` is the line at which the
marking of an EPOCH_REVOKE ends in external memory, `stagedTo` the line at which that of its staged records ends. -/
structure Cmd where
  ticket : Nat := 0
  ring : Nat := 0
  cq : Nat := 0
  fmtB : Bool := true
  bad : Bool := false
  ent : List Byte := []
  phase : CmdPhase := .fetched
  waits : List Nat := []
  n0 : Nat := 0
  n1 : Nat := 0
  upTo : Nat := 0
  stagedTo : Nat := 0
  failed : Bool := false
  deriving DecidableEq, Repr, Inhabited

/-- A completion that is not yet written (02 Table 2.5). -/
structure Comp where
  ticket : Nat := 0
  ring : Nat := 0
  cq : Nat := 0
  irq : Bool := false
  tag : Nat := 0
  status : Nat := 0
  opcode : Nat := 0
  stream : Nat := 0
  hasStream : Bool := false
  step : Nat := 0
  d0 : Nat := 0
  d1 : Nat := 0
  deriving DecidableEq, Repr, Inhabited

/-- Ring Unit (02, 16 Table 16.6). -/
structure Rng where
  c : List CmdRing := []
  q : List CplRing := []
  cmds : List Cmd := []
  comps : List Comp := []
  nextTicket : Nat := 0
  rrRing : Nat := 0
  rrLeft : Nat := 0
  dispatched : Nat := 0
  completions : Nat := 0
  clsNote : Nat := 0
  clsRej : Nat := 0
  clsFail : Nat := 0
  clsAbort : Nat := 0
  lastErr : Nat := 0
  deriving DecidableEq, Repr, Inhabited

/-! ## Selection -/

/-- A partial sum (08 R310): maximum, fixed-point sum at 2^-44, count of +inf values. -/
structure PSum where
  m : Word := 0xFF800000
  s : Nat := 0
  inf : Nat := 0
  deriving DecidableEq, Repr, Inhabited

/-- One sub-lane's state (08 R309). Entries are (token id, x). -/
structure SubLane where
  top : List (Nat × Word) := []
  tie : Nat := 0
  alw : PSum := {}
  msk : PSum := {}
  nan : Nat := 0
  valid : Nat := 0
  race : Option (Word × Nat) := Option.none
  raceX : Word := 0
  deriving DecidableEq, Repr, Inhabited

/-- A source of values of a selection unit: a shard or a peer list (08 R304, R314 to R316). `beats` holds the captured
values of each data beat in binary32; `lanes` the sub-lane states. -/
structure Source where
  src : Nat := 0
  port : Nat := 0
  peer : Bool := false
  base : Nat := 0
  count : Nat := 0
  got : Nat := 0
  mirror : Nat := 0
  crc : Nat := 0
  whole : Bool := false
  lanes : List SubLane := []
  beats : List (List Word) := []
  captured : Bool := false
  pages : Nat := 0
  deriving DecidableEq, Repr, Inhabited

/-- Where a selection unit stands. -/
inductive UnitSt where
  | open
  | closed
  | failed
  deriving DecidableEq, Repr, Inhabited

/-- A selection unit (08): `mask` is its descriptor, none until it is staged; `list`, `ties` and the sums are set at close.
`noMask` marks a position of a round without a descriptor (09 R356, R589), `hidden` the counted
ties that the list does not show, `deadline` that STEP_ISSUED has started the step deadline. -/
structure SelUnit where
  stream : Nat := 0
  step : Nat := 0
  node : Nat := 0x7F
  st : UnitSt := .open
  mask : Option MaskDesc := Option.none
  noMask : Bool := false
  sources : List Source := []
  late : Bool := false
  deadline : Bool := false
  poisoned : Bool := false
  list : List (Nat × Word) := []
  hidden : List (Word × Nat) := []
  alw : PSum := {}
  msk : PSum := {}
  sel : PSum := {}
  nan : Nat := 0
  valid : Nat := 0
  race : Option (Word × Nat) := Option.none
  raceX : Word := 0
  mirrorBad : Bool := false
  duplicate : Bool := false
  peersMerged : List Nat := []
  awaitNotice : Bool := false
  deriving DecidableEq, Repr, Inhabited

/-- One ingress port's selector (08 Table 8.12). `drop` says that data beats are dropped up to the next header. -/
structure Selector where
  enable : Bool := true
  cur : Option (Nat × Nat × Nat) := Option.none
  left : Nat := 0
  fmt : Nat := 0
  drop : Bool := false
  shards : Nat := 0
  values : Nat := 0
  padding : Nat := 0
  nans : Nat := 0
  stray : Nat := 0
  dropped : Nat := 0
  late : Nat := 0
  fault : Nat := 0
  faultInfo : Nat := 0
  faultStep : Nat := 0
  deriving DecidableEq, Repr, Inhabited

/-- The ingress selectors. -/
structure Sel where
  ports : List Selector := []
  deriving DecidableEq, Repr, Inhabited

/-- A token egress record (08 R338). -/
structure TokRec where
  stream : Nat
  step : Nat
  token : Nat
  flags : Nat
  deriving DecidableEq, Repr, Inhabited

/-- Finial, Logit Buffer and the step ports. `egress` is what the token egress port carried, `peerOut` the peer messages
sent (destination, type, bytes), each in order; `maskQueue` the MASK_RDY pairs raised and not delivered, `maskGiven` those delivered whose
STEP_ISSUED has not come (15 R544, R545). -/
structure Fin where
  units : List SelUnit := []
  lbWaits : Nat := 0
  steps : Nat := 0
  deep : Nat := 0
  races : Nat := 0
  evMirror : Nat := 0
  evDup : Nat := 0
  evFail : Nat := 0
  evNoCand : Nat := 0
  late : Nat := 0
  tieCut : Nat := 0
  peerLists : Nat := 0
  notices : Nat := 0
  failLast : Nat := 0
  resultCtl : List Nat := []
  part : List (Nat × Nat × Nat × Nat) := []
  maskQueue : List (Nat × Nat) := []
  maskGiven : List (Nat × Nat) := []
  egress : List TokRec := []
  peerOut : List (Nat × Nat × List Byte) := []
  deriving DecidableEq, Repr, Inhabited

/-! ## Steeple -/

/-- A draft node (09 Table 9.1) with its speculative set and its pruning. -/
structure DraftNode where
  token : Nat := 0
  parent : Nat := 0x7F
  pruned : Bool := false
  set : ConfSet := []
  deriving DecidableEq, Repr, Inhabited

/-- An attached draft tree: a round (09). `sets` holds a position, the values of a beat,
and the draft logits in binary32; `waited` says that the tree waited for pool nodes (R353). `pos` is the position
the walk stands at. -/
structure Tree where
  stream : Nat := 0
  step : Nat := 0
  stochastic : Bool := false
  nodes : List DraftNode := []
  sets : List (Nat × Nat × List Word) := []
  setPages : Nat := 0
  pos : Nat := 0x7F
  walking : Bool := true
  accepted : Nat := 0
  confirmed : Nat := 0
  rootFailed : Bool := false
  nodeFailed : Bool := false
  waited : Bool := false
  deriving DecidableEq, Repr, Inhabited

/-- A DRAFT that passed Table 9.2 and waits for pool nodes, pages or units (09 R353, 08 R334); `pool` says that the pool was short. -/
structure TreeWait where
  ticket : Nat := 0
  stream : Nat := 0
  nodes : Nat := 0
  pool : Bool := false
  deriving DecidableEq, Repr, Inhabited

/-- Steeple (09 Table 9.6). -/
structure Stp where
  trees : List Tree := []
  waiting : List TreeWait := []
  rounds : Nat := 0
  nodes : Nat := 0
  accepted : Nat := 0
  confirmed : Nat := 0
  pruned : Nat := 0
  poolWaits : Nat := 0
  failRoot : Nat := 0
  failNode : Nat := 0
  withdrawn : Nat := 0
  hist : List Nat := []
  deriving DecidableEq, Repr, Inhabited

/-! ## Record Writer, queues, jobs -/

/-- A staged entry of a ring: sequence number, plaintext bytes, stream, step; `acked` once a write of its line
completed (12 R457). -/
structure Staged where
  seq : Nat := 0
  bytes : List Byte := []
  stream : Nat := 0
  step : Nat := 0
  epoch : Nat := 0
  isRec : Bool := true
  acked : Bool := false
  issued : Bool := false
  deriving DecidableEq, Repr, Inhabited

/-- A record or replay ring of one owner (10 R396, 12 R457). `next` is the next sequence number given; `wseq` the write
sequence number. -/
structure OwnRing where
  base : Nat := 0
  sizeLog : Nat := 0
  wseq : Nat := 0
  next : Nat := 0
  staged : List Staged := []
  blocked : Bool := false
  deriving DecidableEq, Repr, Inhabited

/-- What the Record Writer keeps for one owner, live and staged (10 Table 10.13, 14 Table 14.12). `stg` lists the nine _STG
values in the order record, replay, checkpoint: base low, base high, size. -/
structure OwnerPkr where
  recRing : OwnRing := {}
  rplRing : OwnRing := {}
  ckBase : Nat := 0
  ckLog : Nat := 0
  head : Nat := 0
  stg : List Nat := []
  stgWritten : Bool := false
  ckpts : Nat := 0
  skips : Nat := 0
  deriving DecidableEq, Repr, Inhabited

/-- Record Writer and Packer. -/
structure Pkr where
  owners : List OwnerPkr := []
  ownerSel : Nat := 0
  headLo : Nat := 0
  records : Nat := 0
  confEntries : Nat := 0
  replays : Nat := 0
  fullWaits : Nat := 0
  revokeMarks : Nat := 0
  mbs : Nat := 0
  tokens : Nat := 0
  deriving DecidableEq, Repr, Inhabited

/-- A group of egress records reserved and not yet published (11 R414, R419); `lost` that a poisoned word of it discards it (14 R514). -/
structure Group where
  stream : Nat := 0
  records : List (List Byte) := []
  lost : Bool := false
  deriving DecidableEq, Repr, Inhabited

/-- An egress queue (11 Table 11.3). `recs` are the published records not wholly read, `partialRead` the bytes already read
of the first. `waiters` are the streams waiting for room, oldest first. -/
structure EqQueue where
  owner : Nat := 0
  xoffEn : Bool := true
  recs : List (List Byte) := []
  partRead : Nat := 0
  resv : List Group := []
  high : Nat := 12288
  low : Nat := 4096
  highStg : Nat := 12288
  lowStg : Nat := 4096
  stgWritten : Bool := false
  newWm : Option (Nat × Nat) := Option.none
  xoff : Bool := false
  waiters : List Nat := []
  records : Nat := 0
  waits : Nat := 0
  flushed : Nat := 0
  deriving DecidableEq, Repr, Inhabited

/-- The egress queues (11 Table 11.4). -/
structure Eqs where
  qs : List EqQueue := []
  ownerDrops : Nat := 0
  drainErrors : Nat := 0
  readLines : Nat := 0
  idleReads : Nat := 0
  deriving DecidableEq, Repr, Inhabited

/-- One unit of a bulk job: its output, each part with the item that it belongs to; `pieces` are the 4 KiB staging pieces it
holds, `suspended` says that it waits for one (04 R170), `posted` that it has been put on the board; `specials` and `invalid` are the
special matches and the invalid bytes that its descriptor records (04 R165), `input` its input bytes. -/
structure JobUnit where
  out : List (Nat × List Byte) := []
  longPiece : Bool := false
  pieces : Nat := 0
  suspended : Bool := false
  started : Bool := false
  posted : Bool := false
  input : Nat := 0
  specials : List (Nat × Nat) := []
  invalid : List Nat := []
  deriving DecidableEq, Repr, Inhabited

/-- A bulk job in execution (04 R163 to R174, 05 R211, 06 R260, 10 R404): the units left to write, where the next output
byte goes, and the completion it will post. `starts` gives the two details of the completion should a write of an item fail;
`errUnit` is the first item whose write failed. `input` counts its input bytes (01 R45), `reading` says that it waits for
them. `areaSaid` says that its wait for a long-piece area has been reported, `prompt` that it is the tokenization of a PROMPT, whose ids go
to the home turret (04 R178). `slots`, `auts`, `prog` and `stop` are the items that it names, which stay loaded until it ends
(02 R100). -/
structure Job where
  ticket : Nat := 0
  kind : Nat := 0
  cluster : Nat := 0
  lead : Nat := 0
  input : Nat := 0
  reading : Bool := false
  units : List JobUnit := []
  nextUnit : Nat := 0
  addr : Nat := 0
  result : Status := .ok
  d0 : Nat := 0
  d1 : Nat := 0
  isPack : Bool := false
  errUnit : Option Nat := Option.none
  areaSaid : Bool := false
  prompt : Bool := false
  slots : List Nat := []
  auts : List Nat := []
  prog : Option Nat := none
  stop : Option (Nat × Nat) := none
  starts : List (Nat × Nat) := []
  deriving DecidableEq, Repr, Inhabited

/-- The bulk jobs. -/
structure Jobs where
  js : List Job := []
  deriving DecidableEq, Repr, Inhabited

/-! ## Turrets -/

/-- A steal unit named on a segment board: kind (07 Table 7.12), job ticket, unit number. -/
structure UnitRef where
  kind : Nat := 0
  ticket : Nat := 0
  unit : Nat := 0
  deriving DecidableEq, Repr, Inhabited

/-- The program invocation that a turret runs (07 R274 to R280). Roles: 1 engine, 2 pre-split. `cut` marks the cut
entry. `out` is the output so far, `runBase` and `runLen` the run, `budget` the instructions left. -/
structure Invocation where
  role : Nat := 2
  prog : Nat := 0
  codeCount : Nat := 0
  cut : Bool := false
  cls : Nat := 3
  input : List Byte := []
  slot : Option Nat := Option.none
  autNo : Option Nat := Option.none
  runBase : Nat := 0
  runLen : Nat := 0
  budget : Nat := 0
  bytesOut : Nat := 0
  bytesMax : Nat := 0
  lastCut : Nat := 0
  pieces : List (Nat × List Byte) := []
  tokens : List Nat := []
  ring : Nat := 0
  tag : Nat := 0
  deriving DecidableEq, Repr, Inhabited

/-- The architectural state of a turret's engine (07 Table 7.1). Vector registers are their 32 lanes; a table descriptor t0 to t7 is
the bytes of its table, none when absent. Local memory lists the bytes that are not 0, by address. -/
structure Core where
  g : List DWord := List.replicate 16 0
  v : List (List Byte) := List.replicate 8 (List.replicate 32 0)
  t : List (List Byte) := List.replicate 8 []
  pc : Nat := 0
  sp : Nat := 0x10000
  cs : Word := 0
  work : ConfSet := []
  mem : List (Nat × Byte) := []
  deriving DecidableEq, Repr, Inhabited

/-- A physical turret (07 R264, R297). `window` names the loaded program that its code window holds, by id and digest (R266). -/
structure Turret where
  core : Core := {}
  window : Option (Nat × List Byte) := Option.none
  inv : Option Invocation := Option.none
  usable : Bool := true
  spare : Bool := false
  quarantined : Bool := false
  activeNo : Option Nat := Option.none
  gated : Bool := false
  instr : Nat := 0
  busy : Nat := 0
  arbStall : Nat := 0
  steals3 : Nat := 0
  steals4 : Nat := 0
  switch : Nat := 0
  fault : Nat := 0
  faultCount : Nat := 0
  lane : List UnitRef := []
  taken : Option UnitRef := Option.none
  suspended : List (Invocation × Core) := []
  deriving DecidableEq, Repr, Inhabited

/-- The turrets, by physical number. -/
structure Tur where
  ts : List Turret := []
  deriving DecidableEq, Repr, Inhabited

/-! ## Stores, Crypto Unit, Belfry, snapshot, fabric, Lantern -/

/-- A raw word of a macro: its value and its error state (0 good, 1 correctable, 2 uncorrectable; 12 R440, R441). -/
structure RawWord where
  value : DWord := 0
  err : Nat := 0
  deriving DecidableEq, Repr, Inhabited

/-- The answer of one store access: requester, response code (16 R577), data words. -/
structure StoreResp where
  requester : Nat
  code : Nat
  data : List DWord
  deriving DecidableEq, Repr, Inhabited

/-- Stores: raw words, tags, arbiters, march test, counters (12 Table 12.7). `words` lists the words that are not a good
zero word and `tags` the line tags that are not 0xC0, each in rising order of its address. `refused` counts consecutive refusals per
(store, unit, requester); `promoted` lists the promoted ones; `busy` lists macros in further cycles of an access; `resp` the answers
of the last cycle. `fixes` lists the words whose correction is to be written back (R440), `retry` the operations that a collision makes
their units repeat, with store and macro (R438). `region` is the store, macro and region under test, `again` that it is to be tried again, `tries` how often it ended
early; `repairs` the items whose images are read again (14 R515). `stalls` counts stall cycles of the six classes. -/
structure Mem where
  words : List (Nat × RawWord) := []
  tags : List (Nat × Byte) := []
  refused : List (Nat × Nat × Nat × Nat) := []
  promoted : List (Nat × Nat × Nat) := []
  busy : List (Nat × Nat) := []
  resp : List StoreResp := []
  fixes : List Nat := []
  retry : List (Nat × Nat × StoreReq) := []
  marchEn : Bool := true
  marchPeriod : Nat := 10
  marchEnStg : Bool := true
  marchPeriodStg : Nat := 10
  stgWritten : Bool := false
  pos : Nat := 0
  posValid : Bool := false
  region : Option (Nat × Nat × Nat) := Option.none
  again : Bool := false
  tries : Nat := 0
  repairs : List (Nat × Nat × Nat) := []
  sweeps : Nat := 0
  fails : Nat := 0
  skips : Nat := 0
  marchLast : Nat := 0
  ce : Nat := 0
  ceTotal : Nat := 0
  ue : Nat := 0
  errLast : Nat := 0
  collisions : Nat := 0
  tagFaults : Nat := 0
  tagLast : Nat := 0
  starve : Nat := 0
  injArm : Bool := false
  injDouble : Bool := false
  injStore : Nat := 0
  cleared : Bool := false
  checked : Bool := false
  clearUe : Nat := 0
  stalls : List Nat := []
  deriving DecidableEq, Repr, Inhabited

/-- Crypto Unit (12 Table 12.9). `unwrap` is the OWNER_KEY that waits for the key port. -/
structure Cry where
  unwrap : Option Nat := Option.none
  dukSeen : Bool := false
  fpSel : Nat := 0
  linesEnc : Nat := 0
  linesDec : Nat := 0
  keyFaults : Nat := 0
  keyFaultLast : Nat := 0
  zeroDrops : Nat := 0
  deriving DecidableEq, Repr, Inhabited

/-- An event record (14 R532). -/
structure Event where
  code : Nat := 0
  stream : Nat := 0
  step : Nat := 0
  requester : Nat := 0
  time : Nat := 0
  detail : Nat := 0
  isRead : Bool := false
  deriving DecidableEq, Repr, Inhabited

/-- A route of an event group: line, enable, message (14 Table 14.12). -/
structure Route where
  line : Nat := 0
  enable : Bool := false
  msg : Bool := false
  deriving DecidableEq, Repr, Inhabited

/-- Belfry (14 R532, R533). `log` holds at most 1,024 records, the entry number of each with it. -/
structure Bel where
  pending : Nat := 0
  count : Nat := 0
  lost : Nat := 0
  log : List (Nat × Event) := []
  wr : Nat := 0
  sel : Nat := 0
  cqPending : Nat := 0
  routes : List Route := []
  routesStg : List Route := []
  msgs : List (Nat × Word) := []
  msgsStg : List (Nat × Word) := []
  stgWritten : Bool := false
  deriving DecidableEq, Repr, Inhabited

/-- Who asked for a fabric line (15 R550 to R552). -/
inductive Req where
  | entry (ring : Nat)
  | command (ticket : Nat)
  | restore (stream : Nat)
  | repair (kind : Nat) (id : Nat) (owner : Nat)
  | completion (cq : Nat)
  | message (line : Nat)
  | ringLine (owner : Nat) (replay : Bool) (seq : Nat) (tries : Nat)
  | ckptLine (stream : Nat) (serial : Nat)
  | jobLine (ticket : Nat) (unit : Nat)
  | enumLine
  | spillLine (ticket : Nat)
  | spillRead (stream : Nat)
  | markLine (ticket : Nat) (owner : Nat) (marked : Nat)
  deriving DecidableEq, Repr, Inhabited

/-- A fabric request: port, tag, line address (A[63:7]), and for a store the line's bytes and byte enables. -/
structure FabReq where
  port : Nat := 0
  tag : Nat := 0
  line : Nat := 0
  data : List Byte := []
  enables : List Bool := []
  who : Req := .enumLine
  deriving DecidableEq, Repr, Inhabited

/-- A drain response (15 R553). -/
structure DrainRsp where
  port : Nat
  tag : Nat
  err : Bool
  data : List Byte
  deriving DecidableEq, Repr, Inhabited

/-- Fabric ports: requests outstanding, stores that wait for a port, lines returned to their requesters (none: an error
response), drain responses given. -/
structure Fab where
  fetches : List FabReq := []
  stores : List FabReq := []
  waiting : List FabReq := []
  lines : List (Req × Nat × Option (List Byte)) := []
  drains : List DrainRsp := []
  deriving DecidableEq, Repr, Inhabited

/-- The last response of the control slave port (15 R555). -/
structure Csp where
  err : Bool := false
  data : Word := 0
  deriving DecidableEq, Repr, Inhabited

/-- Block states of LTN_STATE (13 Table 13.10). -/
inductive BlkState where
  | starting
  | ready
  | recovery
  | retain
  | off
  | pfHold
  | transition
  deriving DecidableEq, Repr, Inhabited

/-- What the Lantern is doing beside the block state: nothing; holding a reset whose input is low; running a start;
waiting 1 ms for a retry; quiescing for a warm reset; an entry or a rail of the power handshake, with the start (kind,
shape) that follows a rail that rises and the BLOCK_STATE left; an emergency checkpoint; waiting for CK_ROOT_OK after a clock
loss, for a new start or for one that it interrupted. -/
inductive Act where
  | idle
  | held
  | start
  | retryWait
  | quiesce
  | entry (target : Nat)
  | railLogicDown (target : Nat)
  | railArrayDown (left : Nat)
  | railArrayUp (kind shape left : Nat)
  | railLogicUp (kind shape left : Nat)
  | emergency
  | clockLoss (fresh : Bool)
  deriving DecidableEq, Repr, Inhabited

/-- A wrapper instruction (15 Table 15.13). -/
inductive WrapIns where
  | bypass
  | idcode
  | lantern
  | extest
  | intest
  | scan
  | mbist
  | repair
  deriving DecidableEq, Repr, Inhabited

/-- An owner key slot (12 R459, R461). -/
structure KeySlot where
  key : List Byte := []
  fp : Nat := 0
  deriving DecidableEq, Repr, Inhabited

/-- A Lantern log entry (14 R531). -/
structure LogEntry where
  code : Nat := 0
  detail : Nat := 0
  time : Nat := 0
  deriving DecidableEq, Repr, Inhabited

/-- A live and staged pair of a timer register (16 Table 16.5). -/
structure Live where
  v : Nat := 0
  stg : Nat := 0
  deriving DecidableEq, Repr, Inhabited

/-- The Lantern: everything of PD_AON (13, 14, 15, 16). `kind` is the kind of the start in progress or last run, in the
codes of LTN_RESET_CAUSE [3:0]; `shape` the column of Table 13.4 that it runs (0 cold, 1 warm, 2 clock-loss or
RETAIN wake, 3 OFF wake); `cause` the kind
that step 2 recorded. `domReset` lists the domains that a local reset holds, `domWait` those whose release a start requested
too early (R478). `repair` holds option words 2 to 37 as the last start applied them. -/
structure Lan where
  blk : BlkState := .starting
  act : Act := .start
  step : Nat := 0
  kind : Nat := 1
  shape : Nat := 0
  cause : Nat := 1
  causeFail : Nat := 0
  writesLost : Nat := 0
  failed : Nat := 0
  notReady : Bool := false
  startTimer : Bool := false
  retried : Bool := false
  fromRecovery : Bool := false
  warmNext : Nat := 0
  wdogEn : Bool := false
  wdogPeriod : Nat := 0
  wdogStart : Nat := 0
  target : Nat := 0
  targetLatched : Option Nat := Option.none
  logicAck : Bool := true
  arrayAck : Bool := true
  logicReq : Bool := true
  arrayReq : Bool := true
  iso : Bool := true
  rootOk : Bool := true
  pf : Bool := false
  pfNoCkpt : Bool := false
  discarded : Nat := 0
  pfCkpt : Nat := 0
  pfSkip : Nat := 0
  pfTime : Nat := 0
  pfFrom : Nat := 0
  startTime : Nat := 0
  startFrom : Nat := 0
  pwrLow : Bool := false
  blkLow : Bool := false
  domainNr : Nat := 0
  domainCount : Nat := 0
  domWait : List Nat := []
  domReset : List Nat := []
  localRefused : Bool := false
  optValid : Bool := false
  optLoading : Bool := false
  optNext : Nat := 0
  optTries : Nat := 0
  optCrcFail : Bool := false
  optBusErr : Bool := false
  opt : List Word := List.replicate 64 0
  optStg : List Word := List.replicate 64 0
  repair : List Word := []
  fenced : Bool := false
  log : List LogEntry := List.replicate 64 {}
  logNext : Nat := 0
  logWrapped : Bool := false
  starts : Nat := 0
  aonTime : Nat := 0
  ckTokens : Live := ⟨0x1000, 0x1000⟩
  ckMs : Live := ⟨0x32, 0x32⟩
  ringWdog : Live := ⟨0x64, 0x64⟩
  idleTmo : Live := ⟨0x3C, 0x3C⟩
  deadline : Live := ⟨0x3A98, 0x3A98⟩
  turWdog : Live := ⟨0x249F0, 0x249F0⟩
  g1Written : Bool := false
  g3Written : Bool := false
  keys : List (Option KeySlot) := List.replicate 64 Option.none
  wir : WrapIns := .bypass
  wdr : Nat := 0
  wrapLive : Bool := false
  wrapCold : Bool := false
  deriving DecidableEq, Repr, Inhabited

/-- The snapshot bank (14 R535, R536): copies of the units whose registers have one. -/
structure Bank where
  rng : Rng := {}
  voc : Voc := {}
  aut : Aut := {}
  cup : Cup := {}
  ctx : Ctx := {}
  sel : Sel := {}
  fin : Fin := {}
  stp : Stp := {}
  pkr : Pkr := {}
  eqs : Eqs := {}
  job : Jobs := {}
  mem : Mem := {}
  cry : Cry := {}
  bel : Bel := {}
  tur : Tur := {}
  keys : List (Option KeySlot) := []
  deriving DecidableEq, Repr, Inhabited

/-- SNAPSHOT (14 R535). `busy` is the ticket of the SNAPSHOT whose marker travels. -/
structure Snp where
  valid : Bool := false
  seq : Nat := 0
  time : Nat := 0
  busy : Option Nat := Option.none
  bank : Option Bank := Option.none
  deriving DecidableEq, Repr, Inhabited

end Sys2Proof.Machine
end

