-- ==== Sys2Proof/Config.lean ====
section
/-! DEFINITION. What an implementation fixes: the three configurations (00 Table 0.2, 01 Table 1.4, 12 Table 12.1, 16
Table 16.2 to 16.4) and the free values, which are constants without a body (log entry 4). -/

namespace Sys2Proof

/-- The configurations of 00 R3. -/
inductive Variant where
  | n256
  | n64
  | n16
  deriving DecidableEq, Repr, Inhabited

namespace Variant

/-- Picks a figure by configuration. -/
def pick (v : Variant) (a b c : Nat) : Nat :=
  match v with
  | .n256 => a
  | .n64 => b
  | .n16 => c

/-- CONFIG of LTN_CONFIG (16 Table 16.4). -/
def code (v : Variant) : Nat := v.pick 0 1 2
def physTurrets (v : Variant) : Nat := v.pick 272 68 17
def activeTurrets (v : Variant) : Nat := v.pick 256 64 16
def clusters (v : Variant) : Nat := v.pick 16 4 1
def ports (v : Variant) : Nat := v.pick 32 8 2
def slots (v : Variant) : Nat := v.pick 8 4 2
def vocEntries (v : Variant) : Nat := v.pick 524288 262144 262144
def vocBytes (v : Variant) : Nat := v.pick 46137344 10485760 3670016
def replicas (v : Variant) : Nat := v.pick 4 2 1
def streams (v : Variant) : Nat := v.pick 16384 4096 512
def transEntries (v : Variant) : Nat := v.pick 2097152 1048576 262144
def recordPool (v : Variant) : Nat := v.pick 8388608 4194304 1048576
def cupolaBytes (v : Variant) : Nat := v.pick 33554432 8388608 2097152
def peers (v : Variant) : Nat := v.pick 96 24 0
def fabricPorts (v : Variant) : Nat := v.pick 4 2 1
def sramKiB (v : Variant) : Nat := v.pick 196608 57344 14336
def logitPages (v : Variant) : Nat := v.pick 512 256 64
def poolNodes (v : Variant) : Nat := v.pick 1024 256 128
def stagingPieces (v : Variant) : Nat := v.pick 256 64 32
def marchRegions (v : Variant) : Nat := v.pick 786432 229376 57344

/-- Macros of a store (12 Table 12.1); 0 for a reserved store code. -/
def storeUnits (v : Variant) (store : Nat) : Nat :=
  match store with
  | 0 => v.pick 512 128 16
  | 1 => v.pick 352 80 28
  | 2 => v.pick 128 64 16
  | 3 => v.pick 64 32 8
  | 4 => v.pick 256 64 16
  | 5 => v.pick 64 32 8
  | 6 => v.pick 272 68 17
  | 7 => 8
  | 8 => v.pick 32 12 7
  | _ => 0

/-- Rows (lines) of one macro of a store: 1,024 in a 128 KiB macro, 512 in a 64 KiB macro. -/
def storeRows (store : Nat) : Nat :=
  if store = 6 ∨ store = 8 then 512 else 1024

end Variant

namespace Config

/-- FREE VALUES. Byte i of the identity region, of the parameters, of the commit block and of the 64-byte header of the mask
descriptor of a context (10 Table 10.5 gives the regions and their contents, not the places of the fields). Log entry 11. -/
opaque identityByte : Machine.CtxIdentity → Nat → Byte
opaque paramsByte : Machine.CtxParams → Nat → Byte
opaque commitByte : Machine.CtxCommit → Nat → Byte
opaque descByte : Machine.MaskDesc → Nat → Byte

/-- FREE VALUE. The context that bytes which no checkpoint of the block holds would describe. Log entry 11. -/
opaque contextImage : List Byte → Machine.CtxImage

/-- FREE VALUE. The data a wrapper register holds where the manual gives no layout: instruction number, place
(15 Table 15.13). Log entry 32. -/
opaque wrapperData : Nat → Nat → Nat

/-- FREE VALUE. Byte i of the form in which ASAVE writes a working configuration set, whose length alone 07 Table 7.4
gives. Log entry 24. -/
opaque savedSetByte : Machine.ConfSet → Nat → Byte

/-- FREE VALUE. The set that saved bytes describe, read by ARES from a local memory and an address. Log entry 24. -/
opaque savedSet : List (Nat × Byte) → Nat → Machine.ConfSet

/-- FREE VALUE. Byte i of a steal unit descriptor (07 Table 7.4 STEAL and POST give its address, not its layout).
Log entry 25. -/
opaque descriptorByte : Machine.UnitRef → Nat → Byte

/-- FREE VALUE. The unit that the descriptor at an address of a local memory names. Log entry 25. -/
opaque descriptorUnit : List (Nat × Byte) → Nat → Machine.UnitRef

/-- FREE VALUE. The local address at which STEAL of a turret places a taken descriptor. Log entry 25. -/
opaque descriptorAddress : Nat → DWord

/-- FREE VALUE. Bytes of a steal unit descriptor. Log entry 25. -/
opaque descriptorSize : Nat

/-- FREE VALUE. Which of the items that a line of a store may belong to it does belong to: store, line (12 R452 tags lines by
owner; no rule places items in lines). Log entry 27. -/
opaque lineItem : Nat → Nat → Nat

/-- FREE VALUE. Lines tagged for an owner that the model's items do not show, from the owner and a moment: those that the owner held
last and that are free, and Steeple's (12 R455; no rule places items in lines). Log entry 38. -/
opaque linesHeld : Nat → Nat → Nat

/-- FREE VALUE. The place, in the model's list of Cupola entries, of the entry that a register value names through the bit-set
alias window (07 Table 7.4 MSET, MCLR). Log entry 70. -/
opaque cupolaEntry : DWord → Nat

/-- FREE VALUE. How many valid entries a peer list does not show, from its source number and its entries: 08 Table 8.10 has no
field for their number, which K_VALID and CAND_COUNT count. Log entry 75. -/
opaque peerUnlisted : Nat → List (Nat × Word) → Nat

/-- FREE VALUE. The value of a peer's race winner that its list does not show, from its id and its key: Table 8.10 has no field
for it. Log entry 75. -/
opaque peerRaceValue : Nat → Word → Word

/-- FREE VALUE. Whether the best entry that a peer list does not show meets R321. Log entry 75. -/
opaque peerNextKept : List (Nat × Word) → Bool

/-- FREE VALUE. Whether the PROMPT that took in the token of a stream's step had ADVANCE set: 10 Table 10.7 marks the record of a
prompt token and says nothing of its ADVANCE. Log entry 29. -/
opaque promptAdvanced : Nat → Nat → Bool

/-- FREE VALUE. The requester number of the march test, a class 5 requester that 01 Table 1.1 does not list. Log entry 8. -/
opaque testRequester : Nat

end Config

end Sys2Proof
end

