-- ==== Sys2Proof/Machine/State.lean ====
section
/-! DEFINITION. The whole state of the block, the ways a command can stop, and the state after power-on. -/

namespace Sys2Proof.Machine

/-- How a command stops with a fault. -/
inductive Fault where
  /-- STORE_ACCESS_GRANT and ARB_STARVE_PROMOTE on a macro that the configuration does not have (12 Table 12.1). Safe: the
  manual gives such a macro no existence, and no access of the N2 names it. -/
  | noSuchMacro
  deriving DecidableEq, Repr

/-- How a command is refused. -/
inductive Refusal where
  /-- A row of the table whose meaning is not written. Safe: the machine stops. -/
  | notModelled (mnemonic : String)
  deriving DecidableEq, Repr

/-- The state of the N2 (INVENTORY.md, State). `pending` is the queue of commands, first in, first out; `variant` the
configuration of the block; `fresh` the counter to which free values are applied (log entry 4). -/
structure State where
  variant : Variant
  pending : List Instr
  fresh : Nat
  lan : Lan
  rng : Rng
  voc : Voc
  aut : Aut
  cup : Cup
  ctx : Ctx
  sel : Sel
  fin : Fin
  stp : Stp
  pkr : Pkr
  eqs : Eqs
  job : Jobs
  tur : Tur
  mem : Mem
  cry : Cry
  bel : Bel
  snp : Snp
  fab : Fab
  csp : Csp
  deriving DecidableEq, Repr

/-! ## What each unit holds after a start that rebuilt nothing -/

/-- 64 command and 64 completion rings, all disabled (02 Table 2.2 to 2.4). -/
def Rng.start : Rng := { c := List.replicate 64 {}, q := List.replicate 64 {} }

/-- Empty slots (03 Table 3.8). -/
def Voc.start (v : Variant) : Voc := { slots := List.replicate v.slots {} }

/-- 64 free automata (06 Table 6.13). -/
def Aut.start : Aut := { auts := List.replicate 64 {} }

/-- No open stream; every owner at epoch 0 (10 R386). -/
def Ctx.start : Ctx := { owners := List.replicate 64 {}, qLatch := List.replicate 8 0 }

/-- The ingress selectors, enabled (08 Table 8.12). -/
def Sel.start (v : Variant) : Sel := { ports := List.replicate v.ports {} }

/-- Finial (08 Table 8.13). -/
def Fin.start : Fin := { resultCtl := List.replicate 64 0, part := List.replicate 8 (0, 0, 0, 0) }

/-- Steeple (09 Table 9.6). -/
def Stp.start : Stp := { hist := List.replicate 17 0 }

/-- Record Writer (10 Table 10.13). -/
def Pkr.start : Pkr := { owners := List.replicate 64 { stg := List.replicate 9 0 } }

/-- 64 egress queues (11 Table 11.4). -/
def Eqs.start : Eqs := { qs := List.replicate 64 {} }

/-- The turrets: 17 to a cluster, the last the spare when repair marks all usable (07 R262, R263). -/
def Tur.start (v : Variant) : Tur :=
  { ts := (List.range v.physTurrets).map fun p =>
      { spare := p % 17 == 16, activeNo := if p % 17 = 16 then none else some (p / 17 * 16 + p % 17) } }

/-- Belfry (14 Table 14.12): 16 groups. -/
def Bel.start : Bel :=
  { routes := List.replicate 16 {}, routesStg := List.replicate 16 {},
    msgs := List.replicate 16 (0, 0), msgsStg := List.replicate 16 (0, 0) }

/-- Stores after step 3 of a start: words 0, tags 0xC0 (12 R449). -/
def Mem.start : Mem := { stalls := List.replicate 6 0 }

/-- The log entry of a start: RESET, with the kind of the start (14 R531, 16 Table 16.10). -/
def resetEntry (kind time : Nat) : LogEntry := { code := 0xF002, detail := kind, time := time }

/-- The Lantern after power-on (13 Table 13.9, 14 R531, 15 R558). -/
def Lan.powerOn : Lan :=
  { log := resetEntry 1 0 :: List.replicate 63 {}, logNext := 1, starts := 1 }

/-- The state right after PWR_ON_N has risen: the block is starting, step 0 (13 R473 kind 1). The configuration is the
N2-256 (DESIGN CHOICE, log entry 2). -/
def State.reset : State :=
  { variant := .n256, pending := [], fresh := 0, lan := Lan.powerOn, rng := Rng.start, voc := Voc.start .n256,
    aut := Aut.start, cup := {}, ctx := Ctx.start, sel := Sel.start .n256, fin := Fin.start, stp := Stp.start,
    pkr := Pkr.start, eqs := Eqs.start, job := {}, tur := Tur.start .n256, mem := Mem.start, cry := {}, bel := Bel.start,
    snp := {}, fab := {}, csp := {} }

end Sys2Proof.Machine
end

