-- ==== Sys2Proof/Machine/Ops.lean ====
section
/-! DEFINITION. The named operations that the meanings share: changes of one unit, gates of the block state, events and
the Lantern log, fabric reads and writes, completions. -/

namespace Sys2Proof.Machine

/-! ## Changes of one unit -/

def State.onLan (s : State) (f : Lan → Lan) : State := { s with lan := f s.lan }
def State.onRng (s : State) (f : Rng → Rng) : State := { s with rng := f s.rng }
def State.onVoc (s : State) (f : Voc → Voc) : State := { s with voc := f s.voc }
def State.onAut (s : State) (f : Aut → Aut) : State := { s with aut := f s.aut }
def State.onCup (s : State) (f : Cup → Cup) : State := { s with cup := f s.cup }
def State.onCtx (s : State) (f : Ctx → Ctx) : State := { s with ctx := f s.ctx }
def State.onSel (s : State) (f : Sel → Sel) : State := { s with sel := f s.sel }
def State.onFin (s : State) (f : Fin → Fin) : State := { s with fin := f s.fin }
def State.onStp (s : State) (f : Stp → Stp) : State := { s with stp := f s.stp }
def State.onPkr (s : State) (f : Pkr → Pkr) : State := { s with pkr := f s.pkr }
def State.onEqs (s : State) (f : Eqs → Eqs) : State := { s with eqs := f s.eqs }
def State.onJob (s : State) (f : Jobs → Jobs) : State := { s with job := f s.job }
def State.onTur (s : State) (f : Tur → Tur) : State := { s with tur := f s.tur }
def State.onMem (s : State) (f : Mem → Mem) : State := { s with mem := f s.mem }
def State.onCry (s : State) (f : Cry → Cry) : State := { s with cry := f s.cry }
def State.onBel (s : State) (f : Bel → Bel) : State := { s with bel := f s.bel }
def State.onSnp (s : State) (f : Snp → Snp) : State := { s with snp := f s.snp }
def State.onFab (s : State) (f : Fab → Fab) : State := { s with fab := f s.fab }

/-- Changes command ring n, completion ring m, physical turret p, queue q, owner o of the Record Writer, owner o of the
Context Store, ingress selector p. -/
def State.onRing (s : State) (n : Nat) (f : CmdRing → CmdRing) : State := s.onRng fun r => { r with c := modAt r.c n f }
def State.onCq (s : State) (m : Nat) (f : CplRing → CplRing) : State := s.onRng fun r => { r with q := modAt r.q m f }
def State.onTurret (s : State) (p : Nat) (f : Turret → Turret) : State := s.onTur fun t => { t with ts := modAt t.ts p f }
def State.onQueue (s : State) (q : Nat) (f : EqQueue → EqQueue) : State := s.onEqs fun e => { e with qs := modAt e.qs q f }
def State.onOwnPkr (s : State) (o : Nat) (f : OwnerPkr → OwnerPkr) : State :=
  s.onPkr fun p => { p with owners := modAt p.owners o f }
def State.onOwner (s : State) (o : Nat) (f : OwnerEpoch → OwnerEpoch) : State :=
  s.onCtx fun c => { c with owners := modAt c.owners o f }
def State.onPort (s : State) (p : Nat) (f : Selector → Selector) : State :=
  s.onSel fun l => { l with ports := modAt l.ports p f }
def State.onAutomaton (s : State) (n : Nat) (f : Automaton → Automaton) : State :=
  s.onAut fun a => { a with auts := modAt a.auts n f }
def State.onSlot (s : State) (n : Nat) (f : Slot → Slot) : State := s.onVoc fun v => { v with slots := modAt v.slots n f }

def State.ring (s : State) (n : Nat) : CmdRing := getN s.rng.c n
def State.cqr (s : State) (m : Nat) : CplRing := getN s.rng.q m
def State.turret (s : State) (p : Nat) : Turret := getN s.tur.ts p
def State.queue (s : State) (q : Nat) : EqQueue := getN s.eqs.qs q
def State.ownPkr (s : State) (o : Nat) : OwnerPkr := getN s.pkr.owners o
def State.owner (s : State) (o : Nat) : OwnerEpoch := getN s.ctx.owners o
def State.port (s : State) (p : Nat) : Selector := getN s.sel.ports p
def State.automaton (s : State) (n : Nat) : Automaton := getN s.aut.auts n
def State.slot (s : State) (n : Nat) : Slot := getN s.voc.slots n

/-! ## Streams, commands, jobs and units by name -/

/-- The open stream n. -/
def State.stream? (s : State) (n : Nat) : Option Stream := s.ctx.streams.find? (·.id == n)

/-- Changes stream n. -/
def State.onStream (s : State) (n : Nat) (f : Stream → Stream) : State :=
  s.onCtx fun c => { c with streams := modWhere c.streams (·.id == n) f }

/-- Opens a stream: the list stays ordered by id. -/
def State.putStream (s : State) (st : Stream) : State :=
  s.onCtx fun c => { c with streams := insertBy Stream.id st c.streams }

/-- Frees a stream. -/
def State.dropStream (s : State) (n : Nat) : State :=
  s.onCtx fun c => { c with streams := c.streams.filter (·.id != n) }

/-- The command of a ticket. -/
def State.cmd? (s : State) (t : Nat) : Option Cmd := s.rng.cmds.find? (·.ticket == t)

def State.onCmd (s : State) (t : Nat) (f : Cmd → Cmd) : State :=
  s.onRng fun r => { r with cmds := modWhere r.cmds (·.ticket == t) f }

def State.job? (s : State) (t : Nat) : Option Job := s.job.js.find? (·.ticket == t)

def State.onJobOf (s : State) (t : Nat) (f : Job → Job) : State :=
  s.onJob fun j => { j with js := modWhere j.js (·.ticket == t) f }

/-- The selection unit of (stream, step, node) (08). -/
def State.unit? (s : State) (st step node : Nat) : Option SelUnit :=
  s.fin.units.find? fun u => u.stream == st && u.step == step && u.node == node

def State.onUnit (s : State) (st step node : Nat) (f : SelUnit → SelUnit) : State :=
  s.onFin fun x => { x with units := modWhere x.units (fun u => u.stream == st && u.step == step && u.node == node) f }

def State.tree? (s : State) (st : Nat) : Option Tree := s.stp.trees.find? (·.stream == st)

def State.onTree (s : State) (st : Nat) (f : Tree → Tree) : State :=
  s.onStp fun x => { x with trees := modWhere x.trees (·.stream == st) f }

/-! ## Gates of the block state (13 R479, R481, R492, R497, R501) -/

/-- The block is READY. -/
def State.ready (s : State) : Bool := s.lan.blk == .ready

/-- Steps whose logits were issued run on: READY, or the first steps of a power entry (13 R497). -/
def State.stepping (s : State) : Bool :=
  s.ready || (s.lan.blk == .transition && match s.lan.act with | .entry _ => true | _ => false)

/-- The interfaces carry traffic: a step may go on, and the block is not fenced (14 R530). -/
def State.carrying (s : State) : Bool := s.stepping && !s.lan.fenced

/-- Fabric writes that were issued complete: READY, a power entry, a quiesce, an emergency checkpoint, and the staged records
that a start writes (13 R493). -/
def State.writing (s : State) : Bool :=
  s.ready || (s.lan.blk == .starting && s.lan.act == .start && s.lan.step == 5) || (s.lan.blk == .transition && match s.lan.act with
    | .entry _ => true
    | .quiesce => true
    | .emergency => true
    | _ => false)

/-! ## The Lantern log (14 R531, 16 R576) -/

/-- Appends an entry; the log keeps the 64 most recent. -/
def lanLog (s : State) (code detail : Nat) : State :=
  s.onLan fun l => { l with
    log := setAt l.log l.logNext { code := code, detail := detail, time := l.aonTime }
    logNext := (l.logNext + 1) % 64
    logWrapped := l.logWrapped || l.logNext + 1 == 64 }

/-! ## Fabric ports (15 R550 to R552) -/

/-- The fabric port that serves a line address (15, by the address bits above the line). -/
def portOfLine (v : Variant) (line : Nat) : Nat := line % v.fabricPorts

/-- The lowest tag that no listed request of a port carries. -/
def freeTag (rs : List FabReq) (port : Nat) : Nat :=
  ((List.range 1025).find? fun t => !(rs.any fun r => r.port == port && r.tag == t)).getD 1024

/-- Whether a port may take one more request of a kind (R551). -/
def portRoom (rs : List FabReq) (port : Nat) : Bool := (rs.filter (·.port == port)).length < 1024

/-- Whether a local reset holds a fabric port: new requests wait (13 Table 13.6). -/
def State.portHeld (s : State) (port : Nat) : Bool := s.lan.domReset.contains (304 + port)

/-- The lines an access of len bytes at addr touches. -/
def linesOf (addr len : Nat) : List Nat :=
  if len = 0 then [] else (List.range ((addr + len - 1) / 128 - addr / 128 + 1)).map (addr / 128 + ·)

/-- What a requester knows of bytes it asked for. -/
inductive ReadRes where
  | wait
  | err
  | got (bs : List Byte)
  deriving DecidableEq, Repr

/-- The answer a requester holds for a line: none while none has come. -/
def lineOf (s : State) (who : Req) (line : Nat) : Option (Option (List Byte)) :=
  (s.fab.lines.find? fun e => e.1 == who && e.2.1 == line).map (·.2.2)

/-- Reads len bytes at addr on behalf of a requester: an error once any line answered with one (02 R584). -/
def readBytes (s : State) (who : Req) (addr len : Nat) : ReadRes :=
  let ls := (linesOf addr len).map (lineOf s who)
  if ls.any (· == some none) then .err
  else if ls.any (· == none) then .wait
  else .got (slice (ls.flatMap fun l => (l.getD none).getD []) (addr % 128) len)

/-- Asks for one line, unless it is here, asked for, or a write of it is under way (R551). A fenced port answers with an
error inside the block (14 R530). -/
def fetchLine (s : State) (who : Req) (line : Nat) : State :=
  let port := portOfLine s.variant line
  if (lineOf s who line).isSome || s.fab.fetches.any (fun r => r.who == who && r.line == line) then s
  else if s.lan.fenced then s.onFab fun f => { f with lines := f.lines ++ [(who, line, none)] }
  else if s.fab.stores.any (·.line == line) || s.fab.waiting.any (·.line == line) || s.portHeld port ||
      !portRoom s.fab.fetches port then s
  else s.onFab fun f =>
    { f with fetches := f.fetches ++ [{ port := port, tag := freeTag f.fetches port, line := line, who := who }] }

/-- Asks for every line of an access. -/
def fetchBytes (s : State) (who : Req) (addr len : Nat) : State :=
  (linesOf addr len).foldl (fun s l => fetchLine s who l) s

/-- Forgets the lines a requester holds, so that a later access reads again. A fetch that is under way keeps its tag and
serves nobody (`.message 16`). -/
def dropLines (s : State) (who : Req) : State :=
  s.onFab fun f => { f with
    lines := f.lines.filter (·.1 != who), fetches := modWhere f.fetches (·.who == who) fun r => { r with who := .message 16 } }

/-- The bytes of an access that fall into a line, with the enables of R550. -/
def lineWrite (addr : Nat) (bs : List Byte) (line : Nat) : List Byte × List Bool :=
  ((List.range 128).map fun i => let a := line * 128 + i; if addr ≤ a ∧ a < addr + bs.length then bs.getD (a - addr) 0 else 0,
   (List.range 128).map fun i => let a := line * 128 + i; decide (addr ≤ a ∧ a < addr + bs.length))

/-- Queues the line writes of an access for a requester; `settle` issues them. -/
def writeBytes (s : State) (who : Req) (addr : Nat) (bs : List Byte) : State :=
  s.onFab fun f => { f with waiting := f.waiting ++ (linesOf addr bs.length).map fun l =>
    let w := lineWrite addr bs l
    { port := portOfLine s.variant l, tag := 0, line := l, data := w.1, enables := w.2, who := who } }

/-- Queues the write of one line's bytes under byte enables. -/
def writeEnabled (s : State) (who : Req) (line : Nat) (bs : List Byte) (en : Nat → Bool) : State :=
  s.onFab fun f => { f with waiting := f.waiting ++ [{
    port := portOfLine s.variant line, tag := 0, line := line, who := who
    data := (List.range 128).map fun i => if en i then getN bs i else 0, enables := (List.range 128).map en }] }

/-- Whether a requester has writes that are not acknowledged. -/
def writesOut (s : State) (who : Req) : Bool := s.fab.stores.any (·.who == who) || s.fab.waiting.any (·.who == who)

/-- Issues a queued write when R551 allows it. -/
def issueWrite (s : State) (r : FabReq) : State :=
  if s.portHeld r.port || !portRoom s.fab.stores r.port || s.fab.stores.any (·.line == r.line) || s.fab.fetches.any (·.line == r.line) then
    s.onFab fun f => { f with waiting := f.waiting ++ [r] }
  else s.onFab fun f => { f with stores := f.stores ++ [{ r with tag := freeTag f.stores r.port }] }

/-- Issues every queued write that may go, in order. -/
def pumpWrites (s : State) : State :=
  s.fab.waiting.foldl issueWrite (s.onFab fun f => { f with waiting := [] })

/-! ## Belfry (14 R532, R533) -/

/-- Groups routed to line l as messages. -/
def msgGroups (b : Bel) (l : Nat) : List Nat :=
  (List.range 16).filter fun g => let r := getN b.routes g; r.enable && r.msg && r.line == l

/-- Whether a line's message groups, taken together, are pending. -/
def msgPending (b : Bel) (l : Nat) : Bool := (msgGroups b l).any fun g => b.pending.testBit g

/-- Writes a line's message when its groups go from none pending to some pending. -/
def sendMessages (before : Bel) (s : State) : State :=
  (List.range 16).foldl (fun s l =>
    if !msgPending before l && msgPending s.bel l then
      let m := getN s.bel.msgs l
      writeBytes s (.message l) m.1 (leBytes 4 m.2.toNat)
    else s) s

/-- Puts an event record into the log (R532) and sets its group's bit (R533). -/
def raiseFrom (s : State) (requester code stream step detail : Nat) : State :=
  let b := s.bel
  let e : Event := {
    code := code, stream := stream, step := step, requester := requester, time := s.lan.aonTime,
    detail := detail }
  let lost := (b.log.find? (·.1 == b.wr)).any fun x => !x.2.isRead
  sendMessages b { s with bel := { b with
    log := insertBy Prod.fst (b.wr, e) b.log
    wr := (b.wr + 1) % 1024
    count := wrap32 (b.count + 1)
    lost := wrap32 (b.lost + b2n lost)
    pending := b.pending ||| 1 <<< (code / 256) } }

/-- Requesters that are no turret: the units of 01 Table 1.1 in its order, an ingress selector by its port; and the march
test, which Table 1.1 does not list. -/
inductive Src where
  | lantern
  | ring
  | vocab
  | automata
  | cupola
  | context
  | selector (port : Nat)
  | finial
  | steeple
  | buffer
  | records
  | queues
  | crypto
  | belfry
  | fabric
  | peer
  | test
  deriving DecidableEq, Repr

/-- Requester numbers from 272 upward (12 R433, log entry 8). -/
def Src.number (v : Variant) : Src → Nat
  | .lantern => 272
  | .ring => 273
  | .vocab => 274
  | .automata => 275
  | .cupola => 276
  | .context => 277
  | .selector p => 278 + p
  | .finial => 278 + v.ports
  | .steeple => 279 + v.ports
  | .buffer => 280 + v.ports
  | .records => 281 + v.ports
  | .queues => 282 + v.ports
  | .crypto => 283 + v.ports
  | .belfry => 284 + v.ports
  | .fabric => 285 + v.ports
  | .peer => 286 + v.ports
  | .test => Config.testRequester % 4294967296

/-- Raises an event from a unit that is no turret. -/
def raiseBy (s : State) (u : Src) (code stream step detail : Nat) : State :=
  raiseFrom s (u.number s.variant) code stream step detail

/-! ## Completions (02 R72, R86) -/

/-- Forgets a command and everything it waits for. -/
def dropCmd (s : State) (t : Nat) : State :=
  dropLines (s.onRng fun r => { r with cmds := r.cmds.filter (·.ticket != t) }) (.command t)

/-- Whether an entry of an opcode names a stream (Table 2.9): `b16` is payload byte 16, whose bit 0 is OWNER_WIDE. -/
def opHasStream (op b16 : Nat) : Bool :=
  (decide (0x20 ≤ op) && decide (op ≤ 0x25)) || op == 0x44 ||
    ((op == 0x28 || op == 0x41 || op == 0x42 || op == 0x43) && !b16.testBit 0)

/-- Posts a command's completion: status, STEP, DETAIL0, DETAIL1 of Table 2.12. -/
def complete (s : State) (c : Cmd) (status : Nat) (step : Nat := 0) (d0 : Nat := 0) (d1 : Nat := 0) : State :=
  let e : Comp := {
    ticket := c.ticket, ring := c.ring, cq := c.cq, irq := (getN c.ent 1).toNat.testBit 0, tag := getLE c.ent 4 4,
    status := status, opcode := (getN c.ent 0).toNat, stream := getLE c.ent 8 2 % 16384,
    hasStream := opHasStream (getN c.ent 0).toNat (getN c.ent 16).toNat, step := step, d0 := d0, d1 := d1 }
  dropCmd (s.onRng fun r => { r with comps := r.comps ++ [e] }) c.ticket

/-- Completes a command that fails with a status and no details; one that reached its boundary names a step (02 Table 2.12). -/
def reject (s : State) (c : Cmd) (st : Status) (step : Nat := 0) : State := complete s c st.code step

/-- Completes the command of a ticket, if it has not completed. -/
def completeTicket (s : State) (t : Nat) (st : Status) (step : Nat := 0) (d0 : Nat := 0) (d1 : Nat := 0) : State :=
  match s.cmd? t with
  | some c => complete s c st.code step d0 d1
  | none => s

/-- A command waits: it stays with the unit that accepted it. -/
def executing (s : State) (t : Nat) : State := s.onCmd t fun c => { c with phase := .executing }

/-- A command needs bytes of external memory that are not here yet: the reads are issued and it waits. -/
def awaitBytes (s : State) (c : Cmd) (addr len : Nat) : State :=
  fetchBytes (executing s c.ticket) (.command c.ticket) addr len

/-! ## Store lines, domains -/

/-- Work arrives for a turret: its domain is ungated (13 R467). -/
def ungate (s : State) (p : Nat) : State := s.onTurret p fun t => { t with gated := false }

/-- Work arrives on a cluster's board: its active turrets are ungated. -/
def ungateCluster (s : State) (k : Nat) : State :=
  s.onTur fun t => { t with ts := (List.range t.ts.length).map fun p =>
    let u := getN t.ts p
    if p / 17 = k ∧ u.activeNo.isSome then { u with gated := false } else u }

/-- The number of a macro line, and of a macro line's first word, in the listings of the stores. -/
def lineKey (store unit row : Nat) : Nat := (store * 512 + unit) * 1024 + row

/-- A whole-word write to a store, at a word's address: an armed injection for the store makes the word bad, once (12 R442, R443). -/
def putWhole (s : State) (key : Nat) (v : DWord) : State :=
  s.onMem fun m =>
    let hit := m.injArm && m.injStore == key / 8388608
    { m with
      words := sput {} m.words key { value := v, err := if hit then (if m.injDouble then 2 else 1) else 0 }
      fixes := m.fixes.filter (· != key), injArm := m.injArm && !hit }

/-- A local reset holds the unit's domain in reset (13 R494); one within a block reset is absorbed by it (R474). -/
def holdDomain (s : State) (d : Nat) : State := s.onLan fun l => { l with domReset := insertBy id d l.domReset }

/-! ## The end of every meaning -/

/-- One CK_AON cycle passes (14 R531): what the block does on an empty queue (log entry 3). -/
def tick (s : State) : State :=
  s.onLan fun l => { l with aonTime := (l.aonTime + 1) % 18446744073709551616 }

end Sys2Proof.Machine
end

