-- ==== Sys2Proof/Machine/Selection.lean ====
section
/-! DEFINITION. Selection and sampling as functions of the values, the mask and the stream's parameters (08 R305 to R341). -/

namespace Sys2Proof.Machine

/-! ## Entries and sums -/

/-- The order on entries: greater x first, then lower id (R307). -/
def entryBefore (a b : Nat × Word) : Bool :=
  decide (F32.key b.2 < F32.key a.2) || (F32.key a.2 == F32.key b.2 && decide (a.1 < b.1))

/-- Inserts an entry in order. -/
def entryInsert (e : Nat × Word) : List (Nat × Word) → List (Nat × Word)
  | [] => [e]
  | f :: r => if entryBefore e f then e :: f :: r else f :: entryInsert e r

/-- Merges lists of entries. -/
def mergeEntries (ls : List (List (Nat × Word))) : List (Nat × Word) :=
  ls.foldl (fun acc l => l.foldl (fun a e => entryInsert e a) acc) []

/-- Adds a value that is neither NaN nor -inf (R310). -/
def PSum.add (p : PSum) (x : Word) : PSum :=
  if F32.isPosInf x then { p with inf := p.inf + 1 }
  else
    let m := if p.s = 0 then x else F32.max p.m x
    { p with m := m, s := F32.scaleSum p.s p.m m + F32.expPow x m }

/-- Combines two sums (R310). -/
def PSum.combine (p q : PSum) : PSum :=
  if p.s = 0 then { q with inf := p.inf + q.inf }
  else if q.s = 0 then { p with inf := p.inf + q.inf }
  else
    let m := F32.max p.m q.m
    { m := m, s := F32.scaleSum p.s p.m m + F32.scaleSum q.s q.m m, inf := p.inf + q.inf }

/-- The reported log-sum-exp. -/
def PSum.lse (p : PSum) : Word := F32.lse p.m p.s p.inf

/-! ## Sampling parameters of a unit -/

/-- What selection takes from the stream: parameters, bias, the seed, the path. -/
structure SelParams where
  temp : Word := F32.one
  topK : Nat := 0
  topP : Word := F32.one
  minP : Word := 0
  recip : Word := F32.one
  lnMinP : Word := F32.negInf
  bias : List (Nat × Word) := []
  seed : Nat := 0
  deriving DecidableEq, Repr

def Stream.params (s : Stream) : SelParams :=
  { temp := s.temp, topK := s.topK, topP := s.topP, minP := s.minP, recip := s.recip, lnMinP := s.lnMinP, bias := s.bias,
    seed := s.seed }

/-- TEMPERATURE is +0 or -0. -/
def SelParams.greedy (p : SelParams) : Bool := F32.mag p.temp == 0

/-- The path of Table 8.5: 0 greedy, 1 fast, 2 deep, 3 race. -/
def SelParams.path (p : SelParams) : Nat :=
  if p.greedy then 0
  else if p.topK ≠ 0 then (if p.topK ≤ 64 then 1 else 2)
  else if p.topP = F32.one ∧ F32.mag p.minP = 0 then 3 else 2

/-- k_eff of R319 with the number of valid entries for the race path. -/
def SelParams.kEff (p : SelParams) (valid : Nat) : Nat :=
  match p.path with
  | 0 => 1
  | 3 => valid
  | _ => if p.topK = 0 then 1024 else p.topK

/-- The number of valid entries that a sender lists (R340). -/
def SelParams.kSend (p : SelParams) : Nat := if p.path = 2 then p.kEff 0 else 64

/-- x_t = (z_t + b_t) times w (R305). -/
def SelParams.x (p : SelParams) (t : Nat) (z : Word) : Word :=
  let b := ((p.bias.find? (·.1 == t)).map Prod.snd).getD 0
  F32.plusZero (F32.mul (F32.add z b) (if p.greedy then F32.one else p.recip))

/-- The race key: x + G, or G alone for +inf (R325). -/
def raceKey (seed step node : Nat) (t : Nat) (x : Word) : Word :=
  let g := F32.gumbel (F32.philox seed t step (F32.purpose node 0))
  if F32.isPosInf x then g else F32.add x g

/-! ## Sub-lanes (R309) -/

/-- The value of the 64th entry. -/
def lastOfFull (l : List (Nat × Word)) : Option Word := if l.length = 64 then (l.getLast?).map Prod.snd else none

/-- Offers a valid entry to a sub-lane's list and tie counter. -/
def SubLane.offer (s : SubLane) (e : Nat × Word) : SubLane :=
  let l := entryInsert e s.top
  let keep := l.take 64
  let old := lastOfFull s.top
  let now := lastOfFull keep
  let base := if old = now then s.tie else 0
  let hit := match l[64]?, now with
    | some x, some v => x.2 == v
    | _, _ => false
  { s with top := keep, tie := base + b2n hit }

/-- A better race candidate: +inf entries first (R323), then the greater key, then the lower id. -/
def raceBetter (a b : Word × Nat) (aInf bInf : Bool) : Bool :=
  if aInf != bInf then aInf
  else decide (F32.key b.1 < F32.key a.1) || (F32.key a.1 == F32.key b.1 && decide (a.2 < b.2))

/-- One value of token t into a sub-lane; `race` gives seed, step and node on the race path. -/
def SubLane.value (s : SubLane) (p : SelParams) (allowed : Bool) (race : Option (Nat × Nat × Nat)) (t : Nat) (z : Word) :
    SubLane :=
  let x := p.x t z
  if F32.isNaN x then { s with nan := s.nan + 1 }
  else if F32.isNegInf x then s
  else if allowed then
    let s' := ({ s with alw := s.alw.add x, valid := s.valid + 1 } : SubLane).offer (t, x)
    match race with
    | none => s'
    | some (seed, step, node) =>
      let k := raceKey seed step node t x
      let better := match s.race with
        | none => true
        | some r => raceBetter (k, t) r (F32.isPosInf x) (s.alw.inf != 0)
      if better then { s' with race := some (k, t), raceX := x } else s'
  else { s with msk := s.msk.add x }

/-- A data beat of values from token `first` on: lane i feeds sub-lane i (R309). -/
def feedLanes (p : SelParams) (mask : Nat) (race : Option (Nat × Nat × Nat)) (lanes : List SubLane) (first : Nat)
    (vs : List Word) : List SubLane :=
  (List.range 64).map fun i =>
    let l := getN lanes i
    match vs[i]? with
    | some z => l.value p (mask.testBit (first + i)) race (first + i) z
    | none => l

/-- A captured shard through the selectors, as it arrived (R332). -/
def feedBeats (p : SelParams) (mask : Nat) (race : Option (Nat × Nat × Nat)) :
    List (List Word) → Nat → List SubLane → List SubLane
  | [], _, lanes => lanes
  | b :: bs, first, lanes => feedBeats p mask race bs (first + b.length) (feedLanes p mask race lanes first b)

/-- The values of a source in token order with their ids. -/
def Source.values (s : Source) : List (Nat × Word) :=
  let vs := s.beats.flatten
  (List.range vs.length).map fun i => (s.base + i, getN vs i)

/-! ## Closing a unit (R314 to R316) -/

/-- Whether a source is a local shard or peer list, not a mirror. -/
def Source.counts (s : Source) : Bool := s.mirror != 2

/-- Whether a source claims an id. -/
def Source.claims (s : Source) (t : Nat) : Bool := decide (s.base ≤ t) && decide (t < s.base + s.count)

/-- Whether the ids [a, b) are all claimed: walks past the greatest claimed run each time. -/
def coveredFrom (ss : List Source) (b : Nat) : Nat → Nat → Option Nat
  | 0, a => if b ≤ a then none else some a
  | k + 1, a =>
    if b ≤ a then none
    else match ss.find? (·.claims a) with
      | none => some a
      | some s => coveredFrom ss b k (s.base + s.count)

/-- The lowest id of [a, b) that no source claims. -/
def uncovered (ss : List Source) (a b : Nat) : Option Nat := coveredFrom (ss.filter (·.counts)) b (ss.length + 1) a

/-- Whether every id of a source is claimed by sources of lower number. -/
def Source.redundant (ss : List Source) (s : Source) : Bool :=
  s.counts && decide (0 < s.count) && (coveredFrom (ss.filter fun r => r.counts && decide (r.src < s.src)) (s.base + s.count)
    (ss.length + 1) s.base).isNone

/-- The sources that stay (R315). -/
def keptSources (ss : List Source) : List Source := ss.filter fun s => s.counts && !s.redundant ss

/-- Whether two sources claim one id. -/
def overlaps (a b : Source) : Bool :=
  decide (0 < a.count) && decide (0 < b.count) && decide (a.base < b.base + b.count) && decide (b.base < a.base + a.count)

/-- Whether any id is claimed twice. -/
def anyOverlap : List Source → Bool
  | [] => false
  | s :: r => r.any (overlaps s) || anyOverlap r

/-- The lowest source number that claims ids of a discarded source. -/
def lowestKept (ss : List Source) (s : Source) : Nat :=
  ((keptSources ss).filter (overlaps s)).foldl (fun m r => min m r.src) s.src

/-- The partner of a mirror (R316). -/
def mirrorPartner (ss : List Source) (m : Source) : Option Source :=
  ss.find? fun s => s.mirror == 1 && s.base == m.base && s.count == m.count

/-- Whether every mirrored shard has its mirror in full. -/
def mirrorsHere (ss : List Source) : Bool :=
  (ss.filter (·.mirror == 1)).all fun s => ss.any fun m => m.mirror == 2 && m.base == s.base && m.count == s.count && m.whole

/-- The sum of a source: its sub-lanes in ascending order (R311). -/
def sourceSum (f : SubLane → PSum) (s : Source) : PSum := s.lanes.foldl (fun p l => p.combine (f l)) {}

/-- Sources in ascending BASE, then source number (R311). -/
def sourceOrder (ss : List Source) : List Source :=
  ss.foldl (fun acc s =>
    let before := acc.filter fun r => decide (r.base < s.base) || (r.base == s.base && decide (r.src ≤ s.src))
    before ++ s :: acc.filter fun r => !(decide (r.base < s.base) || (r.base == s.base && decide (r.src ≤ s.src)))) []

def totalSum (f : SubLane → PSum) (ss : List Source) : PSum :=
  (sourceOrder ss).foldl (fun p s => p.combine (sourceSum f s)) {}

/-- The best race entry over the sources, with its value. -/
def totalRace (ss : List Source) : Option ((Word × Nat) × Word) :=
  (ss.flatMap (·.lanes)).foldl (fun (best : Option ((Word × Nat) × Word)) l => match l.race with
    | none => best
    | some r => match best with
      | none => some (r, l.raceX)
      | some b => if raceBetter r b.1 (F32.isPosInf l.raceX) (F32.isPosInf b.2) then some (r, l.raceX) else best) none

/-- The valid entries of captured values (R332). -/
def deepEntries (p : SelParams) (mask : Nat) (ss : List Source) : List (Nat × Word) :=
  mergeEntries (ss.map fun s =>
    if s.peer then s.lanes.flatMap (·.top)
    else (s.values.map fun e => (e.1, p.x e.1 e.2)).filter fun e =>
      !F32.isNaN e.2 && !F32.isNegInf e.2 && mask.testBit e.1)

/-- The list of a unit: from the sub-lanes, or on the deep path from the captured values. -/
def unitList (p : SelParams) (mask : Nat) (deep : Bool) (ss : List Source) : List (Nat × Word) :=
  if deep then deepEntries p mask ss else mergeEntries (ss.flatMap fun s => s.lanes.map (·.top))

/-- Counters of entries that the lists do not show: value of the last listed entry, count (R320, R341). -/
def hiddenTies (deep : Bool) (ss : List Source) : List (Word × Nat) :=
  (if deep then ss.filter (·.peer) else ss).flatMap fun s => s.lanes.filterMap fun l =>
    if l.tie = 0 then none else (l.top.getLast?).map fun e => (e.2, l.tie)

/-! ## Choosing the token (R318 to R328) -/

/-- FLAGS of Table 8.8. -/
structure ResFlags where
  tieCut : Bool := false
  infAllowed : Bool := false
  infAll : Bool := false
  lowPrecision : Bool := false
  late : Bool := false
  mirror : Bool := false
  duplicate : Bool := false
  peer : Bool := false
  cap : Bool := false
  forcedEos : Bool := false
  deriving DecidableEq, Repr

def ResFlags.bits (f : ResFlags) : Nat :=
  b2n f.tieCut + 2 * b2n f.infAllowed + 4 * b2n f.infAll + 8 * b2n f.lowPrecision + 16 * b2n f.late + 32 * b2n f.mirror +
    64 * b2n f.duplicate + 128 * b2n f.peer + 256 * b2n f.cap + 512 * b2n f.forcedEos

/-- The prefix that top-p keeps: entries j with C(j - 1) below TOP_P (R321). -/
def topP (limit lse : Word) : List (Nat × Word) → Word → List (Nat × Word)
  | [], _ => []
  | e :: r, c => if F32.lt c limit then e :: topP limit lse r (F32.add c (F32.exp (F32.sub e.2 lse))) else []

/-- The prefix that min-p keeps (R321). -/
def minP (lnMin first : Word) : List (Nat × Word) → List (Nat × Word)
  | [] => []
  | e :: r => if F32.le lnMin (F32.sub e.2 first) then e :: minP lnMin first r else []

/-- The entries that both conditions of R321 keep. -/
def keepBoth (p : SelParams) (lse : Word) (l : List (Nat × Word)) : List (Nat × Word) :=
  let a := if p.topP = F32.one then l else topP p.topP lse l 0
  let b := if F32.mag p.minP = 0 then l else minP p.lnMinP ((l.headD (0, 0)).2) l
  l.take (min a.length b.length)

/-- The candidates of a top-k list (R321, R323). -/
def candidates (p : SelParams) (alw : PSum) (top : List (Nat × Word)) : List (Nat × Word) :=
  if p.greedy then top.take 1
  else if alw.inf ≠ 0 then top.filter fun e => F32.isPosInf e.2
  else keepBoth p alw.lse top

/-- The candidate with the greatest race key, ties to the lower id (R325). -/
def drawToken (seed step node : Nat) (cs : List (Nat × Word)) : Option (Nat × Word) :=
  (cs.foldl (fun (best : Option ((Nat × Word) × Word)) e =>
    let k := raceKey seed step node e.1 e.2
    match best with
    | none => some (e, k)
    | some b => if F32.key b.2 < F32.key k ∨ (F32.key b.2 = F32.key k ∧ e.1 < b.1.1) then some (e, k) else best) none).map
    Prod.fst

/-- ln p under a sum: x - LSE, -ln(n) among n infinite entries (R323, R328). -/
def lnProb (x : Word) (s : PSum) : Word :=
  if s.inf ≠ 0 then (if F32.isPosInf x then F32.plusZero (F32.ofFx (-(F32.lnFx s.inf 0)) F32.wp) else F32.negInf)
  else F32.plusZero (F32.sub x s.lse)

/-- The valid entries that arrive in sub-lane i, from token `first` on. -/
def laneEntries (p : SelParams) (mask i : Nat) : Nat → List (List Word) → List (Nat × Word)
  | _, [] => []
  | first, b :: bs =>
    let here := match b[i]? with
      | some z =>
        let x := p.x (first + i) z
        if F32.isNaN x || F32.isNegInf x || !mask.testBit (first + i) then [] else [(first + i, x)]
      | none => []
    here ++ laneEntries p mask i (first + b.length) bs

/-- The listed entries of a source by sub-lane, each in arrival order: of the sub-lanes' lists, or of the captured values. A peer
list shows no sub-lanes: it is one, in its own order (log entry 75). -/
def Source.groups (r : Source) (p : SelParams) (mask : Nat) (deep : Bool) : List (List (Nat × Word)) :=
  if r.peer then r.lanes.map (·.top)
  else if deep then (List.range 64).map fun i => laneEntries p mask i r.base r.beats
  else r.lanes.map fun l => l.top.foldl (fun a e => insertBy Prod.fst e a) []

/-- The sum over candidates in the canonical order of R311. -/
def selectedSum (p : SelParams) (mask : Nat) (deep : Bool) (ss : List Source) (cand : List (Nat × Word)) : PSum :=
  (sourceOrder ss).foldl (fun a r => a.combine ((r.groups p mask deep).foldl (fun b l =>
    b.combine ((l.filter cand.contains).foldl (fun c e => c.add e.2) {})) {})) {}

/-- The valid entries of a source (R319); those that a full peer list does not show are free (log entry 75). -/
def Source.validCount (r : Source) (p : SelParams) : Nat :=
  let n := (r.lanes.map (·.valid)).sum
  let hidden := (r.lanes.map (·.tie)).sum
  if !r.peer || decide (n < p.kSend) then n
  else min r.count (n + hidden + Config.peerUnlisted r.src (r.lanes.flatMap (·.top)))

/-- Entries with value v outside a top-k list: those of the list and the hidden ones (R320). -/
def tiesOutside (list : List (Nat × Word)) (k : Nat) (hidden : List (Word × Nat)) (v : Word) : Nat :=
  ((list.drop k).filter (·.2 == v)).length + ((hidden.filter (·.1 == v)).map Prod.snd).sum

/-- What closing hands to the choice. -/
structure Closed where
  list : List (Nat × Word) := []
  hidden : List (Word × Nat) := []
  alw : PSum := {}
  msk : PSum := {}
  sel : PSum := {}
  nan : Nat := 0
  valid : Nat := 0
  race : Option (Word × Nat) := none
  raceX : Word := 0
  deriving DecidableEq, Repr

/-- The ties outside the top-k list of a unit (R320): none on the race path. -/
def Closed.tiesOut (c : Closed) (p : SelParams) : Nat :=
  if p.path = 3 then 0
  else tiesOutside c.list (p.kEff c.valid) c.hidden ((((c.list.take (p.kEff c.valid)).getLast?).map Prod.snd).getD 0)

/-- Whether the candidates are every valid entry (R328). -/
def Closed.whole (c : Closed) (p : SelParams) : Bool :=
  p.path == 3 || (candidates p c.alw (c.list.take (p.kEff c.valid))).length == c.valid

/-- Whether the deep path drops an entry beyond the first 1,024 that R321 would keep (R322): the best of them has the value of the
last kept one when ties lie outside, or is listed, or lies in a peer's range (log entry 75). -/
def Closed.capped (c : Closed) (p : SelParams) (ties : Nat) : Bool :=
  let top := c.list.take 1024
  let same := top ++ [(0, ((top.getLast?).map Prod.snd).getD 0)]
  p.path == 2 && p.topK == 0 && c.alw.inf == 0 && decide (1024 < c.valid) &&
    (if ties ≠ 0 then decide (1024 < (keepBoth p c.alw.lse same).length)
     else if 1024 < c.list.length then decide (1024 < (keepBoth p c.alw.lse c.list).length)
     else decide (1024 < (keepBoth p c.alw.lse same).length) && Config.peerNextKept c.list)

/-- The result of a unit that has a valid entry (Table 8.7): for the token that the path draws, or for one that a round chose. -/
def chooseToken (p : SelParams) (stream step node : Nat) (c : Closed) (fl : ResFlags)
    (chosen : Option (Nat × Word) := none) : Result :=
  let path := p.path
  let k := p.kEff c.valid
  let top := c.list.take k
  let cand := candidates p c.alw top
  let count := if path = 3 then (if c.alw.inf ≠ 0 then c.alw.inf else c.valid) else cand.length
  let all := c.alw.combine c.msk
  let out := c.tiesOut p
  let pick := match path with
    | 0 => c.list.head?
    | 3 => match c.race with
      | some r => some (r.2, c.raceX)
      | none => drawToken p.seed step node cand
    | _ => drawToken p.seed step node cand
  let tok := (chosen.or pick).getD (0xFFFFFFFF, F32.negInf)
  let lseA := c.alw.lse
  let lseSel := if c.alw.inf ≠ 0 then F32.posInf else c.sel.lse
  let left := if path = 3 then 0
    else if c.alw.inf ≠ 0 then F32.ofQuot (c.alw.inf - cand.length) c.alw.inf
    else if c.whole p then 0 else F32.negExpm1 lseSel lseA
  { token := tok.1, step := step, stream := stream, node := node, path := path
    flags := ({ fl with
      tieCut := out != 0, infAllowed := c.alw.inf != 0, infAll := all.inf != 0
      lowPrecision := F32.mag left != 0 && F32.lt left 0x3A800000, cap := c.capped p out } : ResFlags).bits
    lnpAllowed := lnProb tok.2 c.alw, lnpUncon := lnProb tok.2 all
    lseAll := all.lse, lseAllowed := lseA, lseSelected := lseSel, leftOut := left
    kValid := min k c.valid, tieExcluded := min out 65535, nanCount := c.nan, candCount := count
    list := c.list.take 64 }

/-- A peer partial list (Table 8.10). -/
def peerListBytes (p : SelParams) (stream step node base count : Nat) (c : Closed) : List Byte :=
  let k := p.kSend
  let es := c.list.take k
  let lastV := ((es.getLast?).map Prod.snd).getD 0
  let w := fun (x : Word) => leBytes 4 x.toNat
  let head := leBytes 2 stream ++ leBytes 1 node ++ [0] ++ leBytes 4 step ++ leBytes 4 base ++ leBytes 4 count ++
    leBytes 2 es.length ++ leBytes 2 0 ++ leBytes 4 c.nan ++ w c.alw.m ++ leBytes 8 c.alw.s ++ w c.msk.m ++ leBytes 8 c.msk.s ++
    leBytes 4 c.alw.inf ++ leBytes 4 c.msk.inf ++ w ((c.race.map Prod.fst).getD F32.negInf) ++
    leBytes 4 ((c.race.map Prod.snd).getD 0xFFFFFFFF) ++
    leBytes 4 (if es.isEmpty then 0 else tiesOutside c.list k c.hidden lastV)
  head ++ leBytes 4 (crc32c head) ++ leBytes 8 0 ++ es.flatMap fun e => leBytes 4 e.1 ++ w e.2

/-- The source that a received partial list makes (R341). -/
def peerSource (src : Nat) (m : List Byte) : Source :=
  let w := fun o => (BitVec.ofNat 32 (getLE m o 4) : Word)
  let es := (groupsOf 8 ((m.drop 80).take (8 * getLE m 16 2))).map fun e => (getLE e 0 4, (BitVec.ofNat 32 (getLE e 4 4) : Word))
  { src := 32 + src, port := 0, peer := true, base := getLE m 8 4, count := getLE m 12 4, got := getLE m 12 4, whole := true
    lanes := [{ top := es, tie := getLE m 64 4, nan := getLE m 20 4, valid := es.length
                raceX := match es.find? (·.1 == getLE m 60 4) with
                  | some e => e.2
                  | none => if getLE m 48 4 ≠ 0 then F32.posInf else Config.peerRaceValue (getLE m 60 4) (w 56)
                alw := { m := w 24, s := getLE m 28 8, inf := getLE m 48 4 }
                msk := { m := w 36, s := getLE m 40 8, inf := getLE m 52 4 }
                race := if getLE m 60 4 = 0xFFFFFFFF then none else some (w 56, getLE m 60 4) }] }

/-! ## Results as bytes (Table 8.7, R336) -/

/-- The 64-byte step result record with n entries announced. -/
def resultBytes (r : Result) (n : Nat) : List Byte :=
  let w := fun (x : Word) => leBytes 4 x.toNat
  leBytes 4 r.token ++ leBytes 4 r.step ++ leBytes 2 r.stream ++ leBytes 1 r.node ++ leBytes 1 r.path ++ leBytes 4 r.flags ++
    w r.lnpAllowed ++ w r.lnpUncon ++ w r.lseAll ++ w r.lseAllowed ++ w r.lseSelected ++ w r.leftOut ++ leBytes 4 r.kValid ++
    leBytes 2 r.tieExcluded ++ leBytes 1 n ++ [0] ++ leBytes 4 r.nanCount ++ leBytes 4 r.candCount ++ leBytes 8 r.maskRef

/-- The record that 64 bytes spell. -/
def resultOfBytes (m : List Byte) : Result :=
  let w := fun o => (BitVec.ofNat 32 (getLE m o 4) : Word)
  { token := getLE m 0 4, step := getLE m 4 4, stream := getLE m 8 2 % 16384, node := getLE m 10 1, path := getLE m 11 1
    flags := getLE m 12 4, lnpAllowed := w 16, lnpUncon := w 20, lseAll := w 24, lseAllowed := w 28, lseSelected := w 32
    leftOut := w 36, kValid := getLE m 40 4, tieExcluded := getLE m 44 2, nanCount := getLE m 48 4, candCount := getLE m 52 4
    maskRef := getLE m 56 8 }

/-- The entries queued behind a record: the first n of the list, then idle entries (R336). -/
def resultEntries (r : Result) (n : Nat) : List Byte :=
  (List.range n).flatMap fun i => match r.list[i]? with
    | some e => leBytes 4 e.1 ++ leBytes 4 e.2.toNat
    | none => leBytes 4 0xFFFFFFFF ++ leBytes 4 0xFF800000

end Sys2Proof.Machine
end

