-- ==== Sys2Proof/Machine/Flags.lean ====
section
/-! DEFINITION. The flag words that the block computes: token egress flags (08 Table 8.9), the flags of an experience record
(10 Table 10.7), the state words of a stream (10 Table 10.4) and of the block (13 Table 13.10). -/

namespace Sys2Proof.Machine

/-- The flag bits of a token egress record (08 Table 8.9). -/
def tokenFlags (isEnd fail eos draft : Bool) : Nat := b2n isEnd + 2 * b2n fail + 4 * b2n eos + 8 * b2n draft

/-- Bits of the result flags that a record repeats (08 Table 8.8): MIRROR_MISMATCH is bit 5, FORCED_EOS bit 9. -/
def resultMirror (flags : Nat) : Bool := flags.testBit 5
def resultForced (flags : Nat) : Bool := flags.testBit 9

/-- FLAGS of an experience record (10 Table 10.7). `cut` is CUT_OFFSET of a stop match (05 R201). -/
def recordFlags (prompt draft eos ended forced mirror : Bool) (cut : Option Nat) : Nat :=
  2 * b2n prompt + 4 * b2n draft + 8 * b2n eos + 16 * b2n ended + 32 * b2n forced + 64 * b2n mirror +
    match cut with
    | some c => 128 + 256 * ((c - 1) % 256)
    | none => 0

/-- The state code of a stream (10 Table 10.4). -/
def StState.code : StState → Nat
  | .free => 0
  | .idle => 1
  | .running => 2
  | .deadEnd => 3
  | .stepFailed => 4
  | .ended => 5
  | .suspended => 6

/-- The state code that the block shows for an open stream: CLOSING once a STREAM_CLOSE is recorded. -/
def Stream.stateCode (x : Stream) : Nat := if x.closing then 7 else x.st.code

/-- The suspension cause of an enumeration entry (14 Table 14.7). -/
def SuspCause.code : SuspCause → Nat
  | .bySuspend => 0
  | .byZeroise => 1
  | .byStart => 2

/-- BLOCK_STATE of LTN_STATE (13 Table 13.10). -/
def BlkState.code : BlkState → Nat
  | .starting => 0
  | .ready => 1
  | .recovery => 2
  | .retain => 3
  | .off => 4
  | .pfHold => 5
  | .transition => 6

end Sys2Proof.Machine
end

