-- ==== Sys2Proof/Machine/Grammar.lean ====
section
/-! DEFINITION. Configuration sets, stepping, masks, Cupola entries and mask references (06 R216 to R256), as functions of
an automaton image and a vocabulary image. -/

namespace Sys2Proof.Machine

/-! ## Vocabulary kinds (06 R226) -/

def VocImage.isEos (v : VocImage) (t : Nat) : Bool := v.eos.contains t
def VocImage.isSpecial (v : VocImage) (t : Nat) : Bool := v.specials.any (·.1 == t)

/-- A text token: neither special nor an EOS id. -/
def VocImage.isText (v : VocImage) (t : Nat) : Bool := decide (t < v.v) && !v.isSpecial t && !v.isEos t

/-- The string of a token. -/
def VocImage.str (v : VocImage) (t : Nat) : List Byte := getN v.strings t

/-! ## Configuration sets -/

/-- Stacks of equal depth compared symbol by symbol from the top (R217). -/
def stkLt : List Nat → List Nat → Bool
  | a :: r, b :: t => decide (a < b) || (a == b && stkLt r t)
  | _, _ => false

/-- Canonical order: state, depth, contents (R217). -/
def Conf.before (c d : Conf) : Bool :=
  decide (c.q < d.q) || (c.q == d.q && (decide (c.stk.length < d.stk.length) ||
    (c.stk.length == d.stk.length && stkLt c.stk d.stk)))

/-- Inserts a configuration, dropping a duplicate. -/
def confInsert (c : Conf) : ConfSet → ConfSet
  | [] => [c]
  | d :: r => if c = d then d :: r else if c.before d then c :: d :: r else d :: confInsert c r

/-- Removes duplicates and sorts canonically. -/
def canonical (cs : List Conf) : ConfSet := cs.foldl (fun a c => confInsert c a) []

/-- The non-empty bottom prefixes of a stack, which is held top first. -/
def bottoms : List Nat → List (List Nat)
  | [] => []
  | x :: r => (x :: r) :: bottoms r

/-- The cell count (R218). -/
def cellCount (cs : ConfSet) : Nat := (cs.flatMap fun c => bottoms c.stk).eraseDups.length

/-- Removes configurations from the end until the cell count is at most 512. -/
def cutCells : Nat → ConfSet → ConfSet
  | 0, cs => cs
  | n + 1, cs => if cellCount cs ≤ 512 then cs else cutCells n cs.dropLast

/-- A set with the events of its limits: configurations dropped by each CONF_OVERFLOW, cell count of each STACK_OVERFLOW, and
the spilled states read, in order. -/
structure Stepped where
  set : ConfSet := []
  confDrops : List Nat := []
  cells : List Nat := []
  read : List Nat := []
  deriving DecidableEq, Repr, Inhabited

/-- Events and reads of one stepping after those of another. -/
def Stepped.after (n s : Stepped) : Stepped :=
  { set := n.set, confDrops := s.confDrops ++ n.confDrops, cells := s.cells ++ n.cells, read := s.read ++ n.read }

/-- The two limits, in order (R220). -/
def limitSet (cs : ConfSet) : Stepped :=
  let cells := cellCount cs
  let a := cutCells cs.length cs
  { set := a.take 4
    confDrops := if 4 < a.length then [a.length - 4] else []
    cells := if 512 < cells then [cells] else [] }

/-- Whether a transition applies to a configuration (R219). -/
def Trans.applies (t : Trans) (c : Conf) (b : Nat) : Bool :=
  t.byte == b && !((t.op == 2 || t.op == 3) && c.stk.isEmpty) && (t.topAny || c.stk.head? == some t.top)

/-- The successor by a transition that applies (Table 6.1). -/
def Trans.next (t : Trans) (c : Conf) : Conf :=
  { q := t.target
    stk := match t.op with
      | 0 => c.stk
      | 1 => t.sym :: c.stk
      | 2 => c.stk.tail
      | _ => t.sym :: c.stk.tail }

/-- The successors of one configuration in entry order. -/
def succs (img : AutImage) (c : Conf) (b : Nat) : List Conf :=
  ((getN img.states c.q).trans.filter (·.applies c b)).map (·.next c)

/-- One byte (R220). -/
def stepByte (img : AutImage) (cs : ConfSet) (b : Byte) : Stepped :=
  limitSet (canonical (cs.flatMap fun c => succs img c b.toNat))

/-- The spilled states that a step of a set reads. -/
def spillReads (a : Automaton) (cs : ConfSet) : List Nat :=
  if a.spilled then (cs.map (·.q)).filter (a.firstSpilled ≤ ·) else []

/-- Steps by bytes in order, collecting the events (R221). -/
def stepBytes (a : Automaton) (s : Stepped) (bs : List Byte) : Stepped :=
  bs.foldl (fun s b =>
    let n := stepByte a.img s.set b
    { n with read := spillReads a s.set }.after s) s

/-- Successors by a special token (R222). -/
def stepSpecial (img : AutImage) (cs : ConfSet) (t : Nat) : ConfSet :=
  canonical (cs.filterMap fun c =>
    ((getN img.states c.q).specials.find? (·.1 == t)).map fun e => { c with q := e.2 })

/-- Applies a token: EOS ids change nothing, special tokens use special edges, others their strings (R221 to R223). -/
def stepToken (a : Automaton) (v : VocImage) (s : Stepped) (t : Nat) : Stepped :=
  if v.isEos t then s
  else if v.isSpecial t then { s with set := stepSpecial a.img s.set t }
  else stepBytes a s (v.str t)

/-- The start set (R224). -/
def startSet (img : AutImage) : ConfSet := [{ q := img.start, stk := [] }]

/-! ## The mask of a set (R226) -/

/-- The class record of a state: without a record every text token is in class D. -/
def classOf (img : AutImage) (v : VocImage) (q : Nat) : ClassRec :=
  match (getN img.states q).cls with
  | some r => r
  | none => { a := 0, d := (List.range v.v).filter v.isText }

/-- Whether a token survives from one configuration. -/
def survives (a : Automaton) (v : VocImage) (c : Conf) (t : Nat) : Bool :=
  !(stepToken a v { set := [c] } t).set.isEmpty

/-- Whether the set allows EOS ids. -/
def eosAllowed (img : AutImage) (cs : ConfSet) : Bool := cs.any fun c => (getN img.states c.q).accept && c.stk.isEmpty

/-- The slot's EOS ids as a bitmap. -/
def eosMask (v : VocImage) : Nat := bitmapOf v.eos

/-- All ones below V (01 R31). -/
def allOnes (v : VocImage) : Nat := 2 ^ v.v - 1

/-- The mask of a configuration set, bit t for token t (R226). -/
def maskOf (a : Automaton) (v : VocImage) (cs : ConfSet) : Nat :=
  let perConf := cs.map fun c =>
    let r := classOf a.img v c.q
    r.a ||| bitmapOf (r.d.filter (survives a v c)) |||
      bitmapOf (((getN a.img.states c.q).specials.map Prod.fst).filter fun t => v.isSpecial t && !v.isEos t)
  let m := perConf.foldl (· ||| ·) 0
  (if eosAllowed a.img cs then m ||| eosMask v else m) &&& allOnes v

/-- The bytes of a mask: ceil(V / 1024) times 128 (R228). -/
def maskBytes (v : VocImage) (m : Nat) : List Byte := leBytes (ceilDiv v.v 1024 * 128) m

/-! ## Cupola entries (R242 to R244) -/

/-- The Cupola key of a configuration of automaton n. -/
def cupKey (n : Nat) (img : AutImage) (c : Conf) : CupKey :=
  { aut := n, q := c.q, syms := c.stk.take img.topDepth, exact := decide (c.stk.length < img.topDepth) }

/-- Whether a transition on this byte would look at the unknown part below an empty known part. -/
def Trans.asksUnknown (t : Trans) (c : Conf) (b : Nat) : Bool :=
  t.byte == b && c.stk.isEmpty && (t.op == 2 || t.op == 3 || !t.topAny)

/-- Known parts that are stepped: the branches, with the events and reads of their steps, and whether a branch reached into the
unknown part (R243). -/
structure Known where
  at_ : Stepped := {}
  asked : Bool := false
  deriving DecidableEq, Repr

/-- Steps known parts by a string. -/
def stepKnown (a : Automaton) (exact : Bool) (bs : List Byte) (k : Known) : Known :=
  bs.foldl (fun k b =>
    { at_ := stepBytes a k.at_ [b]
      asked := k.asked || (!exact && k.at_.set.any fun c => (getN a.img.states c.q).trans.any (·.asksUnknown c b.toNat)) }) k

/-- What a fill gives: the entry's class A and D', and the events and reads of its steps. -/
structure Filled where
  a : Nat := 0
  d : List Nat := []
  ev : Stepped := {}
  deriving DecidableEq, Repr

/-- The entry of a key: a surviving branch moves a token to A, a token that no branch keeps and that none left open is dropped
(R243). -/
def cupFill (a : Automaton) (v : VocImage) (k : CupKey) : Filled :=
  let r := classOf a.img v k.q
  let tested := r.d.map fun t => (t, stepKnown a k.exact (v.str t) { at_ := { set := [{ q := k.q, stk := k.syms }] } })
  let moved := (tested.filter fun x => !x.2.at_.set.isEmpty).map Prod.fst
  let kept := (tested.filter fun x => x.2.at_.set.isEmpty && x.2.asked).map Prod.fst
  let specials := ((getN a.img.states k.q).specials.map Prod.fst).filter fun t => !v.isEos t
  { a := r.a ||| bitmapOf moved ||| bitmapOf specials, d := kept
    ev := {
      confDrops := tested.flatMap fun x => x.2.at_.confDrops, cells := tested.flatMap fun x => x.2.at_.cells
      read := tested.flatMap fun x => x.2.at_.read } }

/-- Bytes of the compressed form of Table 6.5 for a bitmap and a list (log entry 35). -/
def recordBytes (v : Nat) (a : Nat) (d : List Nat) : Nat :=
  let blocks := ceilDiv v 1024
  let literal := (List.range blocks).filter fun i =>
    let n := min 1024 (v - 1024 * i)
    let w := bits a (1024 * i + n - 1) (1024 * i)
    w != 0 && w != 2 ^ n - 1
  roundUp (16 + roundUp (ceilDiv blocks 4) 16 + 128 * literal.length + 4 * d.length) 128

/-! ## Mask references (R252 to R256) -/

/-- A mask reference of Table 6.9. -/
def maskRef (aut slot kind tag body : Nat) : Nat := aut + slot * 64 + kind * 512 + tag * 2048 + body * 524288

/-- Whether a set goes inline: at most two configurations, every stack empty (R253). -/
def inlineSet (cs : ConfSet) : Bool := decide (1 ≤ cs.length) && decide (cs.length ≤ 2) && cs.all (·.stk.isEmpty)

/-- BODY of an inline set. -/
def inlineBody (cs : ConfSet) : Nat :=
  let q0 := (getN cs 0).q
  match cs with
  | [_, d] => 1 + q0 * 2 + d.q * 8388608
  | _ => q0 * 2

/-- The payload of the configuration entries (R256). -/
def confPayload (seq aut tag : Nat) (cs : ConfSet) : List Byte :=
  leBytes 6 seq ++ leBytes 1 aut ++ leBytes 1 tag ++ leBytes 1 cs.length ++ [0] ++
    cs.flatMap fun c => leBytes 4 c.q ++ leBytes 2 c.stk.length ++ c.stk.reverse.flatMap (leBytes 2)

/-- The 32-byte configuration entries of a set whose first entry has a sequence number (Table 6.10). -/
def confEntries (stream seq aut tag : Nat) (cs : ConfSet) : List (List Byte) :=
  let p := confPayload seq aut tag cs
  let n := ceilDiv p.length 24
  (List.range n).map fun i =>
    leBytes 4 0xFFFFFFFE ++ leBytes 2 stream ++ leBytes 1 i ++ leBytes 1 n ++ slice p (24 * i) 24

/-- The number of configuration entries of a set. -/
def confEntryCount (cs : ConfSet) : Nat := ceilDiv (confPayload 0 0 0 cs).length 24

/-- Reads configurations from payload bytes: n left to read (R256). -/
def readConfs : Nat → List Byte → Option (ConfSet × Nat)
  | 0, _ => some ([], 0)
  | n + 1, bs =>
    let d := getLE bs 4 2
    if bs.length < 6 + 2 * d then none
    else match readConfs n (bs.drop (6 + 2 * d)) with
      | none => none
      | some (cs, len) => some ({ q := getLE bs 0 4, stk := (leWords 2 ((bs.drop 6).take (2 * d))).reverse } :: cs, 6 + 2 * d + len)

end Sys2Proof.Machine
end

