-- ==== Sys2Proof/Machine/Images.lean ====
section
/-! DEFINITION. Vocabulary images (03 R113 to R127) and automaton images (06 R229 to R236): what their bytes describe and
when they are valid. -/

namespace Sys2Proof.Machine

/-! ## The pattern shared by the images (03 R113, R114) -/

/-- A section table entry. -/
structure Section where
  ofs : Nat := 0
  len : Nat := 0
  count : Nat := 0
  rest : Nat := 0
  deriving DecidableEq, Repr, Inhabited

/-- The eight section table entries of a header. -/
def sectionTable (img : List Byte) : List Section :=
  (List.range 8).map fun i =>
    let o := 112 + 16 * i
    { ofs := getLE img o 4, len := getLE img (o + 4) 4, count := getLE img (o + 8) 4, rest := getLE img (o + 12) 4 }

def sec (img : List Byte) (i : Nat) : Section := getN (sectionTable img) i

/-- The bytes of section i. -/
def secBytes (img : List Byte) (i : Nat) : List Byte := slice img (sec img i).ofs (sec img i).len

/-- Whether bytes [a, b) are all 0. -/
def zeros (bs : List Byte) (a b : Nat) : Bool := ((bs.drop a).take (b - a)).all (· == 0)

/-- Checks the sections against the content each must hold: consecutive from byte 256, each as short as its content
allows, padding 0, absent ones all 0; answers the end of the last. A section with no content is asked to be absent: for the string
bytes of a vocabulary, which Table 3.3 requires, the spec leaves that open (log entry 90). -/
def layoutGo (img : List Byte) : List Nat → Nat → Nat → Option Nat
  | [], _, at_ => some at_
  | c :: cs, i, at_ =>
    let e := sec img i
    if c = 0 then (if e = {} then layoutGo img cs (i + 1) at_ else none)
    else if e.ofs = at_ ∧ e.len = roundUp c 128 ∧ e.rest = 0 ∧ zeros img (at_ + c) (at_ + e.len) then
      layoutGo img cs (i + 1) (at_ + e.len)
    else none

/-- The layout rule of an image whose eight sections have these content lengths. -/
def layoutOk (img : List Byte) (contents : List Nat) : Bool := layoutGo img contents 0 256 == some (getLE img 8 4)

/-- DIGEST of a header. -/
def imgDigest (img : List Byte) : List Byte := slice img 16 32

/-- SHA-256 of the image with bytes 16 to 47 omitted. -/
def computedDigest (img : List Byte) : List Byte := sha256 (img.take 16 ++ img.drop 48)

/-- MAGIC, VERSION at most a bound, HEADER_LEN, IMAGE_LEN. -/
def headerOk (img : List Byte) (magic maxVersion len : Nat) : Bool :=
  getLE img 0 4 == magic && decide (1 ≤ getLE img 4 2) && decide (getLE img 4 2 ≤ maxVersion) && getLE img 6 2 == 256 &&
    getLE img 8 4 == len

/-! ## Tries (03 R123 to R125) -/

/-- A trie node of Table 3.4. -/
def trieNode (byte : Nat) (token : Option Nat) (children first : Nat) : Nat :=
  byte + (match token with | some t => 256 + t * 262144 | none => 0) +
    (if children = 0 then 0 else 512 + (children - 1) * 1024 + first * 68719476736)

/-- Strings that share a prefix: the byte on the edge, and what is left of each with its token. -/
structure Group256 where
  byte : Nat
  strs : List (List Byte × Nat)
  deriving DecidableEq, Repr

/-- The children of a node, ascending by byte. -/
def childGroups (g : Group256) : List Group256 :=
  (List.range 256).filterMap fun b =>
    let sub := g.strs.filterMap fun s => match s.1 with
      | c :: r => if c.toNat = b then some (r, s.2) else none
      | [] => none
    if sub.isEmpty then none else some { byte := b, strs := sub }

/-- The token whose string ends at a node. -/
def groupToken (g : Group256) : Option Nat := (g.strs.find? (·.1.isEmpty)).map Prod.snd

/-- The nodes of one level; the first child of the level has index `next`. -/
def levelNodes : List Group256 → Nat → List Nat
  | [], _ => []
  | g :: gs, next =>
    let n := (childGroups g).length
    trieNode g.byte (groupToken g) n next :: levelNodes gs (next + n)

/-- The nodes from a level on, breadth first; the level starts at index `at_`. -/
def trieLevels : Nat → List Group256 → Nat → List Nat
  | 0, _, _ => []
  | _, [], _ => []
  | n + 1, gs, at_ => levelNodes gs (at_ + gs.length) ++ trieLevels n (gs.flatMap childGroups) (at_ + gs.length)

/-- The trie of a list of strings with their tokens. -/
def buildTrie (strs : List (List Byte × Nat)) : List Nat :=
  trieLevels (strs.foldl (fun m s => max m s.1.length) 0 + 1) [{ byte := 0, strs := strs }] 0

namespace Trie

def token (n : Nat) : Nat := bits n 35 18
def terminal (n : Nat) : Bool := n.testBit 8
def first (n : Nat) : Nat := bits n 59 36
def count (n : Nat) : Nat := if n.testBit 9 then bits n 17 10 + 1 else 0

/-- The child of node i with a byte. -/
def child (t : List Nat) (i : Nat) (b : Byte) : Option Nat :=
  let n := getN t i
  ((List.range (count n)).map (first n + ·)).find? fun j => getN t j % 256 == b.toNat

/-- Walks bytes from a node and answers the longest prefix that ends a token: its length and token. `done` bytes were
walked; a token of length 0 does not count. -/
def longest (t : List Nat) : List Byte → Nat → Nat → Option (Nat × Nat) → Option (Nat × Nat)
  | [], _, _, best => best
  | b :: bs, i, done, best =>
    match child t i b with
    | none => best
    | some j => longest t bs j (done + 1) (if terminal (getN t j) then some (done + 1, token (getN t j)) else best)

/-- The node a walk over bytes reaches. -/
def walk (t : List Nat) : List Byte → Nat → Option Nat
  | [], i => some i
  | b :: bs, i => match child t i b with
    | none => none
    | some j => walk t bs j

end Trie

/-! ## Merge-rank table (03 R120 to R122) -/

/-- An empty bucket. -/
def emptyBucket : Nat := 0xFFFFFFFFFFFFFFFF

/-- The number of buckets for a number of rules. -/
def bucketCount (rules : Nat) : Nat := roundUp (ceilDiv (8 * rules) 7) 16

/-- The home bucket of a pair (R121). -/
def homeBucket (left right b : Nat) : Nat :=
  ((left * 0x9E3779B1 + right * 0x85EBCA6B) % 4294967296) * b / 4294967296

def bucketOf (left right rank : Nat) : Nat := left + right * 262144 + rank * 68719476736

/-- The first bucket at or after i, in probe order, that is empty or holds the pair; the fuel bounds the probe. -/
def probe (bs : List Nat) (left right : Nat) : Nat → Nat → Nat
  | 0, i => i
  | n + 1, i =>
    let x := getN bs i
    if x = emptyBucket ∨ (bits x 17 0 = left ∧ bits x 35 18 = right) then i
    else probe bs left right n ((i + 1) % bs.length)

/-- Looks up a pair: its rank, and how many buckets were probed past the home one (R121). -/
def lookupRank (bs : List Nat) (left right : Nat) : Option Nat :=
  if bs.isEmpty then none
  else
    let x := getN bs (probe bs left right bs.length (homeBucket left right bs.length))
    if x ≠ emptyBucket ∧ bits x 17 0 = left ∧ bits x 35 18 = right then some (bits x 53 36) else none

/-- Inserts a rule (R121). -/
def insertRule (bs : List Nat) (r : Nat × Nat × Nat) : List Nat :=
  setAt bs (probe bs r.2.1 r.2.2 bs.length (homeBucket r.2.1 r.2.2 bs.length)) (bucketOf r.2.1 r.2.2 r.1)

/-- The rules that buckets hold, in rank order: (rank, left, right). -/
def rulesOf (bs : List Nat) : List (Nat × Nat × Nat) :=
  (bs.filter (· != emptyBucket)).foldl (fun l x => insertBy Prod.fst (bits x 53 36, bits x 17 0, bits x 35 18) l) []

/-! ## Vocabulary images -/

/-- Reads a vocabulary image (Table 3.2, Table 3.3). -/
def parseVoc (img : List Byte) : VocImage :=
  let v1 := getLE img 4 2 == 1
  let v := getLE img 48 4
  let ofs := leWords 4 ((secBytes img 0).take (4 * (v + 1)))
  let strs := secBytes img 1
  let strings := (List.range v).map fun i => slice strs (getN ofs i) (getN ofs (i + 1) - getN ofs i)
  let specials := (groupsOf 8 ((secBytes img 2).take (8 * (sec img 2).count))).map fun e => (getLE e 0 4, getLE e 4 4)
  let isSp := fun t => specials.any (·.1 == t)
  let plain := ((List.range v).filter (!isSp ·)).map fun i => (getN strings i, i)
  let b := (sec img 3).count
  let mc := getLE img 56 4
  { v := v, byteBase := getLE img 52 4, isV1 := v1, mergeCount := mc,
    eos := leWords 4 (slice img 64 (4 * (getN img 60).toNat)),
    cont := if v1 then [] else slice img 96 (getN img 61).toNat,
    defMr := if v1 then 0xFF else getLE img 104 1, defLm := if v1 then 0xFF else getLE img 105 1,
    defByte := if v1 then 0xFF else getLE img 106 1,
    maxTokenLen := getLE img 108 4, strings := strings, specials := specials,
    buckets := leWords 8 ((secBytes img 3).take (8 * b)),
    results := leWords 4 (((secBytes img 3).drop (8 * b)).take (4 * mc)),
    hasLm := decide (0 < (sec img 4).len), lmTrie := leWords 8 ((secBytes img 4).take (8 * (sec img 4).count)),
    maskTrie := if v1 then buildTrie plain else leWords 8 ((secBytes img 5).take (8 * (sec img 5).count)),
    digest := imgDigest img,
    sLen := 256 + (sec img 0).len + (sec img 1).len + (sec img 2).len,
    lLen := if v1 then (sec img 3).len + roundUp (8 * (buildTrie plain).length) 128
      else (sec img 3).len + (sec img 4).len + (sec img 5).len }

/-- Check 3 of Table 3.5. -/
def vocHeaderOk (img : List Byte) (len : Nat) : Bool :=
  headerOk img 0x4356594E 2 len && decide (1 ≤ getLE img 48 4) &&
    decide (getLE img 48 4 ≤ if getLE img 4 2 = 1 then 131072 else 262144)

/-- S and the L of check 4 of Table 3.5, read from the header. -/
def vocLens (img : List Byte) : Nat × Nat :=
  (256 + (sec img 0).len + (sec img 1).len + (sec img 2).len,
   if getLE img 4 2 = 1 then (sec img 3).len + roundUp (8 * (1 + (sec img 1).count)) 128
   else (sec img 3).len + (sec img 4).len + (sec img 5).len)

/-- R115 to R119. Without a non-special token no string is the longest: every MAX_TOKEN_LEN from 1 to 256 passes (log entry 91). -/
def vocStringsOk (img : List Byte) (p : VocImage) : Bool :=
  let ofs := leWords 4 ((secBytes img 0).take (4 * (p.v + 1)))
  let plain := (List.range p.v).filter (!p.isSpecial ·)
  let strs := plain.map p.str
  getN ofs 0 == 0 && getN ofs p.v == (sec img 1).count &&
  (List.range p.v).all (fun i => decide (getN ofs i ≤ getN ofs (i + 1))) &&
  strs.all (fun s => decide (1 ≤ s.length) && decide (s.length ≤ p.maxTokenLen)) &&
  decide (1 ≤ p.maxTokenLen) && decide (p.maxTokenLen ≤ 256) &&
  (strs.isEmpty || strs.any (·.length == p.maxTokenLen)) &&
  strs.eraseDups.length == strs.length &&
  p.specials.all (fun e => decide (e.1 < p.v) && decide (e.2 < 4) && decide ((p.str e.1).length ≤ 256) &&
    ((p.str e.1).length != 0 || e.2.testBit 1)) &&
  risingNat (p.specials.map Prod.fst) &&
  decide (p.specials.length ≤ if p.isV1 then 256 else 1024) &&
  (p.byteBase == 0xFFFFFFFF || (decide (p.byteBase + 255 < p.v) && (List.range 256).all fun b =>
    !p.isSpecial (p.byteBase + b) && p.str (p.byteBase + b) == [BitVec.ofNat 8 b])) &&
  decide (p.eos.length ≤ 8) && p.eos.all (fun t => decide (t < p.v)) && p.eos.eraseDups.length == p.eos.length &&
  zeros img (64 + 4 * p.eos.length) 96 &&
  (p.isV1 || (decide ((getN img 61).toNat ≤ 8) && zeros img (96 + (getN img 61).toNat) 104 && zeros img 107 108)) &&
  zeros img 12 16 && zeros img 62 64 && zeros img 240 256

/-- R120 to R122. -/
def vocMergeOk (p : VocImage) : Bool :=
  decide (p.mergeCount < p.v) && (p.mergeCount == 0 || (
    let rules := rulesOf p.buckets
    p.buckets.length == bucketCount p.mergeCount &&
    rules.map Prod.fst == List.range p.mergeCount &&
    rules.foldl insertRule (List.replicate p.buckets.length emptyBucket) == p.buckets &&
    (rules.map fun r => (r.2.1, r.2.2)).eraseDups.length == rules.length &&
    p.results.length == p.mergeCount &&
    rules.all fun r =>
      let t := getN p.results r.1
      decide (r.2.1 < p.v) && decide (r.2.2 < p.v) && decide (t < p.v) &&
      !p.isSpecial r.2.1 && !p.isSpecial r.2.2 && !p.isSpecial t && p.str t == p.str r.2.1 ++ p.str r.2.2))

/-- R123 to R125: the mask trie is the trie of all non-special strings, the longest-match trie that of some of them. -/
def vocTriesOk (p : VocImage) : Bool :=
  let plain := ((List.range p.v).filter (!p.isSpecial ·)).map fun i => (p.str i, i)
  p.maskTrie == buildTrie plain &&
  (!p.hasLm || (
    let toks := (p.lmTrie.filter Trie.terminal).map Trie.token
    toks.all (fun t => decide (t < p.v) && !p.isSpecial t) && p.lmTrie == buildTrie (plain.filter fun s => toks.contains s.2)))

/-- Check 7 of Table 3.5. -/
def vocBodyOk (img : List Byte) : Bool :=
  let p := parseVoc img
  layoutOk img [4 * (p.v + 1), (sec img 1).count, 8 * (sec img 2).count,
    if p.mergeCount = 0 then 0 else 8 * bucketCount p.mergeCount + 4 * p.mergeCount,
    8 * (sec img 4).count, 8 * (sec img 5).count, 0, 0] &&
  (sec img 0).count == p.v + 1 &&
  (p.mergeCount == 0 || (sec img 3).count == bucketCount p.mergeCount) &&
  (if p.isV1 then (sec img 4) == {} && (sec img 5) == {} else decide (0 < (sec img 5).count)) &&
  vocStringsOk img p && vocMergeOk p && vocTriesOk p

/-! ## Automaton images -/

/-- Check 4 of Table 6.6 but for VOCAB_SIZE. -/
def autHeaderOk (img : List Byte) (len : Nat) : Bool :=
  let pd := (getN img 48).toNat % 2
  let symbols := getLE img 64 4
  headerOk img 0x5541594E 1 len && decide ((getN img 49).toNat ≤ if pd = 1 then 8 else 0) &&
  decide (1 ≤ (getN img 50).toNat) && decide ((getN img 50).toNat ≤ 4) &&
  decide (1 ≤ getLE img 52 4) && decide (getLE img 52 4 ≤ 131072) && decide (getLE img 56 4 < getLE img 52 4) &&
  decide (getLE img 60 4 ≤ 16777216) &&
  (if pd = 1 then decide (1 ≤ symbols) && decide (symbols ≤ 65535) else symbols == 0)

/-- The footprint F (R234). -/
def autFootprint (img : List Byte) : Nat :=
  roundUp (32 * getLE img 52 4 + (sec img 2).len + (sec img 3).len) 128

/-- A transition entry of Table 6.4. -/
def parseTrans (n : Nat) : Trans :=
  { byte := bits n 7 0, op := bits n 9 8, topAny := n.testBit 10, top := bits n 26 11, sym := bits n 42 27,
    target := bits n 59 43 }

/-- The class record at an offset of section 2 for a vocabulary of v tokens (Table 6.5). -/
def parseClass (s2 : List Byte) (ofs v : Nat) : ClassRec :=
  let blocks := ceilDiv v 1024
  let map := leNat ((s2.drop (ofs + 16)).take (ceilDiv blocks 4))
  let lits := ofs + 16 + roundUp (ceilDiv blocks 4) 16
  let code := fun i => bits map (2 * i + 1) (2 * i)
  let litsBefore := fun i => ((List.range i).filter fun j => code j == 2).length
  let a := (List.range blocks).foldl (fun m i =>
    let w := if code i = 1 then 2 ^ (min 1024 (v - 1024 * i)) - 1
      else if code i = 2 then leNat ((s2.drop (lits + 128 * litsBefore i)).take 128) else 0
    m ||| w <<< (1024 * i)) 0
  { a := a, d := leWords 4 ((s2.drop (lits + 128 * litsBefore blocks)).take (4 * getLE s2 (ofs + 4) 4)) }

/-- The length of a class record without its padding, and whether its block map and reserved bytes are valid. -/
def classShape (s2 : List Byte) (ofs v : Nat) : Nat × Bool :=
  let blocks := ceilDiv v 1024
  let mapLen := roundUp (ceilDiv blocks 4) 16
  let map := leNat ((s2.drop (ofs + 16)).take mapLen)
  let codes := (List.range blocks).map fun i => bits map (2 * i + 1) (2 * i)
  (16 + mapLen + 128 * (codes.filter (· == 2)).length + 4 * getLE s2 (ofs + 4) 4,
   codes.all (· != 3) && decide (map < 4 ^ blocks) && zeros s2 (ofs + 8) (ofs + 16))

/-- State record q of section 0. -/
def stateRec (img : List Byte) (q : Nat) : List Byte := slice (secBytes img 0) (32 * q) 32

/-- Reads an automaton image for a vocabulary of v tokens (Table 6.2 to 6.5). -/
def parseAut (img : List Byte) (v : Nat) : AutImage :=
  let n := getLE img 52 4
  let s1 := secBytes img 1
  let s2 := secBytes img 2
  let s3 := secBytes img 3
  { pushdown := (getN img 48).toNat.testBit 0, topDepth := (getN img 49).toNat, maxConf := (getN img 50).toNat,
    start := getLE img 56 4, transCount := getLE img 60 4, digest := imgDigest img, recBytes := autFootprint img,
    states := (List.range n).map fun q =>
      let r := stateRec img q
      { trans := (leWords 8 (slice s1 (8 * getLE r 0 4) (8 * getLE r 4 2))).map parseTrans
        accept := (getN r 6).toNat.testBit 0
        cls := if getLE r 8 4 = 0xFFFFFFFF then none else some (parseClass s2 (getLE r 8 4) v)
        specials := (leWords 8 (slice s3 (8 * getLE r 16 4) (8 * getLE r 20 2))).map fun e => (bits e 17 0, bits e 34 18) }
    eager := (groupsOf 32 ((secBytes img 4).take (32 * (sec img 4).count))).map fun k =>
      { aut := 0, q := getLE k 0 4, syms := leWords 2 (slice k 8 (2 * (getN k 4).toNat)),
        exact := (getN k 5).toNat.testBit 0 } }

/-- Whether lists that start at FIRST and hold N entries are contiguous in state order up to a count (R230). -/
def contiguous (recs : List (List Byte)) (fo no total : Nat) : Bool :=
  recs.foldl (fun (at_ : Option Nat) r => match at_ with
    | some x => if getLE r fo 4 = x then some (x + getLE r no 2) else none
    | none => none) (some 0) == some total

/-- The record offsets that lie back to back from 0 (R232). -/
def recordsBackToBack (recs : List (Nat × Nat)) (len : Nat) : Bool :=
  recs.foldl (fun (at_ : Option Nat) r => match at_ with
    | some x => if r.1 = x then some (x + r.2) else none
    | none => none) (some 0) == some len

/-- R232 for the record at an offset with a CLASS_LEN. -/
def classOk (s2 : List Byte) (ofs len v : Nat) (voc : VocImage) (pushdown : Bool) : Bool :=
  let r := parseClass s2 ofs v
  let sh := classShape s2 ofs v
  ofs % 128 == 0 && len == roundUp sh.1 128 && decide (ofs + len ≤ s2.length) && sh.2 &&
  zeros s2 (ofs + sh.1) (ofs + len) && decide (r.a < 2 ^ v) &&
  getLE s2 ofs 4 == popCount r.a v && risingNat r.d && r.d.all (fun t => decide (t < v) && voc.isText t && !r.a.testBit t) &&
  (bitsOf r.a v).all voc.isText && (pushdown || r.d.isEmpty)

/-- Check 10 of Table 6.6: R229 to R233 and the rules of the class records; 0xFFFF is no stack symbol (R216). -/
def autBodyOk (img : List Byte) (voc : VocImage) : Bool :=
  let n := getLE img 52 4
  let v := getLE img 68 4
  let p := parseAut img v
  let recs := (List.range n).map (stateRec img)
  let s2 := secBytes img 2
  let raw := leWords 8 ((secBytes img 1).take (8 * p.transCount))
  let rawSp := leWords 8 ((secBytes img 3).take (8 * (sec img 3).count))
  let classes := ((recs.filter fun r => getLE r 8 4 != 0xFFFFFFFF).map fun r => (getLE r 8 4, getLE r 12 4)).eraseDups
  let sorted := classes.foldl (fun l c => insertBy Prod.fst c l) []
  layoutOk img [32 * n, 8 * p.transCount, (sec img 2).len, 8 * (sec img 3).count, 32 * (sec img 4).count, 0, 0, 0] &&
  (sec img 0).count == n && (sec img 1).count == p.transCount && decide ((getN img 48).toNat < 2) &&
  zeros img 12 16 && zeros img 51 52 && zeros img 104 112 && zeros img 240 256 &&
  recs.all (fun r => decide ((getN r 6).toNat < 2) && getLE r 7 1 == 0 && zeros r 22 32 &&
    (getLE r 8 4 != 0xFFFFFFFF || getLE r 12 4 == 0)) &&
  contiguous recs 0 4 p.transCount && contiguous recs 16 20 (sec img 3).count &&
  raw.all (fun e => decide (e < 2 ^ 60)) && rawSp.all (fun e => decide (e < 2 ^ 35)) &&
  sorted.length == classes.length && (sec img 2).count == classes.length && recordsBackToBack sorted (sec img 2).len &&
  classes.all (fun c => classOk s2 c.1 c.2 v voc p.pushdown) &&
  p.states.all (fun s =>
    s.trans.all (fun t => decide (t.target < n) && ((t.op == 1 || t.op == 3) || t.sym == 0) &&
      t.sym != 0xFFFF && (t.topAny || t.top != 0xFFFF) &&
      (p.pushdown || (t.op == 0 && t.topAny && t.top == 0 && t.sym == 0))) &&
    (List.range (s.trans.length - 1)).all (fun i => decide ((getN s.trans i).byte ≤ (getN s.trans (i + 1)).byte)) &&
    risingNat (s.specials.map Prod.fst) &&
    s.specials.all (fun e => voc.isSpecial e.1 && !voc.isEos e.1 && decide (e.2 < n))) &&
  (groupsOf 32 ((secBytes img 4).take (32 * (sec img 4).count))).all (fun k =>
    let d := (getN k 4).toNat
    decide (getLE k 0 4 < n) && decide (d ≤ p.topDepth) && decide ((getN k 5).toNat < 2) &&
    (!(getN k 5).toNat.testBit 0 || decide (d < p.topDepth)) && zeros k 6 8 && zeros k (8 + 2 * d) 32 &&
    (leWords 2 (slice k 8 (2 * d))).all (· != 0xFFFF))

/-- TRANS_N of the states, from the bytes of section 0. -/
def transCounts (s0 : List Byte) (n : Nat) : List Nat := (List.range n).map fun q => getLE s0 (32 * q + 4) 2

/-- The transition entries of states 0 to k - 1. -/
def transOf (ns : List Nat) (k : Nat) : Nat := (ns.take k).sum

/-- The largest state count whose entries fit (R236). -/
def firstSpilled (ns : List Nat) (free : Nat) : Nat :=
  ((List.range (ns.length + 1)).reverse.find? fun k => decide (transOf ns k ≤ free)).getD 0

/-- The spill area of states k and above: each list padded to 128 bytes (R236). -/
def spillBytes (img : List Byte) (k : Nat) : List Byte :=
  ((List.range (getLE img 52 4)).drop k).flatMap fun q =>
    let r := stateRec img q
    let n := 8 * getLE r 4 2
    slice (slice (secBytes img 1) (8 * getLE r 0 4) n) 0 (roundUp n 128)

/-- The spill size (R236). -/
def spillSize (ns : List Nat) (k : Nat) : Nat := roundUp ((ns.drop k).map fun n => roundUp (8 * n) 128).sum 4096

end Sys2Proof.Machine
end

