-- ==== Sys2Proof/Machine/Text.lean ====
section
/-! DEFINITION. UTF-8 (04 R147, 05 R184 to R188), the stop matcher and the holdback (05 R190 to R204). -/

namespace Sys2Proof.Machine

/-! ## UTF-8 -/

/-- Bytes that follow a lead byte; none for a byte that leads no character (04 R147, RFC 3629). -/
def utf8Follow (b : Byte) : Option Nat :=
  let n := b.toNat
  if n < 0x80 then some 0
  else if 0xC2 ≤ n ∧ n ≤ 0xDF then some 1
  else if 0xE0 ≤ n ∧ n ≤ 0xEF then some 2
  else if 0xF0 ≤ n ∧ n ≤ 0xF4 then some 3
  else none

def isCont (b : Byte) : Bool := 0x80 ≤ b.toNat ∧ b.toNat ≤ 0xBF

/-- Whether a second byte may follow a lead byte: no overlong form, no surrogate, nothing above U+10FFFF. -/
def utf8Second (lead b : Byte) : Bool :=
  isCont b && match lead.toNat with
    | 0xE0 => decide (0xA0 ≤ b.toNat)
    | 0xED => decide (b.toNat ≤ 0x9F)
    | 0xF0 => decide (0x90 ≤ b.toNat)
    | 0xF4 => decide (b.toNat ≤ 0x8F)
    | _ => true

/-- Whether bytes are consistent with the start of a well-formed character, of any length up to the whole. -/
def utf8Starts : List Byte → Bool
  | [] => false
  | b :: r => match utf8Follow b with
    | none => false
    | some n => decide (r.length ≤ n) && match r with
      | [] => true
      | c :: r' => utf8Second b c && r'.all isCont

/-- Whether bytes are exactly one well-formed character. -/
def utf8Char : List Byte → Bool
  | [] => false
  | b :: r => utf8Follow b == some r.length && utf8Starts (b :: r)

/-- The length of the well-formed character that begins a text; none when its first byte is invalid. -/
def charLen (bs : List Byte) : Option Nat :=
  match bs with
  | [] => none
  | b :: _ => match utf8Follow b with
    | none => none
    | some n => if utf8Char (bs.take (n + 1)) then some (n + 1) else none

/-- Decoding units: (bytes, whether well formed), in order; the fuel is the length. -/
def unitsGo : Nat → List Byte → List (List Byte × Bool)
  | 0, _ => []
  | _, [] => []
  | k + 1, b :: r => match charLen (b :: r) with
    | some n => ((b :: r).take n, true) :: unitsGo k ((b :: r).drop n)
    | none => ([b], false) :: unitsGo k r

def decodeUnits (bs : List Byte) : List (List Byte × Bool) := unitsGo bs.length bs

/-! ## The assembler -/

/-- What an invalid byte gives: U+FFFD or the byte itself (R186). -/
def invalidOut (raw : Bool) (b : Byte) : List Byte := if raw then [b] else [0xEF, 0xBF, 0xBD]

/-- Resolves a carry with one more byte: whole characters go out, a byte that begins no character is invalid, and decoding
starts again behind it (R185). -/
def asmGo (raw : Bool) : Nat → List Byte → List (List Byte) → List (List Byte) × List Byte
  | 0, c, out => (out, c)
  | n + 1, c, out =>
    if c.isEmpty then (out, [])
    else if utf8Char c then (out ++ [c], [])
    else if utf8Starts c then (out, c)
    else asmGo raw n c.tail (out ++ [invalidOut raw (c.headD 0)])

/-- Output units and the new carry. -/
def asmByte (raw : Bool) (carry : List Byte) (b : Byte) : List (List Byte) × List Byte := asmGo raw 5 (carry ++ [b]) []

/-- A carry resolved as invalid bytes (R204). -/
def resolveCarry (raw : Bool) (carry : List Byte) : List Byte := carry.flatMap (invalidOut raw)

/-! ## The stop matcher -/

/-- One output byte on the lanes (R196). -/
def stepLanes (ss : StopSet) (lanes : List Nat) (b : Byte) : List Nat :=
  let row := getN ss.rows (getN ss.classMap b.toNat)
  (List.range 8).map fun i => ((getN lanes i * 2 + 1) % 2 ^ 64) &&& getN row i

/-- The length of the match that is complete: the greatest of the lanes' (R196, R198). -/
def matchLen (ss : StopSet) (lanes : List Nat) : Option Nat :=
  let done := (List.range 8).filter fun i => getN ss.lens i != 0 && (getN lanes i).testBit (getN ss.lens i - 1)
  if done.isEmpty then none else some (done.foldl (fun m i => max m (getN ss.lens i)) 0)

/-- The number of bytes held (R196). -/
def holdLen (lanes : List Nat) : Nat := lanes.foldl (fun m d => if d = 0 then m else max m (d.log2 + 1)) 0

/-- What matching one output byte gives: new state, bytes released, whether a match completed. -/
def matchByte (ss : StopSet) (t : TextState) (b : Byte) : TextState × List Byte × Bool :=
  let lanes := stepLanes ss t.lanes b
  let held := t.hold ++ [b]
  match matchLen ss lanes with
  | some n => ({}, held.take (held.length - n), true)
  | none =>
    let h := holdLen lanes
    ({ t with lanes := lanes, hold := held.drop (held.length - h) }, held.take (held.length - h), false)

/-- Output bytes through the matcher, if a stop set is bound; stops at a match. -/
def matchBytes (ss : Option StopSet) : TextState → List Byte → List Byte → TextState × List Byte × Bool
  | t, [], rel => (t, rel, false)
  | t, b :: bs, rel => match ss with
    | none => matchBytes ss t bs (rel ++ [b])
    | some x =>
      let r := matchByte x t b
      if r.2.2 then (r.1, rel ++ r.2.1, true) else matchBytes ss r.1 bs (rel ++ r.2.1)

/-- What a token's string gives: new state, released bytes, and the bytes consumed when a stop string matched. -/
structure FeedRes where
  text : TextState := {}
  out : List Byte := []
  cut : Option Nat := none
  deriving DecidableEq, Repr

/-- A token's string bytes through the three stages (R182, R200, R201). -/
def feedGo (raw : Bool) (ss : Option StopSet) : List Byte → Nat → TextState → List Byte → FeedRes
  | [], _, t, rel => { text := t, out := rel }
  | b :: bs, n, t, rel =>
    let a := asmByte raw t.carry b
    let m := matchBytes ss { t with carry := a.2 } a.1.flatten []
    if m.2.2 then { text := {}, out := rel ++ m.2.1, cut := some (n + 1) }
    else feedGo raw ss bs (n + 1) m.1 (rel ++ m.2.1)

def feedString (raw : Bool) (ss : Option StopSet) (t : TextState) (bs : List Byte) : FeedRes := feedGo raw ss bs 0 t []

/-- What a token contributes (Table 5.1). -/
inductive TokText where
  | nothing
  | bytes (bs : List Byte)
  | eos
  | unknown
  deriving DecidableEq, Repr

/-- The text of an id in a slot, or of a byte id without a slot. -/
def tokText (voc : Option VocImage) (t : Nat) : TokText :=
  match voc with
  | none => if t < 256 then .bytes [BitVec.ofNat 8 t] else .unknown
  | some v =>
    if v.v ≤ t then .unknown
    else if v.isEos t then .eos
    else if v.specials.any (fun e => e.1 == t && e.2.testBit 1) then .nothing
    else .bytes (v.str t)

/-- The bytes that an end by EOS releases: the holdback, then the carry resolved as invalid bytes (R204). -/
def endText (raw : Bool) (t : TextState) : List Byte := t.hold ++ resolveCarry raw t.carry

/-! ## Stop-set images (R190, R191) -/

/-- Check 5 of Table 5.3. -/
def stopHeaderOk (img : List Byte) (len : Nat) : Bool :=
  let n := (getN img 12).toNat
  let c := (getN img 13).toNat
  getLE img 0 4 == 0x5453594E && getLE img 4 2 == 1 && getLE img 6 2 == 64 && getLE img 8 4 == len &&
    len == 832 + 64 * c && decide (1 ≤ n) && decide (n ≤ 8) && decide (2 ≤ c) && decide (c ≤ 244)

/-- The footprint F (R193). -/
def stopFootprint (img : List Byte) : Nat := roundUp (264 + 64 * (getN img 13).toNat) 128

/-- The strings of an image. -/
def stopStrings (img : List Byte) : List (List Byte) :=
  (List.range (getN img 12).toNat).map fun i => slice img (64 + 64 * i) (getN img (48 + i)).toNat

/-- Whether a string is well-formed UTF-8. -/
def utf8Ok (bs : List Byte) : Bool := (decodeUnits bs).all (·.2)

/-- The canonical image of a list of strings but for its digest (R190, R191). -/
def stopImage (strs : List (List Byte)) (digest : List Byte) : List Byte :=
  let present := (List.range 256).filter fun b => strs.any fun s => s.contains (BitVec.ofNat 8 b)
  let cls := fun b => if present.contains b then 1 + (present.filter (· < b)).length else 0
  let c := 1 + present.length
  let lane := fun (k i : Nat) => bitmapOf ((List.range (getN strs i).length).filter fun j => cls (getN (getN strs i) j).toNat == k)
  leBytes 4 0x5453594E ++ leBytes 2 1 ++ leBytes 2 64 ++ leBytes 4 (832 + 64 * c) ++ leBytes 1 strs.length ++ leBytes 1 c ++
    leBytes 2 0 ++ digest ++ (List.range 8).flatMap (fun i => leBytes 1 (getN strs i).length) ++ leBytes 8 0 ++
    (List.range 8).flatMap (fun i => slice (getN strs i) 0 64) ++ (List.range 256).flatMap (fun b => leBytes 1 (cls b)) ++
    (List.range c).flatMap fun k => (List.range 8).flatMap fun i => leBytes 8 (lane k i)

/-- Check 8 of Table 5.3: the image is the canonical one. -/
def stopCanonical (img : List Byte) : Bool :=
  let strs := stopStrings img
  strs.all (fun s => decide (1 ≤ s.length) && decide (s.length ≤ 64) && utf8Ok s) && strs.eraseDups.length == strs.length &&
    img == stopImage strs (imgDigest img)

/-- The matcher part of an image (R193). -/
def parseStop (img : List Byte) (owner id addr : Nat) : StopSet :=
  { owner := owner, id := id, st := .loaded, lens := (List.range 8).map fun i => (getN img (48 + i)).toNat,
    classMap := (slice img 576 256).map BitVec.toNat,
    rows := (groupsOf 64 (img.drop 832)).map (leWords 8), foot := stopFootprint img, digest := imgDigest img,
    addr := addr, len := img.length }

end Sys2Proof.Machine
end

