-- ==== Sys2Proof/Machine/Operands.lean ====
section
/-! DEFINITION. Operand forms. Of a Knalen instruction: general registers with g0 reading 0, byte-vector registers, local
memory and its regions, the stack, tables, the input (07 R264 to R270). Of a block command: the fields of its 64-byte entry
in format B (02 Table 2.8, Table 2.10), to which a format A entry is mapped (02 Table 2.11). -/

namespace Sys2Proof.Machine

/-! ## Turret registers -/

/-- g[r]; g0 reads 0 (07 R264). -/
def Core.rd (c : Core) (r : Nat) : DWord := if r = 0 then 0 else getN c.g r

/-- Writes g[r]; a write to g0 is discarded (07 R264). -/
def Core.wr (c : Core) (r : Nat) (x : DWord) : Core := if r = 0 then c else { c with g := setAt c.g r x }

/-- The 32 lanes of v[r]. -/
def Core.vrd (c : Core) (r : Nat) : List Byte := getN c.v r

def Core.vwr (c : Core) (r : Nat) (x : List Byte) : Core := { c with v := setAt c.v r x }

/-- The next index; pc has 12 bits. -/
def Core.advance (c : Core) : Core := { c with pc := (c.pc + 1) % 4096 }

/-- Sign and zero extension of an 18-bit immediate (07 R268). -/
def sext (imm : BitVec 18) : DWord := imm.signExtend 64
def zext (imm : BitVec 18) : DWord := imm.setWidth 64

/-- The target of a branch at an index: index + 1 + off, below 0 as a number that is above every CODE_COUNT (R268). -/
def branchTarget (pc : Nat) (off : BitVec 18) : Nat := (BitVec.ofNat 64 (pc + 1) + sext off).toNat

/-! ## Local memory (07 R265, Table 7.2) -/

/-- Roles of a program. -/
def roleEngine : Nat := 1
def rolePreSplit : Nat := 2

/-- Whether n bytes at an address lie wholly within one region that a role may use. -/
def localOk (role addr n : Nat) : Bool :=
  (decide (0x4000 ≤ addr) && decide (addr + n ≤ 0x6000)) ||
  (decide (0xF000 ≤ addr) && decide (addr + n ≤ 0x10000)) ||
  (role == roleEngine && decide (0x6000 ≤ addr) && decide (addr + n ≤ 0xF000))

/-- n bytes of local memory. -/
def Core.load (c : Core) (addr n : Nat) : List Byte := sgets 0 c.mem addr n

/-- Stores bytes; the listing keeps its canonical form. -/
def Core.store (c : Core) (addr : Nat) (bs : List Byte) : Core := { c with mem := sputs 0 c.mem addr bs }

/-- The local address a + sext(imm). -/
def effAddr (c : Core) (a : Nat) (imm : BitVec 18) : Nat := (c.rd a + sext imm).toNat

/-! ## Fields of a block command (02 Table 2.8, Table 2.10) -/

def Cmd.b (c : Cmd) (i : Nat) : Nat := (getN c.ent i).toNat
def Cmd.le (c : Cmd) (i n : Nat) : Nat := getLE c.ent i n
def Cmd.bit (c : Cmd) (i k : Nat) : Bool := (c.b i).testBit k
def Cmd.opcode (c : Cmd) : Nat := c.b 0
def Cmd.irq (c : Cmd) : Bool := c.bit 1 0
def Cmd.barrier (c : Cmd) : Bool := c.bit 1 1
def Cmd.owner (c : Cmd) : Nat := c.le 2 2 % 64
def Cmd.tag (c : Cmd) : Nat := c.le 4 4
def Cmd.stream (c : Cmd) : Nat := c.le 8 2 % 16384

/-- SLOT in byte 16, AUT in byte 16, and the other fields that several commands place alike. -/
def Cmd.slot16 (c : Cmd) : Nat := c.b 16 % 8
def Cmd.addr24 (c : Cmd) : Nat := c.le 24 8
def Cmd.len32 (c : Cmd) : Nat := c.le 32 4
def Cmd.outLen (c : Cmd) : Nat := c.le 36 4
def Cmd.outAddr (c : Cmd) : Nat := c.le 40 8
def Cmd.ownerWide (c : Cmd) : Bool := c.bit 16 0

/-- Which bits of each byte a format B command of an opcode uses; the rest are reserved (02 R83). Byte ranges are (first,
count, mask of the byte). -/
def fieldMask (op : Nat) : List (Nat × Nat × Nat) :=
  match op with
  | 0x01 => [(16, 1, 0x01)]
  | 0x02 => [(16, 4, 0xFF)]
  | 0x10 => [(16, 1, 0x07), (24, 12, 0xFF), (48, 16, 0xFF)]
  | 0x11 => [(16, 1, 0x07)]
  | 0x12 => [(16, 1, 0x3F), (17, 1, 0x07), (18, 1, 0x07), (24, 12, 0xFF), (40, 12, 0xFF)]
  | 0x13 => [(16, 1, 0x3F)]
  | 0x14 | 0x15 => [(16, 1, 0xFF), (17, 1, 0x01), (24, 12, 0xFF)]
  | 0x18 => [(24, 12, 0xFF)]
  | 0x20 => [(16, 1, 0x07), (17, 1, 0x3F), (18, 1, 0x0F), (19, 1, 0xFF), (20, 4, 0xFF), (24, 8, 0xFF), (32, 1, 0x3F),
      (34, 1, 0xFF), (35, 1, 0x01)]
  | 0x21 => [(16, 1, 0x3F), (18, 1, 0x07), (19, 1, 0xFF), (20, 1, 0xFF), (22, 1, 0xFF), (23, 1, 0x07), (24, 16, 0xFF),
      (40, 8, 0xFF),
      (48, 1, 0x7F)]
  | 0x22 => [(16, 1, 0x0F), (24, 12, 0xFF)]
  | 0x23 => [(16, 8, 0xFF)]
  | 0x24 => [(16, 4, 0xFF), (20, 1, 0x7F), (21, 1, 0x1F), (22, 1, 0x03), (24, 12, 0xFF)]
  | 0x25 => [(16, 1, 0x01)]
  | 0x28 => [(16, 1, 0x01), (20, 4, 0xFF)]
  | 0x29 => [(20, 8, 0xFF)]
  | 0x30 => [(16, 1, 0x07), (17, 1, 0x0F), (18, 1, 0xFF), (20, 28, 0xFF)]
  | 0x31 => [(16, 1, 0x07), (17, 1, 0x07), (19, 1, 0xFF), (24, 24, 0xFF)]
  | 0x38 => [(24, 12, 0xFF)]
  | 0x39 => [(24, 24, 0xFF)]
  | 0x41 | 0x42 | 0x43 => [(16, 1, 0x01)]
  | 0x44 => [(20, 12, 0xFF)]
  | 0x48 => [(16, 1, 0x3F), (17, 1, 0x01)]
  | _ => []

/-- The used bits of byte i. -/
def usedBits (op i : Nat) : Nat :=
  match (fieldMask op).find? fun r => decide (r.1 ≤ i) && decide (i < r.1 + r.2.1) with
  | some r => r.2.2
  | none => 0

/-- Whether every reserved bit of the header and payload is 0. -/
def reservedOk (c : Cmd) : Bool :=
  decide (c.b 1 < 4) && decide (c.le 2 2 < 64) && decide (c.le 8 2 < 16384) && zeros c.ent 10 16 &&
    ((List.range 48).all fun k => c.b (16 + k) &&& usedBits c.opcode (16 + k) == c.b (16 + k))

/-- What Table 2.9 says of an opcode: whether it has a stream, is privileged, is in the format A subset. -/
structure OpInfo where
  stream : Bool := false
  wide : Bool := false
  priv : Bool := false
  fmtA : Bool := false
  deriving DecidableEq, Repr

/-- Table 2.9; none for an opcode that is not in it. -/
def opInfo (op : Nat) : Option OpInfo :=
  match op with
  | 0x00 | 0x01 => some { fmtA := true }
  | 0x02 => some { priv := true }
  | 0x10 | 0x11 => some { priv := true, fmtA := true }
  | 0x12 | 0x13 => some { fmtA := true }
  | 0x14 | 0x18 | 0x19 => some { priv := true }
  | 0x15 | 0x29 | 0x38 | 0x39 | 0x40 => some {}
  | 0x20 | 0x22 | 0x23 | 0x25 => some { stream := true, fmtA := true }
  | 0x21 | 0x24 | 0x44 => some { stream := true }
  | 0x28 | 0x41 | 0x42 | 0x43 => some { stream := true, wide := true }
  | 0x30 | 0x31 | 0x48 => some { fmtA := true }
  | _ => none

/-- A format A entry as the format B entry that it stands for (02 R87, R88, Table 2.11). OUT_LEN of TOKENIZE and DETOKENIZE
is set when the input is known: 4 times the input bytes, 64 times TOKEN_COUNT. -/
def mapFormatA (owner : Nat) (a : List Byte) : List Byte :=
  let f := fun o n => slice a o n
  let hdr := f 0 1 ++ [BitVec.ofNat 8 (leNat (f 1 1))] ++ leBytes 2 owner ++ f 4 4 ++ f 2 2 ++ leBytes 6 0
  let z := fun n => List.replicate n (0 : Byte)
  let body : List Byte := match (getN a 0).toNat with
    | 0x01 | 0x11 | 0x13 | 0x25 => f 8 1
    | 0x10 => f 8 1 ++ z 7 ++ f 16 12
    | 0x12 => f 8 1 ++ f 9 1 ++ f 10 1 ++ z 5 ++ f 16 12
    | 0x20 => f 8 1 ++ f 9 1 ++ f 10 1 ++ z 1 ++ f 12 4 ++ f 16 8 ++ f 11 1 ++ z 1 ++ leBytes 2 0x1FF
    | 0x22 => f 8 1 ++ z 7 ++ f 16 12
    | 0x23 => f 8 4 ++ leBytes 4 0xFFFFFFFF
    | 0x30 => f 8 1 ++ f 9 1 ++ [0xFF] ++ z 1 ++ z 4 ++ f 16 8 ++ f 12 4 ++ z 4 ++ f 24 8
    | 0x31 => f 8 1 ++ f 9 1 ++ z 6 ++ f 16 8 ++ f 12 4 ++ z 4 ++ f 24 8
    | 0x48 => f 8 1 ++ f 9 1
    | _ => []
  slice (hdr ++ body) 0 64

/-- Bits of a format A entry that Table 2.11 uses, as (first, count, mask). -/
def fieldMaskA (op : Nat) : List (Nat × Nat × Nat) :=
  match op with
  | 0x01 | 0x25 => [(8, 1, 0x01)]
  | 0x10 => [(8, 1, 0x07), (16, 12, 0xFF)]
  | 0x11 => [(8, 1, 0x07)]
  | 0x12 => [(8, 1, 0x3F), (9, 1, 0x01), (10, 1, 0x07), (16, 12, 0xFF)]
  | 0x13 => [(8, 1, 0x3F)]
  | 0x20 => [(8, 1, 0x07), (9, 1, 0x3F), (10, 1, 0x05), (11, 1, 0x3F), (12, 12, 0xFF)]
  | 0x22 => [(8, 1, 0x0F), (16, 12, 0xFF)]
  | 0x23 => [(8, 4, 0xFF)]
  | 0x30 => [(8, 1, 0x07), (9, 1, 0x07), (12, 20, 0xFF)]
  | 0x31 => [(8, 1, 0x07), (9, 1, 0x03), (12, 20, 0xFF)]
  | 0x48 => [(8, 1, 0x3F), (9, 1, 0x01)]
  | _ => []

/-- Whether every reserved bit of a format A entry is 0 (02 R87, Table 2.11). -/
def reservedOkA (a : List Byte) : Bool :=
  let op := (getN a 0).toNat
  decide ((getN a 1).toNat < 2) && decide (getLE a 2 2 < 16384) && ((List.range 24).all fun k =>
    let m := match (fieldMaskA op).find? fun r => decide (r.1 ≤ 8 + k) && decide (8 + k < r.1 + r.2.1) with
      | some r => r.2.2
      | none => 0
    (getN a (8 + k)).toNat &&& m == (getN a (8 + k)).toNat)

end Sys2Proof.Machine
end

