-- ==== Sys2Proof/Machine/Records.lean ====
section
/-! DEFINITION. Egress queues (11), record and replay rings (10 R392 to R399, 12 R457), checkpoints (14 R517 to R520), what a
store acknowledgement does (15 R552), and the end of every meaning. -/

namespace Sys2Proof.Machine

/-- The physical turret that has an active number (07 R262). -/
def State.physOf (s : State) (home : Nat) : Nat := (s.tur.ts.findIdx? fun t => t.activeNo == some home).getD 0

/-- Raises an event of a stream's home turret. -/
def raiseHome (s : State) (x : Stream) (code step detail : Nat) : State :=
  raiseFrom s (s.physOf x.home) code x.id step detail

/-! ## Egress queues -/

/-- An egress record with its header and padding (11 Table 11.1). -/
def egressRecord (type : Nat) (boundary : Bool) (stream step aux : Nat) (payload : List Byte) : List Byte :=
  let len := 16 + roundUp payload.length 8
  slice (leBytes 1 type ++ leBytes 1 (b2n boundary) ++ leBytes 2 len ++ leBytes 2 stream ++ leBytes 2 payload.length ++
    leBytes 4 step ++ leBytes 4 aux ++ payload) 0 len

/-- The TEXT record, when there is text (R412). -/
def textRecord (boundary : Bool) (stream step : Nat) (text : List Byte) : List (List Byte) :=
  if text.isEmpty then [] else [egressRecord 1 boundary stream step 0 text]

def endRecord (stream step reason : Nat) : List Byte := egressRecord 2 false stream step reason []

/-- Bytes of a group. -/
def groupBytes (rs : List (List Byte)) : Nat := (rs.map List.length).sum

/-- FILL: published bytes not yet read, and reserved bytes (R419). -/
def EqQueue.fill (q : EqQueue) : Nat := groupBytes q.recs - q.partRead + (q.resv.map fun g => groupBytes g.records).sum

/-- FC_XOFF after a change of the queue (R423). -/
def EqQueue.flow (q : EqQueue) : EqQueue :=
  { q with xoff := q.xoffEn && (if q.high ≤ q.fill then true else if q.fill ≤ q.low then false else q.xoff) }

/-- A reservation, publication or read takes new watermarks first (R424). -/
def EqQueue.takeWm (q : EqQueue) : EqQueue :=
  match q.newWm with
  | some (h, l) => { q with high := h, low := l, newWm := none }
  | none => q

/-- Whether a stream's records go to its queue (R409). -/
def queueOwned (s : State) (x : Stream) : Bool := (s.queue x.queue).owner == x.owner

/-- Whether a stream holds a reservation in its queue. -/
def reserved (s : State) (x : Stream) : Bool := (s.queue x.queue).resv.any (·.stream == x.id)

/-- Whether a group may take room: the queue has it, and no stream waited longer (R419, R420). -/
def queueRoom (s : State) (x : Stream) (rs : List (List Byte)) : Bool :=
  let q := s.queue x.queue
  rs.isEmpty || !queueOwned s x || reserved s x ||
    (decide (q.fill + groupBytes rs ≤ 16384) && (q.waiters.headD x.id == x.id))

/-- The stream begins to wait for room: once per wait the event and the count (R419). -/
def queueWait (s : State) (x : Stream) (rs : List (List Byte)) : State :=
  if x.waitQueue then s
  else
    let s := s.onQueue x.queue fun q => { q with waiters := q.waiters ++ [x.id], waits := satAdd q.waits 1 65535 }
    raiseHome (s.onStream x.id fun y => { y with waitQueue := true }) x 0x0A01 x.next
      (x.queue + 65536 * groupBytes rs)

/-- Reserves a group's bytes. -/
def reserve (s : State) (x : Stream) (rs : List (List Byte)) : State :=
  if rs.isEmpty || !queueOwned s x || reserved s x then s
  else
    let s := s.onQueue x.queue fun q =>
      EqQueue.flow { q.takeWm with
        resv := q.resv ++ [{ stream := x.id, records := rs }], waiters := q.waiters.filter (· != x.id) }
    s.onStream x.id fun y => { y with waitQueue := false }

/-- Gives a stream's reservation and its place in the line of waiters back. -/
def releaseResv (s : State) (x : Stream) : State :=
  s.onQueue x.queue fun q =>
    EqQueue.flow { q with resv := q.resv.filter (·.stream != x.id), waiters := q.waiters.filter (· != x.id) }

/-- A stream waits for queue room no longer. -/
def endWait (s : State) (x : Stream) : State :=
  if (s.queue x.queue).waiters.contains x.id then
    (s.onQueue x.queue fun q => { q with waiters := q.waiters.filter (· != x.id) }).onStream x.id fun y => { y with waitQueue := false }
  else s

/-- Publishes a group (R414), or discards it when a poisoned word lost it (14 R514) or the queue belongs to another owner
(R409). -/
def publish (s : State) (x : Stream) (rs : List (List Byte)) : State :=
  let s := endWait s x
  if rs.isEmpty then s
  else if queueOwned s x then
    s.onQueue x.queue fun q =>
      let rs := if q.resv.any fun g => g.stream == x.id && g.lost then [] else rs
      EqQueue.flow { q.takeWm with
        resv := q.resv.filter (·.stream != x.id), recs := q.recs ++ rs, records := wrap32 (q.records + rs.length) }
  else
    let s := s.onEqs fun e => { e with ownerDrops := wrap32 (e.ownerDrops + rs.length) }
    if x.queueSaid then s
    else raiseHome (s.onStream x.id fun y => { y with queueSaid := true }) x 0x0A04 x.next (x.queue + 256 * x.owner)

/-- Puts a record on the token egress port (15 R546); while the block is fenced TE_VALID stays 0 (14 R530). -/
def emitToken (s : State) (stream step token flags : Nat) : State :=
  if s.lan.fenced then s else s.onFin fun f => { f with egress := f.egress ++ [{ stream := stream, step := step, token := token, flags := flags }] }

/-! ## Record and replay rings -/

/-- A ring of an owner: the record ring or the replay ring. -/
def OwnerPkr.ring (p : OwnerPkr) (replay : Bool) : OwnRing := if replay then p.rplRing else p.recRing

def State.onOwnRing (s : State) (o : Nat) (replay : Bool) (f : OwnRing → OwnRing) : State :=
  s.onOwnPkr o fun p => if replay then { p with rplRing := f p.rplRing } else { p with recRing := f p.recRing }

/-- Bytes of an entry, entries of a line, entries of a ring (R395, R254). -/
def entryBytes (replay : Bool) : Nat := if replay then 4 else 32
def perLine (replay : Bool) : Nat := 128 / entryBytes replay
def OwnRing.entries (r : OwnRing) (replay : Bool) : Nat := if r.sizeLog = 0 then 0 else 2 ^ r.sizeLog / entryBytes replay

/-- The checkpoint slot of a serial, when the stream's slots lie in the owner's area (14 R517). -/
def ckptSlot (s : State) (x : Stream) (serial : Nat) : Option Nat :=
  let p := s.ownPkr x.owner
  if p.ckLog = 0 ∨ 2 ^ p.ckLog < 8192 * x.id + 8192 then none
  else some (p.ckBase + 8192 * x.id + 4096 * (serial % 2))

/-- Streams that hold a floor in a ring: they write it and are checkpointed (R396). -/
def floorStreams (s : State) (o : Nat) (replay : Bool) : List Stream :=
  s.ctx.streams.filter fun x => x.owner == o && x.record == !replay && (ckptSlot s x 0).isSome

/-- The floor of a ring (R396). -/
def ringFloor (s : State) (o : Nat) (replay : Bool) : Nat :=
  match floorStreams s o replay with
  | [] => ((s.ownPkr o).ring replay).wseq
  | x :: r => r.foldl (fun m y => min m y.ckptSeq) x.ckptSeq

/-- The retain mark of a ring (R396). -/
def retainMark (s : State) (o : Nat) (replay : Bool) : Nat :=
  if replay then ringFloor s o replay else min (ringFloor s o replay) (s.ownPkr o).head

/-- Whether a ring has room for n more entries, those staged included (R396, R397). -/
def ringRoom (s : State) (o : Nat) (replay : Bool) (n : Nat) : Bool :=
  let r := (s.ownPkr o).ring replay
  !r.blocked && decide (r.next + n ≤ retainMark s o replay + r.entries replay)

/-- The write sequence number: the first entry of which no line write has completed. -/
def OwnRing.settleSeq (r : OwnRing) : OwnRing :=
  { r with wseq := ((r.staged.find? fun e => !e.acked).map Staged.seq).getD r.next }

/-- Entries of the lines that are full and written leave the staging. -/
def OwnRing.dropWritten (r : OwnRing) (replay : Bool) : OwnRing :=
  let per := perLine replay
  let lineDone := fun l => decide ((l + 1) * per ≤ r.next) && r.staged.all fun e => e.seq / per != l || e.acked
  OwnRing.settleSeq { r with staged := r.staged.filter fun e => !lineDone (e.seq / per) }

/-- Entries that no line write carries are given up (12 R462): they keep their numbers, the write sequence number moves past
them, and a later write of their line has zero plaintext in their places. -/
def OwnRing.discard (r : OwnRing) (replay : Bool) (lost : Staged → Bool) : OwnRing :=
  OwnRing.dropWritten { r with staged := r.staged.map fun e =>
    if (!e.issued && lost e) = true then { e with acked := true, issued := true, bytes := [] } else e } replay

/-- The entries of a line are written. -/
def OwnRing.markWritten (r : OwnRing) (replay : Bool) (line stop : Nat) : OwnRing :=
  let hit := fun e : Staged => if e.seq / perLine replay == line && decide (e.seq < stop) then { e with acked := true } else e
  OwnRing.dropWritten { r with staged := r.staged.map hit } replay

/-- The encrypted domains (12 Table 12.5). -/
def ringDomain (replay : Bool) : Nat := if replay then 2 else 1

/-- The key slot of an owner. -/
def State.key? (s : State) (o : Nat) : Option KeySlot := (s.lan.keys[o]?).join

/-- Counts entries that have been written (10 Table 10.13). -/
def countEntries (s : State) (replay : Bool) (es : List Staged) : State :=
  s.onPkr fun p =>
    if replay then { p with replays := wrap32 (p.replays + es.length) }
    else { p with
      records := wrap32 (p.records + (es.filter (·.isRec)).length)
      confEntries := wrap32 (p.confEntries + (es.filter (!·.isRec)).length) }

/-- Encrypts a line for an owner and queues its write. -/
def writeSecret (s : State) (who : Req) (key : List Byte) (addr domain owner : Nat) (line : List Byte) : State :=
  writeBytes (s.onCry fun c => { c with linesEnc := c.linesEnc + 1 }) who addr
    (xtsEncrypt key addr domain owner line)

/-- Whether byte i of a ring line is written: not where the 16-byte block of XTS that holds it has discarded entries only, which
keeps its earlier contents (12 R462; log entry 41). -/
def lineEnable (es : List Staged) (replay : Bool) (i : Nat) : Bool :=
  let n := entryBytes replay
  let gone := fun k => (es.find? fun e => e.seq % perLine replay == k).any fun e => e.acked && e.bytes.isEmpty
  !((List.range 16).all fun j => gone ((i / 16 * 16 + j) / n))

/-- Writes a ring line as far as it is filled, the rest as zero plaintext; without a key the line is discarded and its
entries keep their numbers (12 R457, R462). -/
def writeRingLine (s : State) (o : Nat) (replay : Bool) (line tries : Nat) : State :=
  let r := (s.ownPkr o).ring replay
  let es := r.staged.filter fun e => e.seq / perLine replay == line
  let stop := es.foldl (fun m e => max m (e.seq + 1)) 0
  if es.isEmpty then s
  else match s.key? o with
    | none =>
      (s.onCry fun c => { c with zeroDrops := wrap32 (c.zeroDrops + 1) }).onOwnRing o replay fun r =>
        r.discard replay fun e => e.seq / perLine replay == line
    | some k =>
      let bs := (List.range (perLine replay)).flatMap fun i =>
        slice (((es.find? fun e => e.seq == line * perLine replay + i).map Staged.bytes).getD []) 0 (entryBytes replay)
      let hit := fun e : Staged => if e.seq / perLine replay == line then { e with issued := true } else e
      let s := s.onOwnRing o replay fun r => { r with staged := r.staged.map hit }
      writeEnabled (s.onCry fun c => { c with linesEnc := c.linesEnc + 1 }) (.ringLine o replay stop tries)
        ((r.base + line * 128 % 2 ^ r.sizeLog) / 128)
        (xtsEncrypt k.key (r.base + line * 128 % 2 ^ r.sizeLog) (ringDomain replay) o bs) (lineEnable es replay)

/-- The lines that hold entries not yet issued. -/
def openLines (r : OwnRing) (replay : Bool) : List Nat :=
  ((r.staged.filter fun e => !e.issued).map fun e => e.seq / perLine replay).eraseDups

/-- Writes the full lines that hold new entries, or with `part` every line that does (R457). -/
def writeLines (s : State) (o : Nat) (replay part : Bool) : State :=
  let r := (s.ownPkr o).ring replay
  ((openLines r replay).filter fun l => part || decide ((l + 1) * perLine replay ≤ r.next)).foldl
    (fun s l => writeRingLine s o replay l 0) s

/-- Stages entries: they take the next sequence numbers, and full lines are written (10 R394, 12 R457). The model counts the
entries of a ring without a bound; every place that shows the count, or stores it, takes its 48 bits (06 R255, log entry 80). -/
def stage (s : State) (o : Nat) (replay : Bool) (es : List Staged) : State :=
  let r := (s.ownPkr o).ring replay
  let num := (List.range es.length).map fun i => { getN es i with seq := r.next + i }
  let s := s.onOwnRing o replay fun r => { r with next := r.next + es.length, staged := r.staged ++ num }
  writeLines s o replay false

/-- Writes the partly filled lines of a stream's ring (close, SUSPEND, checkpoint). -/
def writeStream (s : State) (x : Stream) : State := writeLines s x.owner (!x.record) true

/-- An experience record (10 Table 10.6). -/
def recordOf (x : Stream) (token step flags : Nat) (a u : Word) (ref : Nat) : List Byte :=
  leBytes 4 token ++ leBytes 2 x.id ++ leBytes 2 flags ++ leBytes 4 x.epoch ++ leBytes 4 a.toNat ++ leBytes 4 u.toNat ++
    leBytes 4 step ++ leBytes 8 ref

/-- A replay entry (10 R395 text). -/
def replayOf (x : Stream) (token : Nat) : List Byte := leBytes 4 (token % 262144 + x.id * 262144)

/-! ## Checkpoints -/

/-- n bytes of a free region. -/
def region (n : Nat) (f : Nat → Byte) : List Byte := (List.range n).map f

/-- The 4,096 bytes of a context at a token boundary, region by region; the holdback extension is unused there (10 Table 10.5,
R379, 14 R518). The identity region, the parameters, the commit block and the header of the mask descriptor have free layouts; the
order of the bytes of a bias pair and of an accepted id is presumed (log entry 11). -/
def contextBytes (c : CtxImage) : List Byte :=
  region 128 (Config.identityByte c.ident) ++ region 64 (Config.paramsByte c.params) ++ region 256 (Config.commitByte c.commit) ++
    List.replicate 192 0 ++ slice (c.bias.flatMap fun b => leBytes 4 b.1 ++ leBytes 4 b.2.toNat) 0 512 ++
    region 64 (Config.descByte c.desc) ++ slice (c.desc.ids.flatMap (leBytes 3)) 0 768 ++
    region 1056 (Config.savedSetByte c.stack0) ++ region 1056 (Config.savedSetByte c.stack1)

/-- A context as a checkpoint holds it (14 R518). -/
def ckptBytes (x : Stream) (serial seq : Nat) : List Byte :=
  let ctx := contextBytes x.image
  let head := leBytes 4 0x4B43594E ++ leBytes 2 x.id ++ leBytes 1 x.owner ++ [0] ++ leBytes 4 x.next ++ leBytes 4 serial ++
    leBytes 6 seq ++ leBytes 2 0 ++ leBytes 4 0
  let img := putBytes ctx 0x1C0 (slice head 0 192)
  putBytes img 0x1D8 (leBytes 4 (crc32c img))

/-- The commands that wait for a stream lose it from their list; a command whose list is empty completes when its own
conditions hold (`waitOver`). -/
def dropWait (s : State) (t id : Nat) : State := s.onCmd t fun c => { c with waits := c.waits.filter (· != id) }

/-- A CHECKPOINT command whose streams are all done completes (02 Table 2.12); one that no longer stands against its stream. -/
def ckptOver (s : State) (id bytes : Nat) : State :=
  (s.rng.cmds.filter fun c => c.opcode == 0x41 && c.phase == .recorded && c.waits.contains id).foldl (fun s c =>
    if ((s.stream? id).map fun x => x.recorded.contains c.ticket).getD false then s
    else
      let c' := { c with waits := c.waits.filter (· != id), n1 := c.n1 + bytes }
      let s := s.onCmd c.ticket fun _ => c'
      if c'.waits.isEmpty then complete s c' Status.ok.code 0 c'.n0 c'.n1 else s) s

/-- Takes a stream's checkpoint: 32 line writes in domain 0x03, or a missed one (14 R517, R518). -/
def takeCkpt (s : State) (x : Stream) : State :=
  let serial := x.ckptSerial + 1
  let seq := ((s.ownPkr x.owner).ring (!x.record)).next
  match ckptSlot s x serial with
  | none =>
    let s := s.onOwnPkr x.owner fun p => { p with skips := wrap32 (p.skips + 1) }
    ckptOver (s.onStream x.id fun y => { y with ckptDue := false, ckptSteps := 0, waitCkpt := false }) x.id 0
  | some addr =>
    let s := writeStream s x
    match s.key? x.owner with
    | none => ckptOver (s.onStream x.id fun y => { y with ckptDue := false, waitCkpt := false }) x.id 0
    | some k =>
      let img := ckptBytes x serial seq
      let s := s.onStream x.id fun y => { y with
        ckptSerial := serial, ckptSteps := 0, ckptDue := false, ckptPend := y.ckptPend ++ [(serial, seq, 32, false)]
        kept := ((serial, x.image) :: y.kept).take 2 }
      (List.range 32).foldl (fun s i =>
        writeSecret s (.ckptLine x.id serial) k.key (addr + 128 * i) 3 x.owner (slice img (128 * i) 128)) s

/-- A line write of a checkpoint ended (R518, R520); one taken before staging group 2 applied is not the one that the stream waits for, and
its SEQ names no entry of the new ring (10 R398). -/
def ckptAck (s : State) (id serial : Nat) (err : Bool) : State :=
  let ended := fun s : State =>
    if (s.fab.stores ++ s.fab.waiting).any fun r => r.who == .ckptLine id serial then s else ckptOver s id (if err then 0 else 4096)
  match s.stream? id with
  | none => ended s
  | some x => match x.ckptPend.find? (·.1 == serial) with
    | none => ended s
    | some p =>
      let fail := p.2.2.2 || err
      let rest := x.ckptPend.filter (·.1 != serial)
      let s := if err && !p.2.2.2 then raiseBy s .records 0x0804 id x.next (x.owner + serial * 4294967296) else s
      if p.2.2.1 ≠ 1 then
        s.onStream id fun y => { y with
          ckptPend := y.ckptPend.map fun q => if q.1 == serial then (q.1, q.2.1, q.2.2.1 - 1, fail) else q }
      else
        let s := if fail then s.onStream id fun y => { y with ckptPend := rest, ckptDue := true }
          else (s.onOwnPkr x.owner fun o => { o with ckpts := wrap32 (o.ckpts + 1) }).onStream id fun y => { y with
            ckptPend := rest, ckptDone := max y.ckptDone serial, waitCkpt := y.waitCkpt && decide (serial ≤ y.ckptFrom)
            ckptSeq := if y.ckptDone < serial ∧ y.ckptFrom < serial then p.2.1 else y.ckptSeq }
        if rest.isEmpty then ckptOver s id (if fail then 0 else 4096) else s

/-! ## Bulk jobs: the end (04 R145, R174) -/

/-- Whether a job's output writes are all acknowledged. -/
def jobQuiet (s : State) (t : Nat) : Bool :=
  let mine := fun r : FabReq => match r.who with | .jobLine u _ => u == t | _ => false
  !s.fab.stores.any mine && !s.fab.waiting.any mine

/-- The units of an ended job stand on no lane. -/
def clearUnits (s : State) (t : Nat) : State :=
  s.onTur fun x => { x with ts := x.ts.map fun u =>
    let mine := fun r : UnitRef => r.ticket == t && r.kind != 2 && r.kind != 3
    { u with lane := u.lane.filter fun r => !mine r, taken := if u.taken.any mine then none else u.taken } }

/-- Completes a job whose units are all written, or whose write failed, once no write is outstanding. -/
def jobEnd (s : State) (t : Nat) : State :=
  match s.job? t with
  | none => s
  | some j =>
    if !jobQuiet s t || j.reading || (j.errUnit.isNone && decide (j.nextUnit < j.units.length)) then s
    else
      let s := clearUnits (s.onJob fun js => { js with js := js.js.filter (·.ticket != t) }) t
      let s := s.onCup fun c => { c with longWait := c.longWait.filter (·.2 != t), longPiece := c.longPiece.filter (·.2 != t) }
      let e := match j.errUnit with
        | none => (j.d0, j.d1)
        | some u => getN j.starts u
      let s := if j.isPack then s.onPkr fun p => { p with mbs := wrap32 (p.mbs + e.1), tokens := p.tokens + e.2 } else s
      completeTicket s t (if j.errUnit.isSome then .fabricError else j.result) 0 e.1 e.2

/-- A write of a job's output ended. -/
def jobAck (s : State) (t item : Nat) (err : Bool) : State :=
  let s := if err then s.onJobOf t fun j => { j with errUnit := some (match j.errUnit with | some u => min u item | none => item) }
    else s
  jobEnd s t

/-! ## Acknowledgements -/

/-- Whether a line write that carries a mark of an EPOCH_REVOKE is not acknowledged (10 R389, R390). -/
def marksOut (s : State) (c : Cmd) : Bool :=
  (s.fab.stores ++ s.fab.waiting).any fun r => match r.who with
    | .markLine u _ _ => u == c.ticket
    | .ringLine o replay stop _ => o == c.owner && !replay && decide ((stop - 1) / 4 < c.stagedTo)
    | _ => false

/-- EPOCH_REVOKE completes once its streams have reverted and its lines are marked (10 R388). -/
def revokeEnd (s : State) (t : Nat) : State :=
  match s.cmd? t with
  | none => s
  | some c =>
    if c.opcode != 0x29 || c.phase != .recorded || !c.waits.isEmpty || marksOut s c then s
    else complete s c (if c.failed then Status.fabricError.code else Status.ok.code) 0 c.n0 c.n1

/-- The revokes of an owner that may have waited for a line. -/
def endRevokes (s : State) (o : Nat) : State :=
  ((s.rng.cmds.filter fun c => c.opcode == 0x29 && c.owner == o).map (·.ticket)).foldl revokeEnd s

/-- What a store's acknowledgement, or its error, does at the requester (15 R552). -/
def ackEffect (s : State) (r : FabReq) (err : Bool) : State :=
  match r.who with
  | .ringLine o replay stop tries =>
    let line := (stop - 1) / perLine replay
    if !err then
      let q := (s.ownPkr o).ring replay
      let new := q.staged.filter fun e => e.seq / perLine replay == line && decide (e.seq < stop) && !e.acked
      endRevokes ((countEntries s replay new).onOwnRing o replay fun q => q.markWritten replay line stop) o
    else if tries < 3 then
      if ((s.ownPkr o).ring replay).staged.any fun e => e.seq / perLine replay == line then writeRingLine s o replay line (tries + 1)
      else s.onFab fun f => { f with waiting := f.waiting ++ [{ r with tag := 0, who := .ringLine o replay stop (tries + 1) }] }
    else if ((s.ownPkr o).ring replay).blocked then endRevokes s o
    else endRevokes (raiseBy (s.onOwnRing o replay fun q => { q with blocked := true }) .records 0x0803 0 0 (o + 64 * b2n replay)) o
  | .ckptLine id serial => ckptAck s id serial err
  | .jobLine t item => jobAck s t item err
  | .enumLine => if err then s.onCtx fun c => { c with enumErr := true } else s
  | .spillLine t => if err then s.onCmd t fun c => { c with failed := true } else s
  | .markLine t _ marked =>
    let s := if err then s.onCmd t fun c => { c with failed := true }
      else (s.onCmd t fun c => { c with n0 := c.n0 + marked }).onPkr fun p =>
        { p with revokeMarks := wrap32 (p.revokeMarks + marked) }
    revokeEnd s t
  | _ => s

/-! ## The end of every meaning -/

/-- While the block is fenced every write that waits is answered with an error inside the block (14 R530); the fuel bounds
the retries of ring lines. -/
def fenceOut : Nat → State → State
  | 0, s => s
  | n + 1, s => match s.fab.waiting with
    | [] => s
    | r :: rest => fenceOut n (ackEffect (s.onFab fun f => { f with waiting := rest }) r true)

/-- Writes that may go are issued; a fenced block answers them. -/
def settle (s : State) : State :=
  if s.lan.fenced then fenceOut (8 * s.fab.waiting.length + 8) s else pumpWrites s

/-- The end of every meaning: writes are issued; the queue of commands and the configuration stay as they were. -/
def finish (s t : State) : Host.Outcome State Fault Refusal :=
  .next { settle t with pending := s.pending, variant := s.variant }

end Sys2Proof.Machine
end

