-- ==== Sys2Proof/Machine/Board.lean ====
section
/-! DEFINITION. The segment board (07 R294, R295): which units stand on its lanes. The units of a job are posted by its lead turret in
unit order (04 R165 to R168), those of a Cupola fill by the turret that makes the fill (06 R238, R245). -/

namespace Sys2Proof.Machine

/-! ## Units -/

/-- The kind of a job's units (07 Table 7.12): 0 TOKENIZE or PROMPT, 1 DETOKENIZE, 4 MASK_REPLAY; 2 and 3 are a lazy and an eager
Cupola fill. -/
def jobKind (op : Nat) : Nat := if op = 0x31 then 1 else if op = 0x39 then 4 else 0

/-- Descriptors that a lane holds at most (07 R294). -/
def laneSize : Nat := 64

/-- Takes units off every lane and from every turret that holds one: their work is done or given up. -/
def takeOff (s : State) (p : UnitRef → Bool) : State :=
  s.onTur fun t => { t with ts := t.ts.map fun u =>
    { u with lane := u.lane.filter fun r => !p r, taken := if u.taken.any p then none else u.taken } }

/-- Whether a unit is one of a job. -/
def UnitRef.ofJob (t : Nat) (u : UnitRef) : Bool := u.ticket == t && u.kind != 2 && u.kind != 3

/-- The lead turret posts the units of a job that R168 lets a turret take, in unit order, while its lane has room (04 R166, R168). -/
def postUnits (s : State) (t : Nat) : State :=
  match s.job? t with
  | none => s
  | some j =>
    let due := ((List.range (min (j.nextUnit + 64) j.units.length)).filter fun n =>
      decide (j.nextUnit ≤ n) && !(getN j.units n).posted).take (laneSize - (s.turret j.lead).lane.length)
    let s := if due.isEmpty then s else ungateCluster s (j.lead / 17)
    let s := s.onTurret j.lead fun u => { u with lane := u.lane ++ due.map fun n => { kind := j.kind, ticket := t, unit := n } }
    s.onJobOf t fun j => { j with units := due.foldl (fun us n => modAt us n fun u => { u with posted := true }) j.units }

/-- The turret that makes a Cupola fill posts its units while its lane has room; the others stay in `left`. -/
def postFill (s : State) (e : CupEntry) (kind : Nat) : State :=
  let now := e.left.take (laneSize - (s.turret e.poster).lane.length)
  let s := if now.isEmpty then s else ungateCluster s (e.poster / 17)
  let s := s.onTurret e.poster fun u => { u with lane := u.lane ++ now.map fun n => { kind := kind, ticket := e.fill, unit := n } }
  s.onCup fun c => { c with entries := c.entries.map fun x => if x.fill == e.fill && x.filling then { x with left := e.left.drop now.length } else x }

/-- A lane has room again: the turret posts on, its jobs first. -/
def repost (s : State) (p : Nat) : State :=
  let s := (s.job.js.filter (·.lead == p)).foldl (fun s j => postUnits s j.ticket) s
  (s.cup.entries.filter fun e => e.filling && e.poster == p && !e.left.isEmpty).foldl (fun s e => postFill s e (if e.eager then 3 else 2)) s

/-- A job is gone: its units, its place in the lines for the long-piece areas, its own record. -/
def dropJob (s : State) (t : Nat) : State :=
  let s := takeOff s (UnitRef.ofJob t)
  let s := s.onCup fun c => { c with longWait := c.longWait.filter (·.2 != t), longPiece := c.longPiece.filter (·.2 != t) }
  s.onJob fun js => { js with js := js.js.filter (·.ticket != t) }

end Sys2Proof.Machine
end

