-- ==== Sys2Proof/Machine/Cupola.lean ====
section
/-! DEFINITION. The Cupola: lookups, fills, eviction, pins, long-piece areas (06 R242 to R246, 04 R173), and the mask of a
configuration set as the entries give it (06 R247). -/

namespace Sys2Proof.Machine

/-- Bytes of a long-piece area (04 R173). -/
def longArea : Nat := 524288

/-- CUP_USED: entries and long-piece areas. -/
def cupUsed (s : State) : Nat := (s.cup.entries.map (·.bytes)).sum + longArea * s.cup.longPiece.length

/-- Whether an entry may be evicted (R246). -/
def CupEntry.evictable (e : CupEntry) : Bool := e.pins.isEmpty && !e.filling

/-- The entry to evict: the least recently used one, an eager one only when there is no other. -/
def victim (es : List CupEntry) : Option CupEntry :=
  let pick := fun l : List CupEntry => l.foldl (fun (b : Option CupEntry) e => match b with
    | some v => if e.used < v.used then some e else some v
    | none => some e) none
  (pick (es.filter fun e => e.evictable && !e.eager)).or (pick (es.filter fun e => e.evictable && e.eager))

/-- Makes room for a number of bytes, if eviction can; the fuel is the number of entries. -/
def cupRoom (n : Nat) : Nat → State → Option State
  | k, s =>
    if cupUsed s + n ≤ s.variant.cupolaBytes then some s
    else match k with
      | 0 => none
      | k + 1 => match victim s.cup.entries with
        | none => none
        | some v => cupRoom n k (s.onCup fun c => { c with
            entries := c.entries.filter (· != v), evictions := wrap32 (c.evictions + 1) })

/-- Makes room as `cupRoom` with fuel enough. -/
def makeRoom (s : State) (n : Nat) : Option State := cupRoom n s.cup.entries.length s

/-- Adds an entry, used now. -/
def addEntry (s : State) (e : CupEntry) : State :=
  s.onCup fun c => { c with entries := c.entries ++ [{ e with used := c.clock }], clock := c.clock + 1 }

/-- The entry of a key. -/
def State.cupEntry? (s : State) (k : CupKey) : Option CupEntry := s.cup.entries.find? (·.key == some k)

/-- The steal units of a fill: an eager key is one unit (R238); a lazy fill has one for each first byte of the mask trie when
D_COUNT of the state exceeds 4,096 or the state has no class record, else none (R245). -/
def fillUnits (a : Automaton) (v : VocImage) (k : CupKey) (eager : Bool) : List Nat :=
  if eager then [0]
  else match (getN a.img.states k.q).cls with
    | some r => if 4096 < r.d.length then firsts else []
    | none => firsts
where
  firsts : List Nat := (List.range 256).filter fun b => v.strings.any fun t => (t.head?.map BitVec.toNat) == some b

/-- Starts the fill of a key by a turret (R245): none when no space can be made. Its contents are those of R243; with the events and
reads of its steps. -/
def startFill (s : State) (k : CupKey) (eager : Bool) (ticket : Option Nat) (poster : Nat) : Option (State × Stepped) :=
  let a := s.automaton k.aut
  let v := (s.slot a.slot).img
  let f := cupFill a v k
  let n := recordBytes v.v f.a f.d
  let e : CupEntry := {
    key := some k, filling := true, a := f.a, d := f.d, eager := eager, fillFor := ticket, bytes := n
    fill := s.cup.fills, poster := poster, left := fillUnits a v k eager }
  (makeRoom s n).map fun s =>
    (postFill ((addEntry s e).onCup fun c => { c with fills := c.fills + 1 }) e (if eager then 3 else 2), f.ev)

/-- A lookup of a key: hit, wait for a fill, or miss, which starts one. The flag says that the entry is valid, the list holds what a
fill's steps did; none that no space can be made. -/
def lookupKey (s : State) (k : CupKey) (p : Nat) : Option (State × Bool × List (CupKey × Stepped)) :=
  match s.cupEntry? k with
  | some e =>
    if e.filling then some (s.onCup fun c => { c with fillWaits := wrap32 (c.fillWaits + 1) }, false, [])
    else some (s.onCup fun c => { c with
      hits := wrap32 (c.hits + 1), clock := c.clock + 1
      entries := c.entries.map fun x => if x.key == some k then { x with used := c.clock } else x }, true, [])
  | none => (startFill (s.onCup fun c => { c with misses := wrap32 (c.misses + 1) }) k false none p).map fun r => (r.1, false, [(k, r.2)])

/-- Turret p looks up keys in order: the state, whether all are valid, the key that found no space, what the fills' steps did. -/
def lookupKeys (p : Nat) : List CupKey → State → Bool → State × Bool × Option CupKey × List (CupKey × Stepped)
  | [], s, ok => (s, ok, none, [])
  | k :: ks, s, ok => match lookupKey s k p with
    | none => (s, false, some k, [])
    | some r =>
      let t := lookupKeys p ks r.1 (ok && r.2.1)
      (t.1, t.2.1, t.2.2.1, r.2.2 ++ t.2.2.2)

/-- The keys of a set. -/
def setKeys (n : Nat) (img : AutImage) (cs : ConfSet) : List CupKey := (cs.map (cupKey n img)).eraseDups

/-- Pins the entries of keys, or a private entry, for a (stream, step). -/
def pinKeys (s : State) (ks : List CupKey) (id step : Nat) : State :=
  s.onCup fun c => { c with entries := c.entries.map fun e =>
    if (ks.any fun k => e.key == some k) then { e with pins := (e.pins ++ [(id, step)]).eraseDups } else e }

/-- The Finial closes a step: its pins go, and its private entry with them (R30). -/
def unpin (s : State) (id step : Nat) : State :=
  s.onCup fun c => { c with entries := (c.entries.filter fun e => (e.priv.map fun p => (p.1, p.2.1)) != some (id, step)).map fun e =>
    { e with pins := e.pins.filter (· != (id, step)) } }

/-! ## Masks from entries (R244, R247) -/

/-- What a build gives: the keys it refers to, the accepted ids, the mask that they spell, and the events and reads of its
checks. -/
structure Built where
  refs : List CupKey := []
  ids : List Nat := []
  all : Bool := false
  mask : Nat := 0
  ev : Stepped := {}
  deriving DecidableEq, Repr

/-- Bit t of the referenced entries' bitmaps, or t in the accepted list, below V (R247). -/
def refsMask (s : State) (v : VocImage) (refs : List CupKey) (ids : List Nat) : Nat :=
  (refs.foldl (fun m k => m ||| ((s.cupEntry? k).map (·.a)).getD 0) (bitmapOf ids)) &&& allOnes v

/-- The build of the all-ones mask (01 R31), and of the EOS mask of policy 0x2. -/
def buildAll (v : VocImage) : Built := { all := true, mask := allOnes v }
def buildEos (v : VocImage) : Built := { ids := v.eos, mask := eosMask v }

/-- Whether a build needs a private entry: more than 256 accepted ids (R247). -/
def Built.wide (b : Built) : Bool := decide (256 < b.ids.length)

/-- The descriptor that a build stages at a (stream, step, node). -/
def Built.desc (b : Built) (at_ : Nat × Nat × Nat) : MaskDesc :=
  if b.wide then { priv := some at_ } else { all := b.all, refs := b.refs, ids := b.ids }

/-- The build of a set from the entries of its keys (06, building and staging): each class-D id of an entry is stepped against
the configuration's full stack, and the slot's EOS ids join when the set accepts. -/
def buildMask (s : State) (n : Nat) (cs : ConfSet) : Built :=
  let a := s.automaton n
  let v := (s.slot a.slot).img
  let tested := cs.flatMap fun c =>
    (((s.cupEntry? (cupKey n a.img c)).getD {}).d).map fun t => (t, stepToken a v { set := [c] } t)
  let ids := (((tested.filter fun x => !x.2.set.isEmpty).map Prod.fst) ++ if eosAllowed a.img cs then v.eos else []).eraseDups
  let refs := setKeys n a.img cs
  { refs := refs, ids := ids, mask := refsMask s v refs ids
    ev := {
      confDrops := tested.flatMap fun x => x.2.confDrops, cells := tested.flatMap fun x => x.2.cells
      read := tested.flatMap fun x => x.2.read } }

/-- A descriptor as a selector reads it now (R247). -/
def descMask (s : State) (v : VocImage) (d : MaskDesc) : Nat :=
  if d.all then allOnes v
  else match d.priv with
    | some p => ((s.cup.entries.find? fun e => e.priv == some p).map (·.a)).getD 0 &&& allOnes v
    | none => refsMask s v d.refs d.ids

/-- A private entry for a (stream, step, node): a full bitmap (R247). None when no space can be made. -/
def privateEntry (s : State) (v mask : Nat) (at_ : Nat × Nat × Nat) : Option State :=
  (makeRoom s (ceilDiv v 1024 * 128)).map fun s => addEntry s {
    priv := some at_, a := mask, pins := [(at_.1, at_.2.1)], bytes := ceilDiv v 1024 * 128 }

/-! ## Long-piece areas (04 R173) -/

/-- A wait for room is reported once (06 R246, 16 Table 16.9). -/
def areaPressure (s : State) (t : Nat) : State :=
  match s.job? t with
  | none => s
  | some j =>
    if j.areaSaid then s
    else raiseFrom ((s.onCup fun c => { c with pressure := wrap32 (c.pressure + 1) }).onJobOf t fun j =>
      { j with areaSaid := true }) j.lead 0x0A03 0 0 64

/-- A waiting turret takes its cluster's area, when the area is free and the Cupola can make room. -/
def grantArea (s : State) (k : Nat) : State :=
  match s.cup.longWait.find? (·.1 == k) with
  | none => s
  | some w =>
    if s.cup.longPiece.any (·.1 == k) then s
    else match makeRoom s longArea with
      | none => areaPressure s w.2
      | some s => (s.onCup fun c => { c with
          longPiece := c.longPiece ++ [w], longWait := c.longWait.filter (· != w) }).onJobOf w.2 fun j => { j with areaSaid := false }

/-- The area of a job's cluster, asked for in turn. -/
def askArea (s : State) (j : Job) : State :=
  let w := (j.cluster, j.ticket)
  let s := if s.cup.longWait.contains w || s.cup.longPiece.contains w then s
    else s.onCup fun c => { c with longWait := c.longWait ++ [w] }
  grantArea s j.cluster

end Sys2Proof.Machine
end

