-- ==== Sys2Proof/Machine/Knalen.lean ====
section
/-! DEFINITION. What one Knalen instruction does to the core and the invocation of its turret (07 Table 7.4, Table 7.5).
The same functions serve the rows of the table and the running of a loaded program (07 R277). -/

namespace Sys2Proof.Machine

namespace Exc

/-- Fault codes of Table 7.5. -/
def illegal : Nat := 1
def pcRange : Nat := 2
def localRange : Nat := 3
def misaligned : Nat := 4
def tableRange : Nat := 5
def stackFault : Nat := 6
def roleFault : Nat := 7
def budget : Nat := 8
def expansion : Nat := 9
def emitOrder : Nat := 10
def cutRange : Nat := 11
def trapped : Nat := 12

end Exc

/-- What an instruction sees beside its core: the slot's image and the bound automaton. -/
structure KEnv where
  voc : Option VocImage := none
  aut : Automaton := {}
  deriving DecidableEq, Repr

/-- The outcome of an instruction: the next core and invocation, an exception with its code and TRAP code, the normal end. -/
inductive KOut where
  | go (c : Core) (i : Invocation)
  | exc (code : Nat) (trapCode : Nat)
  | done (c : Core) (i : Invocation)
  deriving DecidableEq, Repr

namespace K

/-- The instruction has its effect and the pc moves on; past the last instruction it raises PC_RANGE (Table 7.5). -/
def next (i : Invocation) (c : Core) : KOut :=
  if c.pc + 1 < i.codeCount then .go c.advance i else .exc Exc.pcRange 0

/-- Writes a general register and moves on. -/
def put (i : Invocation) (c : Core) (d : Nat) (x : DWord) : KOut := next i (c.wr d x)

/-- Goes to a target, which lies below CODE_COUNT. -/
def goto_ (i : Invocation) (c : Core) (t : Nat) : KOut := if t < i.codeCount then .go { c with pc := t } i else .exc Exc.pcRange 0

/-- All ones. -/
def ones : DWord := 0xFFFFFFFFFFFFFFFF

/-- A role that a pre-split program does not have. -/
def engineOnly (i : Invocation) (k : KOut) : KOut := if i.role = roleEngine then k else .exc Exc.roleFault 0

/-! ### Arithmetic -/

def alu (f : DWord → DWord → DWord) (d a b : Nat) (i : Invocation) (c : Core) : KOut := put i c d (f (c.rd a) (c.rd b))

def add := alu fun x y => x + y
def sub := alu fun x y => x - y
def and := alu fun x y => x &&& y
def or := alu fun x y => x ||| y
def xor := alu fun x y => x ^^^ y
def slt := alu fun x y => if x.slt y then 1 else 0

def addi (d a : Nat) (imm : BitVec 18) (i : Invocation) (c : Core) : KOut := put i c d (c.rd a + sext imm)
def andi (d a : Nat) (imm : BitVec 18) (i : Invocation) (c : Core) : KOut := put i c d (c.rd a &&& zext imm)
def shli (d a : Nat) (imm : BitVec 18) (i : Invocation) (c : Core) : KOut := put i c d (c.rd a <<< (imm.toNat % 64))
def shri (d a : Nat) (imm : BitVec 18) (i : Invocation) (c : Core) : KOut := put i c d (c.rd a >>> (imm.toNat % 64))
def movi (d : Nat) (imm : BitVec 18) (i : Invocation) (c : Core) : KOut := put i c d (sext imm)
def movh (d : Nat) (imm : BitVec 18) (i : Invocation) (c : Core) : KOut :=
  put i c d ((c.rd d <<< 16) ||| BitVec.ofNat 64 (imm.toNat % 65536))

/-! ### Local memory -/

/-- A load of n bytes, aligned when `al` says so (R265, R270). -/
def loadN (n : Nat) (al : Bool) (d a : Nat) (imm : BitVec 18) (i : Invocation) (c : Core) : KOut :=
  let x := effAddr c a imm
  if !localOk i.role x n then .exc Exc.localRange 0
  else if al && x % n != 0 then .exc Exc.misaligned 0
  else put i c d (BitVec.ofNat 64 (leNat (c.load x n)))

def ld := loadN 8 true
def ldw := loadN 4 true
def ldb := loadN 1 false

/-- A store of the n low bytes of register d. -/
def storeN (n : Nat) (al : Bool) (d a : Nat) (imm : BitVec 18) (i : Invocation) (c : Core) : KOut :=
  let x := effAddr c a imm
  if !localOk i.role x n then .exc Exc.localRange 0
  else if al && x % n != 0 then .exc Exc.misaligned 0
  else next i (c.store x (leBytes n (c.rd d).toNat))

def st := storeN 8 true
def stw := storeN 4 true
def stb := storeN 1 false

/-- sp - 8 below 0xF000 raises STACK_FAULT (R270). -/
def push (a : Nat) (i : Invocation) (c : Core) : KOut :=
  if c.sp < 0xF008 then .exc Exc.stackFault 0
  else next i { c.store (c.sp - 8) (leBytes 8 (c.rd a).toNat) with sp := c.sp - 8 }

/-- POP at or above 0x1_0000 raises STACK_FAULT. -/
def pop (d : Nat) (i : Invocation) (c : Core) : KOut :=
  if 0x10000 ≤ c.sp then .exc Exc.stackFault 0
  else next i { c.wr d (BitVec.ofNat 64 (leNat (c.load c.sp 8))) with sp := c.sp + 8 }

def peek (d : Nat) (imm : BitVec 18) (i : Invocation) (c : Core) : KOut :=
  let x := c.sp + 8 * imm.toNat
  if 0x10000 ≤ x then .exc Exc.stackFault 0 else put i c d (BitVec.ofNat 64 (leNat (c.load x 8)))

/-! ### Tables and tries -/

/-- An n-byte entry a + imm[17:3] of table imm[2:0]; beyond the table's length, or with the table absent, TABLE_RANGE. -/
def tldN (n : Nat) (d a : Nat) (imm : BitVec 18) (i : Invocation) (c : Core) : KOut :=
  let t := getN c.t (imm.toNat % 8)
  let k := (c.rd a + BitVec.ofNat 64 (imm.toNat / 8)).toNat
  if t.length < n * (k + 1) then .exc Exc.tableRange 0 else put i c d (BitVec.ofNat 64 (getLE t (n * k) n))

def tld := tldN 8
def tldw := tldN 4

/-- Looks up a pair in the slot's merge-rank table (03 R121). -/
def hprobe (e : KEnv) (d a b : Nat) (i : Invocation) (c : Core) : KOut :=
  engineOnly i (match e.voc with
    | none => .exc Exc.tableRange 0
    | some v =>
      if v.buckets.isEmpty then .exc Exc.tableRange 0
      else match lookupRank v.buckets (c.rd a).toNat (c.rd b).toNat with
        | some r => put i c d (BitVec.ofNat 64 (getN v.results r * 4294967296 + r))
        | none => put i c d ones)

/-- The child of node a with byte b[7:0] in the mask trie or the longest-match trie, which without section 4 is the mask trie (03 R125): index, TERMINAL at bit 24, TOKEN at bit 32. -/
def tstep (e : KEnv) (d a b : Nat) (long : Bool) (i : Invocation) (c : Core) : KOut :=
  engineOnly i (match e.voc with
    | none => .exc Exc.tableRange 0
    | some v =>
      let t := if long && v.hasLm then v.lmTrie else v.maskTrie
      let n := (c.rd a).toNat
      if t.length ≤ n then .exc Exc.tableRange 0
      else match Trie.child t n (BitVec.ofNat 8 (c.rd b).toNat) with
        | some j => put i c d (BitVec.ofNat 64 (j + b2n (Trie.terminal (getN t j)) * 16777216 +
            Trie.token (getN t j) * 4294967296))
        | none => put i c d ones)

/-! ### Configuration sets -/

/-- Steps the working set by byte a[7:0]. -/
def astep (e : KEnv) (d a : Nat) (i : Invocation) (c : Core) : KOut :=
  let w := (stepByte e.aut.img c.work (BitVec.ofNat 8 (c.rd a).toNat)).set
  engineOnly i (put i { c with work := w } d (BitVec.ofNat 64 w.length))

/-- Applies special token a to the working set. -/
def aspec (e : KEnv) (d a : Nat) (i : Invocation) (c : Core) : KOut :=
  let w := stepSpecial e.aut.img c.work (c.rd a).toNat
  engineOnly i (put i { c with work := w } d (BitVec.ofNat 64 w.length))

/-- The bytes ASAVE writes: 32 + 2 per cell, rounded up to 32. -/
def savedLen (w : ConfSet) : Nat := roundUp (32 + 2 * cellCount w) 32

/-- Writes the working set; its form is a free value (log entry 24). -/
def asave (d a : Nat) (i : Invocation) (c : Core) : KOut :=
  let x := (c.rd a).toNat
  let n := savedLen c.work
  engineOnly i (if !localOk i.role x n then .exc Exc.localRange 0
    else put i (c.store x ((List.range n).map (Config.savedSetByte c.work))) d (BitVec.ofNat 64 n))

/-- Loads the working set that the bytes at a describe, all of which lie in one region (log entry 24). -/
def ares (a : Nat) (i : Invocation) (c : Core) : KOut :=
  let x := (c.rd a).toNat
  let w := Config.savedSet c.mem x
  engineOnly i (if !localOk i.role x (savedLen w) then .exc Exc.localRange 0 else next i { c with work := w })

/-! ### Bitmaps in local memory; a Cupola bitmap is the block's (Turrets.lean) -/

/-- Sets or clears bit b of the bitmap at local a. -/
def bitLocal (set : Bool) (a b : Nat) (i : Invocation) (c : Core) : KOut :=
  let n := (c.rd b).toNat
  let x := (c.rd a).toNat + n / 8
  engineOnly i (if !localOk i.role x 1 then .exc Exc.localRange 0
    else
      let m : Byte := 1#8 <<< (n % 8)
      let old := getN (c.load x 1) 0
      next i (c.store x [if set then old ||| m else old &&& ~~~m]))

/-! ### Byte vectors -/

def vld (d a : Nat) (imm : BitVec 18) (i : Invocation) (c : Core) : KOut :=
  let x := effAddr c a imm
  if !localOk i.role x 32 then .exc Exc.localRange 0 else next i (c.vwr d (c.load x 32))

def vst (d a : Nat) (imm : BitVec 18) (i : Invocation) (c : Core) : KOut :=
  let x := effAddr c a imm
  if !localOk i.role x 32 then .exc Exc.localRange 0 else next i (c.store x (c.vrd d))

/-- 32 bytes of the input; lanes at or past its end read 0. -/
def vin (d a : Nat) (imm : BitVec 18) (i : Invocation) (c : Core) : KOut :=
  next i (c.vwr d (slice i.input (effAddr c a imm) 32))

/-- Lane i of d is the byte that the map at local b gives lane i of a. -/
def vcls (d a b : Nat) (i : Invocation) (c : Core) : KOut :=
  let x := (c.rd b).toNat
  if !localOk i.role x 256 then .exc Exc.localRange 0
  else next i (c.vwr d ((c.vrd a).map fun l => sget 0 c.mem (x + l.toNat)))

/-- The lanes of a that equal b[7:0]. -/
def vcmpeq (d a b : Nat) (i : Invocation) (c : Core) : KOut :=
  let x : Byte := BitVec.ofNat 8 (c.rd b).toNat
  put i c d (BitVec.ofNat 64 (bitmapOf ((List.range 32).filter fun k => getN (c.vrd a) k == x)))

/-- The lowest lane of a whose value, modulo 64, names a 1 of b; 32 when there is none. -/
def vfind (d a b : Nat) (i : Invocation) (c : Core) : KOut :=
  let m := (c.rd b).toNat
  put i c d (BitVec.ofNat 64 (((List.range 32).find? fun k => m.testBit ((getN (c.vrd a) k).toNat % 64)).getD 32))

/-- min(b, 32). -/
def laneCount (c : Core) (b : Nat) : Nat := min (c.rd b).toNat 32

/-- The carried bytes of CS. -/
def csBytes (cs : Word) : List Byte := leBytes (bits cs.toNat 25 24) (cs.toNat % 16777216)

/-- The CS that holds carried bytes. -/
def csOf (bs : List Byte) : Word := BitVec.ofNat 32 (leNat bs + bs.length * 16777216)

/-- Decodes carried bytes and lanes: marks of the lanes that start a unit, marks of the invalid-byte lanes, the trailing
incomplete character. `pos` counts from the first carried byte, of which there are k. -/
def vutfGo (k : Nat) : Nat → List Byte → Nat → Nat → Nat → Nat × Nat × List Byte
  | 0, _, _, starts, bad => (starts, bad, [])
  | _, [], _, starts, bad => (starts, bad, [])
  | n + 1, b :: r, pos, starts, bad =>
    let mark := if k ≤ pos then 1 <<< (pos - k) else 0
    match charLen (b :: r) with
    | some m => vutfGo k n ((b :: r).drop m) (pos + m) (starts ||| mark) bad
    | none =>
      if utf8Starts (b :: r) then (starts, bad, b :: r)
      else vutfGo k n r (pos + 1) (starts ||| mark) (bad ||| mark)

/-- Decodes lanes after CS (Table 7.4; an invalid byte is a decoding unit of its own, 04 R147). -/
def vutf (d a b : Nat) (wcs : Bool) (i : Invocation) (c : Core) : KOut :=
  let carry := csBytes c.cs
  let bs := carry ++ (c.vrd a).take (laneCount c b)
  let r := vutfGo carry.length bs.length bs 0 0 0
  let c' := if wcs then { c with cs := csOf r.2.2 } else c
  put i c' d (BitVec.ofNat 64 (r.1 + r.2.1 * 4294967296))

/-! ### Output (R280) -/

/-- Appends bytes to the last piece; more bytes than the limit raise EXPANSION. -/
def emitBytes (i : Invocation) (bs : List Byte) (c : Core) : KOut :=
  if i.bytesMax < i.bytesOut + bs.length then .exc Exc.expansion 0
  else
    let ps := match i.pieces.reverse with
      | [] => [(i.lastCut, bs)]
      | p :: r => (r.reverse) ++ [(p.1, p.2 ++ bs)]
    next { i with bytesOut := i.bytesOut + bs.length, pieces := ps } c

/-- EMIT: CUT gives the offset of the next piece, BYTE a byte, TOKEN an id to an engine; kind 3 is reserved. -/
def emit (a kind : Nat) (i : Invocation) (c : Core) : KOut :=
  let x := (c.rd a).toNat
  match kind with
  | 0 =>
    if x < i.lastCut ∨ x < i.runBase ∨ i.runBase + i.runLen < x then .exc Exc.emitOrder 0
    else next { i with lastCut := x, pieces := i.pieces ++ [(x, [])] } c
  | 1 => emitBytes i [BitVec.ofNat 8 x] c
  | 2 => engineOnly i (next { i with tokens := i.tokens ++ [x % 4294967296] } c)
  | _ => .exc Exc.roleFault 0

def emitv (a b : Nat) (i : Invocation) (c : Core) : KOut := emitBytes i ((c.vrd a).take (laneCount c b)) c

/-! ### Control -/

def bar (i : Invocation) (c : Core) : KOut := next i c
def fin (i : Invocation) (c : Core) : KOut := .done c i
def trap (code : BitVec 8) (_i : Invocation) (_c : Core) : KOut := .exc Exc.trapped code.toNat

/-- A branch: to its target when taken, else on. -/
def branch (taken : DWord → DWord → Bool) (a b : Nat) (off : BitVec 18) (i : Invocation) (c : Core) : KOut :=
  if taken (c.rd a) (c.rd b) then goto_ i c (branchTarget c.pc off) else next i c

def beq := branch fun x y => x == y
def bne := branch fun x y => x != y
def blt := branch fun x y => x.slt y

def j (off : BitVec 18) (i : Invocation) (c : Core) : KOut := goto_ i c (branchTarget c.pc off)
def jal (d : Nat) (off : BitVec 18) (i : Invocation) (c : Core) : KOut :=
  goto_ i (c.wr d (BitVec.ofNat 64 (c.pc + 1))) (branchTarget c.pc off)
def jr (a : Nat) (i : Invocation) (c : Core) : KOut := goto_ i c (c.rd a).toNat

end K

/-! ## Running a loaded program (R277, R278) -/

/-- One instruction that a verified pre-split program may hold (R289); the others are ROLE_FAULT there. -/
def runInstr (ins : Instr) (i : Invocation) (c : Core) : KOut :=
  match ins with
  | .add _ d a b => K.add d a b i c
  | .sub _ d a b => K.sub d a b i c
  | .and _ d a b => K.and d a b i c
  | .or _ d a b => K.or d a b i c
  | .xor _ d a b => K.xor d a b i c
  | .slt _ d a b => K.slt d a b i c
  | .addi _ d a m => K.addi d a m i c
  | .andi _ d a m => K.andi d a m i c
  | .shli _ d a m => K.shli d a m i c
  | .shri _ d a m => K.shri d a m i c
  | .movi _ d m => K.movi d m i c
  | .movh _ d m => K.movh d m i c
  | .ld _ d a m => K.ld d a m i c
  | .ldw _ d a m => K.ldw d a m i c
  | .ldb _ d a m => K.ldb d a m i c
  | .st _ d a m => K.st d a m i c
  | .stw _ d a m => K.stw d a m i c
  | .stb _ d a m => K.stb d a m i c
  | .push _ a => K.push a i c
  | .pop _ d => K.pop d i c
  | .peek _ d m => K.peek d m i c
  | .tld _ d a m => K.tld d a m i c
  | .tldw _ d a m => K.tldw d a m i c
  | .vld _ d a m => K.vld d a m i c
  | .vst _ d a m => K.vst d a m i c
  | .vin _ d a m => K.vin d a m i c
  | .vcls _ d a b => K.vcls d a b i c
  | .vcmpeq _ d a b => K.vcmpeq d a b i c
  | .vfind _ d a b => K.vfind d a b i c
  | .vutf _ d a b w => K.vutf d a b w i c
  | .emit _ a k => K.emit a k i c
  | .emitv _ a b => K.emitv a b i c
  | .bar _ => K.bar i c
  | .fin _ => K.fin i c
  | .trap _ t => K.trap t i c
  | .beq _ a b o => K.beq a b o i c
  | .bne _ a b o => K.bne a b o i c
  | .blt _ a b o => K.blt a b o i c
  | .j _ o => K.j o i c
  | .jal _ d o => K.jal d o i c
  | .jr _ a => K.jr a i c
  | _ => .exc Exc.roleFault 0

/-- How an invocation ended: exception (code, TRAP code, pc) or none, with its state and the instructions it retired. -/
structure RunRes where
  core : Core := {}
  inv : Invocation := {}
  exc : Option (Nat × Nat × Nat) := none
  retired : Nat := 0
  deriving DecidableEq, Repr

/-- Runs a program's words until END or an exception; the fuel is the instruction budget (R277). -/
def runProgram (code : List Word) : Nat → Core → Invocation → Nat → RunRes
  | 0, c, i, n => { core := c, inv := i, exc := some (Exc.budget, 0, c.pc), retired := n }
  | k + 1, c, i, n =>
    match decodeKnalen 0 (getN code c.pc) with
    | none => { core := c, inv := i, exc := some (Exc.illegal, 0, c.pc), retired := n }
    | some ins => match runInstr ins i c with
      | .go c' i' => runProgram code k c' i' (n + 1)
      | .exc code t => { core := c, inv := i, exc := some (code, t, c.pc), retired := n }
      | .done c' i' => { core := c', inv := i', retired := n + 1 }

/-- The code window with a program's code in it, 4 bytes an instruction; the rest of local memory stays (R266, Table 7.2). -/
def windowMem (code : List Word) (mem : List (Nat × Byte)) : List (Nat × Byte) :=
  let bs := (code.flatMap fun w => leBytes 4 w.toNat).take 0x4000
  ((List.range bs.length).map fun n => (n, getN bs n)).filter (·.2 != 0) ++ mem.filter fun e => decide (0x4000 ≤ e.1)

/-- Every register at 0 and the stack empty, as at a program entry (R264); local memory stays. -/
def Core.entered (c : Core) : Core := { mem := c.mem }

/-- A work item has ended: its lines of the runtime area are cleared (12 R451). -/
def Core.ended (c : Core) : Core := { mem := c.mem.filter fun e => !(decide (0x6000 ≤ e.1) && decide (e.1 < 0xF000)) }

/-- Suspended work goes on: its own state, with the code window as it is by now (R266, R293). -/
def Core.resumed (old now : Core) : Core :=
  { old with mem := (now.mem.filter fun e => decide (e.1 < 0x4000)) ++ old.mem.filter fun e => decide (0x4000 ≤ e.1) }

/-- A turret suspends what it runs, with its complete state (R293). -/
def Turret.suspends (t : Turret) (i : Invocation) : Turret :=
  { t with suspended := t.suspended ++ [(i, t.core)], core := t.core.entered, switch := wrap32 (t.switch + 1) }

/-- A turret resumes what it suspended last. -/
def Turret.resumes (t : Turret) : Turret :=
  match t.suspended.getLast? with
  | some w => { t with inv := some w.1, core := w.2.resumed t.core, suspended := t.suspended.dropLast, gated := false }
  | none => t

/-- A turret enters a loaded program: one that its code window does not hold is copied there (R266). -/
def Turret.enters (t : Turret) (p : Program) : Turret :=
  if t.window = some (p.id, p.digest) then t
  else { t with window := some (p.id, p.digest), core := { t.core with mem := windowMem p.code t.core.mem } }

/-- The core at an entry of a loaded program: registers named by the interface, every other register 0, its tables, INIT in the data area,
the stack area 0 (R264, R277). The code window and the runtime area keep their bytes. -/
def entryCore (mem : List (Nat × Byte)) (p : Program) (pc g1 g2 g3 g4 : Nat) : Core :=
  let kept := mem.filter fun e => decide (e.1 < 0x4000) || (decide (0x6000 ≤ e.1) && decide (e.1 < 0xF000))
  { g := [0, BitVec.ofNat 64 g1, BitVec.ofNat 64 g2, BitVec.ofNat 64 g3, BitVec.ofNat 64 g4] ++ List.replicate 11 0
    v := List.replicate 8 (List.replicate 32 0), t := p.tables, pc := pc, sp := 0x10000, cs := 0, work := []
    mem := sputs 0 kept 0x4000 p.init }

end Sys2Proof.Machine
end

