-- ==== Sys2Proof/Machine/Tokens.lean ====
section
/-! DEFINITION. Tokenization (04 R146 to R165, 07 R276 to R285): from input bytes to the ids of each steal unit, as a
function of the input, the slot's image, the mode, the program, PIECE_MAX and FORCE_SPLIT. -/

namespace Sys2Proof.Machine

namespace Tok

def modeMerge : Nat := 0
def modeLongest : Nat := 1
def modeByte : Nat := 2

/-- What the scan finds at a position: a special, a character, an invalid byte. -/
inductive Kind where
  | special (id : Nat)
  | char
  | bad
  deriving DecidableEq, Repr

/-- An item of the input: where it starts, its bytes, what it is. -/
structure ScanItem where
  ofs : Nat
  bytes : List Byte
  kind : Kind
  deriving DecidableEq, Repr

/-- Whether a list of bytes begins with another. -/
def startsWith (bs p : List Byte) : Bool := bs.take p.length == p

/-- The longest TEXT_MATCH special at a position, ties to the lower id (R146). -/
def matchSpecial (v : VocImage) (bs : List Byte) : Option (Nat × Nat) :=
  (v.specials.filter fun e => e.2.testBit 0 && !(v.str e.1).isEmpty && startsWith bs (v.str e.1)).foldl
    (fun best e => let n := (v.str e.1).length
      match best with
      | some b => if b.2 < n then some (e.1, n) else best
      | none => some (e.1, n)) none

/-- The scan of the whole input (R146, R147); byte mode matches no specials (R148). -/
def scanGo (sp : Option VocImage) : Nat → List Byte → Nat → List ScanItem
  | 0, _, _ => []
  | _, [], _ => []
  | k + 1, b :: r, o =>
    let bs := b :: r
    match sp.bind fun v => matchSpecial v bs with
    | some (id, n) => { ofs := o, bytes := bs.take n, kind := .special id } :: scanGo sp k (bs.drop n) (o + n)
    | none => match charLen bs with
      | some n => { ofs := o, bytes := bs.take n, kind := .char } :: scanGo sp k (bs.drop n) (o + n)
      | none => { ofs := o, bytes := [b], kind := .bad } :: scanGo sp k r (o + 1)

def scan (sp : Option VocImage) (bs : List Byte) : List ScanItem := scanGo sp bs.length bs 0

/-! ## Programs -/

/-- A pre-split program: a ROM id or a loaded image (R282, R286). -/
inductive Prog where
  | rom (id : Nat)
  | loaded (p : Program)
  deriving DecidableEq, Repr

/-- The code point of a character. -/
def codePoint : List Byte → Nat
  | [a] => a.toNat
  | [a, b] => (a.toNat % 32) * 64 + b.toNat % 64
  | [a, b, c] => (a.toNat % 16) * 4096 + (b.toNat % 64) * 64 + c.toNat % 64
  | [a, b, c, d] => (a.toNat % 8) * 262144 + (b.toNat % 64) * 4096 + (c.toNat % 64) * 64 + d.toNat % 64
  | _ => 0

/-- W, N, L or P of SPLIT_CLASS (R283). -/
inductive Cls where
  | w | n | l | p
  deriving DecidableEq, Repr

def clsOf (cp : Nat) : Cls :=
  if (9 ≤ cp ∧ cp ≤ 13) ∨ cp = 0x20 then .w
  else if 0x30 ≤ cp ∧ cp ≤ 0x39 then .n
  else if (0x41 ≤ cp ∧ cp ≤ 0x5A) ∨ (0x61 ≤ cp ∧ cp ≤ 0x7A) ∨ 0x7F < cp then .l
  else .p

/-- Whether SPLIT_CLASS puts a boundary before character `cur` (R283); `nxt` is none past the run. -/
def classBoundary (prev cur : Nat) (nxt : Option Nat) : Bool :=
  let a := clsOf prev
  let b := clsOf cur
  (a != .w && b != .w && a != b) || (b == .w && a != .w) ||
  (cur == 0x20 && a == .w && (match nxt with | some x => clsOf x != .w | none => false)) ||
  (b != .w && a == .w && prev != 0x20)

/-- Characters that SPLIT_WORD removes, and those that it makes pieces of their own (R284). -/
def wordRemoved (cp : Nat) : Bool := clsOf cp == .w || cp ≤ 0x1F || cp == 0x7F

def wordPunct (cp : Nat) : Bool :=
  (decide (0x21 ≤ cp) && decide (cp ≤ 0x2F)) || (decide (0x3A ≤ cp) && decide (cp ≤ 0x40)) ||
  (decide (0x5B ≤ cp) && decide (cp ≤ 0x60)) || (decide (0x7B ≤ cp) && decide (cp ≤ 0x7E))

/-! ## Cuts (R164, R278, R279, R585) -/

/-- A character of the windows: start, length, code point; none for a byte that reads 0xFF (Table 7.6). -/
structure WChar where
  ofs : Nat
  len : Nat
  cp : Option Nat
  deriving DecidableEq, Repr

def winChars (items : List ScanItem) : List WChar :=
  items.flatMap fun it => match it.kind with
    | .char => [{ ofs := it.ofs, len := it.bytes.length, cp := some (codePoint it.bytes) }]
    | _ => (List.range it.bytes.length).map fun i => { ofs := it.ofs + i, len := 1, cp := none }

/-- Whether position i, between characters a and b with c after b, is a candidate of ROM program 1 or 2. -/
def romCandidate (id : Nat) (a b : WChar) (c : Option WChar) : Bool :=
  match a.cp, b.cp with
  | some x, some y =>
    if id = 1 then classBoundary x y (c.bind (·.cp)) else wordRemoved x || wordRemoved y || wordPunct x || wordPunct y
  | _, _ => true

/-- Candidates with the end of the bytes a window must hold to decide them. -/
def romCandidates (id n : Nat) : List WChar → List (Nat × Nat)
  | a :: b :: r =>
    let need := match r with | c :: _ => c.ofs + c.len | [] => n
    (if romCandidate id a b r.head? then [(b.ofs, need)] else []) ++ romCandidates id n (b :: r)
  | _ => []

/-- A fault of an invocation: code, TRAP code, pc. -/
abbrev Fault3 := Nat × Nat × Nat

/-- The window around P as a loaded program sees it, and its start (Table 7.6). Of an input with an unreadable byte it ends at the last
readable byte before it: the spec leaves open which unit such a byte affects (log entry 85). -/
def window (chars : List WChar) (input : List Byte) (p : Nat) : List Byte × Nat :=
  let lo := p - 256
  let hi := min input.length (p + 4096)
  ((List.range (hi - lo)).map fun i =>
    if chars.any (fun c => c.ofs == lo + i && c.cp == none) then 0xFF else getN input (lo + i), lo)

/-- The cut entry of a loaded program: its raw position, and the fault it raised (R274, Table 7.6). -/
def cutEntry (pr : Program) (mode : Nat) (mem : List (Nat × Byte)) (chars : List WChar) (input : List Byte) (p : Nat) :
    Option Nat × List Fault3 × Nat × RunRes :=
  let w := window chars input p
  let inv : Invocation := {
    role := rolePreSplit, prog := pr.id, codeCount := pr.code.length, cut := true, input := w.1, bytesMax := 256, budget := 16384 }
  let r := runProgram pr.code 16384 (entryCore mem pr pr.cutEntry (p - w.2) w.1.length w.2 mode) inv 0
  match r.exc with
  | some f => (none, [f], r.retired, r)
  | none =>
    let g := (r.core.rd 1).toNat
    if g = 0xFFFFFFFFFFFFFFFF then (none, [], r.retired, r)
    else if g < p - w.2 ∨ w.1.length ≤ g then (none, [(Exc.cutRange, 0, r.core.pc)], r.retired, r)
    else (some (w.2 + g), [], r.retired, r)

/-- What the cut scan knows. -/
structure CutEnv where
  prog : Prog
  mode : Nat
  input : List Byte
  items : List ScanItem
  chars : List WChar
  cands : List (Nat × Nat)
  /-- the readable bytes end before the input does -/
  partly : Bool := false
  mem : List (Nat × Byte) := []
  deriving DecidableEq, Repr

/-- The cut entry at p: a position or none. -/
def CutEnv.entry (e : CutEnv) (p : Nat) : Option Nat × List Fault3 × Nat :=
  match e.prog with
  | .rom 0 => (some p, [], 0)
  | .rom _ =>
    let hi := min e.input.length (p + 4096)
    (((e.cands.find? fun c => decide (p ≤ c.1)).bind fun c => if c.1 < hi ∧ c.2 ≤ hi then some c.1 else none), [], 0)
  | .loaded pr =>
    if pr.cutAtMark then (some p, [], 0)
    else let r := cutEntry pr e.mode e.mem e.chars e.input p
      (r.1, r.2.1, r.2.2.1)

/-- Whether a candidate qualifies (R164): after the previous cut, and but for byte mode at the start of an item. -/
def CutEnv.qualifies (e : CutEnv) (m prev c : Nat) : Bool :=
  decide (m ≤ c) && (prev == 0 || decide (prev < c)) && decide (c < e.input.length) &&
    (e.mode == modeByte || e.items.any (·.ofs == c))

/-- The search at one mark (R278); an exception ends it without a cut (R274). The fuel bounds the positions tried. -/
def CutEnv.search (e : CutEnv) (m prev : Nat) : Nat → Nat → List Fault3 → Nat → Option Nat × List Fault3 × Nat
  | 0, _, fs, n => (none, fs, n)
  | k + 1, p, fs, n =>
    if e.input.length ≤ p then (none, fs, n)
    else match e.entry p with
      | (none, f, x) => if f.isEmpty then e.search m prev k (p + 4096) fs (n + x) else (none, fs ++ f, n + x)
      | (some c, f, x) =>
        if e.qualifies m prev c then (some c, fs ++ f, n + x) else e.search m prev k (c + 1) (fs ++ f) (n + x)

/-- The cuts of the marks k and above in order, the faults and the instructions of the scan. -/
def CutEnv.cuts (e : CutEnv) : Nat → Nat → Nat → List Nat × List Fault3 × Nat
  | 0, _, _ => ([], [], 0)
  | k + 1, m, prev =>
    if e.input.length ≤ m then ([], [], 0)
    else
      let r := e.search m prev (e.input.length + 1) (max m (if prev = 0 then 0 else prev + 1)) [] 0
      let rest := e.cuts k (m + 16384) (r.1.getD prev)
      (r.1.toList ++ rest.1, r.2.1 ++ rest.2.1, r.2.2 + rest.2.2)

/-! ## Pieces -/

/-- A piece of the program's output: raw start and end, normalized bytes. -/
structure Piece where
  start : Nat
  stop : Nat
  bytes : List Byte
  deriving DecidableEq, Repr

/-- The pieces of a run of characters under ROM program 1 (R283). -/
def classPieces : List ScanItem → List ScanItem → List Piece
  | [], cur => match cur with
    | [] => []
    | c :: _ => [{ start := c.ofs, stop := c.ofs + (cur.flatMap (·.bytes)).length, bytes := cur.flatMap (·.bytes) }]
  | x :: r, cur => match cur.getLast? with
    | none => classPieces r [x]
    | some l =>
      if classBoundary (codePoint l.bytes) (codePoint x.bytes) (r.head?.map fun y => codePoint y.bytes) then
        { start := (cur.headD l).ofs, stop := x.ofs, bytes := cur.flatMap (·.bytes) } :: classPieces r [x]
      else classPieces r (cur ++ [x])

/-- Closes the piece that a list of characters makes. -/
def closeWord (cur : List ScanItem) : List Piece :=
  match cur with
  | [] => []
  | c :: _ => [{ start := c.ofs, stop := c.ofs + (cur.flatMap (·.bytes)).length, bytes := cur.flatMap (·.bytes) }]

/-- The pieces of a run under ROM program 2 (R284). -/
def wordPieces : List ScanItem → List ScanItem → List Piece
  | [], cur => closeWord cur
  | x :: r, cur =>
    let cp := codePoint x.bytes
    if wordRemoved cp then closeWord cur ++ wordPieces r []
    else if wordPunct cp then closeWord cur ++ closeWord [x] ++ wordPieces r []
    else wordPieces r (cur ++ [x])

/-- The pieces an invocation emitted: each ends where the next starts, the last at the run's end; empty ones drop. -/
def emittedPieces (stop : Nat) : List (Nat × List Byte) → List Piece
  | [] => []
  | (o, bs) :: r =>
    let e := match r with | (o', _) :: _ => o' | [] => stop
    (if bs.isEmpty then [] else [{ start := o, stop := e, bytes := bs }]) ++ emittedPieces stop r

/-- The piece entry on one run (R276, R277, R280). -/
def runPieces (prog : Prog) (mode : Nat) (mem : List (Nat × Byte)) (run : List ScanItem) (first : Bool) :
    List Piece × List Fault3 × Nat :=
  let base := (run.headD { ofs := 0, bytes := [], kind := .bad }).ofs
  let bytes := run.flatMap (·.bytes)
  let n := bytes.length
  match prog with
  | .rom 0 => ([{ start := base, stop := base + n, bytes := bytes }], [], 0)
  | .rom 1 => (classPieces run [], [], 0)
  | .rom _ => (wordPieces run [], [], 0)
  | .loaded pr =>
    let inv : Invocation := {
      role := rolePreSplit, prog := pr.id, codeCount := pr.code.length, input := bytes, runBase := base, runLen := n, bytesMax := 8 * n + 256, budget := 64 * n + 4096,
      lastCut := base, pieces := [(base, [])] }
    let r := runProgram pr.code (64 * n + 4096) (entryCore mem pr pr.pieceEntry base n (b2n first) mode) inv 0
    (emittedPieces (base + n) r.inv.pieces, r.exc.toList, r.retired)

/-! ## The algorithms of the modes -/

/-- The symbols of a character in merge-rank mode (R157); none without a byte token. -/
def charSymbols (v : VocImage) (c : List Byte) : Option (List Nat) :=
  match (Trie.walk v.maskTrie c 0).bind fun i => let n := getN v.maskTrie i
      if Trie.terminal n then some (Trie.token n) else none with
  | some t => some [t]
  | none => if v.byteBase = 0xFFFFFFFF then none else some (c.map fun b => v.byteBase + b.toNat)

/-- The lowest rank among adjacent pairs and its leftmost position (R158). -/
def bestPair (v : VocImage) : List Nat → Nat → Option (Nat × Nat) → Option (Nat × Nat)
  | x :: y :: r, i, best =>
    let best' := match lookupRank v.buckets x y with
      | none => best
      | some k => match best with
        | none => some (k, i)
        | some b => if k < b.1 then some (k, i) else best
    bestPair v (y :: r) (i + 1) best'
  | _, _, best => best

/-- Replaces the pair at position i. -/
def mergeAt (xs : List Nat) (i t : Nat) : List Nat := xs.take i ++ t :: xs.drop (i + 2)

def mergeLoop (v : VocImage) : Nat → List Nat → List Nat
  | 0, xs => xs
  | k + 1, xs => match bestPair v xs 0 none with
    | none => xs
    | some (r, i) => mergeLoop v k (mergeAt xs i (getN v.results r))

/-- Merge-rank mode on a piece of characters (R157). -/
def mergePiece (v : VocImage) (chars : List (List Byte)) : Option (List Nat) :=
  (chars.mapM (charSymbols v)).map fun s => mergeLoop v s.flatten.length s.flatten

/-- The longest terminal of a walk that ends at a character boundary: (token, bytes). -/
def lmWalk (t : List Nat) (bounds : List Nat) : List Byte → Nat → Nat → Option (Nat × Nat) → Option (Nat × Nat)
  | [], _, _, best => best
  | b :: bs, i, done, best => match Trie.child t i b with
    | none => best
    | some j =>
      lmWalk t bounds bs j (done + 1)
        (if Trie.terminal (getN t j) && bounds.contains (done + 1) then some (Trie.token (getN t j), done + 1) else best)

/-- Offsets of the ends of characters. -/
def charEnds : List (List Byte) → Nat → List Nat
  | [], _ => []
  | c :: r, o => (o + c.length) :: charEnds r (o + c.length)

/-- Drops whole characters that hold n bytes. -/
def dropChars : List (List Byte) → Nat → List (List Byte)
  | [], _ => []
  | c :: r, n => if n < c.length then c :: r else dropChars r (n - c.length)

/-- Longest-match mode on a piece of characters (R159, R160). -/
def longestGo (v : VocImage) : Nat → List (List Byte) → Bool → List Nat → Option (List Nat)
  | 0, _, _, out => some out
  | _, [], _, out => some out
  | k + 1, c :: r, start, out =>
    let t := if v.hasLm then v.lmTrie else v.maskTrie
    let chars := c :: r
    match (Trie.walk t (if start then [] else v.cont) 0).bind fun i => lmWalk t (charEnds chars 0) chars.flatten i 0 none with
    | some (tok, n) => longestGo v k (dropChars chars n) false (out ++ [tok])
    | none =>
      if v.byteBase = 0xFFFFFFFF then none
      else longestGo v k r false (out ++ c.map fun b => v.byteBase + b.toNat)

/-- Chunks of a piece that is too long (R156): the longest runs of whole characters, at least one. -/
def chunkChars (maxLen : Nat) : List (List Byte) → List (List Byte) → List (List (List Byte))
  | [], cur => if cur.isEmpty then [] else [cur]
  | c :: r, cur =>
    if cur.isEmpty then chunkChars maxLen r [c]
    else if cur.flatten.length + c.length ≤ maxLen then chunkChars maxLen r (cur ++ [c])
    else cur :: chunkChars maxLen r [c]

/-- Splits decoding units into runs of characters and single invalid bytes (R151, R152). -/
def subPieces : List (List Byte × Bool) → List (List Byte) → List (Sum (List (List Byte)) Byte)
  | [], cur => if cur.isEmpty then [] else [.inl cur]
  | (u, true) :: r, cur => subPieces r (cur ++ [u])
  | (u, false) :: r, cur => (if cur.isEmpty then [] else [.inl cur]) ++ .inr (u.headD 0) :: subPieces r []

/-- What the ids depend on. -/
structure Req where
  voc : Option VocImage := none
  mode : Nat := 2
  prog : Prog := .rom 0
  pieceMax : Nat := 65536
  force : Bool := false
  deriving DecidableEq, Repr

/-- The ids of one piece, or a failure status. -/
inductive PieceRes where
  | ids (xs : List Nat)
  | fail (st : Status)
  deriving DecidableEq, Repr

/-- The ids of the characters of one piece in merge-rank or longest-match mode. -/
def charsIds (q : Req) (v : VocImage) (chars : List (List Byte)) : PieceRes :=
  match (if q.mode = modeMerge then mergePiece v chars else longestGo v chars.length chars true []) with
  | some xs => .ids xs
  | none => .fail .noByteFallback

/-- The pieces that a run of characters is, with their normalized bytes: itself, or its chunks when it is too long
(R155, R156). -/
def charsParts (q : Req) (v : VocImage) (chars : List (List Byte)) : List (List Byte × PieceRes) :=
  if q.pieceMax < chars.flatten.length then
    if q.force then (chunkChars q.pieceMax chars []).map fun p => (p.flatten, charsIds q v p)
    else [(chars.flatten, .fail .pieceTooLong)]
  else [(chars.flatten, charsIds q v chars)]

/-- The id of an invalid byte (R151). -/
def badId (v : VocImage) (b : Byte) : PieceRes :=
  if v.byteBase = 0xFFFFFFFF then .fail .noByteFallback else .ids [v.byteBase + b.toNat]

/-- Byte mode: one id per byte (R161). -/
def byteIds (q : Req) (bs : List Byte) : List Nat :=
  bs.map fun b => b.toNat + match q.voc with | some v => v.byteBase | none => 0

/-- The pieces that an emitted piece is: an invalid byte and a chunk are pieces of their own (R151, R156). -/
def pieceParts (q : Req) (bs : List Byte) : List (List Byte × PieceRes) :=
  match q.voc with
  | none => [(bs, .ids (byteIds q bs))]
  | some v =>
    if q.mode = modeByte then [(bs, .ids (byteIds q bs))]
    else (subPieces (decodeUnits bs) []).flatMap fun p => match p with
      | .inl cs => charsParts q v cs
      | .inr b => [([b], badId v b)]

/-- The ids of one piece with its raw range. -/
structure PieceOut where
  start : Nat
  stop : Nat
  ids : List Nat
  deriving DecidableEq, Repr

/-- Whether a piece needs a long-piece area: a part of it that is tokenized whole has more than 8,192 bytes (R173). -/
def pieceLong (q : Req) (bs : List Byte) : Bool :=
  q.mode != modeByte && q.voc.isSome && (subPieces (decodeUnits bs) []).any fun p => match p with
    | .inl cs => (if q.pieceMax < cs.flatten.length then chunkChars q.pieceMax cs [] else [cs]).any fun c =>
        decide (8192 < c.flatten.length)
    | .inr _ => false

/-- What a unit gives: its pieces up to a failure, the failure with its raw offset, faults, instructions, whether it needs a
long-piece area, its input bytes, and the special matches and invalid bytes of its descriptor (R165). -/
structure UnitOut where
  pieces : List PieceOut := []
  long : Bool := false
  fail : Option (Status × Nat) := none
  faults : List Fault3 := []
  retired : Nat := 0
  bytes : Nat := 0
  specials : List (Nat × Nat) := []
  invalid : List Nat := []
  deriving DecidableEq, Repr

/-- The raw offset of normalized byte n of an emitted piece: exact where the piece is as long as its raw bytes; else its
start, or its end for its last byte (log entry 39). -/
def Piece.offset (p : Piece) (n : Nat) : Nat :=
  if p.stop - p.start = p.bytes.length then p.start + n else if n = p.bytes.length then p.stop else p.start

/-- Adds the parts of a piece until one fails; n is the place of the next part. -/
def UnitOut.addParts (p : Piece) : UnitOut → Nat → List (List Byte × PieceRes) → UnitOut
  | u, _, [] => u
  | u, n, (bs, r) :: rest =>
    match r with
    | .fail st => { u with fail := some (st, p.offset n) }
    | .ids xs => UnitOut.addParts p
        { u with pieces := u.pieces ++ [{ start := p.offset n, stop := p.offset (n + bs.length), ids := xs }] } (n + bs.length) rest

/-- Adds pieces until one fails. -/
def UnitOut.addPieces (q : Req) : UnitOut → List Piece → UnitOut
  | u, [] => u
  | u, p :: ps =>
    if u.fail.isSome then u
    else UnitOut.addPieces q (UnitOut.addParts p { u with long := u.long || pieceLong q p.bytes } 0 (pieceParts q p.bytes)) ps

/-- An item that is no character, as a piece of its own (R146, R151). -/
def UnitOut.addItem (q : Req) (u : UnitOut) (it : ScanItem) : UnitOut :=
  let p : Piece := { start := it.ofs, stop := it.ofs + it.bytes.length, bytes := it.bytes }
  match it.kind with
  | .special id => UnitOut.addParts p u 0 [(it.bytes, .ids [id])]
  | _ => UnitOut.addParts p u 0 (pieceParts q it.bytes)

/-- Closes a run of characters: the piece entry, then the mode. -/
def UnitOut.addRun (q : Req) (mem : List (Nat × Byte)) (unitStart : Nat) (u : UnitOut) (run : List ScanItem) : UnitOut :=
  match run with
  | [] => u
  | c :: _ =>
    if u.fail.isSome then u
    else
      let r := runPieces q.prog q.mode mem run (c.ofs == unitStart)
      UnitOut.addPieces q { u with faults := u.faults ++ r.2.1, retired := u.retired + r.2.2 } r.1

/-- The items of a unit in order, a run of characters at a time (R276). -/
def unitGo (q : Req) (mem : List (Nat × Byte)) (unitStart : Nat) : List ScanItem → List ScanItem → UnitOut → UnitOut
  | [], run, u => UnitOut.addRun q mem unitStart u run
  | it :: r, run, u =>
    match it.kind with
    | .char => unitGo q mem unitStart r (run ++ [it]) u
    | _ =>
      let u' := UnitOut.addRun q mem unitStart u run
      if u'.fail.isSome then u'
      else unitGo q mem unitStart r [] (UnitOut.addItem q u' it)

/-- The items of the raw range [a, b). Byte mode decodes each unit by itself, since a cut may fall inside a character. -/
def unitItems (q : Req) (items : List ScanItem) (input : List Byte) (a b : Nat) : List ScanItem :=
  if q.mode = modeByte then (scan none ((input.drop a).take (b - a))).map fun it => { it with ofs := it.ofs + a }
  else items.filter fun it => decide (a ≤ it.ofs) && decide (it.ofs < b)

/-- A job: the units' raw starts with their results, and the faults and instructions of the cut scan. -/
structure JobOut where
  units : List (Nat × UnitOut) := []
  faults : List Fault3 := []
  retired : Nat := 0
  deriving DecidableEq, Repr

/-- Units of the ranges between cuts. -/
def unitRanges (stop : Nat) : List Nat → Nat → List (Nat × Nat)
  | [], a => [(a, stop)]
  | c :: r, a => (a, c) :: unitRanges stop r c

/-- The special matches of a unit, with their offsets, and the offsets of its invalid bytes. -/
def special? (it : ScanItem) : Option (Nat × Nat) := match it.kind with
  | .special id => some (it.ofs, id)
  | _ => none
def invalid? (it : ScanItem) : Option Nat := if it.kind = .bad then some it.ofs else none

/-- Tokenizes an input; `whole` is false when the readable bytes end before the input does (Table 4.2, FABRIC_ERROR): no
position near the end is then decided by the end of input. -/
def run (q : Req) (mem : List (Nat × Byte)) (input : List Byte) (whole : Bool) : JobOut :=
  let items := scan (if q.mode = modeByte then none else q.voc) input
  let chars := winChars items
  let n := if whole then input.length else input.length + 4100
  let env : CutEnv := {
    prog := q.prog, mode := q.mode, input := input, items := items, chars := chars,
    cands := match q.prog with | .rom id => if id = 0 then [] else romCandidates id n chars | .loaded _ => [], partly := !whole,
    mem := mem }
  let cs := env.cuts (input.length / 16384 + 1) 16384 0
  let ranges := unitRanges input.length cs.1 0
  { units := ranges.map fun r =>
      let its := unitItems q items input r.1 r.2
      (r.1, { unitGo q mem r.1 its [] {} with bytes := r.2 - r.1, specials := its.filterMap special?, invalid := its.filterMap invalid? })
    faults := cs.2.1, retired := cs.2.2 }

end Tok

end Sys2Proof.Machine
end

