-- ==== Sys2Proof/Machine/Streams.lean ====
section
/-! DEFINITION. Streams at their token boundaries: ends, boundary text, the commands that take effect there (02 R96, R97),
and the begin of the next service (01, 06, 10). -/

namespace Sys2Proof.Machine

/-! ## What a stream is bound to -/

def State.vocOf (s : State) (x : Stream) : VocImage := (s.slot x.slot).img

/-- A stop set of an owner. -/
def State.stop? (s : State) (o n : Nat) : Option StopSet := s.aut.stops.find? fun p => p.owner == o && p.id == n

def State.stopOf (s : State) (x : Stream) : Option StopSet := x.stop.bind (s.stop? x.owner)

/-- Whether a stream is bound to a FAULTED item (14 R515). -/
def boundFaulted (s : State) (x : Stream) : Bool :=
  (s.slot x.slot).st == .faulted || (x.aut.map fun a => (s.automaton a).st == .faulted).getD false ||
    ((s.stopOf x).map fun p => p.st == .faulted).getD false

/-- At a token boundary: no step in flight, nothing held, no restore (02 R97). -/
def Stream.atBoundary (x : Stream) : Bool := (x.svc == .none || x.svc == .waitUnit) && x.held.isEmpty && !x.restoring

/-- The last committed step, 0xFFFF_FFFF when none has committed. -/
def Stream.lastStep (x : Stream) : Nat := if x.next = 0 then 0xFFFFFFFF else x.next - 1

/-! ## Selection units of a stream -/

/-- Pages of the Logit Buffer in use: captured shards, reservations, draft sets (08 R329, R331, 09 R357). -/
def pagesUsed (s : State) : Nat :=
  (s.fin.units.map fun u => (u.sources.map (·.pages)).sum).sum + (s.ctx.streams.map (·.pagesResv)).sum +
    (s.stp.trees.map (·.setPages)).sum

def pagesFree (s : State) : Nat := s.variant.logitPages - pagesUsed s

/-- Units that count against the limit of 08 Table 8.6: those not closed and not failed, and every unit of a running round (09 R360). -/
def unitsOpen (s : State) : Nat := (s.fin.units.filter fun u =>
  u.st == .open || s.stp.trees.any fun t => t.stream == u.stream && t.step == u.step).length

/-- Opens a unit. -/
def openUnit (s : State) (id step node : Nat) : State :=
  s.onFin fun f => { f with units := f.units ++ [{ stream := id, step := step, node := node }] }

/-- Removes the units of a (stream, step) and frees what they hold. -/
def dropUnits (s : State) (id step : Nat) : State :=
  unpin (s.onFin fun f => { f with
    units := f.units.filter fun u => !(u.stream == id && u.step == step)
    maskGiven := f.maskGiven.filter (· != (id, step)) }) id step

/-- Removes every unit of a stream and frees what they hold. -/
def dropAllUnits (s : State) (id : Nat) : State :=
  (s.onFin fun f => { f with
    units := f.units.filter (·.stream != id), maskGiven := f.maskGiven.filter (·.1 != id) }).onCup fun c => { c with
      entries := (c.entries.filter fun e => (e.priv.map Prod.fst) != some id).map fun e =>
        { e with pins := e.pins.filter (·.1 != id) } }

/-- Pages to capture one unit's values (08 R331, 09 R357). -/
def unitPages (v : Nat) : Nat := ceilDiv (v * 4) 16384

/-- A round ends (09): its pool nodes, units and pages go; the counters of Table 9.6 move. -/
def endRound (s : State) (t : Tree) : State :=
  let s := dropUnits s t.stream t.step
  let s := s.onStream t.stream fun y => { y with pagesResv := 0 }
  s.onStp fun p => { p with
    trees := p.trees.filter (·.stream != t.stream)
    rounds := wrap32 (p.rounds + 1), poolWaits := wrap32 (p.poolWaits + b2n t.waited), nodes := wrap32 (p.nodes + t.nodes.length)
    accepted := wrap32 (p.accepted + t.accepted)
    confirmed := wrap32 (p.confirmed + t.confirmed)
    pruned := wrap32 (p.pruned + (t.nodes.filter (·.pruned)).length)
    failRoot := satAdd p.failRoot (b2n t.rootFailed) 65535
    failNode := satAdd p.failNode (b2n t.nodeFailed) 65535
    hist := modAt p.hist t.accepted fun n => wrap32 (n + 1) }

/-! ## Automaton events (06 R220, R237) -/

/-- The lines of the spill area that hold the transitions of a spilled state: each list starts on a 128-byte boundary (R236). -/
def spillLines (a : Automaton) (q : Nat) : List Nat :=
  let size := fun i => roundUp (8 * (getN a.img.states i).trans.length) 128
  linesOf (a.spillAddr + ((List.range (q - a.firstSpilled)).map fun i => size (a.firstSpilled + i)).sum)
    (8 * (getN a.img.states q).trans.length)

/-- The spill area lines that the work of a stream reads when it reads the transitions of some states. -/
def spillNeeds (s : State) (x : Stream) (qs : List Nat) : List Nat :=
  match x.aut with
  | some n => (qs.eraseDups.flatMap (spillLines (s.automaton n))).eraseDups
  | none => []

/-- Whether they, and those that the work has asked for, are here (00 R2). -/
def spillHere (s : State) (x : Stream) (qs : List Nat) : Bool :=
  (x.spill ++ spillNeeds s x qs).all fun l => match lineOf s (.spillRead x.id) l with
    | some (some _) => true
    | _ => false

/-- Asks for one of them; a line that read with an error is asked for again (log entry 81). -/
def fetchSpill (id : Nat) (s : State) (l : Nat) : State :=
  let s := if lineOf s (.spillRead id) l = some none then
    s.onFab fun f => { f with lines := f.lines.filter fun e => !(e.1 == .spillRead id && e.2.1 == l) } else s
  fetchLine s (.spillRead id) l

/-- The work of a stream asks for the transitions of spilled states. -/
def askSpill (s : State) (x : Stream) (qs : List Nat) : State :=
  let now := ((s.stream? x.id).map (·.spill)).getD []
  let ls := (now ++ spillNeeds s x qs).eraseDups
  ls.foldl (fetchSpill x.id) (s.onStream x.id fun y => { y with spill := ls })

/-- The lines that a stream's work has read leave, each decrypted (12 R458); or unread, where the work is given up. -/
def dropSpill (s : State) (id : Nat) : State := dropLines (s.onStream id fun y => { y with spill := [] }) (.spillRead id)

def takeSpill (s : State) (id : Nat) : State :=
  let n := ((s.stream? id).map (·.spill.length)).getD 0
  if n = 0 then s else dropSpill (s.onCry fun c => { c with linesDec := c.linesDec + n }) id

/-- Counts spilled reads that raise no event: those of Steeple (09 R359), those of a program without home work. -/
def countReads (s : State) (r : Stepped) : State :=
  s.onAut fun a => { a with spillReads := wrap32 (a.spillReads + r.read.length) }

/-- Raises the events of a stepping that the home turret did for a stream. -/
def stepEvents (s : State) (x : Stream) (n : Nat) (r : Stepped) (step : Nat) : State :=
  let s := r.cells.foldl (fun s k => raiseHome (s.onAut fun a => { a with evStack := satAdd a.evStack 1 255 }) x 0x0005 step
    (n + 65536 * k)) s
  let s := r.confDrops.foldl (fun s k => raiseHome (s.onAut fun a => { a with evConf := satAdd a.evConf 1 255 }) x 0x0004 step
    (n + 256 * min k 255)) s
  let s := countReads s r
  match r.read.head? with
  | some q =>
    if x.spillSaid then s
    else raiseHome (s.onStream x.id fun y => { y with spillSaid := true }) x 0x0006 step (n + 4294967296 * q)
  | none => s

/-! ## Ends -/

/-- Puts the END token record of R41 on the egress port. -/
def emitEnd (s : State) (x : Stream) (step : Nat) : State := emitToken s x.id step 0xFFFFFFFF (tokenFlags true false false false)

/-- The stream is ended, or ended when it is resumed; its END token record goes out unless it is out. -/
def markEnd (s : State) (x : Stream) (reason step : Nat) : State :=
  let s := if x.endOut then s else emitEnd s x step
  s.onStream x.id fun y =>
    let y := { y with
      endReason := reason, armed := some 0, armSpent := false, svc := .none, text := {}, held := [], pagesResv := 0
      waitPages := false, waitCup := false, forcedEos := false, endDue := 0, endOut := false }
    if y.st == .suspended then { y with prior := .ended } else { y with st := .ended }

/-- The group of an end at a token boundary: the released text, then END (11 R413). -/
def boundaryEnd (x : Stream) (reason : Nat) : List (List Byte) :=
  textRecord true x.id x.lastStep (endText x.utf8Raw x.text) ++ [endRecord x.id x.lastStep reason]

/-- Ends a stream at its token boundary; none while its queue lacks room. -/
def endAtBoundary (s : State) (x : Stream) (reason : Nat) : Option State :=
  let g := boundaryEnd x reason
  if queueRoom s x g then some (markEnd (publish s x g) x reason x.next) else none

/-- Forgets a stream: its reservation, units, pins, tree, and its id (10 R377). -/
def freeStream (s : State) (x : Stream) : State :=
  let s := match s.tree? x.id with
    | some t => endRound s t
    | none => s
  let s := releaseResv (writeStream s x) x
  let s := (dropAllUnits s x.id).onFin fun f => { f with maskQueue := f.maskQueue.filter (·.1 != x.id) }
  let s := s.onStp fun p => { p with
    trees := p.trees.filter (·.stream != x.id), waiting := p.waiting.filter (·.stream != x.id) }
  dropLines (s.dropStream x.id) (.spillRead x.id)

/-- The END record of a close, when no other reason ended the stream before (11 R413). -/
def closeGroup (x : Stream) (abort : Bool) : List (List Byte) :=
  (if abort then [] else textRecord true x.id x.lastStep (endText x.utf8Raw x.text)) ++
    if x.endReason = 0 then [endRecord x.id x.lastStep 6] else []

/-- The end reason that a close reports. -/
def closeReason (x : Stream) : Nat := if x.endReason = 0 then 6 else x.endReason

/-- A STREAM_CLOSE takes effect (10 R377); none while its queue lacks room. -/
def closeStream (s : State) (x : Stream) (c : Cmd) (abort : Bool) : Option State :=
  let g := closeGroup x abort
  if queueRoom s x g then
    some (complete (freeStream (publish s x g) x) c Status.ok.code x.lastStep (closeReason x) 0)
  else none

/-! ## Epochs (10 R386, R390) -/

/-- Whether an epoch is in its owner's revoked list. -/
def epochRevoked (s : State) (o e : Nat) : Bool := (s.owner o).revoked.any (·.1 == e)

/-- The epoch that a pending one becomes: the FALLBACK of the revoke that listed it. -/
def epochTaken (s : State) (o e : Nat) : Nat :=
  (List.range 17).foldl (fun e _ => (((s.owner o).revoked.find? (·.1 == e)).map Prod.snd).getD e) e

/-- Whether a command sets an epoch: EPOCH_SET or EPOCH_REVOKE. -/
def setsEpoch (s : State) (t : Nat) : Bool := ((s.cmd? t).map fun c => c.opcode == 0x28 || c.opcode == 0x29).getD false

/-- A stream at its boundary takes an epoch; nothing stays pending unless another recorded command sets one. -/
def setEpoch (s : State) (x : Stream) (e ticket : Nat) : State :=
  s.onStream x.id fun y => { y with
    epoch := epochTaken s x.owner e, ckptDue := true
    pendEpoch := if x.recorded.any fun t => t != ticket && setsEpoch s t then y.pendEpoch else none }

/-- A stream at its boundary takes its pending epoch, unless a recorded command that sets one has not taken effect. -/
def takeEpoch (s : State) (x : Stream) : State :=
  match x.pendEpoch with
  | none => s
  | some e => if x.recorded.any (setsEpoch s) then s
    else s.onStream x.id fun y => { y with epoch := epochTaken s x.owner e, pendEpoch := none, ckptDue := true }

/-! ## Commands at a boundary -/

/-- The SELECT groups of STREAM_PARAMS (02 Table 2.15). -/
def Cmd.sel (c : Cmd) (g : Nat) : Bool := (c.le 16 2).testBit g

def Cmd.word (c : Cmd) (i : Nat) : Word := BitVec.ofNat 32 (c.le i 4)

/-- The bias pairs of a table's bytes. -/
def biasPairs (bs : List Byte) : List (Nat × Word) := (groupsOf 8 bs).map fun e => (getLE e 0 4, BitVec.ofNat 32 (getLE e 4 4))

/-- The parameters that a STREAM_PARAMS leaves (02 R85, 08 R305, R321, 06 R224, 05 R195). -/
def applyParams (s : State) (c : Cmd) (bias : List (Nat × Word)) (x : Stream) : Stream :=
  let x := if c.sel 0 then
    { x with temp := c.word 24, topK := c.le 22 2, topP := c.word 28, minP := c.word 32
             recip := if F32.mag (c.word 24) = 0 then F32.one else F32.recip (c.word 24)
             lnMinP := F32.ln (c.word 32) } else x
  let x := if c.sel 1 then { x with maxNew := some (c.le 36 4), gen := 0 } else x
  let x := if c.sel 2 then { x with deadPolicy := c.b 18 % 4, utf8Raw := c.bit 18 2 } else x
  let x := if c.sel 3 then { x with bias := bias } else x
  let x := if c.sel 4 then
    { x with stop := if c.bit 20 7 then none else some (c.b 19), text := { carry := x.text.carry } } else x
  if c.sel 5 then
    if c.bit 20 6 then { x with aut := none }.putSet []
    else { x with aut := some (c.b 20 % 64), spillSaid := false }.putSet (startSet (s.automaton (c.b 20 % 64)).img)
  else x

/-- OK, or DEGRADED_SPILL for a binding to a spilled automaton (06 R237). -/
def bindStatus (s : State) (a : Option Nat) : Status :=
  if (a.map fun n => (s.automaton n).spilled).getD false then .degradedSpill else .ok

/-- The group of a STREAM_PARAMS: MAX_NEW_TOKENS 0 ends the stream, a change of stop set releases the holdback (11 R413). -/
def paramsGroup (x : Stream) (c : Cmd) : List (List Byte) :=
  if c.sel 1 && c.le 36 4 == 0 && x.endReason == 0 then boundaryEnd x 3
  else textRecord true x.id x.lastStep (if c.sel 4 then x.text.hold else [])

/-- What a recorded command waits for at its boundary. -/
inductive Hold where
  /-- bytes of external memory -/
  | bytes (addr len : Nat)
  /-- queue room for a group (11 R419) -/
  | room (group : List (List Byte))
  /-- room in the stream's ring; a group for its queue is reserved (10 R397) -/
  | ring (group : List (List Byte))
  /-- the stream's first checkpoint (14 R519) -/
  | first
  /-- transitions of spilled states (06 R237) -/
  | spill (states : List Nat)
  /-- the steal units of a prompt, which the home turret posts first (04 R178) -/
  | units (j : Job)
  /-- the long-piece area of the home turret's cluster (04 R173) -/
  | area
  /-- pool nodes, units or pages for a tree (09 R353, 08 R334) -/
  | tree (nodes : Nat)
  /-- a row of its own: a DRAFT is attached by DRAFT_TREE_ATTACH -/
  | row
  deriving DecidableEq, Repr

/-- STREAM_PARAMS takes effect; it waits while text or an end finds no room. A binding recorded before a drop of the item, which looks
only at the bindings in force, binds what is left of it (02 R100; log entry 82). -/
def effectParams (s : State) (x : Stream) (c : Cmd) : Except Hold State :=
  let bias := match readBytes s (.command c.ticket) (c.le 40 8) (8 * (c.b 48 % 128)) with
    | .got bs => biasPairs bs
    | _ => []
  let stepsEnd := c.sel 1 && c.le 36 4 == 0 && x.endReason == 0
  let g := paramsGroup x c
  if !queueRoom s x g then .error (.room g)
  else
    let s := publish s x g
    let s := s.onStream x.id fun y =>
      let y := { applyParams s c bias y with ckptDue := true }
      if y.st == .deadEnd then { y with st := .running, rebuild := true } else y
    let s := match s.stream? x.id with
      | some y => if stepsEnd then markEnd s y 3 y.next else s
      | none => s
    .ok (complete s c (if c.sel 5 && !c.bit 20 6 then bindStatus s (some (c.b 20 % 64)) else Status.ok).code x.next 0 0)

/-- The ROM default program of a mode (07 Table 7.7). -/
def romDefault (mode : Nat) : Nat := if mode = 0 then 1 else if mode = 1 then 2 else 0

/-- The program that a request runs: a PROG of 0xFF names the slot's default, or the ROM's (03 R137, 07 R282). -/
def pickProgram (s : State) (v : Option VocImage) (mode prog : Nat) : Except Status Tok.Prog :=
  let d := match v with
    | none => 0xFF
    | some v => if mode = 0 then v.defMr else if mode = 1 then v.defLm else v.defByte
  let id := if prog ≠ 0xFF then prog else if d ≠ 0xFF then d else romDefault mode
  if id < 3 then .ok (.rom id)
  else if 8 ≤ id ∧ id ≤ 31 then (if id ≤ 16 then .error .badField else .error .noProgram)
  else match s.aut.progs.find? (·.id == id) with
    | some p => if p.st == .faulted then .error .digestMismatch else if p.st == .loaded then .ok (.loaded p) else .error .noProgram
    | none => .error .noProgram

/-- Whether a slot serves a mode (03 Table 3.6). -/
def modeStatus (v : VocImage) (mode : Nat) : Option Status :=
  if mode = 0 ∧ v.mergeCount = 0 then some .badField
  else if mode = 2 ∧ v.byteBase = 0xFFFFFFFF then some .noByteFallback
  else none

/-- PROGRAM_FAULT events of work run by a physical turret (07 R274). -/
def programFaults (s : State) (p stream tag ring prog : Nat) (fs : List Tok.Fault3) : State :=
  fs.foldl (fun s f =>
    let s := s.onTurret p fun t => { t with
      fault := f.1 + 256 * prog + 65536 * (f.2.2 % 4096), faultCount := satAdd t.faultCount 1 4294967295 }
    raiseFrom s p 0x0402 stream tag (f.1 + 256 * prog + 65536 * f.2.2 + 268435456 * f.2.1 + 68719476736 * ring)) s

/-- The id of a program. -/
def progId : Tok.Prog → Nat
  | .rom n => n
  | .loaded p => p.id

/-- Turret p enters a job's program (07 R266). -/
def enterProgram (s : State) (p : Nat) : Tok.Prog → State
  | .rom _ => s
  | .loaded q => s.onTurret p fun t => t.enters q

/-- Turret p has run a job's program: it holds it, the exceptions are reported, the instructions counted (07 R266, R274). -/
def programRan (s : State) (p stream tag ring : Nat) (prog : Tok.Prog) (fs : List Tok.Fault3) (retired : Nat) : State :=
  let s := if retired = 0 ∧ fs.isEmpty then s else enterProgram s p prog
  (programFaults s p stream tag ring (progId prog) fs).onTurret p fun t => { t with instr := wrap32 (t.instr + retired) }

/-- A slot that work names: loaded, or the status (03 R134, R135, 14 R515). -/
def jobSlot (s : State) (n : Nat) : Option Status :=
  match (s.slot n).st with
  | .loaded => none
  | .faulted => some .digestMismatch
  | _ => some .noSlot

/-- A prompt's tokenization: its ids, or the status that takes in none; the exceptions of its programs, the instructions that they
retired, the program, the units with the input where each starts. -/
structure Prompted where
  ids : Except Status (List Nat)
  faults : List Tok.Fault3 := []
  retired : Nat := 0
  prog : Tok.Prog := .rom 0
  units : List (Nat × Tok.UnitOut) := []

/-- Tokens of a prompt (04 R178 to R180). -/
def promptTokens (s : State) (x : Stream) (c : Cmd) (bs : List Byte) : Prompted :=
  let v := s.vocOf x
  if !c.bit 16 0 then
    let ids := leWords 4 bs
    { ids := if ids.all (· < v.v) then .ok ids else .error .badField }
  else
    let mode := c.b 16 / 2 % 4
    match modeStatus v mode with
    | some st => { ids := .error st }
    | none => match pickProgram s (some v) mode 0xFF with
      | .error st => { ids := .error st }
      | .ok prog =>
        let mem := ((enterProgram s (s.physOf x.home) prog).turret (s.physOf x.home)).core.mem
        let r := Tok.run { voc := some v, mode := mode, prog := prog, pieceMax := 65536, force := false } mem bs true
        let fail := r.units.findSome? fun u => u.2.fail
        { ids := match fail with
            | some f => .error f.1
            | none => .ok (r.units.flatMap fun u => u.2.pieces.flatMap (·.ids))
          faults := r.faults ++ r.units.flatMap fun u => u.2.faults
          retired := r.retired + (r.units.map fun u => u.2.retired).sum
          prog := prog, units := r.units }

/-- The home turret has run a prompt's programs: their exceptions are reported, their instructions counted (07 R274). -/
def promptRan (s : State) (x : Stream) (c : Cmd) (r : Prompted) : State :=
  programRan s (s.physOf x.home) x.id c.tag c.ring r.prog r.faults r.retired

/-- Whether a prompt is shared or needs the long-piece area: more than 16,384 bytes of text, or a long piece (04 R173, R178). -/
def promptLong (r : Prompted) : Bool := r.units.any fun u => u.2.long
def promptShared (r : Prompted) (n : Nat) : Bool := decide (16384 < n) && !r.units.isEmpty

/-- The tokenization of a prompt as the board sees it: led by the home turret. -/
def promptJob (s : State) (x : Stream) (c : Cmd) (r : Prompted) (n : Nat) : Job :=
  { ticket := c.ticket, cluster := x.home / 16, lead := s.physOf x.home, input := n, reading := true, prompt := true
    slots := [x.slot], prog := some (progId r.prog)
    units := if promptShared r n then r.units.map fun u =>
        { input := u.2.bytes, specials := u.2.specials, invalid := u.2.invalid, longPiece := u.2.long } else [] }

/-- Steps a stream's set by tokens, with the events. -/
def advanceSet (s : State) (x : Stream) (ts : List Nat) : Stepped :=
  match x.aut with
  | none => { set := x.set }
  | some n => ts.foldl (fun r t => stepToken (s.automaton n) (s.vocOf x) r t) { set := x.set }

/-- n records of a revoked epoch that commit while its EPOCH_REVOKE runs are counted (10 R388). -/
def countRevoked (s : State) (x : Stream) (n : Nat) : State :=
  if !x.record || !epochRevoked s x.owner x.epoch then s
  else
    let s := s.onPkr fun p => { p with revokeMarks := wrap32 (p.revokeMarks + n) }
    let hit := fun c : Cmd => c.opcode == 0x29 && (c.phase == .recorded || c.phase == .executing) && c.owner == x.owner && c.le 20 4 == x.epoch
    s.onRng fun r => { r with cmds := modWhere r.cmds hit fun c => { c with n0 := c.n0 + n } }

/-- The entry that a token of a prompt writes, marked when its epoch is revoked (10 R389, R393, R395). -/
def promptEntry (x : Stream) (v : VocImage) (t step : Nat) (revoked : Bool) : Staged :=
  { bytes := if x.record then
      recordOf x t step (recordFlags true false (v.isEos t) false false false none + b2n revoked) 0 0 0
    else replayOf x t
    stream := x.id, step := step, epoch := x.epoch }

/-- A commit waits for its ring, once per wait with the event (10 R397). -/
def ringWait (s : State) (x : Stream) : State :=
  if x.waitRing then s
  else
    let s := s.onPkr fun p => { p with fullWaits := wrap32 (p.fullWaits + 1) }
    raiseHome (s.onStream x.id fun y => { y with waitRing := true }) x 0x0A02 x.next (x.owner + 64 * b2n (!x.record))

/-- Commits a prompt's tokens (10 R382). A checkpoint that an earlier command of the boundary asks for comes first (R395). -/
def commitPrompt (s : State) (x : Stream) (c : Cmd) (ts : List Nat) (read : Nat) : Except Hold State :=
  let g := textRecord true x.id x.lastStep (endText x.utf8Raw x.text)
  let r := if c.bit 16 3 then advanceSet s x ts else { set := x.set }
  if x.waitCkpt then .error .first
  else if !spillHere s x r.read then .error (.spill r.read)
  else if !queueRoom s x g then .error (.room g)
  else if !ringRoom s x.owner (!x.record) ts.length then .error (.ring g)
  else
    let v := s.vocOf x
    let s := if x.ckptDue then takeCkpt s x else s
    let s := takeSpill (publish s x g) x.id
    let s := stepEvents s x (x.aut.getD 0) r x.next
    let es := (List.range ts.length).map fun i => promptEntry x v (getN ts i) (x.next + i) (epochRevoked s x.owner x.epoch)
    let s := s.onStream x.id fun y => { (y.putSet r.set) with
      next := y.next + ts.length, token := ts.getLast?.or y.token, text := {}, gen := 0, waitRing := false, waitQueue := false
      ckptDue := true, ckptSteps := y.ckptSteps + ts.length, idleSaid := false
      armed := if y.st == .ended || (y.st == .suspended && y.prior == .ended) then some 0 else y.armed
      st := if y.st == .ended then .idle else y.st
      prior := if y.st == .suspended && y.prior == .ended then .idle else y.prior
      endReason := 0 }
    let s := countRevoked (stage s x.owner (!x.record) es) x ts.length
    .ok (complete (dropJob s c.ticket) c Status.ok.code (x.next + ts.length) ts.length read)

/-- The bytes that a PROMPT reads. -/
def Cmd.promptLen (c : Cmd) : Nat := if c.bit 16 0 then c.len32 else 4 * c.len32

/-- PROMPT takes effect (10 R381 to R383, 03 R135): the slot first, then the read, then mode and program (log entry 83). -/
def effectPrompt (s : State) (x : Stream) (c : Cmd) : Except Hold State :=
  let n := c.promptLen
  match jobSlot s x.slot with
  | some st => .ok (reject s c st x.next)
  | none => match readBytes s (.command c.ticket) c.addr24 n with
    | .wait => .error (.bytes c.addr24 n)
    | .err => .ok (reject s c .fabricError x.next)
    | .got bs =>
      let r := promptTokens s x c bs
      let w := (x.home / 16, c.ticket)
      if (promptShared r n || promptLong r) && (s.job? c.ticket).isNone then .error (.units (promptJob s x c r n))
      else if promptLong r && !s.cup.longPiece.contains w then .error .area
      else match r.ids with
        | .error st => .ok (reject (dropJob (promptRan s x c r) c.ticket) c st x.next)
        | .ok ts =>
          let ring := (s.ownPkr x.owner).ring (!x.record)
          if 0xFFFFFFFD < x.next + ts.length ∨ ring.entries (!x.record) < ts.length + 1024 then
            .ok (reject (dropJob (promptRan s x c r) c.ticket) c .badField x.next)
          else (commitPrompt s x c ts n).map fun t => promptRan t x c r

/-- STEP_ARM takes effect (10 R384). -/
def effectArm (s : State) (x : Stream) (c : Cmd) : State :=
  if c.le 20 4 ≠ 0xFFFFFFFF ∧ c.le 20 4 ≠ x.next then reject s c .stepMismatch x.next
  else
    let s := s.onStream x.id fun y => { y with
      armed := if c.le 16 4 = 0 then none else some (c.le 16 4), idleSaid := false, ckptDue := true
      st := if y.st == .idle then .running else y.st
      prior := if y.st == .suspended && y.prior == .idle then .running else y.prior }
    complete s c Status.ok.code x.next (c.le 16 4) 0

/-- The low half of a stream's tag: the CRC-32C of its context with bytes 0x1C0 to 0x27F taken as 0 (14 R527). -/
def contextTag (x : Stream) : Nat :=
  crc32c (contextBytes x.image)

/-- Suspends a stream at its boundary (14 R526); a suspended one stays as it is. -/
def suspendStream (s : State) (x : Stream) (cause : SuspCause) : State :=
  if x.st == .suspended then writeStream s x
  else (writeStream s x).onStream x.id fun y => { y with
    st := .suspended, prior := y.st, cause := cause, susTag := contextTag y, svc := .none, ckptDue := true }

/-- An owner-wide command, or EPOCH_REVOKE, reaches one more of its streams. -/
def reached (s : State) (c : Cmd) (id : Nat) : State :=
  let s := dropWait s c.ticket id
  match s.cmd? c.ticket with
  | none => s
  | some c' =>
    if c.opcode = 0x29 then revokeEnd s c.ticket
    else if c'.waits.isEmpty then complete s c' Status.ok.code 0 c'.n0 c'.n1 else s

/-- What is recorded behind a STREAM_CLOSE that took effect waits for the stream no longer; an EPOCH_REVOKE no longer counts it
(02 R98, 10 R388). -/
def leaveRecorded (s : State) (x : Stream) : State :=
  x.recorded.foldl (fun s t => match s.cmd? t with
    | some d =>
      if d.opcode = 0x29 then reached (s.onCmd t fun c => { c with n1 := c.n1 - 1 }) d x.id
      else if d.opcode = 0x28 then reached s d x.id
      else s
    | none => s) s

/-- A recorded command takes effect at the boundary of its stream, or waits. DRAFT waits for DRAFT_TREE_ATTACH. -/
def takeEffect (s : State) (x : Stream) (c : Cmd) : Except Hold State :=
  match c.opcode with
  | 0x21 => effectParams s x c
  | 0x22 => effectPrompt s x c
  | 0x23 => .ok (effectArm s x c)
  | 0x25 =>
    match closeStream s x c (c.bit 16 0) with
    | some t => .ok (leaveRecorded t { x with recorded := x.recorded.filter (· != c.ticket) })
    | none => .error (.room (closeGroup x (c.bit 16 0)))
  | 0x28 =>
    let s := setEpoch s x (c.le 20 4) c.ticket
    if c.ownerWide then .ok (reached s c x.id) else .ok (complete s c Status.ok.code x.next 0 0)
  | 0x29 => .ok (reached (setEpoch s x (c.le 24 4) c.ticket) c x.id)
  | 0x41 =>
    let t := s.onStream x.id fun y => { y with recorded := y.recorded.filter (· != c.ticket) }
    .ok (takeCkpt t x)
  | 0x42 =>
    let t := suspendStream s x .bySuspend
    if c.ownerWide then .ok (reached t c x.id) else .ok (complete t c Status.ok.code x.next 0 0)
  | _ => .error .row

/-- The wait of a recorded command begins. -/
def beginHold (s : State) (x : Stream) (c : Cmd) : Hold → State
  | .bytes a n => fetchBytes s (.command c.ticket) a n
  | .room g => queueWait s x g
  | .ring g => ringWait (reserve s x g) x
  | .first => if x.ckptDue && x.ckptPend.isEmpty then takeCkpt s x else s
  | .spill qs => askSpill s x qs
  | .units j => postUnits ((ungate s j.lead).onJob fun js => { js with js := js.js ++ [j] }) j.ticket
  | .area => match s.job? c.ticket with
    | some j => askArea s j
    | none => s
  | .tree n =>
    if s.stp.waiting.any (·.ticket == c.ticket) then s
    else s.onStp fun p => { p with waiting := p.waiting ++ [{
      ticket := c.ticket, stream := x.id, nodes := n
      pool := decide (s.variant.poolNodes < (p.trees.map (·.nodes.length)).sum + n) }] }
  | .row => s

/-- Whether a recorded command waits for the end of the round whose tree has been attached at this boundary: it would move or
hold the step that the tree drafts (02 R96, 09 R351, R370; log entry 37). -/
def behindDraft (s : State) (x : Stream) (c : Cmd) : Bool :=
  (s.tree? x.id).isSome && (c.opcode == 0x22 || c.opcode == 0x25 || c.opcode == 0x42 ||
    (c.opcode == 0x21 && ((c.sel 1 && c.le 36 4 == 0) || (c.sel 4 && !x.text.hold.isEmpty))))

/-- Whether the recorded commands that remain let the next service begin. -/
def recordedOver (s : State) (x : Stream) : Bool :=
  match x.recorded with
  | [] => true
  | t :: _ => ((s.cmd? t).map (behindDraft s x)).getD true

/-- How a DRAFT takes effect at a boundary. -/
abbrev Attach := State → Stream → Cmd → Except Hold State

/-- Recorded commands take effect together, in ring order (02 R96, R108): the state with them in force, or the command that must wait
and what it waits for. The PROMPT that ends one token boundary leaves another, at which a second PROMPT takes effect (log entry 84).
The fuel is their number. -/
def applySegment (draft : Attach) : Nat → State → Nat → Bool → Except (Nat × Hold) State
  | 0, s, _, _ => .ok s
  | n + 1, s, id, prompted => match s.stream? id with
    | none => .ok s
    | some x =>
      if !x.atBoundary then .ok s
      else match x.recorded with
        | [] => .ok s
        | t :: rest => match s.cmd? t with
          | none => applySegment draft n (s.onStream id fun y => { y with recorded := rest }) id prompted
          | some c =>
            if behindDraft s x c || (prompted && c.opcode == 0x22) then .ok s
            else match (if c.opcode = 0x24 then draft s x c else takeEffect s x c) with
              | .error h => .error (t, h)
              | .ok s' => applySegment draft n
                  (s'.onStream id fun y => { y with recorded := y.recorded.filter (· != t), idleSaid := false }) id
                  (prompted || c.opcode == 0x22)

/-- Whether a stream may take queue room now: it waited longest, or nobody waits, or it has reserved some (11 R420). -/
def hasTurn (s : State) (x : Stream) : Bool := reserved s x || (s.queue x.queue).waiters.headD x.id == x.id

/-- The groups of one boundary take room together: while they do, the stream's queue shows it no other waiter. -/
def inTurn (s : State) (x : Stream) : State :=
  if hasTurn s x then (s.onQueue x.queue fun q => { q with waiters := [] }).onStream x.id fun y => { y with waitQueue := false } else s

/-- The other waiters are in line again. -/
def outTurn (before s : State) (x : Stream) : State :=
  if hasTurn before x then
    s.onQueue x.queue fun q => { q with waiters := (before.queue x.queue).waiters.filter (· != x.id) } else s

/-- Applies recorded commands as far as none must wait; the fuel is their number. -/
def applyRecorded (draft : Attach) : Nat → State → Nat → State
  | 0, s, _ => s
  | n + 1, s, id => match s.stream? id with
    | none => s
    | some x =>
      if !x.atBoundary || x.recorded.isEmpty then s
      else match applySegment draft (x.recorded.length + 1) (inTurn s x) id false with
        | .ok t => applyRecorded draft n (outTurn s t x) id
        | .error w => match s.cmd? w.1 with
          | some c => beginHold s x c w.2
          | none => s

/-! ## The next service -/

/-- A plain step fails at its boundary: FAIL on the egress port, STEP_FAILED (08 R317). -/
def failStep (s : State) (x : Stream) : State :=
  let s := emitToken (dropSpill (dropAllUnits s x.id) x.id) x.id x.next 0xFFFFFFFF (tokenFlags false true false false)
  s.onStream x.id fun y => { y with
    st := .stepFailed, svc := .none, held := [], pagesResv := 0, waitPages := false, waitCup := false, forcedEos := false }

/-- The keys that a service looks up: the root's, and those of the nodes of a round. -/
def serviceKeys (s : State) (x : Stream) : List CupKey :=
  match x.aut with
  | none => []
  | some n =>
    let nodes := match s.tree? x.id with
      | some t => (t.nodes.filter (!·.pruned)).map (·.set)
      | none => []
    ((x.set :: nodes).flatMap (setKeys n (s.automaton n).img)).eraseDups

/-- A service waits for Cupola space: counted and reported once for a plain build or a root, silently for a draft node (06 R246,
09 R359). -/
def waitSpace (s : State) (x : Stream) (root : Bool) : State :=
  if x.waitCup then s
  else
    let s := s.onStream x.id fun y => { y with waitCup := true }
    if !root then s
    else raiseHome (s.onCup fun c => { c with pressure := wrap32 (c.pressure + 1) }) x 0x0A03 x.next (x.aut.getD 0)

/-- Whether a key is one of the stream's own set: the root's. -/
def rootKey (s : State) (x : Stream) (k : CupKey) : Bool :=
  (x.aut.map fun n => (setKeys n (s.automaton n).img x.set).contains k).getD false

/-- The events and reads of the fills that a service has started (06 R220, R237, 09 R359); the transitions of spilled states are
asked for. -/
def fillEvents (s : State) (x : Stream) (fs : List (CupKey × Stepped)) : State :=
  fs.foldl (fun s f =>
    let s := askSpill s x f.2.read
    if rootKey s x f.1 then stepEvents s x (x.aut.getD 0) f.2 x.next else countReads s f.2) s

/-- Looks up the keys of a service; a lookup that finds no space waits (06 R246). -/
def lookService (s : State) (x : Stream) (keys : List CupKey) : State × Bool :=
  let r := lookupKeys (s.physOf x.home) keys s true
  let t := fillEvents r.1 x r.2.2.2
  match r.2.2.1 with
  | some k => (waitSpace t x (rootKey s x k), false)
  | none => (t.onStream x.id fun y => { y with waitCup := false }, r.2.1)

/-- Speculative sets and the pruning that follows from empty ones (09 R355, R356), with the spilled states read. -/
def speculate (s : State) (x : Stream) (ns : List DraftNode) : List DraftNode × List Nat :=
  ns.foldl (fun (acc : List DraftNode × List Nat) n =>
    let up := if n.parent = 0x7F then ({ set := x.set } : DraftNode) else getN acc.1 n.parent
    let r : Stepped := match x.aut with
      | none => {}
      | some a => stepToken (s.automaton a) (s.vocOf x) { set := up.set } n.token
    (acc.1 ++ [{ n with set := r.set, pruned := up.pruned || (x.aut.isSome && r.set.isEmpty) }], acc.2 ++ r.read)) ([], [])

/-- The node sets of an attached tree, formed from the set in force when the round begins (09 R355). -/
def formSets (s : State) (x : Stream) : State :=
  match s.tree? x.id with
  | none => s
  | some t =>
    let ns := speculate s x t.nodes
    let s := countReads (askSpill s x ns.2) { read := ns.2 }
    let s := s.onTree x.id fun t => { t with nodes := ns.1 }
    (List.range ns.1.length).foldl (fun s n => s.onUnit x.id t.step n fun u => { u with noMask := (getN ns.1 n).pruned }) s

/-- A stream bound to a FAULTED item waits in STEP_FAILED; its round ends (14 R515, 09 R353). -/
def faultedStep (s : State) (x : Stream) : State :=
  let s := match s.tree? x.id with
    | some t => endRound s t
    | none => s
  (dropSpill (dropAllUnits s x.id) x.id).onStream x.id fun y => { y with st := .stepFailed, svc := .none }

/-- Begins the mask build of a stream's next step (01, 08 R334, 14 R515). A root that opened early and has failed fails its round (09
R365). -/
def beginBuild (s : State) (x : Stream) : State :=
  if boundFaulted s x then faultedStep s x
  else
    let build := fun s : State =>
      let s := formSets (ungate s (s.physOf x.home)) x
      (lookService (s.onStream x.id fun y => { y with st := .running, svc := .build }) x (serviceKeys s x)).1
    match s.unit? x.id x.next 0x7F with
    | some u =>
      if u.st == .failed then failStep (match s.tree? x.id with
        | some t => endRound s { t with rootFailed := true }
        | none => s) x
      else build s
    | none =>
      if 16384 ≤ unitsOpen s then s.onStream x.id fun y => { y with st := .running, svc := .waitUnit }
      else build (openUnit s x.id x.next 0x7F)

/-- Whether a stream's checkpoint is due at this boundary (14 R519). -/
def ckptIsDue (s : State) (x : Stream) : Bool :=
  !x.lost && (x.ckptDue || (s.lan.ckTokens.v != 0 && decide (s.lan.ckTokens.v ≤ x.ckptSteps)))

/-- FIN_RESULT_CTL of a stream's owner takes effect at its token boundary (08 R337). -/
def resultControl (s : State) (id : Nat) : State :=
  s.onStream id fun y =>
    let ctl := getN s.fin.resultCtl y.owner
    { y with resultOn := ctl % 2 == 1, resultTop := ctl / 2 % 128 }

/-- A stream at its boundary with no command left: epoch, result records, checkpoint, then the next step or IDLE. -/
def serve (s : State) (id : Nat) : State :=
  match s.stream? id with
  | none => s
  | some x =>
    if !x.atBoundary then s
    else
      let s := resultControl (takeEpoch s x) id
      match s.stream? id with
      | none => s
      | some x =>
        let s := if ckptIsDue s x && recordedOver s x then takeCkpt s x else s
        if !recordedOver s x then s
        else match s.stream? id with
          | none => s
          | some x => match x.st with
            | .running | .idle =>
              if (s.tree? id).isSome || x.armed != some 0 || x.armSpent || x.rebuild then
                beginBuild (s.onStream id fun y => { y with rebuild := false }) { x with rebuild := false }
              else s.onStream id fun y => { y with st := .idle, svc := .none }
            | _ => s

/-- A token boundary of a stream: recorded commands take effect, then the next service begins. -/
def boundaryWith (draft : Attach) (s : State) (id : Nat) : State :=
  match s.stream? id with
  | none => s
  | some x =>
    if x.endDue ≠ 0 then s
    else
      let s := if x.zeroing && x.atBoundary then
          (if x.st == .suspended then s else suspendStream s x .byZeroise).onStream id fun y => { y with zeroing := false }
        else s
      serve (applyRecorded draft (x.recorded.length + 1) s id) id

/-- A token boundary at which no DRAFT attaches. -/
def boundary (s : State) (id : Nat) : State := boundaryWith (fun _ _ _ => .error .row) s id

/-- Records a command against a stream (R96); at a boundary it takes effect at once (R97). -/
def recordFor (s : State) (c : Cmd) (id : Nat) : State :=
  let s := s.onCmd c.ticket fun c => { c with phase := .recorded }
  let s := s.onStream id fun y => { y with recorded := if y.recorded.contains c.ticket then y.recorded else y.recorded ++ [c.ticket] }
  boundary s id

end Sys2Proof.Machine
end

