-- ==== Sys2Proof/Machine/Units.lean ====
section
/-! DEFINITION. Selection units: headers and beats at the ports (08 R299 to R303), captures (R329 to R332), closing (R314 to
R316), failing (R317), and what the close hands on (R327, R340). -/

namespace Sys2Proof.Machine

/-! ## Roles and capture -/

/-- Whether the block has a peer merge port: not on the N2-16, not with NO_PEER (00 R8, 16 R582). -/
def State.hasPeer (s : State) : Bool := s.variant.peers != 0 && !(getN s.lan.opt 1).toNat.testBit 0

/-- The role of a stream's slot: role, DEST, range (08 R339). -/
def partOf (s : State) (x : Stream) : Nat × Nat × Nat × Nat :=
  let p := getN s.fin.part x.slot
  if !s.hasPeer || (p.1 == 2 && decide ((s.vocOf x).v < p.2.2.1 + p.2.2.2)) then (0, 0, 0, 0) else p

/-- Whether the slot of a stream is a sender's: each of its units, those of a round too, sends its list at close (R340, 09). The spec
gives a notice for a plain step only (R342), so the walk of a sender's round decides nothing before the deadline (log entry 86). -/
def isSender (s : State) (x : Stream) : Bool := (partOf s x).1 == 2

/-- Whether selection needs the values themselves: deep path, or stochastic verification on the race path (08 R330, 09 R357). -/
def needsValues (s : State) (x : Stream) : Bool :=
  x.params.path == 2 || (x.params.path == 3 && ((s.tree? x.id).map (·.stochastic)).getD false)

/-- The race arguments of a unit: seed, step, node, when the path is the race path. -/
def raceArgs (x : Stream) (step : Nat) : Option (Nat × Nat × Nat) :=
  if x.params.path = 3 then some (x.seed, step, 0x7F) else none

/-- The step that the position of a unit yields: the node's depth further (09 R345). -/
def yieldStep (s : State) (u : SelUnit) : Nat :=
  match s.tree? u.stream with
  | none => u.step
  | some t => u.step + depthOf t.nodes (t.nodes.length + 1) u.node
where
  depthOf (ns : List DraftNode) : Nat → Nat → Nat
    | 0, _ => 0
    | k + 1, n => if n = 0x7F then 0 else 1 + depthOf ns k (getN ns n).parent

/-! ## Failing (R317) -/

/-- The reserved pages of a round's unit are freed when it closes or fails (R331). -/
def freePages (s : State) (x : Stream) (node : Nat) : State :=
  match s.tree? x.id with
  | none => s
  | some t =>
    if (getN t.nodes node).pruned && node != 0x7F then s
    else s.onStream x.id fun y => { y with pagesResv := y.pagesResv - unitPages (s.vocOf x).v }

/-- A unit fails: counted, reported; a plain step, or the root of a round, puts FAIL on the egress port and the stream waits
in STEP_FAILED (R317, 09 R365). A unit whose step has not begun its service fails the step when it begins. -/
def failUnit (s : State) (u : SelUnit) (reason : Nat) : State :=
  let s := s.onFin fun f => { f with
    evFail := satAdd f.evFail 1 255, failLast := u.stream + 16384 * reason + 65536 * u.node }
  let s := raiseBy s .finial 0x0101 u.stream u.step (reason + 256 * u.node)
  let s := s.onUnit u.stream u.step u.node fun u => { u with st := .failed, sources := [], list := [] }
  match s.stream? u.stream with
  | none => s
  | some x =>
    let s := if u.st == .open then freePages s x u.node else s
    if u.node ≠ 0x7F ∨ x.next ≠ u.step ∨ !x.held.isEmpty then s
    else match s.tree? x.id with
      | some t => if t.pos = 0x7F ∧ t.confirmed = 0 then boundary (failStep (endRound s { t with rootFailed := true }) x) x.id else s
      | none => if x.svc == .build || x.svc == .open then boundary (failStep s x) x.id else s

/-- Fails a unit by name, if it is open. -/
def failNamed (s : State) (id step node reason : Nat) : State :=
  match s.unit? id step node with
  | some u => if u.st == .open then failUnit s u reason else s
  | none => s

/-! ## Closing (R314 to R316) -/

/-- The range that a unit must cover. -/
def coverRange (s : State) (x : Stream) : Nat × Nat :=
  if isSender s x then ((partOf s x).2.2.1, (partOf s x).2.2.1 + (partOf s x).2.2.2) else (0, (s.vocOf x).v)

/-- Whether every condition of R314 holds. A mirror that is still arriving delays the close only where its partner needs it. -/
def canClose (s : State) (x : Stream) (u : SelUnit) : Bool :=
  let r := coverRange s x
  u.st == .open && u.mask.isSome && !u.poisoned && (u.sources.all fun r => r.mirror == 2 || r.whole) &&
    (uncovered u.sources r.1 r.2).isNone && mirrorsHere u.sources

/-- DUPLICATE_ID events of the discarded sources (R315). -/
def duplicateEvents (s : State) (u : SelUnit) : State :=
  (u.sources.filter fun r => r.redundant u.sources).foldl (fun s r =>
    raiseBy (s.onFin fun f => { f with evDup := satAdd f.evDup 1 255 }) .finial 0x0302 u.stream u.step
      (r.src + 256 * lowestKept u.sources r)) s

/-- The mirrors, in full, that differ from their partner, and those that have none (R316). -/
def badMirrors (u : SelUnit) : List (Source × Option Source) :=
  ((u.sources.filter (·.mirror == 2)).map fun m => (m, mirrorPartner u.sources m)).filter fun p =>
    match p.2 with
    | some q => p.1.whole && q.crc != p.1.crc
    | none => true

def mirrorEvents (s : State) (u : SelUnit) : State :=
  (badMirrors u).foldl (fun s p =>
    raiseBy (s.onFin fun f => { f with evMirror := satAdd f.evMirror 1 255 }) .finial 0x0301 u.stream u.step
      ((match p.2 with | some q => q.port | none => 128) + 256 * p.1.port + 65536 * u.node + 4294967296 * p.1.base)) s

/-- What the sources of a unit give, the discarded ones left out. -/
def closedOf (s : State) (x : Stream) (u : SelUnit) : Closed :=
  let ss := keptSources u.sources
  let deep := needsValues s x
  let m := descMask s (s.vocOf x) (u.mask.getD {})
  let race := totalRace ss
  let c : Closed := {
    list := unitList x.params m deep ss, hidden := hiddenTies deep ss, alw := totalSum (·.alw) ss, msk := totalSum (·.msk) ss
    nan := ((ss.flatMap (·.lanes)).map (·.nan)).sum, valid := (ss.map (·.validCount x.params)).sum
    race := race.map Prod.fst, raceX := (race.map Prod.snd).getD 0 }
  { c with sel := if c.whole x.params then c.alw
      else selectedSum x.params m deep ss (candidates x.params c.alw (c.list.take (x.params.kEff c.valid))) }

/-- The stream's next plain step while the one before is closed, or a round's walk is over, and not all is committed (R303). -/
def Stream.early (x : Stream) : Nat := x.next + max 1 x.held.length

/-- The unit of that step opens. -/
def openNext (s : State) (x : Stream) : State :=
  if (s.unit? x.id x.early 0x7F).isSome || 16384 ≤ unitsOpen s then s else openUnit s x.id x.early 0x7F

/-- An end that waits for queue room takes place or begins to wait (11 R413, R419); a boundary without an end is served. -/
def tryEnd (s : State) (id : Nat) : State :=
  match s.stream? id with
  | none => s
  | some x =>
    if x.endDue = 0 then boundary s id
    else if !x.atBoundary then s
    else match endAtBoundary s x x.endDue with
      | some t => boundary (t.onStream id fun y => { y with endDue := 0 }) id
      | none => queueWait s x (boundaryEnd x x.endDue)

/-- A stream ends at its boundary for a reason: its END token record goes out at once (01 R41), its unit goes. -/
def endFor (s : State) (x : Stream) (reason : Nat) : State :=
  tryEnd ((emitEnd (dropUnits s x.id x.next) x x.next).onStream x.id fun y =>
    { y with endDue := reason, endOut := true, svc := .none, pagesResv := 0 }) x.id

/-- Closes a unit that may close (R314): sources resolved, sums combined, pages and pins freed. A unit without a valid entry
ends the stream (R327); a sender's list goes to the merger (R340). -/
def closeUnit (s : State) (x : Stream) (u : SelUnit) : State :=
  let s := duplicateEvents s u
  if anyOverlap (keptSources u.sources) then failUnit s u 1
  else
    let s := mirrorEvents s u
    let c := closedOf s x u
    let p := x.params
    let sender := isSender s x
    let s := s.onFin fun f => { f with
      steps := wrap32 (f.steps + b2n (u.node == 0x7F && (s.tree? x.id).isNone))
      deep := satAdd f.deep (b2n (p.path == 2)) 65535, races := satAdd f.races (b2n (p.path == 3)) 65535
      late := wrap32 (f.late + b2n u.late), tieCut := wrap32 (f.tieCut + b2n (!sender && c.tiesOut p != 0))
      peerLists := (f.peerLists + ((keptSources u.sources).filter (·.peer)).length) % 65536 }
    let peers := (keptSources u.sources).filter (·.peer)
    let s := s.onUnit u.stream u.step u.node fun v => { v with
      st := .closed, sources := [], list := c.list, hidden := c.hidden, alw := c.alw, msk := c.msk, sel := c.sel, nan := c.nan, valid := c.valid
      race := c.race, raceX := c.raceX
      mirrorBad := !(badMirrors u).isEmpty, duplicate := u.sources.any fun r => r.redundant u.sources
      peersMerged := (peers.map fun r => r.src - 32).eraseDups, awaitNotice := sender }
    let s := if (s.tree? x.id).isSome then freePages s x u.node
      else unpin (s.onStream x.id fun y => { y with pagesResv := 0 }) x.id u.step
    if sender then
      let r := coverRange s x
      let m := peerListBytes p x.id u.step u.node r.1 (r.2 - r.1) c
      let s := s.onFin fun f => { f with peerOut := f.peerOut ++ [((partOf s x).2.1, 1, slice m 0 (roundUp m.length 64))] }
      if (s.tree? x.id).isSome then s else openNext s x
    else if (s.tree? x.id).isSome then s
    else if c.list.isEmpty then
      endFor (raiseBy (s.onFin fun f => { f with evNoCand := satAdd f.evNoCand 1 255 }) .finial 0x0002 x.id u.step c.nan) x 5
    else openNext s x

/-- Closes a unit by name when R314 allows it. -/
def tryClose (s : State) (id step node : Nat) : State :=
  match s.stream? id, s.unit? id step node with
  | some x, some u => if canClose s x u then closeUnit s x u else s
  | _, _ => s

/-! ## Port faults (R302) -/

/-- Reports a port fault: the event, the bit, and for a header that was read its names. -/
def portFault (s : State) (port bit : Nat) (named : Option (Nat × Nat × Nat)) : State :=
  let s := s.onPort port fun q => { q with
    fault := q.fault ||| 1 <<< bit
    faultInfo := match named with | some n => n.1 + 16384 * n.2.2 | none => q.faultInfo
    faultStep := match named with | some n => n.2.1 | none => q.faultStep }
  raiseBy s (.selector port) 0x0201 ((named.map fun n => n.1).getD 0) ((named.map fun n => n.2.1).getD 0) (port + 256 * bit)

/-- A shard header (08 Table 8.1, R301 for HVER 0x1). -/
structure Header where
  stream : Nat
  node : Nat
  fmt : Nat
  mirror : Nat
  hver : Nat
  step : Nat
  base : Nat
  count : Nat
  deriving DecidableEq, Repr

def parseHeader (b : List Byte) : Header :=
  let b3 := (getN b 3).toNat
  let old := b3 / 16 == 1
  { stream := getLE b 0 2 % 16384, node := if old then 0x7F else (getN b 2).toNat % 128, fmt := if old then 0 else b3 % 4
    mirror := if old then 0 else b3 / 4 % 4, hver := b3 / 16, step := getLE b 4 4, base := getLE b 8 4, count := getLE b 12 4 }

/-- The FIELD condition of Table 8.2. -/
def headerFieldBad (b : List Byte) : Bool :=
  let h := parseHeader b
  getLE b 0 2 / 16384 != 0 || !zeros b 20 128 ||
    if h.hver = 1 then (getN b 2).toNat != 0 || (getN b 3).toNat % 16 != 0
    else (getN b 2).toNat / 128 != 0 || h.fmt == 3 || h.mirror == 3 || (decide (64 ≤ h.node) && decide (h.node < 0x7F))

/-- Bytes of a value of a format. -/
def fmtBytes (fmt : Nat) : Nat := if fmt = 0 then 4 else 2

/-- The port's current shard is dropped: up to its last value, or with `left` 0 up to the next header. -/
def dropShard (s : State) (port left : Nat) : State :=
  s.onPort port fun q => { q with cur := none, left := left, drop := true }

/-- Accepts a shard for an open unit: a late mask or a unit that needs values captures it (R329 to R331). -/
def acceptShard (s : State) (port : Nat) (h : Header) (x : Stream) (u : SelUnit) : State :=
  let late := u.late || (u.mask.isNone && (u.sources.filter (!·.peer)).isEmpty)
  let capture := late || needsValues s x
  let paid := capture && x.pagesResv != 0
  let pages := if capture && !paid then ceilDiv (h.count * fmtBytes h.fmt) 16384 else 0
  if pagesFree s < pages then failUnit (dropShard s port h.count) u 2
  else
    let s := s.onPort port fun q => { q with
      cur := if h.count = 0 then none else some (h.stream, h.step, h.node), left := h.count, fmt := h.fmt, drop := false
      shards := wrap32 (q.shards + 1), late := wrap32 (q.late + b2n late) }
    let s := s.onUnit u.stream u.step u.node fun v => { v with
      late := v.late || late
      sources := v.sources ++ [{
        src := port, port := port, base := h.base, count := h.count, mirror := h.mirror, crc := 0xFFFFFFFF
        whole := h.count == 0, lanes := List.replicate 64 {}, captured := capture, pages := pages }] }
    if h.count = 0 then tryClose s h.stream h.step h.node else s

/-- A stray shard: dropped, counted, reported (R303). -/
def strayShard (s : State) (port : Nat) (h : Header) : State :=
  let s := (dropShard s port h.count).onPort port fun q => { q with stray := wrap32 (q.stray + 1), drop := h.count != 0 }
  raiseBy s (.selector port) 0x0103 h.stream h.step (port + 256 * h.node)

/-- Whether a header names the step after one that is closed and not committed, or after a round whose walk is over, whose unit found
no room before (R303, R334). -/
def opensEarly (s : State) (x : Stream) (h : Header) : Bool :=
  h.node == 0x7F && h.step == x.early && x.svc == .open && x.endDue == 0 && match s.tree? x.id with
    | none => !x.held.isEmpty || ((s.unit? x.id x.next 0x7F).map fun u => u.st == .closed).getD false
    | some t => !t.walking && !x.held.isEmpty

/-- A header whose form is good reaches its stream and unit. -/
def placeHeader (s : State) (port : Nat) (h : Header) : State :=
  match s.stream? h.stream with
  | none => strayShard s port h
  | some x =>
    if (s.vocOf x).v < h.base + h.count then
      failNamed (portFault (dropShard s port 0) port 3 (some (h.stream, h.step, h.node))) h.stream h.step h.node 0
    else
      let s := if opensEarly s x h then openNext s x else s
      match s.unit? h.stream h.step h.node with
      | none => strayShard s port h
      | some u =>
        if u.st != .open then strayShard s port h
        else if u.noMask then (dropShard s port h.count).onPort port fun q => { q with drop := h.count != 0 }
        else if 1024 ≤ u.sources.length then
          failUnit (portFault (dropShard s port 0) port 2 (some (h.stream, h.step, h.node))) u 0
        else acceptShard s port h x u

/-- The new header before its shard's COUNT-th value: SHORT (Table 8.2). -/
def shortFault (s : State) (port : Nat) : State :=
  match (s.port port).cur with
  | none => s
  | some c => failNamed (portFault (dropShard s port 0) port 4 (some c)) c.1 c.2.1 c.2.2 0

/-- A header beat on an enabled port (R299 to R303). -/
def headerBeat (s : State) (port : Nat) (b : List Byte) : State :=
  let s := shortFault s port
  let h := parseHeader b
  if getLE b 16 4 ≠ crc32c (b.take 16) then portFault (dropShard s port 0) port 0 none
  else if h.hver ≠ 1 ∧ h.hver ≠ 2 then portFault (dropShard s port 0) port 1 none
  else if headerFieldBad b then
    failNamed (portFault (dropShard s port 0) port 2 (some (h.stream, h.step, h.node))) h.stream h.step h.node 0
  else placeHeader s port h

/-! ## Data beats (R300, R309) -/

/-- Lane i of a beat in binary32. -/
def laneValue (fmt : Nat) (b : List Byte) (i : Nat) : Word :=
  if fmt = 0 then BitVec.ofNat 32 (getLE b (4 * i) 4)
  else if fmt = 1 then F32.ofHalf (getLE b (2 * i) 2)
  else F32.ofBf16 (getLE b (2 * i) 2)

/-- A value as the mirror comparison writes it (R316). -/
def mirrorWord (w : Word) : Word := if F32.isNaN w then F32.nan else F32.plusZero w

/-- CRC-32C continued over more bytes. -/
def crcMore (c : Nat) (bs : List Byte) : Nat := bs.foldl (fun c b => crcByte 8 (c ^^^ b.toNat)) c

/-- NaN entries that a source's lanes hold. -/
def Source.nans (r : Source) : Nat := (r.lanes.map (·.nan)).sum

/-- A source takes a beat's values: captured when it must be, selected in flight when the mask is staged. -/
def Source.take (r : Source) (x : Stream) (mask : Option Nat) (race : Option (Nat × Nat × Nat)) (vs : List Word) : Source :=
  let first := r.base + r.got
  let got := r.got + vs.length
  { r with
    got := got, whole := got == r.count
    crc := if r.mirror = 0 then r.crc else crcMore r.crc (vs.flatMap fun w => leBytes 4 (mirrorWord w).toNat)
    beats := if r.captured then r.beats ++ [vs] else r.beats
    lanes := match mask with
      | some m => if r.mirror = 2 then r.lanes else feedLanes x.params m race r.lanes first vs
      | none => r.lanes }

/-- The values of a beat reach the unit of the port's shard. -/
def takeValues (s : State) (port : Nat) (c : Nat × Nat × Nat) (vs : List Word) : State :=
  match s.stream? c.1, s.unit? c.1 c.2.1 c.2.2 with
  | some x, some u =>
    if u.st != .open then s
    else
      let upd := fun r : Source =>
        if r.port == port && !r.peer && !r.whole then
          r.take x (u.mask.map (descMask s (s.vocOf x))) (raceArgs x (yieldStep s u)) vs else r
      let srcs := u.sources.map upd
      let nans := (srcs.map (·.nans)).sum - (u.sources.map (·.nans)).sum
      let s := s.onPort port fun q => { q with nans := wrap32 (q.nans + nans) }
      tryClose (s.onUnit c.1 c.2.1 c.2.2 fun u => { u with sources := srcs }) c.1 c.2.1 c.2.2
  | _, _ => s

/-- A data beat on an enabled port (R300, R302, 15 R543). -/
def dataBeat (s : State) (port vcnt : Nat) (b : List Byte) : State :=
  let q := s.port port
  if vcnt = 0 then s
  else if q.drop then
    s.onPort port fun q => { q with left := q.left - vcnt, drop := !(q.left != 0 && decide (q.left ≤ vcnt)) }
  else match q.cur with
    | none => portFault s port 6 none
    | some c =>
      let lanes := if q.fmt = 0 then 32 else 64
      let n := min (min vcnt lanes) q.left
      let bad := decide (lanes < vcnt) || decide (q.left < vcnt)
      let vs := (List.range n).map (laneValue q.fmt b)
      let s := s.onPort port fun q => { q with
        left := q.left - n, cur := if q.left = n then none else q.cur
        values := q.values + n, padding := q.padding + (lanes - min vcnt lanes) }
      if bad then failNamed (portFault s port 5 (some c)) c.1 c.2.1 c.2.2 0 else takeValues s port c vs

end Sys2Proof.Machine
end

