-- ==== Sys2Proof/Machine/Rounds.lean ====
section
/-! DEFINITION. Steeple (09): the tree's checks, its attachment, the masks of its positions, the two acceptance rules. -/

namespace Sys2Proof.Machine

/-! ## The tree in memory (R346 to R350) -/

/-- The nodes of a node table. -/
def parseNodes (bs : List Byte) (n : Nat) : List DraftNode :=
  (groupsOf 8 (bs.take (8 * n))).map fun e => { token := getLE e 0 4, parent := (getN e 4).toNat % 128 }

/-- The depth of a node. -/
def nodeDepth (ns : List DraftNode) : Nat → Nat → Nat
  | 0, _ => 0
  | k + 1, n => if n = 0x7F then 0 else 1 + nodeDepth ns k (getN ns n).parent

def DraftNode.depthIn (ns : List DraftNode) (n : Nat) : Nat := nodeDepth ns (ns.length + 1) n

/-- The children of a position, ascending. -/
def childrenOf (ns : List DraftNode) (pos : Nat) : List Nat := (List.range ns.length).filter fun n => (getN ns n).parent == pos

/-- Check 5 of Table 9.2. -/
def nodesOk (bs : List Byte) (n depth v : Nat) : Bool :=
  let ns := parseNodes bs n
  let es := groupsOf 8 (bs.take (8 * n))
  ns.length == n && zeros bs (8 * n) (roundUp (8 * n) 128) &&
  es.all (fun e => decide ((getN e 4).toNat < 128) && zeros e 5 8) &&
  (List.range n).all (fun i => decide ((getN ns i).token < v) && ((getN ns i).parent == 0x7F || decide ((getN ns i).parent < i))) &&
  ((List.range n).map (DraftNode.depthIn ns)).foldl max 0 == depth &&
  (0x7F :: List.range n).all fun p =>
    let ts := (childrenOf ns p).map fun i => (getN ns i).token
    ts.eraseDups.length == ts.length

/-- The positions that have draft sets: the root and the parents, in order (R349). -/
def setPositions (ns : List DraftNode) : List Nat := 0x7F :: (List.range ns.length).filter fun p => !(childrenOf ns p).isEmpty

/-- One draft set at the start of some bytes: its values, or none when it breaks R349; with the bytes it takes. -/
def parseSet (bs : List Byte) (v stream step pos : Nat) : Option (Nat × Nat × List Word) × Nat :=
  let h := parseHeader bs
  let size := v * fmtBytes h.fmt
  let body := (bs.drop 128).take size
  let vs := (List.range v).map fun i => laneValue h.fmt body i
  let len := 128 + roundUp size 128
  let ok := !headerFieldBad bs && h.hver == 2 && h.mirror == 0 && h.base == 0 && h.count == v && h.stream == stream &&
    h.step == step && h.node == pos && getLE bs 16 4 == crc32c (bs.take 16) && zeros bs (128 + size) len &&
    vs.any (fun x => !F32.isNaN x && !F32.isNegInf x) && vs.all (fun x => !F32.isPosInf x)
  (if ok then some (pos, if h.fmt = 0 then 32 else 64, vs) else none, len)

/-- The draft sets of positions, and the bytes they take; none when one breaks R349. -/
def parseSets (v stream step : Nat) : List Nat → List Byte → Nat → Option (List (Nat × Nat × List Word) × Nat)
  | [], _, n => some ([], n)
  | p :: ps, bs, n =>
    let r := parseSet bs v stream step p
    match r.1, parseSets v stream step ps (bs.drop r.2) (n + r.2) with
    | some e, some (es, m) => some (e :: es, m)
    | _, _ => none

/-! ## Attachment (R352 to R357) -/

/-- The build of a configuration set of a stream. -/
def setMask (s : State) (x : Stream) (cs : ConfSet) : Built :=
  match x.aut with
  | none => buildAll (s.vocOf x)
  | some n => buildMask s n cs

/-- The nodes with their pruning and what their positions' masks are, given the root's mask: in node order, nothing for a pruned one
(R355, R356, R589). -/
def pruneNodes (m : ConfSet → Built) (root : Nat) (ns : List DraftNode) : List (DraftNode × Built) :=
  ns.foldl (fun acc n =>
    let up := acc[n.parent]?
    let above := if n.parent = 0x7F then root else (up.map fun e => e.2.mask).getD 0
    let cut := n.pruned || !above.testBit n.token || (n.parent != 0x7F && (up.map fun e => e.1.pruned).getD false)
    acc ++ [({ n with pruned := cut }, if cut then {} else m n.set)]) []

/-- The mask of R226 of a set of a stream, before any entry is filled. -/
def idealMask (s : State) (x : Stream) (cs : ConfSet) : Nat :=
  match x.aut with
  | none => allOnes (s.vocOf x)
  | some n => maskOf (s.automaton n) (s.vocOf x) cs

/-- The mask that the root of a round will have: that of the set, or the EOS ids of policy 0x2 (R588). -/
def idealRoot (s : State) (x : Stream) : Nat :=
  let m := idealMask s x x.set
  if m = 0 ∧ x.deadPolicy = 2 then eosMask (s.vocOf x) else m

/-- How many nodes of a tree are not pruned (R356). -/
def liveNodes (s : State) (x : Stream) (ns : List DraftNode) : Nat :=
  ((pruneNodes (fun cs => { mask := idealMask s x cs }) (idealRoot s x) (speculate s x ns).1).filter (!·.1.pruned)).length

/-- Pages of the draft sets (R357). -/
def draftPages (v : Nat) (sets : List (Nat × Nat × List Word)) : Nat :=
  (sets.map fun e => ceilDiv (v * if e.2.1 = 32 then 4 else 2) 16384).sum

/-- Check 3 of Table 9.2. -/
def draftFields (c : Cmd) : Bool :=
  let n := c.b 20 % 128
  n != 0 && decide (n ≤ 64) && c.b 21 != 0 && decide (c.b 21 ≤ 16) && c.addr24 % 128 == 0 && !(c.bit 22 1 && !c.bit 22 0)

/-- The tree that a DRAFT's bytes give, or the status of the first check that fails (Table 9.2, checks 4 to 7). -/
def checkTree (s : State) (x : Stream) (c : Cmd) : ReadRes → Except Status Tree
  | .got bs =>
    let n := c.b 20 % 128
    let v := (s.vocOf x).v
    let head := roundUp (8 * n) 128
    if !nodesOk bs n (c.b 21) v then .error .imageInvalid
    else
      let ns := parseNodes bs n
      match (if c.bit 22 1 then parseSets v x.id x.next (setPositions ns) (bs.drop head) head else some ([], head)) with
      | none => .error .imageInvalid
      | some (sets, len) =>
        let t : Tree := {
          stream := x.id, step := x.next, stochastic := c.bit 22 0, nodes := ns, sets := sets
          setPages := draftPages v sets }
        let capture := x.params.path == 2 || (x.params.path == 3 && t.stochastic)
        let live := 1 + liveNodes s x ns
        if len ≠ c.len32 then .error .imageInvalid
        else if s.variant.logitPages < t.setPages + (if capture then live * unitPages v else 0) then .error .badField
        else .ok t
  | _ => .error .fabricError

/-- Pool nodes in use. -/
def poolUsed (s : State) : Nat := (s.stp.trees.map (·.nodes.length)).sum

/-- Whether the pool, the units and the pages take a tree now (R353, R357, 08 R334). -/
def treeFits (s : State) (t : Tree) : Bool :=
  decide (poolUsed s + t.nodes.length ≤ s.variant.poolNodes) && decide (unitsOpen s + t.nodes.length + 1 ≤ 16384) &&
    decide (t.setPages ≤ pagesFree s)

/-- Attaches a tree: its nodes, its pages, a unit per position (R354, R360). Its node sets are formed when the round begins. -/
def attachTree (s : State) (t : Tree) : State :=
  let s := s.onStp fun p => { p with
    trees := p.trees ++ [{ t with waited := p.waiting.any fun w => w.stream == t.stream && w.pool }]
    waiting := p.waiting.filter (·.stream != t.stream) }
  let s := if (s.unit? t.stream t.step 0x7F).isSome then s else openUnit s t.stream t.step 0x7F
  (List.range t.nodes.length).foldl (fun s n => openUnit s t.stream t.step n) s

/-- DRAFT takes effect at its stream's boundary (R351 to R354): completed, or waiting. -/
def effectDraft : Attach := fun s x c =>
  let r := readBytes s (.command c.ticket) c.addr24 c.len32
  if (s.tree? x.id).isSome ∨ (x.st ≠ .idle ∧ x.st ≠ .running) then .ok (reject s c .streamState (c.le 16 4))
  else if c.le 16 4 ≠ x.next then .ok (reject s c .stepMismatch (c.le 16 4))
  else if !draftFields c then .ok (reject s c .badField (c.le 16 4))
  else if r = .wait then .error (.bytes c.addr24 c.len32)
  else match checkTree s x c r with
    | .error st => .ok (reject s c st (c.le 16 4))
    | .ok t =>
      if treeFits s t then
        .ok (complete ((attachTree s t).onStream x.id fun y => { y with st := .running, idleSaid := false }) c Status.ok.code
          t.step t.nodes.length 0)
      else .error (.tree t.nodes.length)

/-! ## Masks of the positions (R355, R356, R589) -/

/-- The nodes of a round with their pruning and their masks, as the Cupola's entries give them. -/
def positionMasks (s : State) (x : Stream) (t : Tree) (root : Nat) : List (DraftNode × Built) :=
  pruneNodes (setMask s x) root t.nodes

/-! ## Stochastic verification (R363) -/

namespace Stoch

def get (l : List (Nat × Word)) (t : Nat) : Word := ((l.find? (·.1 == t)).map Prod.snd).getD 0
def set (l : List (Nat × Word)) (t : Nat) (w : Word) : List (Nat × Word) := l.map fun e => if e.1 = t then (t, w) else e

/-- A quotient of two values that are not negative. -/
def div (a b : Word) : Word := F32.ofQuot (F32.magFx a) (F32.magFx b)

/-- The sum in ascending token id. -/
def total (l : List (Nat × Word)) : Word := l.foldl (fun a e => F32.add a e.2) 0

/-- P of the candidates, ascending by id. -/
def target (p : SelParams) (u : SelUnit) : List (Nat × Word) :=
  let top := u.list.take (p.kEff u.valid)
  let cand := candidates p u.alw top
  let sorted := cand.foldl (fun l e => insertBy Prod.fst e l) []
  if u.alw.inf ≠ 0 then sorted.map fun e => (e.1, F32.ofQuot 1 cand.length)
  else
    sorted.map fun e => (e.1, F32.exp (F32.sub e.2 u.sel.lse))

/-- LSE_q: the sum of R310 and R311 over a draft set of beats of n lanes. -/
def draftLse (n : Nat) (vs : List Word) : Word :=
  let ok := fun w => !F32.isNaN w && !F32.isNegInf w
  let lane := fun i => (List.range vs.length).foldl (fun (p : PSum) k =>
    if k % n = i ∧ ok (getN vs k) then p.add (getN vs k) else p) {}
  ((List.range n).foldl (fun (p : PSum) i => p.combine (lane i)) {}).lse

/-- Q over the ids. -/
def draft (n : Nat) (vs : List Word) : List (Nat × Word) :=
  let l := draftLse n vs
  (List.range vs.length).map fun i =>
    let w := getN vs i
    (i, if F32.isNaN w || F32.isNegInf w then 0 else F32.exp (F32.sub w l))

/-- draw_a(n) < a, decided exactly: (r + 0.5) times 2^-32 against a value at 2^-149. -/
def below (r : Nat) (a : Word) : Bool := decide ((2 * r + 1) * 2 ^ 116 < F32.magFx a)

/-- The walk over the children of a position: P, Q, whether one was rejected. -/
structure St where
  p : List (Nat × Word) := []
  q : Option (List (Nat × Word)) := none
  rejected : Bool := false
  deriving DecidableEq, Repr

/-- The residual after a rejection of token t. -/
def reject (st : St) (t : Nat) : St :=
  let zeroT := fun l => set l t 0
  let p1 := match st.q with
    | some q => st.p.map fun e => (e.1, F32.max 0 (F32.sub e.2 (get q e.1)))
    | none => zeroT st.p
  let z1 := total p1
  let p2 := if F32.mag z1 = 0 then zeroT st.p else p1
  let z2 := total p2
  { p := if F32.mag z2 = 0 then p2 else p2.map fun e => (e.1, div e.2 z2)
    rejected := true
    q := st.q.map fun q =>
      let m := F32.sub F32.one (get q t)
      let q' := set q t 0
      if F32.le m 0 then q'.map fun e => (e.1, 0) else q'.map fun e => (e.1, div e.2 m) }

/-- The acceptance value a of a child. -/
def accept (st : St) (t : Nat) : Word :=
  let pt := get st.p t
  let qt := match st.q with | some q => get q t | none => F32.one
  if F32.mag pt = 0 then 0
  else if F32.mag qt = 0 then F32.one
  else if F32.le F32.one (div pt qt) then F32.one else div pt qt

/-- The first accepted child, or none with the state after the rejections. -/
def walk (seed step : Nat) (ns : List DraftNode) : List Nat → St → Option Nat × St
  | [], st => (none, st)
  | n :: rest, st =>
    let d := getN ns n
    let a := if d.pruned then 0 else accept st d.token
    if !d.pruned && below (F32.philox seed 0xFFFFFFFF step (F32.purpose n 1)) a then (some n, st)
    else walk seed step ns rest (reject st d.token)

/-- The correction token. -/
def correction (seed step pos : Nat) (u : SelUnit) (st : St) : Option (Nat × Word) :=
  let live := st.p.filter fun e => F32.mag e.2 != 0
  let best := live.foldl (fun (b : Option (Nat × Word)) e =>
    let k := F32.add (F32.ln e.2) (F32.gumbel (F32.philox seed e.1 step (F32.purpose pos 2)))
    match b with
    | none => some (e.1, k)
    | some c => if F32.lt c.2 k then some (e.1, k) else b) none
  match best with
  | none => u.list.head?
  | some b => u.list.find? (·.1 == b.1)

end Stoch

/-! ## The walk (R361 to R366) -/

/-- The flags of a unit's result. -/
def unitFlags (x : Stream) (u : SelUnit) (root : Bool) : ResFlags :=
  { late := u.late, mirror := u.mirrorBad, duplicate := u.duplicate, peer := !u.peersMerged.isEmpty
    forcedEos := root && x.forcedEos }

/-- A unit as the choice of the token takes it. -/
def SelUnit.closedVals (u : SelUnit) : Closed :=
  { list := u.list, hidden := u.hidden, alw := u.alw, msk := u.msk, sel := u.sel, nan := u.nan, valid := u.valid
    race := u.race, raceX := u.raceX }

/-- The result of a position's unit, for the plain draw or for a chosen token. -/
def unitResult (s : State) (x : Stream) (u : SelUnit) (chosen : Option (Nat × Word)) (draft : Bool) : Result :=
  { chooseToken x.params x.id (yieldStep s u) 0x7F u.closedVals (unitFlags x u (u.node == 0x7F)) chosen with
    node := u.node, draft := draft }

/-- Confirms a token: its record on the egress port, its result held (R366, R367). -/
def confirm (s : State) (x : Stream) (r : Result) : State :=
  let s := emitToken (ungate s (s.physOf x.home)) x.id r.step r.token (tokenFlags false false ((s.vocOf x).isEos r.token) r.draft)
  (s.onStream x.id fun y => { y with held := y.held ++ [r] }).onTree x.id fun t => { t with
    confirmed := t.confirmed + 1, accepted := t.accepted + b2n r.draft }

/-- Whether a confirmed token stops the walk (R364). -/
def walkStops (s : State) (x : Stream) (r : Result) : Bool :=
  (s.vocOf x).isEos r.token || x.maxNew == some (x.gen + x.held.length + 1) || r.step == 0xFFFFFFFD

/-- The walk is over: with nothing left to commit the round ends; else the step after its tokens is open (08 R303). -/
def walkOver (s : State) (id : Nat) : State :=
  let s := s.onTree id fun t => { t with walking := false }
  match s.stream? id, s.tree? id with
  | some x, some t =>
    if x.held.isEmpty then tryEnd (endRound (s.onStream id fun y => { y with svc := .none }) t) id
    else if x.endDue = 0 then openNext s x
    else s
  | _, _ => s

/-- Confirms an accepted child and goes on at it. -/
def acceptChild (s : State) (x : Stream) (t : Tree) (u : SelUnit) (n : Nat) : State :=
  let tok := (getN t.nodes n).token
  let r := unitResult s x u (u.list.find? (·.1 == tok)) true
  let s' := (confirm s x r).onTree x.id fun t => { t with pos := n }
  if walkStops s x r then walkOver s' x.id
  else
    let next := s'.unit? x.id t.step n
    if (next.map fun v => v.noMask).getD true then walkOver s' x.id
    else if (next.map fun v => v.st == .failed).getD false then
      walkOver (s'.onTree x.id fun t => { t with nodeFailed := true }) x.id
    else s'

/-- Confirms the last token of a walk. -/
def confirmLast (s : State) (x : Stream) (r : Result) : State := walkOver (confirm s x r) x.id

/-- The step after the tokens that a round has confirmed. -/
def Stream.reached (x : Stream) : Nat := x.next + x.held.length

/-- One position of the walk whose unit has closed (R361 to R363). -/
def walkPosition (s : State) (x : Stream) (t : Tree) (u : SelUnit) : State :=
  let kids := childrenOf t.nodes t.pos
  let plain := unitResult s x u none false
  if u.list.isEmpty then
    let s := raiseBy (s.onFin fun f => { f with evNoCand := satAdd f.evNoCand 1 255 }) .finial 0x0002 x.id (yieldStep s u) u.nan
    walkOver ((emitEnd s x x.reached).onStream x.id fun y => { y with endDue := 5, endOut := true }) x.id
  else if !t.stochastic then
    match kids.find? fun n => (getN t.nodes n).token == plain.token && !(getN t.nodes n).pruned with
    | some n => acceptChild s x t u n
    | none => confirmLast s x plain
  else
    let q := (t.sets.find? (·.1 == t.pos)).map fun e => Stoch.draft e.2.1 e.2.2
    let w := Stoch.walk x.seed (yieldStep s u) t.nodes kids { p := Stoch.target x.params u, q := q }
    match w.1 with
    | some n => acceptChild s x t u n
    | none =>
      if !w.2.rejected then confirmLast s x plain
      else confirmLast s x
        (unitResult s x u (Stoch.correction x.seed (yieldStep s u) u.node u w.2) false)

end Sys2Proof.Machine
end

