-- ==== Sys2Proof/Machine/Commit.lean ====
section
/-! DEFINITION. The two shared acts of a step: staging its masks and raising MASK_RDY (01, 06, 08 R331, 09 R358), and committing a
held result (01 R27 to R39, 05 R200 to R206, 10 R392 to R397, 11 R412 to R414). -/

namespace Sys2Proof.Machine

/-! ## Staging masks -/

/-- Captured shards pass through the selectors as they arrived (08 R332). -/
def Source.late (r : Source) (x : Stream) (mask : Nat) (race : Option (Nat × Nat × Nat)) : Source :=
  if r.mirror = 2 ∨ r.peer then r else { r with lanes := feedBeats x.params mask race r.beats r.base r.lanes }

/-- The positions of a service that stage a descriptor, with their builds: the root, then the nodes of the tree. -/
structure Position where
  node : Nat
  built : Built
  deriving DecidableEq, Repr

/-- The descriptor of a position. -/
def Position.desc (p : Position) (x : Stream) : MaskDesc := p.built.desc (x.id, x.next, p.node)

/-- Stages the mask descriptor of a unit of the stream's next step; shards that came before pass through the selectors (08 R332). -/
def stageMask (s : State) (x : Stream) (p : Position) : State :=
  match s.unit? x.id x.next p.node with
  | none => s
  | some u =>
    let mask := descMask s (s.vocOf x) (p.desc x)
    let srcs := u.sources.map fun r => r.late x mask (raceArgs x (yieldStep s u))
    let s := (srcs.filter fun r => !r.peer).foldl (fun s r =>
      s.onPort r.port fun q => { q with nans := wrap32 (q.nans + r.nans) }) s
    s.onUnit x.id x.next p.node fun u => { u with mask := some (p.desc x), sources := srcs }

/-- A position without a descriptor takes no shards (09 R356, R589). -/
def stageNone (s : State) (x : Stream) (node : Nat) : State :=
  s.onUnit x.id x.next node fun u => { u with noMask := true, sources := [] }

/-- Makes the private entries that the positions still lack (06 R247); or finds no space, for the root or for a node. -/
def privateEntries (s : State) (x : Stream) : List Position → Except Bool State
  | [] => .ok s
  | p :: ps =>
    if !p.built.wide || s.cup.entries.any fun e => e.priv == some (x.id, x.next, p.node) then privateEntries s x ps
    else match privateEntry s (s.vocOf x).v p.built.mask (x.id, x.next, p.node) with
      | none => .error (p.node == 0x7F)
      | some t => privateEntries t x ps

/-- Raises MASK_RDY for the stream's next step; the first one of a plain step spends its armed step (10 R384). -/
def raiseMask (s : State) (x : Stream) : State :=
  let plain := (s.tree? x.id).isNone
  let s := s.onFin fun f => { f with maskQueue := f.maskQueue ++ [(x.id, x.next)] }
  s.onStream x.id fun y => { y with
    svc := .open, waitPages := false, waitCup := false, armedAt := y.armed
    armed := if plain && !y.armSpent then y.armed.map (· - 1) else y.armed
    armSpent := y.armSpent || plain }

/-- The service has its masks: pins, descriptors, MASK_RDY; units whose shards came early may close (08 R332). -/
def raiseService (s : State) (x : Stream) (ps : List Position) : State :=
  let s := pinKeys s (ps.flatMap fun p => (p.desc x).refs) x.id x.next
  let s := ps.foldl (fun s p => stageMask s x p) s
  let s := s.onStream x.id fun y => { y with desc := ((ps.head?).map fun p => p.desc x).getD {} }
  let s := raiseMask s x
  ps.foldl (fun s p => tryClose s x.id x.next p.node) s

/-- Reserves pages and private entries, then raises MASK_RDY; or waits (08 R331, 06 R246). The events of the build of the root, and
the reads of Steeple's builds, come with MASK_RDY. -/
def reserveService (s : State) (x : Stream) (ps : List Position) (live : Nat) : State :=
  let need := if needsValues s x then live * unitPages (s.vocOf x).v else 0
  if pagesFree s < need then
    if x.waitPages then s
    else (s.onFin fun f => { f with lbWaits := wrap32 (f.lbWaits + 1) }).onStream x.id fun y => { y with waitPages := true }
  else match privateEntries s x ps with
    | .error root => waitSpace s x root
    | .ok s =>
      let s := ps.foldl (fun s p => if p.node = 0x7F then stepEvents s x (x.aut.getD 0) p.built.ev x.next else countReads s p.built.ev)
        (takeSpill (s.onStream x.id fun y => { y with pagesResv := need }) x.id)
      raiseService s x ps

/-- The positions that have a descriptor: the root, then nodes whose mask is not empty (09 R355, R356, R589). -/
def positionsOf (root : Built) (es : List (DraftNode × Built)) : List Position :=
  { node := 0x7F, built := root } :: ((List.range es.length).filterMap fun i => match es[i]? with
    | some e => if e.2.mask = 0 then none else some { node := i, built := e.2 }
    | none => none)

/-- The builds of a stream's nodes, given its root's mask. -/
def nodeBuilds (s : State) (x : Stream) (root : Nat) : List (DraftNode × Built) :=
  match s.tree? x.id with
  | some t => positionMasks s x t root
  | none => []

/-- The root's mask is there: the nodes' masks follow from it. A position without a descriptor takes no shard from now on, whether or
not MASK_RDY waits (09 R356, R589). -/
def stageService (s : State) (x : Stream) (root : Built) : State :=
  let es := nodeBuilds s x root.mask
  let s := s.onTree x.id fun t => { t with nodes := es.map Prod.fst }
  let s := ((List.range es.length).filter fun i => ((es[i]?.map fun e => e.2.mask).getD 0) == 0).foldl (fun s n => stageNone s x n) s
  reserveService s x (positionsOf root es) (1 + (es.filter fun e => !e.1.pruned).length)

/-- Whether a build serves no step: the mask built again for a stream at a dead end whose armed count is 0 (06 R250, 10 R384). -/
def restsAfter (s : State) (x : Stream) : Bool := x.armed == some 0 && !x.armSpent && (s.tree? x.id).isNone

/-- Such a build ends at the boundary, without MASK_RDY. -/
def restAfter (s : State) (x : Stream) : State :=
  boundary ((dropUnits (takeSpill s x.id) x.id x.next).onStream x.id fun y => { y with
    svc := .none, forcedEos := false, waitPages := false, waitCup := false }) x.id

/-- A dead end by the stream's policy (06 R249 to R251, 09 R588). -/
def deadEnd (s : State) (x : Stream) (b : Built) : State :=
  let s := stepEvents s x (x.aut.getD 0) b.ev x.next
  let s := s.onAut fun a => { a with evDead := satAdd a.evDead 1 255 }
  let s := raiseHome s x 0x0001 x.next (x.aut.getD 0 + 256 * x.set.length)
  let v := s.vocOf x
  if x.deadPolicy = 2 ∧ !v.eos.isEmpty then
    if restsAfter s x then restAfter s x else
    let y := { x with forcedEos := true }
    stageService (s.onStream x.id fun z => { z with forcedEos := true }) y (buildEos v)
  else
    let s := match s.tree? x.id with
      | some t => endRound s t
      | none => s
    let s := takeSpill s x.id
    if x.deadPolicy = 0 then
      boundary ((dropUnits s x.id x.next).onStream x.id fun y => { y with
        st := .deadEnd, svc := .none, waitPages := false, waitCup := false }) x.id
    else endFor s x 4

/-- The root's build: of the stream's set, or the EOS ids once a dead end has come. -/
def rootBuild (s : State) (x : Stream) : Built := if x.forcedEos then buildEos (s.vocOf x) else setMask s x x.set

/-- The spilled states that the builds of a service read. -/
def buildReads (s : State) (x : Stream) (b : Built) : List Nat :=
  let root := if b.mask = 0 ∧ x.deadPolicy = 2 then eosMask (s.vocOf x) else b.mask
  b.ev.read ++ (nodeBuilds s x root).flatMap fun e => e.2.ev.read

/-- A build completes when every key and every spilled state is there: a dead end, or the masks are staged and MASK_RDY is raised. -/
def finishBuild (s : State) (x : Stream) : State :=
  let keys := serviceKeys s x
  let missing := keys.filter fun k => (s.cupEntry? k).isNone
  if !missing.isEmpty then (lookService s x missing).1
  else if keys.all fun k => ((s.cupEntry? k).map fun e => !e.filling).getD false then
    let b := rootBuild s x
    let reads := buildReads s x b
    if !spillHere s x reads then askSpill s x reads
    else if b.mask = 0 then deadEnd s x b
    else if restsAfter s x then restAfter (stepEvents s x (x.aut.getD 0) b.ev x.next) x
    else stageService s x b
  else s

/-- A stream that waits under CUPOLA_PRESSURE takes freed space for its keys or its private entries (06 R246). -/
def takeSpace (s : State) (x : Stream) : State :=
  let keys := serviceKeys s x
  let missing := keys.filter fun k => (s.cupEntry? k).isNone
  if !missing.isEmpty then (lookService s x missing).1
  else if keys.all fun k => ((s.cupEntry? k).map fun e => !e.filling).getD false then
    let b := rootBuild s x
    match privateEntries s x (positionsOf b (nodeBuilds s x b.mask)) with
    | .ok t => t.onStream x.id fun y => { y with waitCup := false }
    | .error _ => s
  else s

/-! ## Committing -/

/-- The mask reference of a result and the payload entries it needs (06 R252 to R256): `seq` is the sequence number of the
first entry that the commit writes. At the commit of a token its position's set is the stream's own (09 R367). -/
def resultRef (s : State) (x : Stream) (r : Result) (seq : Nat) : Nat × List (List Byte) :=
  match x.aut with
  | none => (maskRef 0 x.slot 0 0 0, [])
  | some n =>
    if resultForced r.flags then (maskRef 0 x.slot 3 0 0, [])
    else
      let tag := (s.automaton n).serial % 256
      if inlineSet x.set then (maskRef n x.slot 1 tag (inlineBody x.set), [])
      else if x.record then (maskRef n x.slot 2 tag (seq % 2 ^ 45), confEntries x.id seq n tag x.set)
      else (maskRef n x.slot 2 tag 0, [])

/-- What the home turret makes of a held result. -/
structure CommitPlan where
  feed : FeedRes
  stepped : Stepped
  reason : Nat
  group : List (List Byte)
  entries : List Staged
  deriving DecidableEq, Repr

/-- The end reason at a token, in the order of 05 R203. -/
def endAt (v : VocImage) (x : Stream) (r : Result) (f : FeedRes) : Nat :=
  if f.cut.isSome then 1
  else if v.isEos r.token then 2
  else if x.maxNew == some (x.gen + 1) || r.step == 0xFFFFFFFD then 3
  else 0

/-- Detokenization, stop matching, the advanced set, the group and the entries of a held result. -/
def commitPlan (s : State) (x : Stream) (r : Result) : CommitPlan :=
  let v := s.vocOf x
  let feed := match tokText (some v) r.token with
    | .bytes bs => feedString x.utf8Raw (s.stopOf x) x.text bs
    | _ => { text := x.text }
  let reason := endAt v x r feed
  let out := if reason = 2 ∨ reason = 3 then feed.out ++ endText x.utf8Raw feed.text else feed.out
  let seq := ((s.ownPkr x.owner).ring (!x.record)).next
  let ref := resultRef s x r seq
  let flags := recordFlags false r.draft (v.isEos r.token) (reason != 0) (resultForced r.flags) (resultMirror r.flags) feed.cut +
    b2n (epochRevoked s x.owner x.epoch)
  let staged := fun (isRec : Bool) (bs : List Byte) =>
    ({ bytes := bs, stream := x.id, step := r.step, epoch := x.epoch, isRec := isRec } : Staged)
  { feed := feed, stepped := advanceSet s x [r.token], reason := reason
    group := (if x.resultOn then
        [egressRecord 3 false x.id r.step 0 (resultBytes { r with maskRef := ref.1 } x.resultTop ++ resultEntries r x.resultTop)]
      else []) ++ textRecord false x.id r.step out ++ if reason = 0 then [] else [endRecord x.id r.step reason]
    entries := if x.record then
        ref.2.map (staged false) ++ [staged true (recordOf x r.token r.step flags r.lnpAllowed r.lnpUncon ref.1)]
      else [staged true (replayOf x r.token)] }

/-- After a commit: FIN_RESULT_CTL takes effect (08 R337), an end closes the round and voids what it still held, with an END record
for the first of those steps (09 R369); with nothing held the boundary of the next
step follows, and a unit that opened early for a step that does not begin goes (08 R303). -/
def afterCommit (s : State) (id : Nat) (rest : List Result) (reason : Nat) : State :=
  let s := resultControl s id
  match s.stream? id with
  | none => s
  | some x =>
    let s := if reason = 0 then s else markEnd s { x with endOut := x.endOut && rest.isEmpty } reason x.next
    let done := reason != 0 || (rest.isEmpty && !((s.tree? id).map (·.walking)).getD false)
    if !done then s
    else
      let s := match s.tree? id with
        | some t =>
          endRound (s.onStp fun p => { p with withdrawn := wrap32 (p.withdrawn + if reason = 0 then 0 else rest.length) }) t
        | none => s
      let s := tryEnd (s.onStream id fun y => { y with svc := .none }) id
      match s.stream? id with
      | some y => if y.svc == .none || y.svc == .waitUnit then dropAllUnits s id else s
      | none => s

/-- Commits the first held result of a stream, or waits for its checkpoint, for spilled transitions, its queue or its ring. A
checkpoint that must come first and is not yet taken is the stream's context at the boundary before the held step (10 R398, 14
R518). The new set is written to the inactive stack area before the commit, which names that area (10 R380). -/
def commitHeld (s : State) (x : Stream) (r : Result) (rest : List Result) : State :=
  let p := commitPlan s x r
  if x.waitCkpt then
    if x.ckptDue && x.ckptPend.isEmpty then takeCkpt s x else s
  else if !spillHere s x p.stepped.read then askSpill s x p.stepped.read
  else
    let s := s.onStream x.id fun y => y.stageSet p.stepped.set
    if !queueRoom s x p.group then queueWait s x p.group
    else if !ringRoom s x.owner (!x.record) p.entries.length then ringWait (reserve s x p.group) x
    else
      let s := stepEvents (publish (takeSpill s x.id) x p.group) x (x.aut.getD 0) p.stepped r.step
      let s := s.onStream x.id fun y => { y.switchArea with
        next := y.next + 1, gen := y.gen + 1, token := some r.token, text := p.feed.text, held := rest, armSpent := false
        forcedEos := false, waitRing := false, waitQueue := false, ckptSteps := y.ckptSteps + 1, idleSaid := false }
      let s := countRevoked (stage s x.owner (!x.record) p.entries) x 1
      afterCommit s x.id rest p.reason

end Sys2Proof.Machine
end

