-- ==== Sys2Proof/Machine/Rings.lean ====
section
/-! DEFINITION. Command and completion rings (02 R56 to R77): doorbells, enables, fetch, dispatch with the ordering keys of
Table 2.9 and the checks of R80, completion records, the ring watchdog. -/

namespace Sys2Proof.Machine

/-! ## Register accesses of the fabric side (15 R555, 13 R481) -/

/-- A register access that the control slave port serves. -/
def served (s : State) (data : Word) : State := { s with csp := { data := data } }

/-- A register access that is answered with an error; its read data is 0xFFFF_FFFF. -/
def refusedAccess (s : State) : State := { s with csp := { err := true, data := 0xFFFFFFFF } }

/-- A write on the fabric side: served while the block is READY. -/
def fabricWrite (s : State) (f : State → State) : State := if s.ready then served (f s) 0 else refusedAccess s

/-! ## Fetch (R62 to R68) -/

/-- IN_FLIGHT: fetched commands of a ring whose completion is not written (Table 2.3). -/
def inFlight (s : State) (n : Nat) : Nat :=
  (s.rng.cmds.filter (·.ring == n)).length + (s.rng.comps.filter (·.ring == n)).length

/-- Bytes of a command entry (R57). -/
def CmdRing.size (r : CmdRing) : Nat := if r.fmtB then 64 else 32

/-- The address of the entry at the head. -/
def CmdRing.entryAddr (r : CmdRing) : Nat := r.base + r.head * r.size

/-- An error response to an entry read stops the ring (R67). -/
def entryError (s : State) (n : Nat) : State :=
  raiseBy ((dropLines s (.entry n)).onRing n fun r => { r with fetchErr := true, stopped := true }) .ring 0x0802 0 0
    (n + 65536 * (s.ring n).head)

/-- Asks for the entry at the head, when the ring fetches (R63, R68). -/
def fetchEntry (s : State) (n : Nat) : State :=
  let r := s.ring n
  if !r.enable || r.stopped || r.head == r.tail || decide (256 ≤ inFlight s n) then s
  else
    let t := fetchLine s (.entry n) (r.entryAddr / 128)
    if lineOf t (.entry n) (r.entryAddr / 128) = some none then entryError t n else t

/-- The command that an entry of a ring is: format A is mapped to format B (R87, R88). -/
def commandOf (s : State) (n : Nat) (e : List Byte) : Cmd :=
  let r := s.ring n
  let c : Cmd := { ticket := s.rng.nextTicket, ring := n, cq := r.cq, fmtB := r.fmtB, ent := e }
  if r.fmtB then { c with bad := !reservedOk c }
  else { c with ent := mapFormatA r.owner e, bad := !reservedOkA e }

/-- Stages the entry that a line holds: it takes a ticket and the head moves on (R64). -/
def takeEntry (s : State) (n : Nat) (line : List Byte) : State :=
  let r := s.ring n
  let c := commandOf s n (slice line (r.entryAddr % 128) r.size)
  let s := (dropLines s (.entry n)).onRng fun g => { g with cmds := g.cmds ++ [c], nextTicket := g.nextTicket + 1 }
  s.onRing n fun r => { r with head := (r.head + 1) % 2 ^ r.sizeLog, stallSaid := false }

/-! ## Ring registers (Tables 2.1 to 2.4) -/

/-- RING_CTAIL: the doorbell (R66). -/
def writeCtail (s : State) (n : Nat) (v : Word) : State :=
  let i := v.toNat % 65536
  if 2 ^ (s.ring n).sizeLog ≤ i then
    raiseBy (s.onRing n fun r => { r with tailRange := true }) .ring 0x0902 0 0 (n + 65536 * i)
  else fetchEntry (s.onRing n fun r => { r with tail := i }) n

/-- The cases in which ENABLE = 1 is refused on a command ring (R60). -/
def enableBad (s : State) (r : CmdRing) : Bool :=
  decide (r.sizeLog < 6 ∨ 16 < r.sizeLog) || !(s.cqr r.cq).enable || (s.cqr r.cq).fmtB != r.fmtB || r.fetchErr ||
    (!r.fmtB && (getN s.lan.opt 1).toNat.testBit 1)

/-- RING_CCTL: while ENABLE is 1 only ENABLE is written (R59); an enable empties the ring or resumes a stopped fetch (R62). -/
def writeCctl (s : State) (n : Nat) (v : Word) : State :=
  let r := s.ring n
  if r.enable then
    if v.bit 0 then s else (dropLines s (.entry n)).onRing n fun r => { r with enable := false }
  else
    let r := { r with
      fmtB := v.bit 1, priv := v.bit 2, weight := v.field 7 4, sizeLog := v.field 12 8, owner := v.field 21 16,
      cq := v.field 29 24 }
    let s := s.onRing n fun _ => r
    if !v.bit 0 then s
    else if enableBad s r then s.onRing n fun r => { r with enRefused := true }
    else fetchEntry (s.onRing n fun r => { r with
      enable := true, head := if r.stopped then r.head else r.tail, stopped := false, stallSaid := false }) n

/-- Whether a write of ENABLE = 0 to a completion ring is ignored (R61). -/
def cqHeld (s : State) (m : Nat) : Bool :=
  (s.rng.c.any fun r => r.enable && r.cq == m) || (s.rng.cmds.any (·.cq == m)) || (s.rng.comps.any (·.cq == m))

/-- RING_QCTL (R59 to R61, R74). -/
def writeQctl (s : State) (m : Nat) (v : Word) : State :=
  let q := s.cqr m
  if q.enable then
    if v.bit 0 || cqHeld s m then s else s.onCq m fun q => { q with enable := false }
  else
    let q := { q with fmtB := v.bit 1, irqLine := v.field 7 4, sizeLog := v.field 12 8 }
    if v.bit 0 && decide (6 ≤ q.sizeLog) && decide (q.sizeLog ≤ 16) then
      s.onCq m fun _ => { q with enable := true, head := 0, widx := 0, phase := true, full := false }
    else s.onCq m fun _ => q

/-- Whether the entry at the write index is free (R75). -/
def CplRing.hasRoom (q : CplRing) : Bool := (q.widx + 1) % 2 ^ q.sizeLog != q.head

/-- RING_QHEAD: software has read up to an index; FULL falls once an entry is free. -/
def writeQhead (s : State) (m : Nat) (v : Word) : State :=
  s.onCq m fun q =>
    let q := { q with head := v.toNat % 65536 }
    { q with full := q.full && !q.hasRoom }

/-- A base register of a ring: low half with [31:12], or high half; ignored while the ring is enabled (R59). -/
def setBase (base : Nat) (high : Bool) (v : Word) : Nat :=
  if high then base % 4294967296 + 4294967296 * v.toNat else base / 4294967296 * 4294967296 + v.toNat / 4096 * 4096

/-! ## Ordering keys (Table 2.9, R92 to R95) -/

/-- An ordering key. A stream, stop set or automaton names the owner that the command acts for, none for a SHARED load. -/
inductive Key where
  | all
  | slot (n : Nat)
  | anySlot
  | aut (n : Nat) (owner : Option Nat)
  | anyAut
  | prog (n : Nat)
  | stop (owner n : Nat)
  | stream (n owner : Nat)
  | ownerKey (owner : Nat)
  | owner (owner : Nat)
  | queue (n : Nat)
  | anyQueue
  deriving DecidableEq, Repr

/-- Whether the owner key of o covers a key. -/
def Key.ofOwner (o : Nat) : Key → Bool
  | .ownerKey p => p == o
  | .owner p => p == o
  | .stream _ p => p == o
  | .stop p _ => p == o
  | .aut _ p => p == some o
  | .anyAut => true
  | .all => true
  | _ => false

/-- Whether two keys are shared. -/
def Key.shares : Key → Key → Bool
  | .all, _ => true
  | _, .all => true
  | .owner o, k => k.ofOwner o
  | k, .owner o => k.ofOwner o
  | .slot a, .slot b => a == b
  | .slot _, .anySlot => true
  | .anySlot, .slot _ => true
  | .anySlot, .anySlot => true
  | .aut a _, .aut b _ => a == b
  | .aut _ _, .anyAut => true
  | .anyAut, .aut _ _ => true
  | .anyAut, .anyAut => true
  | .prog a, .prog b => a == b
  | .stop o a, .stop p b => o == p && a == b
  | .stream a _, .stream b _ => a == b
  | .ownerKey a, .ownerKey b => a == b
  | .queue a, .queue b => a == b
  | .queue _, .anyQueue => true
  | .anyQueue, .queue _ => true
  | .anyQueue, .anyQueue => true
  | _, _ => false

/-- The program that a TOKENIZE names (03 R137). -/
def tokenizeProgram (s : State) (c : Cmd) : Nat :=
  match pickProgram s (if c.bit 17 2 then none else some (s.slot c.slot16).img) (c.b 17 % 4) (c.b 18) with
  | .ok p => progId p
  | .error _ => c.b 18

/-- The ordering keys of a command. -/
def keysOf (s : State) (c : Cmd) : List Key :=
  let o := c.owner
  match c.opcode with
  | 0x01 | 0x02 => [.all]
  | 0x10 | 0x11 => [.slot c.slot16]
  | 0x12 => [.aut (c.b 16 % 64) (if c.bit 17 1 then none else some o), .slot (c.b 18 % 8)]
  | 0x13 => [.aut (c.b 16 % 64) (some o)]
  | 0x14 => [.prog (c.b 16)]
  | 0x15 => [.stop o (c.b 16)]
  | 0x18 | 0x38 => [.ownerKey o]
  | 0x19 | 0x29 => [.owner o]
  | 0x20 => [.stream c.stream o, .slot c.slot16] ++ (if c.bit 18 0 then [.aut (c.b 17 % 64) (some o)] else []) ++
      if c.bit 18 1 then [.stop o (c.b 19)] else []
  | 0x21 => [.stream c.stream o] ++ (if c.sel 5 && !c.bit 20 6 then [.aut (c.b 20 % 64) (some o)] else []) ++
      if c.sel 4 && !c.bit 20 7 then [.stop o (c.b 19)] else []
  | 0x22 => [.stream c.stream o] ++ ((s.stream? c.stream).map fun x => Key.slot x.slot).toList
  | 0x23 | 0x24 | 0x25 | 0x44 => [.stream c.stream o]
  | 0x28 | 0x41 | 0x42 | 0x43 => [if c.ownerWide then .owner o else .stream c.stream o]
  | 0x30 => (if c.bit 17 2 then [] else [Key.slot c.slot16]) ++ [.prog (tokenizeProgram s c)]
  | 0x31 => (if c.bit 17 0 then [] else [Key.slot c.slot16]) ++ if c.bit 17 2 then [.stop o (c.b 19)] else []
  | 0x39 => [.anyAut, .anySlot]
  | 0x48 => [if c.bit 17 0 then .anyQueue else .queue (c.b 16 % 64)]
  | _ => []

/-- Whether two commands share a key. -/
def shareKey (s : State) (c d : Cmd) : Bool := (keysOf s c).any fun k => (keysOf s d).any fun l => k.shares l

/-- FENCE and COMMIT_CONFIG (R94). -/
def isFence (op : Nat) : Bool := op == 0x01 || op == 0x02

/-- Whether a command has not had its whole effect: a recorded EPOCH_REVOKE has, once its marks are written (10 R390). -/
def halfDone (s : State) (d : Cmd) : Bool :=
  d.phase == .dispatched || d.phase == .executing || (d.phase == .recorded && d.opcode == 0x29 && marksOut s d)

/-- Whether a command stands in the way of another's dispatch: in its ring by R92 and R94, across rings by R95. -/
def blocks (s : State) (d c : Cmd) : Bool :=
  if d.ring = c.ring then
    decide (d.ticket < c.ticket) &&
      (c.barrier || isFence c.opcode || isFence d.opcode || ((d.phase == .fetched || halfDone s d) && shareKey s c d))
  else halfDone s d && shareKey s c d

/-- Whether a completion that is not yet written holds a command back (R94). -/
def Comp.blocks (e : Comp) (c : Cmd) : Bool :=
  e.ring == c.ring && decide (e.ticket < c.ticket) && (c.barrier || isFence c.opcode || isFence e.opcode)

/-- Whether a fetched command may be dispatched now (R69, R75, R92 to R95). -/
def mayDispatch (s : State) (c : Cmd) : Bool :=
  c.phase == .fetched && (s.ring c.ring).enable && !(s.cqr (s.ring c.ring).cq).full &&
    !(s.rng.cmds.any fun d => blocks s d c) && !(s.rng.comps.any fun e => e.blocks c)

/-- The command that a ring would dispatch. -/
def ringPick (s : State) (n : Nat) : Option Cmd := s.rng.cmds.find? fun c => c.ring == n && mayDispatch s c

/-- Ends a turn: the next begins at the following ring. -/
def turnAfter (s : State) (n left : Nat) : State :=
  s.onRng fun r => if left = 0 then { r with rrRing := (n + 1) % 64, rrLeft := 0 } else { r with rrRing := n, rrLeft := left }

/-- The weighted round robin (R69): the command whose ring has the turn, and the turn after it. -/
def nextDispatch (s : State) : Option (Cmd × State) :=
  let n := s.rng.rrRing
  match (if s.rng.rrLeft = 0 then none else ringPick s n) with
  | some c => some (c, turnAfter s n (s.rng.rrLeft - 1))
  | none =>
    let first := if s.rng.rrLeft = 0 then n else n + 1
    (((List.range 64).map fun k => (first + k) % 64).findSome? (ringPick s)).map fun c =>
      (c, turnAfter s c.ring (s.ring c.ring).weight)

/-! ## The checks of R80 -/

/-- The ranges of the SELECTed groups of STREAM_PARAMS (R84, Table 2.10). -/
def paramsBad (c : Cmd) : Bool :=
  let temp := c.le 24 4
  let topP := c.le 28 4
  (c.sel 0 && (decide (1024 < c.le 22 2) || !(temp % 2147483648 == 0 || (decide (0x3C23D70A ≤ temp) && decide (temp ≤ 0x42C80000))) ||
    decide (topP = 0) || decide (0x3F800000 < topP) ||
    !(decide (c.le 32 4 < 0x3F800000) || c.le 32 4 == 0x80000000))) ||
  (c.sel 2 && c.b 18 % 4 == 3) || (c.sel 3 && decide (64 < c.b 48 % 128))

/-- A field outside its range, where the command's own check table does not check it. -/
def rangeBad (c : Cmd) : Bool :=
  (!opHasStream c.opcode (c.b 16) && c.le 8 2 != 0) || match c.opcode with
  | 0x02 => decide (64 ≤ c.le 16 4)
  | 0x14 => decide (c.b 16 < 32)
  | 0x18 => c.len32 != 72
  | 0x21 => paramsBad c
  | 0x22 => c.bit 16 0 && c.b 16 / 2 % 4 == 3
  | 0x29 => c.le 24 4 == c.le 20 4
  | 0x30 => decide (65536 < c.le 20 4)
  | 0x48 => c.bit 17 0 && c.b 16 != 0
  | _ => false

/-- The slot that the slot-range check looks at. -/
def checkedSlot (c : Cmd) : Option Nat :=
  match c.opcode with
  | 0x10 | 0x11 | 0x20 => some c.slot16
  | 0x12 => some (c.b 18 % 8)
  | 0x30 => if c.bit 17 2 then none else some c.slot16
  | 0x31 => if c.bit 17 0 then none else some c.slot16
  | _ => none

/-- The first check of R80 that fails. PRIV and OWNER are those of the ring at the dispatch: the spec does not say whether a change between
fetch and dispatch counts (log entry 87). -/
def headerStatus (s : State) (c : Cmd) : Option Status :=
  let r := s.ring c.ring
  match opInfo c.opcode with
  | none => some .badOpcode
  | some i =>
    if !c.fmtB && !i.fmtA then some .formatA
    else if c.bad || rangeBad c then some .badField
    else if opHasStream c.opcode (c.b 16) && decide (s.variant.streams ≤ c.stream) then some .streamRange
    else if ((checkedSlot c).map fun n => decide (s.variant.slots ≤ n)).getD false then some .slotRange
    else if !r.priv && (i.priv || (c.opcode == 0x12 && c.bit 17 1)) then some .privilege
    else if !r.priv && c.owner != r.owner then some .ownerMismatch
    else none

/-- Dispatches a command: counted, checked, and handed to the unit that performs it. -/
def dispatchOne (s : State) (c : Cmd) : State :=
  let s := s.onRng fun r => { r with dispatched := wrap32 (r.dispatched + 1) }
  match headerStatus s c with
  | some st => reject s c st
  | none => s.onCmd c.ticket fun c => { c with phase := .dispatched }

/-! ## Completion records (R72 to R77) -/

/-- A completion record as written (Table 2.5, R77). -/
def cplRecord (q : CplRing) (e : Comp) : List Byte :=
  let head := leBytes 4 e.tag ++ leBytes 2 e.status ++ leBytes 1 e.opcode ++ leBytes 1 (b2n q.phase + 2 * e.ring)
  if q.fmtB then
    head ++ leBytes 2 (if e.hasStream then e.stream else 0) ++ leBytes 2 0 ++ leBytes 4 e.step ++ leBytes 8 e.d0 ++ leBytes 8 e.d1
  else head ++ leBytes 8 e.d0

/-- Whether an earlier command of the same ring and stream has no completion record yet (R93). -/
def laterThan (s : State) (e : Comp) : Bool :=
  e.hasStream && ((s.rng.cmds.any fun c =>
      c.ring == e.ring && c.cq == e.cq && decide (c.ticket < e.ticket) && opHasStream c.opcode (c.b 16) && c.stream == e.stream) ||
    s.rng.comps.any fun d =>
      d.ring == e.ring && d.cq == e.cq && decide (d.ticket < e.ticket) && d.hasStream && d.stream == e.stream)

/-- The completion that a completion ring takes next. -/
def nextComp (s : State) (m : Nat) : Option Comp := s.rng.comps.find? fun e => e.cq == m && !laterThan s e

/-- The counts of Table 16.6 for a written completion. -/
def countComp (r : Rng) (e : Comp) : Rng :=
  let cls := e.status / 4096
  { r with
    completions := wrap32 (r.completions + 1)
    clsNote := satAdd r.clsNote (b2n (cls == 1)) 255, clsRej := satAdd r.clsRej (b2n (cls == 2)) 255
    clsFail := satAdd r.clsFail (b2n (cls == 3)) 255, clsAbort := satAdd r.clsAbort (b2n (cls == 4)) 255
    lastErr := if cls < 2 then r.lastErr else e.status + 65536 * e.ring + 16777216 * e.opcode }

/-- Writes a completion into a free entry. While the block is fenced it is lost (R72, 14 R530), and uses up no entry: the spec does not
say whether the write index moves on (log entry 88). -/
def writeComp (s : State) (m : Nat) (e : Comp) : State :=
  let q := s.cqr m
  let s := s.onRng fun r => { r with comps := r.comps.filter (·.ticket != e.ticket) }
  if s.lan.fenced then fetchEntry s e.ring
  else
    let bs := cplRecord q e
    let s := writeBytes (s.onRng fun r => countComp r e) (.completion m) (q.base + q.widx * bs.length) bs
    let s := s.onCq m fun q => { q with
      full := false, widx := (q.widx + 1) % 2 ^ q.sizeLog, phase := q.phase != decide (q.widx + 1 = 2 ^ q.sizeLog) }
    let s := if e.irq then s.onBel fun b => { b with cqPending := b.cqPending ||| 1 <<< q.irqLine } else s
    fetchEntry s e.ring

/-- A completion ring takes its next completion, or stands FULL, reported once (R75). -/
def pushComp (s : State) (m : Nat) : State :=
  match nextComp s m with
  | none => s
  | some e =>
    let q := s.cqr m
    if q.hasRoom then writeComp s m e
    else if q.full then s
    else raiseBy (s.onCq m fun q => { q with full := true }) .ring 0x0903 0 0 m

/-! ## Meanings -/

/-- RING_CTAIL_DOORBELL: a write of RING_CTAIL[n]. -/
def execRingCtailDoorbell (ring : Nat) (value : Word) (s : State) : Host.Outcome State Fault Refusal :=
  finish s (fabricWrite s fun s => writeCtail s (ring % 64) value)

/-- CMD_RING_ENABLE: a write of RING_CCTL[n] (R59, R60, R62). -/
def execCmdRingEnable (ring : Nat) (value : Word) (s : State) : Host.Outcome State Fault Refusal :=
  finish s (fabricWrite s fun s => writeCctl s (ring % 64) value)

/-- CMD_RING_DISABLE: a write of RING_CCTL[n] (R59, R67). -/
def execCmdRingDisable (ring : Nat) (value : Word) (s : State) : Host.Outcome State Fault Refusal :=
  finish s (fabricWrite s fun s => writeCctl s (ring % 64) value)

/-- CQ_RING_ENABLE: a write of RING_QCTL[m] (R60, R74). -/
def execCqRingEnable (ring : Nat) (value : Word) (s : State) : Host.Outcome State Fault Refusal :=
  finish s (fabricWrite s fun s => writeQctl s (ring % 64) value)

/-- CQ_RING_DISABLE: a write of RING_QCTL[m] (R61). -/
def execCqRingDisable (ring : Nat) (value : Word) (s : State) : Host.Outcome State Fault Refusal :=
  finish s (fabricWrite s fun s => writeQctl s (ring % 64) value)

/-- RING_QHEAD_WRITE: a write of RING_QHEAD[m] (R75). -/
def execRingQheadWrite (ring : Nat) (value : Word) (s : State) : Host.Outcome State Fault Refusal :=
  finish s (fabricWrite s fun s => writeQhead s (ring % 64) value)

/-- COMMAND_FETCH: the entry at the head has been read (R63, R64, R67, R68). -/
def execCommandFetch (ring : Nat) (s : State) : Host.Outcome State Fault Refusal :=
  finish s (
    let r := s.ring ring
    if !s.ready || !r.enable || r.stopped || r.head == r.tail || decide (256 ≤ inFlight s ring) then s
    else match lineOf s (.entry ring) (r.entryAddr / 128) with
      | some (some bs) => fetchEntry (takeEntry s ring bs) ring
      | some none => entryError s ring
      | none => fetchEntry s ring)

/-- COMMAND_DISPATCH: the Ring Unit dispatches one command (R69, R80, R92 to R95). -/
def execCommandDispatch (s : State) : Host.Outcome State Fault Refusal :=
  finish s (if !s.stepping then s
    else match nextDispatch s with
      | some (c, t) => dispatchOne t c
      | none => s)

/-- COMPLETION_WRITE: a completion ring takes its next completion (R72 to R76). -/
def execCompletionWrite (cq : Nat) (s : State) : Host.Outcome State Fault Refusal :=
  finish s (if s.stepping then pushComp s cq else s)

/-- RING_STALL: the ring watchdog (R70). -/
def execRingStall (ring : Nat) (s : State) : Host.Outcome State Fault Refusal :=
  finish s (
    let r := s.ring ring
    if s.ready && s.lan.ringWdog.v != 0 && r.head != r.tail && !r.stallSaid then
      raiseBy (s.onRing ring fun r => { r with stallSaid := true }) .lantern 0x0901 0 0 ring
    else s)

end Sys2Proof.Machine
end

