-- ==== Sys2Proof/Machine/Control.lean ====
section
/-! DEFINITION. How a dispatched block command runs, and the commands that order and configure: NOP, FENCE, COMMIT_CONFIG with the
staging groups of 02 Table 2.13 (02 R94, R103 to R106, 10 R398, 16 R569, R570, R572). -/

namespace Sys2Proof.Machine

/-- Runs the dispatched command of a ticket when it has the row's opcode; a recorded one tries its stream's boundary again. -/
def runCmd (s : State) (ticket op : Nat) (f : State → Cmd → State) : State :=
  match s.cmd? ticket with
  | none => s
  | some c =>
    if !s.stepping || c.opcode != op then s
    else match c.phase with
      | .fetched => s
      | .dispatched => f s c
      | .executing => f s c
      | .recorded => if opHasStream op (c.b 16) then tryEnd s c.stream else s

/-! ## FENCE -/

/-- FENCE: at once, or once the owner's record ring has written every entry staged when it executed; the partly filled lines of both
rings are written (12 R457). -/
def runFence (s : State) (c : Cmd) : State :=
  let o := c.owner
  if !c.bit 16 0 then complete s c Status.ok.code
  else
    let ring := (s.ownPkr o).recRing
    let target := if c.phase == .executing then c.n0 else ring.next
    let s := if c.phase == .executing then s
      else (writeLines (writeLines s o false true) o true true).onCmd c.ticket fun c => { c with phase := .executing, n0 := target }
    let ring := (s.ownPkr o).recRing
    if target ≤ ring.wseq ∨ ring.next < target then complete s { c with n0 := 0 } Status.ok.code else s

/-! ## Staging groups -/

/-- A staged area of an owner: base and SIZE_LOG2, by its place in Table 16.7. -/
def OwnerPkr.area (p : OwnerPkr) (k : Nat) : Nat × Nat :=
  (getN p.stg (3 * k) + 4294967296 * getN p.stg (3 * k + 1), getN p.stg (3 * k + 2))

/-- Whether two present areas overlap. -/
def areasMeet (a b : Nat × Nat) : Bool :=
  a.2 != 0 && b.2 != 0 && decide (a.1 < b.1 + 2 ^ b.2) && decide (b.1 < a.1 + 2 ^ a.2)

/-- Whether an area is absent or well placed. -/
def areaOk (a : Nat × Nat) : Bool := a.2 == 0 || (decide (16 ≤ a.2) && decide (a.2 ≤ 40) && a.1 % 4096 == 0)

/-- Whether a number is 0 or in a range. -/
def zeroOr (lo hi n : Nat) : Bool := n == 0 || (decide (lo ≤ n) && decide (n ≤ hi))

/-- Whether a group has had a staged write since it was last applied. -/
def groupWritten (s : State) (g : Nat) : Bool :=
  match g with
  | 0 => s.eqs.qs.any (·.stgWritten)
  | 1 => s.lan.g1Written
  | 2 => s.pkr.owners.any (·.stgWritten)
  | 3 => s.lan.g3Written
  | 4 => s.bel.stgWritten
  | 5 => s.mem.stgWritten
  | _ => false

/-- The check of a group (02 Table 2.13, 16 Table 16.6a). -/
def groupOk (s : State) (g : Nat) : Bool :=
  match g with
  | 0 => s.eqs.qs.all fun q => !q.stgWritten || (decide (q.lowStg < q.highStg) && decide (q.highStg ≤ 16384))
  | 1 => zeroOr 64 1048576 s.lan.ckTokens.stg && zeroOr 1 60000 s.lan.ckMs.stg
  | 2 => s.pkr.owners.all fun p => !p.stgWritten || (areaOk (p.area 0) && areaOk (p.area 1) && areaOk (p.area 2) &&
      !areasMeet (p.area 0) (p.area 1) && !areasMeet (p.area 0) (p.area 2) && !areasMeet (p.area 1) (p.area 2))
  | 3 => zeroOr 10 60000 s.lan.ringWdog.stg && zeroOr 1 3600 s.lan.idleTmo.stg &&
      (decide (300 ≤ s.lan.deadline.stg) && decide (s.lan.deadline.stg ≤ 3000000)) &&
      decide (3000 ≤ s.lan.turWdog.stg) && decide (s.lan.turWdog.stg ≤ 30000000)
  | 4 => s.bel.msgsStg.all fun m => m.1 % 4 == 0
  | 5 => decide (1 ≤ s.mem.marchPeriodStg) && decide (s.mem.marchPeriodStg ≤ 3600)
  | _ => true

/-- Commits a staged value. -/
def Live.commit (l : Live) : Live := { l with v := l.stg }

/-- Group 2 applies for an owner: what is staged goes to the old rings, the new rings start at 0, and every open stream of the
owner is checkpointed before its next commit (10 R398). -/
def applyAreas (s : State) (o : Nat) : State :=
  let s := writeLines (writeLines s o false true) o true true
  let relabel := fun r : FabReq => match r.who with
    | .ringLine p _ _ _ => if p = o then { r with who := .message 16 } else r
    | _ => r
  let s := s.onFab fun f => { f with stores := f.stores.map relabel, waiting := f.waiting.map relabel }
  let s := s.onOwnPkr o fun p => { p with
    recRing := { base := (p.area 0).1, sizeLog := (p.area 0).2 }, rplRing := { base := (p.area 1).1, sizeLog := (p.area 1).2 }
    ckBase := (p.area 2).1, ckLog := (p.area 2).2, head := 0, stgWritten := false }
  (s.ctx.streams.filter (·.owner == o)).foldl (fun s x =>
    boundary (s.onStream x.id fun y => { y with ckptDue := true, waitCkpt := true, ckptSeq := 0, ckptFrom := y.ckptSerial }) x.id) s

/-- Applies a group. -/
def applyGroup (s : State) (g : Nat) : State :=
  match g with
  | 0 => s.onEqs fun e => { e with qs := e.qs.map fun q =>
      if q.stgWritten then { q with newWm := some (q.highStg, q.lowStg), stgWritten := false } else q }
  | 1 => s.onLan fun l => { l with ckTokens := l.ckTokens.commit, ckMs := l.ckMs.commit, g1Written := false }
  | 2 => ((List.range 64).filter fun o => (s.ownPkr o).stgWritten).foldl applyAreas s
  | 3 => s.onLan fun l => { l with
      ringWdog := l.ringWdog.commit, idleTmo := l.idleTmo.commit, deadline := l.deadline.commit, turWdog := l.turWdog.commit
      g3Written := false }
  | 4 => s.onBel fun b => { b with routes := b.routesStg, msgs := b.msgsStg, stgWritten := false }
  | 5 => s.onMem fun m => { m with marchEn := m.marchEnStg, marchPeriod := m.marchPeriodStg, stgWritten := false }
  | _ => s

/-- COMMIT_CONFIG (02 R104): all selected groups with staged writes, or none. DETAIL0 has bit g for group g: the spec gives "groups
applied" and "the failing groups" no encoding (log entry 89). -/
def runCommit (s : State) (c : Cmd) : State :=
  let mask := c.le 16 4
  let gs := (List.range 6).filter fun g => (mask == 0 || mask.testBit g) && groupWritten s g
  let bad := gs.filter fun g => !groupOk s g
  if bad.isEmpty then complete (gs.foldl applyGroup s) c Status.ok.code 0 (bitmapOf gs)
  else complete s c Status.configInvalid.code 0 (bitmapOf bad)

/-! ## Meanings -/

/-- NOP. -/
def execNop (ticket : Nat) (s : State) : Host.Outcome State Fault Refusal :=
  finish s (runCmd s ticket 0x00 fun s c => complete s c Status.ok.code)

/-- FENCE (02 R94, Table 2.10). -/
def execFence (ticket : Nat) (s : State) : Host.Outcome State Fault Refusal :=
  finish s (runCmd s ticket 0x01 runFence)

/-- COMMIT_CONFIG (02 R104). -/
def execCommitConfig (ticket : Nat) (s : State) : Host.Outcome State Fault Refusal :=
  finish s (runCmd s ticket 0x02 runCommit)

end Sys2Proof.Machine
end

