-- ==== Sys2Proof/Machine/Programs.lean ====
section
/-! DEFINITION. Program images (07 R286 to R289): what their bytes describe and when they are valid. -/

namespace Sys2Proof.Machine

/-- Check 5 of Table 7.10: the header, its ranges and its reserved bytes. -/
def progHeaderOk (img : List Byte) (len : Nat) : Bool :=
  headerOk img 0x504B594E 1 len && (getN img 48).toNat == 1 && decide ((getN img 49).toNat < 2) &&
    decide (1 ≤ getLE img 52 4) && decide (getLE img 52 4 ≤ 4096) && decide (getLE img 64 4 ≤ 8192) &&
    ((getN img 49).toNat == 0 || getLE img 56 4 == 0) &&
    zeros img 12 16 && zeros img 50 52 && zeros img 68 112 && zeros img 240 256

/-- F: the sum of the section lengths (R287). -/
def progFootprint (img : List Byte) : Nat := ((sectionTable img).map (·.len)).sum

/-- The table directory of section 1: (OFFSET, LENGTH). -/
def progTables (img : List Byte) : List (Nat × Nat) :=
  if (sec img 1).len = 0 then List.replicate 8 (0, 0)
  else (List.range 8).map fun i => (getLE (secBytes img 1) (8 * i) 4, getLE (secBytes img 1) (8 * i + 4) 4)

/-- Where the content of section 1 ends (R286). -/
def progTablesEnd (img : List Byte) : Nat :=
  if (sec img 1).len = 0 then 0
  else ((progTables img).filter (·.2 != 0)).foldl (fun m t => max m (t.1 + t.2)) 64

/-- The code words. -/
def progCode (img : List Byte) : List Word :=
  (leWords 4 ((secBytes img 0).take (4 * getLE img 52 4))).map (BitVec.ofNat 32)

/-- Whether an instruction is one that a pre-split program may not hold (R289). -/
def engineOp : Instr → Bool
  | .hprobe _ _ _ _ => true
  | .tstep _ _ _ _ _ => true
  | .astep _ _ _ => true
  | .aspec _ _ _ => true
  | .asave _ _ _ => true
  | .ares _ _ => true
  | .mset _ _ _ _ => true
  | .mclr _ _ _ _ => true
  | .steal _ _ => true
  | .post _ _ => true
  | .emit _ _ k => decide (2 ≤ k)
  | _ => false

/-- The target of a branch or jump at an index. -/
def targetOf (pc : Nat) : Instr → Option Nat
  | .beq _ _ _ o => some (branchTarget pc o)
  | .bne _ _ _ o => some (branchTarget pc o)
  | .blt _ _ _ o => some (branchTarget pc o)
  | .j _ o => some (branchTarget pc o)
  | .jal _ _ o => some (branchTarget pc o)
  | _ => none

/-- Whether an instruction may be a program's last. -/
def endsCode : Instr → Bool
  | .fin _ => true
  | .j _ _ => true
  | .jr _ _ => true
  | _ => false

/-- The code rules of R289. -/
def codeOk (code : List Word) : Bool :=
  let ins := code.map (decodeKnalen 0)
  (List.range ins.length).all (fun i => match (ins[i]?).join with
    | none => false
    | some x => !engineOp x && match targetOf i x with
      | some t => decide (t < code.length)
      | none => true) &&
  match ins.getLast?.join with
  | some x => endsCode x
  | none => false

/-- Check 8 of Table 7.10: R289, and the layout of R286 (log entry 36). -/
def progBodyOk (img : List Byte) : Bool :=
  let n := getLE img 52 4
  let cutMark := (getN img 49).toNat == 1
  let ts := progTables img
  layoutOk img [4 * n, progTablesEnd img, getLE img 64 4, 0, 0, 0, 0, 0] &&
  (sec img 0).count == n && (sec img 1).count == (ts.filter (·.2 != 0)).length && (sec img 2).count == getLE img 64 4 &&
  decide (progTablesEnd img ≤ 524288) && codeOk (progCode img) &&
  decide (getLE img 60 4 < n) && (cutMark || decide (getLE img 56 4 < n)) &&
  ts.all fun t => t.2 == 0 || (t.1 % 8 == 0 && decide (64 ≤ t.1) && decide (t.1 + t.2 ≤ (sec img 1).len))

/-- Reads a program image (Table 7.8, Table 7.9). -/
def parseProg (img : List Byte) (id addr : Nat) : Program :=
  { id := id, st := .loaded, cutAtMark := (getN img 49).toNat == 1, code := progCode img
    cutEntry := getLE img 56 4, pieceEntry := getLE img 60 4, init := (secBytes img 2).take (getLE img 64 4)
    tables := (progTables img).map fun t => slice (secBytes img 1) t.1 t.2
    foot := progFootprint img, digest := imgDigest img, addr := addr, len := img.length }

end Sys2Proof.Machine
end

