-- ==== Sys2Proof/Machine/Loads.lean ====
section
/-! DEFINITION. Loads and drops: LOAD_VOCAB, DROP_VOCAB (03 R128 to R133), LOAD_AUTOMATON, DROP_AUTOMATON with eager Cupola fills
(06 R234 to R241), LOAD_PROGRAM (07 R288 to R290), LOAD_STOPSET (05 R192 to R194). A load reads its image once; the row of the
command is repeated as lines arrive. n0 of its command counts the groups of checks it has passed. -/

namespace Sys2Proof.Machine

/-! ## Shared parts -/

/-- How far a load has come. -/
def Cmd.stageAt (s : State) (c : Cmd) (n : Nat) : State := s.onCmd c.ticket fun c => { c with phase := .executing, n0 := n }

/-- Whether a job that executes names an item (02 R100). -/
def jobNames (s : State) (p : Job → Bool) : Bool := s.job.js.any p

/-- The bytes of a load's image from an address: what to do while they are missing, when they read with an error, and with them. -/
def withBytes (s : State) (c : Cmd) (addr len : Nat) (err : State → State) (f : List Byte → State) : State :=
  match readBytes s (.command c.ticket) addr len with
  | .wait => awaitBytes s c addr len
  | .err => err s
  | .got bs => f bs

/-- A load as far as the bytes here allow: the checks on its first `hdr` bytes, which set n0 of its command, then those on
the whole image. -/
def loadOn (s : State) (c : Cmd) (hdr : Nat) (fail : State → State) (header image : State → Cmd → List Byte → State) : State :=
  let s := if c.n0 = 0 then withBytes s c c.addr24 (min hdr c.len32) fail (header s c) else s
  match s.cmd? c.ticket with
  | none => s
  | some d => if d.n0 = 0 then s else withBytes s d c.addr24 c.len32 fail (image s d)

/-! ## Vocabulary slots -/

def freeEntries (s : State) : Nat := s.variant.vocEntries - (s.voc.slots.map (·.entries)).sum
def freeVocBytes (s : State) : Nat := s.variant.vocBytes - (s.voc.slots.map (·.bytes)).sum

/-- A LOAD_VOCAB fails: the slot is empty, its reservation released (R130). -/
def vocFail (s : State) (c : Cmd) (st : Status) : State := reject (s.onSlot c.slot16 fun _ => {}) c st

/-- Checks 4 and 5 of Table 3.5 on the header, then the reservation of R129. -/
def vocHeader (s : State) (c : Cmd) (h : List Byte) : State :=
  let v := getLE h 48 4
  let l := vocLens h
  let bytes := l.1 + s.variant.replicas * l.2
  if freeEntries s < v ∨ freeVocBytes s < bytes then vocFail s c .vocabNoSpace
  else if !(slice c.ent 48 16).all (· == 0) && slice c.ent 48 16 != slice h 16 16 then vocFail s c .digestMismatch
  else Cmd.stageAt (s.onSlot c.slot16 fun x => { x with entries := v, bytes := bytes }) c 1

/-- Check 3 of Table 3.5, which needs the first line alone (02 R584); then the rest of the header. -/
def vocFirst (s : State) (c : Cmd) (h : List Byte) : State :=
  if !vocHeaderOk h c.len32 then vocFail s c .imageInvalid
  else withBytes s c c.addr24 (min 256 c.len32) (fun s => vocFail s c .fabricError) (vocHeader s c)

/-- Checks 6 and 7 of Table 3.5 on the image, then the slot is loaded. -/
def vocImage (s : State) (c : Cmd) (img : List Byte) : State :=
  if computedDigest img ≠ imgDigest img then vocFail s c .digestMismatch
  else if !vocBodyOk img then vocFail s c .imageInvalid
  else
    let p := parseVoc img
    let bytes := p.sLen + s.variant.replicas * p.lLen
    let s := s.onSlot c.slot16 fun _ => {
      st := .loaded, img := p, entries := p.v, bytes := bytes, addr := c.addr24, len := c.len32 }
    complete s c Status.ok.code 0 p.v bytes

/-- LOAD_VOCAB as far as the bytes here allow. -/
def runLoadVocab (s : State) (c : Cmd) : State :=
  let x := s.slot c.slot16
  if c.phase == .dispatched && x.st != .empty then reject s c .idBusy
  else if c.phase == .dispatched && (c.addr24 % 128 != 0 || c.len32 == 0) then reject s c .badField
  else
    let s := if c.phase == .dispatched then s.onSlot c.slot16 fun _ => { st := .loading, ticket := c.ticket } else s
    loadOn s c 128 (fun s => vocFail s c .fabricError) vocFirst vocImage

/-- DROP_VOCAB (R133, R100). -/
def runDropVocab (s : State) (c : Cmd) : State :=
  let n := c.slot16
  let x := s.slot n
  let bound := (s.ctx.streams.any (·.slot == n)) || s.aut.auts.any fun a => a.st != .empty && a.slot == n
  if x.st == .empty then reject s c .noSlot
  else if x.st == .loaded && bound then reject s c .inUse
  else if jobNames s (·.slots.contains n) then executing (s.onSlot n fun x => { x with st := .dropping }) c.ticket
  else complete (s.onSlot n fun _ => {}) c Status.ok.code 0 x.entries x.bytes

/-! ## Automata -/

def freeTrans (s : State) : Nat := s.variant.transEntries - (s.aut.auts.map (·.transResv)).sum

/-- Free bytes of the record pool: automata, programs and stop sets draw on it (06 R234, 07 R287, 05 R193). -/
def freeRec (s : State) : Nat :=
  s.variant.recordPool - ((s.aut.auts.map (·.recResv)).sum + (s.aut.progs.map fun p => p.foot + p.resv).sum +
    (s.aut.stops.map fun p => p.foot + p.resv).sum)

/-- AUT of a load or drop of an automaton. -/
def Cmd.aut16 (c : Cmd) : Nat := c.b 16 % 64
def Cmd.spillAddr (c : Cmd) : Nat := c.le 40 8
def Cmd.spillLen (c : Cmd) : Nat := c.le 48 4

/-- Whether a load may spill (R236). -/
def Cmd.maySpill (c : Cmd) : Bool := !c.bit 17 2 && !c.bit 17 1 && c.spillLen != 0

/-- A freed id: its serial and history stay (R240). -/
def Automaton.freed (a : Automaton) : Automaton := { serial := a.serial, history := a.history }

/-- Whether a unit is one of a Cupola fill. -/
def UnitRef.ofFill (f : Nat) (u : UnitRef) : Bool := u.ticket == f && (u.kind == 2 || u.kind == 3)

/-- Every Cupola entry of an automaton goes, with the units of its fills (R241). -/
def dropCupOf (s : State) (n : Nat) : State :=
  let mine := fun e : CupEntry => (e.key.map fun k => k.aut == n).getD false
  (takeOff s fun u => s.cup.entries.any fun e => mine e && e.filling && u.ofFill e.fill).onCup fun c => { c with
    entries := c.entries.filter fun e => !mine e }

/-- A LOAD_AUTOMATON fails: the id is free, its reservations released (R239). -/
def autFail (s : State) (c : Cmd) (st : Status) : State :=
  reject (dropCupOf (s.onAutomaton c.aut16 Automaton.freed) c.aut16) c st

/-- The reservation of R129 for a load with T_on entries on the block; `k` is the first spilled state. -/
def autReserve (s : State) (c : Cmd) (h : List Byte) (tOn k : Nat) (spilled : Bool) : State :=
  Cmd.stageAt (s.onAutomaton c.aut16 fun a => { a with
    recResv := autFootprint h, transResv := tOn, transOn := tOn, spilled := spilled, firstSpilled := k }) c 1

/-- Checks 7 and 8 of Table 6.6 for a load that must spill: they need section 0. -/
def autSpill (s : State) (c : Cmd) (h : List Byte) : State :=
  let n := getLE h 52 4
  withBytes s c (c.addr24 + (sec h 0).ofs) (min (32 * n) (c.len32 - (sec h 0).ofs)) (fun s => autFail s c .fabricError) fun s0 =>
    let ns := transCounts s0 n
    let k := firstSpilled ns (freeTrans s)
    if c.spillLen < spillSize ns k then autFail s c .autNoSpace
    else if (s.key? c.owner).isNone then autFail s c .noKey
    else autReserve s c h (transOf ns k) k true

/-- Checks 4 to 8 of Table 6.6. -/
def autHeader (s : State) (c : Cmd) (h : List Byte) : State :=
  let voc := (s.slot (c.b 18 % 8)).img
  let t := getLE h 60 4
  if !autHeaderOk h c.len32 || getLE h 68 4 != voc.v then autFail s c .imageInvalid
  else if slice h 72 32 ≠ voc.digest then autFail s c .digestMismatch
  else if freeRec s < autFootprint h then autFail s c .autNoSpace
  else if t ≤ freeTrans s then autReserve s c h t (getLE h 52 4) false
  else if !c.maySpill then autFail s c .autNoSpace
  else autSpill s c h

/-- The load is done: its serial moves and the history takes its digest (R240). -/
def autLoaded (s : State) (c : Cmd) : State :=
  let a := s.automaton c.aut16
  let serial := (a.serial + 1) % 256
  let s := s.onAutomaton c.aut16 fun a => { a with
    st := .loaded, serial := serial, history := ((serial, a.img.digest) :: a.history).take 16 }
  complete s c (if a.spilled then Status.degradedSpill else .ok).code 0 a.transOn (a.img.transCount - a.transOn)

/-- The load completes when no eager fill of it is under way (R238). -/
def eagerOver (s : State) (c : Cmd) : State :=
  if s.cup.entries.any fun e => e.fillFor == some c.ticket && e.filling then Cmd.stageAt s c 3
  else autLoaded (s.onCup fun u => { u with
    entries := u.entries.map fun e => if e.fillFor == some c.ticket then { e with fillFor := none } else e }) c

/-- Starts the eager fill of one key, or skips it for want of space (R238). The turret that posts its unit is the model's choice:
active turret 0 (log entry 95). -/
def eagerFill (s : State) (c : Cmd) (k : CupKey) : State :=
  match startFill s k true (some c.ticket) (s.physOf 0) with
  | some r => countReads r.1 r.2
  | none => s.onAut fun u => { u with eagerSkipped := wrap32 (u.eagerSkipped + 1) }

/-- Starts the eager fills: one for every key of section 4; a key without space is skipped and counted (R238). -/
def eagerFills (s : State) (c : Cmd) : State :=
  let a := s.automaton c.aut16
  let keys := if c.bit 17 0 then (a.img.eager.map fun k => { k with aut := c.aut16 }).eraseDups else []
  eagerOver (keys.foldl (fun s k => eagerFill s c k) s) c

/-- Writes the spill area, encrypted in domain 0x04 (R236, 12 R456). -/
def writeSpill (s : State) (c : Cmd) (key bs : List Byte) : State :=
  (List.range (bs.length / 128)).foldl (fun s i =>
    writeSecret s (.spillLine c.ticket) key (c.spillAddr + 128 * i) 4 c.owner (slice bs (128 * i) 128)) s

/-- Checks 9 and 10 of Table 6.6, then spill writes and eager fills. -/
def autImage (s : State) (c : Cmd) (img : List Byte) : State :=
  let slot := c.b 18 % 8
  let voc := (s.slot slot).img
  let a := s.automaton c.aut16
  if computedDigest img ≠ imgDigest img then autFail s c .digestMismatch
  else if !autBodyOk img voc then autFail s c .imageInvalid
  else
    let s := s.onAutomaton c.aut16 fun a => { a with
      img := parseAut img voc.v, addr := c.addr24, len := c.len32, spillAddr := c.spillAddr, spillLen := c.spillLen }
    let s := Cmd.stageAt s c 2
    if !a.spilled then eagerFills s c
    else match s.key? c.owner with
      | none => autFail s c .noKey
      | some k => writeSpill s c k.key (spillBytes img a.firstSpilled)

/-- Check 11 of Table 6.6: the spill writes have ended. -/
def spillOver (s : State) (c : Cmd) : State :=
  if c.failed then autFail s c .fabricError
  else if writesOut s (.spillLine c.ticket) then s
  else eagerFills s c

/-- LOAD_AUTOMATON as far as the bytes here allow. -/
def runLoadAut (s : State) (c : Cmd) : State :=
  let slot := c.b 18 % 8
  if c.phase == .dispatched && (s.automaton c.aut16).st != .empty then reject s c .idBusy
  else if c.phase == .dispatched && (s.slot slot).st != .loaded then reject s c .noSlot
  else if c.phase == .dispatched && (c.addr24 % 128 != 0 || c.len32 == 0 ||
      (c.spillLen != 0 && (c.spillAddr % 4096 != 0 || c.spillLen % 4096 != 0))) then reject s c .badField
  else if c.n0 = 3 then eagerOver s c
  else if c.n0 = 2 then spillOver s c
  else
    let s := if c.phase == .dispatched then s.onAutomaton c.aut16 fun a =>
      { a.freed with
        st := .loading, slot := slot, ticket := c.ticket, owner := c.owner, shared := c.bit 17 1, eager := c.bit 17 0 } else s
    loadOn s c 256 (fun s => autFail s c .fabricError) autHeader autImage

/-- DROP_AUTOMATON (R241, R100). -/
def runDropAut (s : State) (c : Cmd) : State :=
  let n := c.aut16
  let a := s.automaton n
  if a.st == .empty then reject s c .noAutomaton
  else if a.shared && !(s.ring c.ring).priv then reject s c .privilege
  else if !a.shared && a.owner != c.owner then reject s c .ownerMismatch
  else if a.st == .loaded && s.ctx.streams.any (·.aut == some n) then reject s c .inUse
  else if jobNames s (·.auts.contains n) then executing (s.onAutomaton n fun a => { a with st := .dropping }) c.ticket
  else complete (dropCupOf (s.onAutomaton n Automaton.freed) n) c Status.ok.code

/-- CUPOLA_FILL_DONE: the entry of a key becomes valid; an eager load may have waited for it (R238, R245). -/
def fillDone (s : State) (k : CupKey) : State :=
  match s.cupEntry? k with
  | none => s
  | some e =>
    let s := s.onCup fun c => { c with entries := c.entries.map fun x => if x.key == some k then { x with filling := false, left := [] } else x }
    let s := if e.filling then repost (takeOff s (UnitRef.ofFill e.fill)) e.poster else s
    match e.fillFor.bind s.cmd? with
    | some c => if e.filling && c.n0 == 3 then eagerOver s c else s
    | none => s

/-! ## Programs -/

/-- Changes the program of an id. -/
def State.onProgram (s : State) (n : Nat) (f : Program → Program) : State :=
  s.onAut fun a => { a with progs := modWhere a.progs (·.id == n) f }

def State.program? (s : State) (n : Nat) : Option Program := s.aut.progs.find? (·.id == n)

/-- Whether an open stream is bound to a program: its slot names it as a default (07 R288); a default of 0xFF names a program of the
ROM. -/
def programBound (s : State) (n : Nat) : Bool :=
  n != 0xFF && s.ctx.streams.any fun x => let v := s.vocOf x; v.defMr == n || v.defLm == n || v.defByte == n

/-- A LOAD_PROGRAM fails: what was loaded stays (R288). -/
def progFail (s : State) (c : Cmd) (st : Status) : State :=
  let n := c.b 16
  let s := s.onAut fun a => { a with progs := a.progs.filter fun p => !(p.id == n && p.foot == 0) }
  reject (s.onProgram n fun p => { p with resv := 0, st := if p.st == .loading then .loaded else p.st }) c st

/-- Checks 5 and 6 of Table 7.10. -/
def progHeader (s : State) (c : Cmd) (h : List Byte) : State :=
  let old := ((s.program? (c.b 16)).map (·.foot)).getD 0
  if !progHeaderOk h c.len32 then progFail s c .imageInvalid
  else if freeRec s + old < progFootprint h then progFail s c .autNoSpace
  else Cmd.stageAt (s.onProgram (c.b 16) fun p => { p with resv := progFootprint h - old }) c 1

/-- Checks 7 and 8 of Table 7.10; then the program takes effect once no job names it (R290). -/
def progImage (s : State) (c : Cmd) (img : List Byte) : State :=
  if computedDigest img ≠ imgDigest img then progFail s c .digestMismatch
  else if !progBodyOk img then progFail s c .imageInvalid
  else if jobNames s (·.prog == some (c.b 16)) then Cmd.stageAt s c 1
  else complete (s.onProgram (c.b 16) fun _ => parseProg img (c.b 16) c.addr24) c Status.ok.code 0 (progFootprint img)

/-- Unloads a program once no job names it (R290). -/
def progUnload (s : State) (c : Cmd) : State :=
  if jobNames s (·.prog == some (c.b 16)) then
    executing (s.onProgram (c.b 16) fun p => { p with st := .dropping }) c.ticket
  else complete (s.onAut fun a => { a with progs := a.progs.filter (·.id != c.b 16) }) c Status.ok.code

/-- Whether a replacement or an unload of a bound item may not go on: an unload of a FAULTED one may (02 R100, 14 R515). -/
def replaceHeld (c : Cmd) (st : Option ItemState) (bound : Bool) : Bool :=
  c.bit 17 0 && bound && !(st == some .faulted && c.len32 == 0)

/-- LOAD_PROGRAM as far as the bytes here allow. -/
def runLoadProgram (s : State) (c : Cmd) : State :=
  let n := c.b 16
  let p := s.program? n
  let replace := c.bit 17 0
  if c.phase == .dispatched && p.isSome && !replace then reject s c .idBusy
  else if c.phase == .dispatched && p.isNone && replace then reject s c .noProgram
  else if c.phase == .dispatched && replaceHeld c (p.map (·.st)) (programBound s n) then reject s c .inUse
  else if c.phase == .dispatched && (c.addr24 % 128 != 0 || (c.len32 == 0 && !replace)) then reject s c .badField
  else if c.len32 = 0 then progUnload s c
  else
    let s := if c.phase != .dispatched then s
      else if p.isNone then s.onAut fun a => { a with progs := a.progs ++ [{ id := n, st := .loading }] }
      else s.onProgram n fun p => { p with st := if p.st == .loaded then .loading else p.st }
    loadOn s c 256 (fun s => progFail s c .fabricError) progHeader progImage

/-! ## Stop sets -/

/-- Changes a stop set of an owner. -/
def State.onStop (s : State) (o n : Nat) (f : StopSet → StopSet) : State :=
  s.onAut fun a => { a with stops := modWhere a.stops (fun p => p.owner == o && p.id == n) f }

/-- Whether an open stream is bound to a stop set. -/
def stopBound (s : State) (o n : Nat) : Bool := s.ctx.streams.any fun x => x.owner == o && x.stop == some n

/-- Removes a stop set. -/
def removeStop (s : State) (o n : Nat) : State :=
  s.onAut fun a => { a with stops := a.stops.filter fun p => !(p.owner == o && p.id == n) }

/-- A LOAD_STOPSET fails: what was loaded stays (R192). -/
def stopFail (s : State) (c : Cmd) (st : Status) : State :=
  let s := if ((s.stop? c.owner (c.b 16)).map fun p => p.foot == 0).getD false then removeStop s c.owner (c.b 16) else s
  reject (s.onStop c.owner (c.b 16) fun p => { p with resv := 0, st := if p.st == .loading then .loaded else p.st }) c st

/-- Checks 5 and 6 of Table 5.3. -/
def stopHeader (s : State) (c : Cmd) (h : List Byte) : State :=
  let old := ((s.stop? c.owner (c.b 16)).map (·.foot)).getD 0
  if !stopHeaderOk h c.len32 then stopFail s c .imageInvalid
  else if freeRec s + old < stopFootprint h then stopFail s c .autNoSpace
  else Cmd.stageAt (s.onStop c.owner (c.b 16) fun p => { p with resv := stopFootprint h - old }) c 1

/-- Checks 7 and 8 of Table 5.3; then the set takes effect once no job names it (R194). Where a command recorded before has bound a
stream to the set in the meantime, the replacement ends with IN_USE: no stream matches against two images (log entry 82). -/
def stopImageRead (s : State) (c : Cmd) (img : List Byte) : State :=
  if computedDigest img ≠ imgDigest img then stopFail s c .digestMismatch
  else if !stopCanonical img then stopFail s c .imageInvalid
  else if c.bit 17 0 && stopBound s c.owner (c.b 16) then stopFail s c .inUse
  else if jobNames s (·.stop == some (c.owner, c.b 16)) then Cmd.stageAt s c 1
  else complete (s.onStop c.owner (c.b 16) fun _ => parseStop img c.owner (c.b 16) c.addr24) c Status.ok.code 0 (stopFootprint img)

/-- Unloads a stop set once no job names it. -/
def stopUnload (s : State) (c : Cmd) : State :=
  if jobNames s (·.stop == some (c.owner, c.b 16)) then
    executing (s.onStop c.owner (c.b 16) fun p => { p with st := .dropping }) c.ticket
  else complete (removeStop s c.owner (c.b 16)) c Status.ok.code

/-- LOAD_STOPSET as far as the bytes here allow. -/
def runLoadStop (s : State) (c : Cmd) : State :=
  let o := c.owner
  let n := c.b 16
  let p := s.stop? o n
  let replace := c.bit 17 0
  if c.phase == .dispatched && p.isSome && !replace then reject s c .idBusy
  else if c.phase == .dispatched && p.isNone && replace then reject s c .noStopset
  else if c.phase == .dispatched && replaceHeld c (p.map (·.st)) (stopBound s o n) then reject s c .inUse
  else if c.phase == .dispatched && (c.addr24 % 64 != 0 || (c.len32 == 0 && !replace)) then reject s c .badField
  else if c.len32 = 0 then stopUnload s c
  else
    let s := if c.phase != .dispatched then s
      else if p.isNone then s.onAut fun a => { a with stops := a.stops ++ [{ owner := o, id := n, st := .loading }] }
      else s.onStop o n fun p => { p with st := if p.st == .loaded then .loading else p.st }
    loadOn s c 64 (fun s => stopFail s c .fabricError) stopHeader stopImageRead

/-! ## Meanings -/

/-- LOAD_VOCAB (03 R128 to R131). -/
def execLoadVocab (ticket : Nat) (s : State) : Host.Outcome State Fault Refusal :=
  finish s (runCmd s ticket 0x10 runLoadVocab)

/-- DROP_VOCAB (03 R133). -/
def execDropVocab (ticket : Nat) (s : State) : Host.Outcome State Fault Refusal :=
  finish s (runCmd s ticket 0x11 runDropVocab)

/-- LOAD_AUTOMATON (06 R235 to R240). -/
def execLoadAutomaton (ticket : Nat) (s : State) : Host.Outcome State Fault Refusal :=
  finish s (runCmd s ticket 0x12 runLoadAut)

/-- DROP_AUTOMATON (06 R241). -/
def execDropAutomaton (ticket : Nat) (s : State) : Host.Outcome State Fault Refusal :=
  finish s (runCmd s ticket 0x13 runDropAut)

/-- LOAD_PROGRAM (07 R288 to R290). -/
def execLoadProgram (ticket : Nat) (s : State) : Host.Outcome State Fault Refusal :=
  finish s (runCmd s ticket 0x14 runLoadProgram)

/-- LOAD_STOPSET (05 R192 to R194). -/
def execLoadStopset (ticket : Nat) (s : State) : Host.Outcome State Fault Refusal :=
  finish s (runCmd s ticket 0x15 runLoadStop)

/-- CUPOLA_FILL_DONE (06 R238, R245). -/
def execCupolaFillDone (aut state : Nat) (syms : List Nat) (exact : Bool) (s : State) : Host.Outcome State Fault Refusal :=
  finish s (if s.stepping then fillDone s { aut := aut, q := state, syms := syms, exact := exact } else s)

end Sys2Proof.Machine
end

