-- ==== Sys2Proof/Machine/StreamCmds.lean ====
section
/-! DEFINITION. Stream commands: STREAM_OPEN, STREAM_PARAMS, PROMPT, STEP_ARM, DRAFT, STREAM_CLOSE, EPOCH_SET, EPOCH_REVOKE (10
R374 to R391), CHECKPOINT, SUSPEND, RESUME, REATTACH (14 R508, R509, R519, R526, R527); and OWNER_RELEASE (12 R455), OWNER_KEY
(R460, R461), FLUSH (11 R421), SNAPSHOT (14 R535). -/

namespace Sys2Proof.Machine

/-! ## STREAM_OPEN -/

/-- Home streams of an active turret. -/
def homeCount (s : State) (n : Nat) : Nat := (s.ctx.streams.filter (·.home == n)).length

/-- The active turret numbers that may take a stream: not quarantined, fewer than 256 home streams. -/
def homeOk (s : State) (n : Nat) : Bool :=
  s.tur.ts.any (fun t => t.activeNo == some n && !t.quarantined && t.usable) && decide (homeCount s n < 256)

/-- The turret that takes a stream with HOME 0x1FF: the fewest home streams, ties to the lowest number (R376). -/
def pickHome (s : State) : Option Nat :=
  ((List.range s.variant.activeTurrets).filter (homeOk s)).foldl (fun b n => match b with
    | some m => if homeCount s n < homeCount s m then some n else some m
    | none => some n) none

/-- Whether an automaton belongs to another owner (02 R82). -/
def autForeign (s : State) (n o : Nat) : Bool :=
  let a := s.automaton n
  a.st == .loaded && !a.shared && a.owner != o

/-- Whether a stop set is loaded for an owner. -/
def stopLoaded (s : State) (o n : Nat) : Bool := ((s.stop? o n).map fun p => p.st == .loaded).getD false

/-- The automaton and stop set that a STREAM_OPEN names. -/
def Cmd.openAut (c : Cmd) : Option Nat := if c.bit 18 0 then some (c.b 17 % 64) else none
def Cmd.openStop (c : Cmd) : Option Nat := if c.bit 18 1 then some (c.b 19) else none

/-- The home turret that a STREAM_OPEN gets, if it may have it. -/
def openHome (s : State) (c : Cmd) : Option Nat :=
  let h := c.le 34 2
  if h = 0x1FF then pickHome s else if h < s.variant.activeTurrets && homeOk s h then some h else none

/-- The first check of Table 10.1 that fails; R82 comes before, for an open stream of the id and for the automaton. -/
def openStatus (s : State) (c : Cmd) : Option Status :=
  let o := c.owner
  if ((s.stream? c.stream).map fun x => x.owner != o).getD false then some .ownerMismatch
  else if (c.openAut.map fun n => autForeign s n o).getD false then some .ownerMismatch
  else if (s.stream? c.stream).isSome then some .streamState
  else if (s.slot c.slot16).st != .loaded then some .noSlot
  else if (c.openAut.map fun n => (s.automaton n).st != .loaded).getD false then some .noAutomaton
  else if (c.openAut.map fun n => (s.automaton n).slot != c.slot16).getD false then some .badField
  else if (c.openStop.map fun n => !stopLoaded s o n).getD false then some .noStopset
  else if (openHome s c).isNone then some .badField
  else if !c.bit 18 3 && epochRevoked s o (c.le 20 4) then some .epochRevoked
  else if (s.key? o).isNone then some .noKey
  else if ((s.ownPkr o).ring (!c.bit 18 2)).sizeLog = 0 then some .badField
  else none

/-- A stream as STREAM_OPEN leaves it (R375, Table 10.2). Its recovery needs no entry that its ring has already (R396). -/
def openedStream (s : State) (c : Cmd) (home : Nat) : Stream :=
  { id := c.stream, st := .idle, owner := c.owner, slot := c.slot16, aut := c.openAut, stop := c.openStop
    queue := c.b 32 % 64, home := home, record := c.bit 18 2, seed := c.le 24 8
    epoch := if c.bit 18 3 then (s.owner c.owner).epoch else c.le 20 4
    stack0 := match c.openAut with | some n => startSet (s.automaton n).img | none => []
    ckptSeq := ((s.ownPkr c.owner).ring (!c.bit 18 2)).next, ckptDue := true, waitCkpt := true }

/-- STREAM_OPEN (R374 to R376). -/
def runOpen (s : State) (c : Cmd) : State :=
  match openStatus s c with
  | some st => reject s c st
  | none =>
    let home := (openHome s c).getD 0
    let s := s.putStream (openedStream s c home)
    boundary (complete s c (bindStatus s c.openAut).code 0 home 0) c.stream

/-! ## Acceptance (R378, Table 10.4, 14 Table 14.6) -/

/-- Whether a state accepts a stream command. -/
def accepts (x : Stream) (op : Nat) : Bool :=
  match op with
  | 0x21 | 0x25 | 0x28 | 0x41 => true
  | 0x22 => x.st == .idle || x.st == .running || x.st == .ended
  | 0x23 | 0x24 => x.st == .idle || x.st == .running
  | 0x42 => x.st != .suspended
  | 0x43 => x.st == .stepFailed || (x.st == .suspended && x.cause != .byStart)
  | 0x44 => x.st == .suspended && x.cause == .byStart
  | _ => false

/-- Whether a stream takes a command now: not closing (02 R98), a lost one only its close (14 R522). -/
def streamTakes (x : Stream) (op : Nat) : Bool := !x.closing && accepts x op && (!x.lost || op == 0x25)

/-- Runs a one-stream command: open, its owner's (02 R82), in a state that accepts it. -/
def withStream (s : State) (c : Cmd) (f : Stream → State) : State :=
  match s.stream? c.stream with
  | none => reject s c .streamState
  | some x =>
    if x.owner ≠ c.owner then reject s c .ownerMismatch
    else if !streamTakes x c.opcode then reject s c .streamState
    else f x

/-- Records an owner-wide command against streams; it completes when each has reached its boundary (10 R387). -/
def recordWide (s : State) (c : Cmd) (ids : List Nat) : State :=
  if ids.isEmpty then complete s c Status.ok.code
  else
    let s := s.onCmd c.ticket fun c => { c with phase := .recorded, waits := ids, n0 := ids.length }
    ids.foldl (fun s id => match s.cmd? c.ticket with
      | some d => recordFor s d id
      | none => s) s

/-- The streams of an owner that an owner-wide command affects: an EPOCH_SET every open one (02 R99, R386), another command those
that take it. -/
def wideTargets (s : State) (c : Cmd) : List Nat :=
  ((s.ctx.streams.filter fun x => x.owner == c.owner && (c.opcode == 0x28 || streamTakes x c.opcode))).map (·.id)

/-! ## STREAM_PARAMS -/

/-- The checks of bindings at execution (06 R225, 02 R82). -/
def paramsStatus (s : State) (x : Stream) (c : Cmd) : Option Status :=
  let n := c.b 20 % 64
  if c.sel 5 && !c.bit 20 6 && (s.automaton n).st != .loaded then some .noAutomaton
  else if c.sel 5 && !c.bit 20 6 && autForeign s n x.owner then some .ownerMismatch
  else if c.sel 5 && !c.bit 20 6 && (s.automaton n).slot != x.slot then some .badField
  else if c.sel 4 && !c.bit 20 7 && !stopLoaded s x.owner (c.b 19) then some .noStopset
  else if c.sel 3 && c.le 40 8 % 8 != 0 then some .badField
  else none

/-- Whether bias pairs are valid for a stream (08 R308). -/
def biasOk (v : Nat) (ps : List (Nat × Word)) : Bool :=
  risingNat (ps.map Prod.fst) && ps.all fun p => decide (p.1 < v) && !F32.isNaN p.2

/-- STREAM_PARAMS executes: its checks, the bias read, then it is recorded. -/
def runParams (s : State) (c : Cmd) : State :=
  withStream s c fun x =>
    match paramsStatus s x c with
    | some st => reject s c st
    | none =>
      if !c.sel 3 then recordFor s c x.id
      else match readBytes s (.command c.ticket) (c.le 40 8) (8 * (c.b 48 % 128)) with
        | .wait => awaitBytes s c (c.le 40 8) (8 * (c.b 48 % 128))
        | .err => reject s c .fabricError
        | .got bs => if biasOk (s.vocOf x).v (biasPairs bs) then recordFor s c x.id else reject s c .badField

/-! ## PROMPT, STEP_ARM, DRAFT -/

/-- PROMPT is recorded, its reads issued (10 R382). -/
def runPrompt (s : State) (c : Cmd) : State :=
  withStream s c fun x => recordFor (fetchBytes s (.command c.ticket) c.addr24 c.promptLen) c x.id

/-- STEP_ARM is recorded (10 R384). -/
def runArm (s : State) (c : Cmd) : State := withStream s c fun x => recordFor s c x.id

/-- DRAFT is recorded, its reads issued (09 R351). -/
def runDraft (s : State) (c : Cmd) : State :=
  withStream s c fun x => recordFor (fetchBytes s (.command c.ticket) c.addr24 c.len32) c x.id

/-! ## STREAM_CLOSE -/

/-- A command recorded against a stream that ends before it took effect: completed with ABORTED_CLOSE, or for an owner-wide one
and EPOCH_REVOKE, the stream no longer counts (02 R98). -/
def abortRecorded (s : State) (id t : Nat) : State :=
  match s.cmd? t with
  | none => s
  | some c =>
    if c.opcode = 0x29 then reached (s.onCmd t fun c => { c with n1 := c.n1 - 1 }) c id
    else if !opHasStream c.opcode (c.b 16) then reached (s.onCmd t fun c => { c with n0 := c.n0 - 1 }) c id
    else reject (dropJob s t) c .abortedClose

/-- A stream stops at once: recorded commands are aborted, the step in flight, held results and text are discarded; a round ends
with an END token record for the first step that did not commit (09 R371). -/
def haltStream (s : State) (x : Stream) : State :=
  let s := s.onStream x.id fun y => { y with recorded := [] }
  let s := x.recorded.foldl (fun s t => abortRecorded s x.id t) s
  let s := match s.tree? x.id with
    | some t => emitToken (endRound s t) x.id x.next 0xFFFFFFFF (tokenFlags true false false false)
    | none => s
  let s := dropSpill (dropAllUnits s x.id) x.id
  let s := s.onFin fun f => { f with maskQueue := f.maskQueue.filter (·.1 != x.id) }
  let s := s.onStp fun p => { p with waiting := p.waiting.filter (·.stream != x.id) }
  releaseResv (s.onStream x.id fun y => { y with
    svc := .none, held := [], text := {}, endDue := 0, endOut := false, pagesResv := 0, waitCup := false, waitPages := false, waitRing := false
    waitQueue := false, zeroing := false }) x

/-- STREAM_CLOSE (10 R377). -/
def runClose (s : State) (c : Cmd) : State :=
  withStream s c fun x =>
    let s := if c.bit 16 0 then haltStream s x else s
    recordFor (s.onStream x.id fun y => { y with closing := true }) c x.id

/-! ## Epochs -/

/-- EPOCH_SET for one stream or for every open stream of the owner (10 R386, 02 R99, R101). -/
def runEpochSet (s : State) (c : Cmd) : State :=
  let e := c.le 20 4
  if c.ownerWide then
    if epochRevoked s c.owner e then reject s c .epochRevoked
    else
      let ids := wideTargets s c
      let s := s.onOwner c.owner fun o => { o with epoch := e }
      let s := ids.foldl (fun s id => s.onStream id fun y => { y with pendEpoch := some e }) s
      recordWide s c ids
  else withStream s c fun x =>
    if epochRevoked s x.owner e then reject s c .epochRevoked
    else recordFor (s.onStream x.id fun y => { y with pendEpoch := some e }) c x.id

/-- Whether 32 bytes of a ring are a record of an epoch that is not marked. -/
def unmarked (e : Nat) (bs : List Byte) : Bool :=
  getLE bs 0 4 != 0xFFFFFFFE && getLE bs 8 4 == e && !(getN bs 6).toNat.testBit 0

/-- A record with flag REVOKED set (R389). -/
def marked (bs : List Byte) : List Byte := setAt bs 6 (getN bs 6 ||| 1)

/-- The first record ring line that staging still holds; lines below it are marked in external memory. -/
def stagedLine (r : OwnRing) : Nat := ((r.staged.head?).map fun e => e.seq / 4).getD ((r.next + 3) / 4)

/-- Marks the staged records of an epoch from PKR_REC_HEAD on; a line that was written, or is being written, with one of them is
written again (R389). -/
def markStaged (s : State) (t o e : Nat) : State :=
  let p := s.ownPkr o
  let hit := fun g : Staged => g.isRec && decide (p.head ≤ g.seq) && unmarked e g.bytes
  let mine := p.recRing.staged.filter hit
  let s := s.onOwnRing o false fun r => { r with staged := modWhere r.staged hit fun g => { g with bytes := marked g.bytes } }
  let s := (s.onCmd t fun c => { c with n0 := c.n0 + mine.length, stagedTo := (p.recRing.next + 3) / 4 }).onPkr fun p =>
    { p with revokeMarks := wrap32 (p.revokeMarks + mine.length) }
  (((mine.filter (·.issued)).map fun g => g.seq / 4).eraseDups).foldl (fun s l => writeRingLine s o false l 0) s

/-- The record ring line l of an owner. -/
def ringLineAddr (r : OwnRing) (l : Nat) : Nat := r.base + l * 128 % 2 ^ r.sizeLog

/-- Marks one ring line that has been read: decrypted, changed and re-encrypted whole; lines without such a record stay. -/
def markLine (s : State) (t o e l : Nat) (key line : List Byte) : State :=
  let p := s.ownPkr o
  let addr := ringLineAddr p.recRing l
  let es := groupsOf 32 (xtsDecrypt key addr 1 o line)
  let hit := fun i => decide (p.head ≤ 4 * l + i) && decide (4 * l + i < p.recRing.wseq) && unmarked e (getN es i)
  let n := ((List.range 4).filter hit).length
  let s := s.onCry fun c => { c with linesDec := c.linesDec + 1 }
  if n = 0 then s
  else writeSecret s (.markLine t o n) key addr 1 o
    ((List.range 4).flatMap fun i => if hit i then marked (getN es i) else getN es i)

/-- The lines that an EPOCH_REVOKE marks in external memory. -/
def markLines (s : State) (c : Cmd) : List Nat :=
  let first := (s.ownPkr c.owner).head / 4
  (List.range (c.upTo - first)).map (first + ·)

/-- Marks the ring lines once all of them are read; a line that read with an error is left and the command fails (R388). -/
def markRing (s : State) (c : Cmd) : State :=
  let o := c.owner
  let r := (s.ownPkr o).recRing
  let who := Req.command c.ticket
  let lines : List (Nat × ReadRes) := (markLines s c).map fun l => (l, readBytes s who (ringLineAddr r l) 128)
  if lines.any (fun x => x.2 == ReadRes.wait) then
    lines.foldl (fun (s : State) (x : Nat × ReadRes) => fetchBytes s who (ringLineAddr r x.1) 128) s
  else
    let s := match s.key? o with
      | none => s
      | some k => lines.foldl (fun (s : State) (x : Nat × ReadRes) => match x.2 with
          | .got bs => markLine s c.ticket o (c.le 20 4) x.1 k.key bs
          | _ => s) s
    let bad := lines.any fun x => x.2 == ReadRes.err
    let s := s.onCmd c.ticket fun c => { c with phase := .recorded, failed := c.failed || bad }
    revokeEnd s c.ticket

/-- EPOCH_REVOKE takes its steps 1 to 3, marks the staged records and begins to read the ring (R388, R389). -/
def revokeBegin (s : State) (c : Cmd) : State :=
  let o := c.owner
  let e := c.le 20 4
  let ids := (s.ctx.streams.filter fun x => x.owner == o && (x.epoch == e || x.pendEpoch == some e)).map (·.id)
  let s := s.onOwner o fun w => {
    epoch := if w.epoch = e then c.le 24 4 else w.epoch
    revoked := ((e, c.le 24 4) :: w.revoked).take 16 }
  let s := s.onCmd c.ticket fun c => { c with
    phase := .executing, waits := ids, n1 := ids.length, upTo := stagedLine (s.ownPkr o).recRing }
  let s := markStaged s c.ticket o e
  let s := ids.foldl (fun s id => boundary (s.onStream id fun y => { y with
    pendEpoch := some (c.le 24 4), recorded := y.recorded ++ [c.ticket] }) id) s
  match s.cmd? c.ticket with
  | some d => markRing s d
  | none => s

/-- EPOCH_REVOKE (10 R388): the row is repeated as lines arrive. -/
def runRevoke (s : State) (c : Cmd) : State :=
  let r := (s.ownPkr c.owner).recRing
  if c.phase == .executing then markRing s c
  else if epochRevoked s c.owner (c.le 24 4) then reject s c .epochRevoked
  else if (s.key? c.owner).isNone && decide ((s.ownPkr c.owner).head < r.next) then reject s c .noKey
  else revokeBegin s c

/-! ## CHECKPOINT, SUSPEND, RESUME, REATTACH -/

/-- How many of some streams have checkpoint slots. -/
def withSlots (s : State) (ids : List Nat) : Nat :=
  (ids.filter fun id => ((s.stream? id).map fun x => (ckptSlot s x 0).isSome).getD false).length

/-- Records CHECKPOINT against streams; DETAIL0 counts those that have slots (14 R517). With a slot to write and no key it ends with
NO_KEY (12 R462). -/
def recordCkpt (s : State) (c : Cmd) (ids : List Nat) : State :=
  if ids.isEmpty then complete s c Status.ok.code
  else if (s.key? c.owner).isNone && withSlots s ids != 0 then reject s c .noKey
  else
    let n := withSlots s ids
    let s := s.onCmd c.ticket fun c => { c with phase := .recorded, waits := ids, n0 := n }
    ids.foldl (fun s id => match s.cmd? c.ticket with
      | some d => recordFor s d id
      | none => s) s

/-- CHECKPOINT (14 R519). -/
def runCheckpoint (s : State) (c : Cmd) : State :=
  if c.ownerWide then recordCkpt s c (wideTargets s c) else withStream s c fun x => recordCkpt s c [x.id]

/-- SUSPEND (14 Table 14.6). -/
def runSuspend (s : State) (c : Cmd) : State :=
  if c.ownerWide then recordWide s c (wideTargets s c) else withStream s c fun x => recordFor s c x.id

/-- A stream resumes: from STEP_FAILED its step is served again and spends no armed step (14 R508); from SUSPENDED it returns to
the state before, checkpointed at this boundary (10 R395, 12 R462). -/
def resumeStream (s : State) (id : Nat) : State :=
  boundary (s.onStream id fun y => if y.st == .stepFailed
    then { y with st := .running, armSpent := true, ckptDue := true, idleSaid := false }
    else { y with st := y.prior, ckptDue := true, idleSaid := false }) id

/-- RESUME (14 Table 14.6): takes effect at once; without a key, NO_KEY. -/
def runResume (s : State) (c : Cmd) : State :=
  if c.ownerWide then
    if (s.key? c.owner).isNone then reject s c .noKey
    else
      let ids := wideTargets s c
      ids.foldl resumeStream (complete s c Status.ok.code 0 ids.length 0)
  else withStream s c fun x =>
    if (s.key? c.owner).isNone then reject s c .noKey
    else resumeStream (complete s c Status.ok.code x.next 0 0) x.id

/-- The tag of a suspended stream (14 R527). -/
def streamTag (s : State) (x : Stream) : Nat := x.susTag + 4294967296 * (s.lan.starts % 4294967296)

/-- The state before the start: a stream that the start found SUSPENDED is so again. -/
def Stream.reattached (y : Stream) : Stream :=
  match y.inner with
  | some i => { y with cause := i.1, prior := i.2, inner := none, ckptDue := true, idleSaid := false }
  | none => { y with st := y.prior, ckptDue := true, idleSaid := false }

/-- REATTACH (14 R527, R509). -/
def runReattach (s : State) (c : Cmd) : State :=
  match s.stream? c.stream with
  | none => reject s c .streamState
  | some x =>
    if x.owner ≠ c.owner then reject s c .ownerMismatch
    else if x.closing || !accepts x 0x44 then reject s c .streamState
    else if c.le 20 4 ≠ x.next then reject s c .stepMismatch
    else if x.lost || c.le 24 8 != streamTag s x then reject s c .tagMismatch
    else boundary ((complete s c Status.ok.code x.next 0 0).onStream x.id Stream.reattached) x.id

/-! ## FLUSH and SNAPSHOT -/

/-- FLUSH acts on one queue: what is partly read stays, the rest goes, a FLUSHED record follows (11 R421). Answers the number of
records discarded. -/
def EqQueue.flushOut (q : EqQueue) : EqQueue × Nat :=
  let keep := if q.partRead = 0 then [] else q.recs.take 1
  let n := q.recs.length - keep.length
  (EqQueue.flow { q.takeWm with
    recs := keep ++ [egressRecord 4 false 0 0 n []], records := wrap32 (q.records + 1), flushed := satAdd q.flushed n 65535 }, n)

/-- The queues that a FLUSH names. -/
def flushed (s : State) (c : Cmd) : List Nat :=
  if c.bit 17 0 then (List.range 64).filter fun q => (s.queue q).owner == c.owner else [c.b 16 % 64]

/-- FLUSH (11 R421). -/
def runFlush (s : State) (c : Cmd) : State :=
  let qs := flushed s c
  if !c.bit 17 0 && (s.queue (c.b 16 % 64)).owner != c.owner then reject s c .ownerMismatch
  else
    let n := (qs.map fun q => (s.queue q).flushOut.2).sum
    complete (qs.foldl (fun s q => s.onQueue q fun e => e.flushOut.1) s) c Status.ok.code 0 n 0

/-- SNAPSHOT executes once the previous marker has returned: VALID falls and the marker travels (02 R102, 14 R535). -/
def runSnapshot (s : State) (c : Cmd) : State :=
  if s.snp.busy.isSome then s
  else (s.onCmd c.ticket fun c => { c with phase := .recorded }).onSnp fun p =>
    { p with valid := false, busy := some c.ticket, time := wrap32 s.lan.aonTime }

/-! ## OWNER_KEY -/

/-- OWNER_KEY makes checks 1 to 3 of Table 12.6 and then asks the key port (R460, R461). -/
def runOwnerKey (s : State) (c : Cmd) : State :=
  if (s.key? c.owner).isSome then reject s c .idBusy
  else if c.addr24 % 8 ≠ 0 then reject s c .badField
  else match readBytes s (.command c.ticket) c.addr24 72 with
    | .wait => awaitBytes s c c.addr24 72
    | .err => reject s c .fabricError
    | .got _ =>
      if s.cry.unwrap.isSome then executing s c.ticket
      else (executing s c.ticket).onCry fun y => { y with unwrap := some c.ticket }

/-- A key fault (R460). -/
def keyFault (s : State) (c : Cmd) (cause : Nat) : State :=
  reject (s.onCry fun y => { y with
    unwrap := none, keyFaults := wrap32 (y.keyFaults + 1), keyFaultLast := c.owner + 64 * cause }) c .keyFault

/-- The key port presents a key: checks 5 and 6, then the slot takes the unwrapped key and its fingerprint (R461). -/
def unwrapKey (s : State) (c : Cmd) (duk : List Byte) : State :=
  match readBytes s (.command c.ticket) c.addr24 72 with
  | .got blob =>
    let u := kwUnwrap duk blob
    if u.1 ≠ List.replicate 8 (0xA6 : Byte) then keyFault s c 1
    else if u.2.take 32 = u.2.drop 32 then keyFault s c 2
    else
      let slot : KeySlot := { key := u.2, fp := getLE (sha256 blob) 0 8 }
      complete ((s.onLan fun l => { l with keys := setAt l.keys c.owner (some slot) }).onCry fun y =>
        { y with unwrap := none }) c Status.ok.code
  | _ => s

/-- The OWNER_KEY that waits for the key port. -/
def keyWaiter (s : State) : Option Cmd := s.cry.unwrap.bind s.cmd?

/-! ## OWNER_RELEASE (12 R455) -/

/-- Whether a command of an owner is one that OWNER_RELEASE waits for: executed, and no stream command. -/
def releaseWaits (o self : Nat) (c : Cmd) : Bool :=
  c.owner == o && c.ticket != self && (c.phase == .executing || c.phase == .recorded) &&
    (c.opcode == 0x41 || c.opcode == 0x29 || !(decide (0x20 ≤ c.opcode) && decide (c.opcode < 0x30) ||
      decide (0x42 ≤ c.opcode) && decide (c.opcode ≤ 0x44)))

/-- The lines tagged for an owner, free ones included, as bytes (R455 step 5). -/
def taggedBytes (s : State) (o : Nat) : Nat := 128 * (s.mem.tags.filter fun t => t.2.toNat % 128 == o).length

/-- The bytes of an owner's lines in the stores that the model holds as items: contexts, Cupola entries, automata and stop sets,
queue bytes, staged entries, pages of the Logit Buffer, long-piece areas; and a free value for the lines of Steeple and those that the
owner held last and that are free (log entry 38). -/
def ownedBytes (s : State) (o : Nat) : Nat :=
  let mine := fun id => ((s.stream? id).map fun x => x.owner == o).getD false
  128 * Config.linesHeld o s.rng.nextTicket +
  roundUp (32 * (s.ownPkr o).recRing.staged.length) 128 + roundUp (4 * (s.ownPkr o).rplRing.staged.length) 128 +
  16384 * ((s.fin.units.filter fun u => mine u.stream).map fun u => (u.sources.map (·.pages)).sum).sum +
  16384 * ((s.ctx.streams.filter (·.owner == o)).map (·.pagesResv)).sum +
  16384 * ((s.stp.trees.filter fun t => mine t.stream).map (·.setPages)).sum +
  longArea * (s.cup.longPiece.filter fun w => ((s.cmd? w.2).map fun c => c.owner == o).getD false).length +
  4096 * (s.ctx.streams.filter (·.owner == o)).length +
  ((s.aut.auts.filter fun a => a.owner == o && !a.shared && a.st != .empty).map fun a => a.recResv + roundUp (8 * a.transOn) 128).sum +
  ((s.aut.stops.filter (·.owner == o)).map (·.foot)).sum +
  ((s.cup.entries.filter fun e => match e.key, e.priv with
    | some k, _ => let a := s.automaton k.aut; a.owner == o && !a.shared
    | none, some p => ((s.stream? p.1).map fun x => x.owner == o).getD false
    | none, none => false).map (·.bytes)).sum +
  ((s.eqs.qs.filter (·.owner == o)).map fun q => roundUp (groupBytes q.recs) 128).sum

/-- Steps 2 to 4: streams closed, automata and stop sets dropped, queues emptied (R455, 11 R427). The END records of these closes wait for
no room: the step that follows discards them (log entry 96). -/
def releaseItems (s : State) (o : Nat) : State :=
  let s := (s.ctx.streams.filter (·.owner == o)).foldl (fun s x =>
    let t := haltStream s x
    match t.stream? x.id with
    | some y => freeStream (publish t y (closeGroup y true)) y
    | none => t) s
  let s := (List.range 64).foldl (fun s n =>
    let a := s.automaton n
    if a.st != .empty && !a.shared && a.owner == o then dropCupOf (s.onAutomaton n Automaton.freed) n else s) s
  let s := s.onAut fun a => { a with stops := a.stops.filter (·.owner != o) }
  s.onEqs fun e => { e with qs := modWhere e.qs (·.owner == o) fun q => { q with recs := [], partRead := 0, resv := [], xoff := false } }

/-- Step 5: every line tagged for the owner is written with zeros and free, with tag 0xC0; an armed injection hits the first word written
(R443). -/
def scrubLines (s : State) (o : Nat) : State :=
  let mine := s.mem.tags.filter fun t => t.2.toNat % 128 == o
  let s := s.onMem fun m => { m with
    tags := m.tags.filter fun t => t.2.toNat % 128 != o
    words := m.words.filter fun w => !(mine.any fun t => t.1 == w.1 / 16) }
  match mine.find? fun t => t.1 / 524288 == s.mem.injStore with
  | some t => putWhole s (t.1 * 16) 0
  | none => s

/-- Steps 6 and 7: the key slot, the epochs, the areas of staging group 2 and FIN_RESULT_CTL. -/
def releaseOwner (s : State) (o : Nat) : State :=
  let s := s.onLan fun l => { l with keys := setAt l.keys o none }
  let s := s.onOwner o fun _ => {}
  let relabel := fun r : FabReq => match r.who with
    | .ringLine p _ _ _ => if p = o then { r with who := .message 16 } else r
    | _ => r
  let s := s.onFab fun f => { f with stores := f.stores.map relabel, waiting := f.waiting.map relabel }
  let s := s.onOwnPkr o fun p => { stg := List.replicate 9 0, ckpts := p.ckpts, skips := p.skips }
  s.onFin fun f => { f with resultCtl := setAt f.resultCtl o 0 }

/-- OWNER_RELEASE (R455): what has not executed is aborted, what executes is waited for, then steps 2 to 7. -/
def runRelease (s : State) (c : Cmd) : State :=
  let o := c.owner
  let early := if c.phase == .dispatched then s.rng.cmds.filter fun d =>
    d.owner == o && d.ticket != c.ticket && (d.phase == .fetched || d.phase == .dispatched) else []
  let s := executing (early.foldl (fun s d => reject s d .abortedClose) s) c.ticket
  if s.rng.cmds.any (releaseWaits o c.ticket) then s
  else
    let n := taggedBytes s o + ownedBytes s o
    complete (releaseOwner (scrubLines (releaseItems s o) o) o) c Status.ok.code 0 n 0

/-! ## Meanings -/

/-- STREAM_OPEN (10 R374 to R376). -/
def execStreamOpen (ticket : Nat) (s : State) : Host.Outcome State Fault Refusal :=
  finish s (runCmd s ticket 0x20 runOpen)

/-- STREAM_PARAMS (02 R84, R85, 08 R308). -/
def execStreamParams (ticket : Nat) (s : State) : Host.Outcome State Fault Refusal :=
  finish s (runCmd s ticket 0x21 runParams)

/-- PROMPT (10 R381 to R383). -/
def execPrompt (ticket : Nat) (s : State) : Host.Outcome State Fault Refusal :=
  finish s (runCmd s ticket 0x22 runPrompt)

/-- STEP_ARM (10 R384). -/
def execStepArm (ticket : Nat) (s : State) : Host.Outcome State Fault Refusal :=
  finish s (runCmd s ticket 0x23 runArm)

/-- DRAFT (09 R351). -/
def execDraft (ticket : Nat) (s : State) : Host.Outcome State Fault Refusal :=
  finish s (runCmd s ticket 0x24 runDraft)

/-- STREAM_CLOSE (10 R377, 02 R98). -/
def execStreamClose (ticket : Nat) (s : State) : Host.Outcome State Fault Refusal :=
  finish s (runCmd s ticket 0x25 runClose)

/-- EPOCH_SET (10 R386, R387). -/
def execEpochSet (ticket : Nat) (s : State) : Host.Outcome State Fault Refusal :=
  finish s (runCmd s ticket 0x28 runEpochSet)

/-- EPOCH_REVOKE (10 R388, R389). -/
def execEpochRevoke (ticket : Nat) (s : State) : Host.Outcome State Fault Refusal :=
  finish s (runCmd s ticket 0x29 runRevoke)

/-- CHECKPOINT (14 R519). -/
def execCheckpoint (ticket : Nat) (s : State) : Host.Outcome State Fault Refusal :=
  finish s (runCmd s ticket 0x41 runCheckpoint)

/-- SUSPEND (14 Table 14.6). -/
def execSuspend (ticket : Nat) (s : State) : Host.Outcome State Fault Refusal :=
  finish s (runCmd s ticket 0x42 runSuspend)

/-- RESUME (14 R508). -/
def execResume (ticket : Nat) (s : State) : Host.Outcome State Fault Refusal :=
  finish s (runCmd s ticket 0x43 runResume)

/-- REATTACH (14 R527). -/
def execReattach (ticket : Nat) (s : State) : Host.Outcome State Fault Refusal :=
  finish s (runCmd s ticket 0x44 runReattach)

/-- FLUSH (11 R421). -/
def execFlush (ticket : Nat) (s : State) : Host.Outcome State Fault Refusal :=
  finish s (runCmd s ticket 0x48 runFlush)

/-- SNAPSHOT (14 R535). -/
def execSnapshot (ticket : Nat) (s : State) : Host.Outcome State Fault Refusal :=
  finish s (runCmd s ticket 0x40 runSnapshot)

/-- OWNER_KEY (12 R460). -/
def execOwnerKey (ticket : Nat) (s : State) : Host.Outcome State Fault Refusal :=
  finish s (runCmd s ticket 0x18 runOwnerKey)

/-- OWNER_RELEASE (12 R455). -/
def execOwnerRelease (ticket : Nat) (s : State) : Host.Outcome State Fault Refusal :=
  finish s (runCmd s ticket 0x19 runRelease)

/-- The level of DUK_VALID as the key port last showed it (15 R562). -/
def sawDuk (valid : Bool) (s : State) : State := s.onCry fun c => { c with dukSeen := valid }

/-- DUK_KEY_VALID: the key port answers (12 R460, R461, 15 R562). -/
def execDukKeyValid (key : List Byte) (s : State) : Host.Outcome State Fault Refusal :=
  finish s (match keyWaiter s with
    | some c => if s.carrying then unwrapKey (sawDuk true s) c key else sawDuk true s
    | none => sawDuk true s)

/-- DUK_TIMEOUT: the key port presents no valid key (12 Table 12.6 check 4). -/
def execDukTimeout (s : State) : Host.Outcome State Fault Refusal :=
  finish s (match keyWaiter s with
    | some c => if s.stepping then keyFault (sawDuk false s) c 0 else s
    | none => s)

end Sys2Proof.Machine
end

