-- ==== Sys2Proof/Machine/Jobs.lean ====
section
/-! DEFINITION. Bulk jobs: TOKENIZE (04 R140 to R177), DETOKENIZE (05 R209 to R214), MASK_REPLAY (06 R257 to R260), their steal
units, staging pieces and long-piece areas (04 R168 to R173), and the writing of units in unit order. What a job gives is a
function of its input (R47, R212, R260); its units are written one by one. -/

namespace Sys2Proof.Machine

/-! ## Placing a job -/

/-- The row of a job's command: before the job is placed, and while it reads. -/
def runJob (s : State) (ticket op : Nat) (start read : State → Cmd → State) : State :=
  match s.cmd? ticket with
  | none => s
  | some c =>
    if !s.stepping || c.opcode != op then s
    else match c.phase with
      | .fetched => s
      | .dispatched => start s c
      | .executing => start s c
      | .recorded => if ((s.job? ticket).map (·.reading)).getD false then read s c else s

/-- Input bytes that jobs on a cluster still have to process (01 R45); a prompt is no job that the Ring Unit places. -/
def pendingInput (s : State) (k : Nat) : Nat := ((s.job.js.filter fun j => j.cluster == k && !j.prompt).map (·.input)).sum

/-- The least of some numbers by a measure, ties to the first. -/
def leastBy (f : Nat → Nat) (xs : List Nat) : Option Nat :=
  xs.foldl (fun b n => match b with
    | some m => if f n < f m then some n else some m
    | none => some n) none

/-- The cluster of a job: the fewest pending input bytes, ties to the lowest number (01 R45). -/
def pickCluster (s : State) : Nat := (leastBy (pendingInput s) (List.range s.variant.clusters)).getD 0

/-- The lead turret of a cluster: the active turret with the fewest queued units, ties to the lowest active number (R163). -/
def pickLead (s : State) (k : Nat) : Nat :=
  let ns := ((List.range 16).map fun i => 16 * k + i).filter fun n => s.tur.ts.any fun t => t.activeNo == some n && t.usable && !t.quarantined
  s.physOf ((leastBy (fun n => (s.turret (s.physOf n)).lane.length) ns).getD (16 * k))

/-- Places a job: it executes from now on and reads its input. The items that `names` lists stay loaded until it ends (02 R100). -/
def placeJob (s : State) (c : Cmd) (input : Nat) (names : Job) : State :=
  let k := pickCluster s
  let j : Job := { names with
    ticket := c.ticket, kind := jobKind c.opcode, cluster := k, lead := pickLead s k, input := input, reading := true, addr := c.outAddr }
  ((ungate s j.lead).onCmd c.ticket fun c => { c with phase := .recorded }).onJob fun js => { js with js := js.js ++ [j] }

/-! ## Staging (R168 to R170) -/

/-- Staging pieces that a unit's output needs: up to 64 KiB. -/
def unitNeed (u : JobUnit) : Nat := min 16 (ceilDiv (u.out.map fun p => p.2.length).sum 4096)

/-- Staging pieces that no unit holds. -/
def freePieces (s : State) : Nat :=
  s.variant.stagingPieces - ((s.job.js.flatMap (·.units)).map (·.pieces)).sum

/-- Starts the units of a job's window that have not started: they take free pieces, or wait for one (R168, R170). -/
def stageUnits (s : State) (t : Nat) : State :=
  match s.job? t with
  | none => s
  | some j => (List.range (min (j.nextUnit + 64) j.units.length)).foldl (fun s n =>
      let u := getN j.units n
      if n < j.nextUnit || u.started then s
      else
        let k := min (unitNeed u) (freePieces s)
        s.onJobOf t fun j => { j with units := modAt j.units n fun u => { u with
          started := true, pieces := k, suspended := decide (k < unitNeed u) && decide (j.nextUnit < n) } }) s

/-- A suspended unit takes free pieces and resumes once it has what it needs, or is the lowest one (R170). -/
def resumeUnit (s : State) (t n : Nat) : State :=
  match s.job? t with
  | none => s
  | some j =>
    let u := getN j.units n
    if !u.suspended then s
    else
      let k := u.pieces + min (unitNeed u - u.pieces) (freePieces s)
      s.onJobOf t fun j => { j with units := modAt j.units n fun u => { u with
        pieces := k, suspended := decide (k < unitNeed u) && decide (j.nextUnit < n) } }

/-! ## Writing units (R171) -/

/-- Writes the output of the lowest unit and frees its pieces; the unit's work is done, and the window moves on (R168). -/
def writeUnit (s : State) (j : Job) (u : JobUnit) : State :=
  let w := u.out.foldl (fun (x : State × Nat) p =>
    (writeBytes x.1 (.jobLine j.ticket p.1) x.2 p.2, x.2 + p.2.length)) (s, j.addr)
  let s := w.1.onCup fun c => { c with longPiece := c.longPiece.filter (· != (j.cluster, j.ticket)) }
  let s := s.onJobOf j.ticket fun j => { j with
    addr := w.2, nextUnit := j.nextUnit + 1, input := j.input - u.input
    units := modAt j.units j.nextUnit fun u => { u with pieces := 0, suspended := false, out := [] } }
  let s := takeOff s fun r => r.ofJob j.ticket && r.unit == j.nextUnit
  jobEnd (postUnits (stageUnits s j.ticket) j.ticket) j.ticket

/-- The Record Writer writes unit u of a job, once all output of the unit before is written (R171); a unit with a long piece needs its
cluster's area first (R173). -/
def unitOutput (s : State) (t : Nat) : State :=
  match s.job? t with
  | none => s
  | some j => match j.units[j.nextUnit]? with
    | none => s
    | some u =>
      if j.reading || j.errUnit.isSome || !jobQuiet s t then s
      else if !u.longPiece then writeUnit s j u
      else
        let s := askArea s j
        if s.cup.longPiece.contains (j.cluster, j.ticket) then writeUnit s j u else s

/-- A job knows its output: its units start and are posted, and one with nothing to write completes. -/
def jobReady (s : State) (t : Nat) (f : Job → Job) : State :=
  jobEnd (postUnits (stageUnits (s.onJobOf t fun j => { f j with reading := false }) t) t) t

/-- Whether an item that a job names is FAULTED (14 R515). -/
def jobFaulted (s : State) (j : Job) : Bool :=
  (j.slots.any fun n => (s.slot n).st == .faulted) || (j.prog.any fun n => s.aut.progs.any fun p => p.id == n && p.st == .faulted) ||
    (j.stop.any fun p => ((s.stop? p.1 p.2).map fun q => q.st == .faulted).getD false)

/-- The program of a job. -/
def jobProg (s : State) (j : Job) : Tok.Prog :=
  match j.prog.bind fun n => s.aut.progs.find? (·.id == n) with
  | some p => .loaded p
  | none => .rom (j.prog.getD 0)

/-! ## Bytes that a job reads -/

/-- The readable bytes of an access, up to its first line that read with an error, and whether they are all. -/
def readable (s : State) (who : Req) (addr len : Nat) : List Byte × Bool :=
  let ls := (linesOf addr len).map (lineOf s who)
  let ok := ls.takeWhile fun l => match l with
    | some (some _) => true
    | _ => false
  let bs := ok.flatMap fun l => (l.getD none).getD []
  if ok.length = ls.length then (slice bs (addr % 128) len, true) else (bs.drop (addr % 128), false)

/-- Whether a line of an access has not come yet. -/
def awaited (s : State) (who : Req) (addr len : Nat) : Bool := (linesOf addr len).any fun l => lineOf s who l == none

/-- The readable bytes of segments in order. -/
def readSegs (s : State) (who : Req) : List (Nat × Nat) → List Byte × Bool
  | [] => ([], true)
  | x :: xs =>
    let r := readable s who x.1 x.2
    if r.2 then let t := readSegs s who xs; (r.1 ++ t.1, t.2) else r

/-- Asks for every byte of segments. -/
def fetchSegs (s : State) (who : Req) (xs : List (Nat × Nat)) : State :=
  xs.foldl (fun (s : State) (x : Nat × Nat) => fetchBytes s who x.1 x.2) s

/-! ## TOKENIZE -/

def Cmd.slotless (c : Cmd) : Bool := if c.opcode == 0x30 then c.bit 17 2 else c.bit 17 0
def Cmd.tokMode (c : Cmd) : Nat := c.b 17 % 4
def Cmd.pieceMax (c : Cmd) : Nat := if c.le 20 4 = 0 then 65536 else c.le 20 4

/-- The slot's image of a job, none when SLOTLESS. -/
def jobVoc (s : State) (c : Cmd) : Option VocImage := if c.slotless then none else some (s.slot c.slot16).img

/-- Checks 1 to 6 of Table 4.1. -/
def tokenizeStatus (s : State) (c : Cmd) : Option Status :=
  if (if c.slotless then c.tokMode != 2 else c.tokMode == 3) then some .badField
  else if !c.slotless && (jobSlot s c.slot16).isSome then jobSlot s c.slot16
  else if !c.slotless && (modeStatus (s.slot c.slot16).img c.tokMode).isSome then modeStatus (s.slot c.slot16).img c.tokMode
  else match pickProgram s (jobVoc s c) c.tokMode (c.b 18) with
    | .error st => some st
    | .ok _ =>
      if c.addr24 % 16 ≠ 0 ∨ c.outAddr % 4 ≠ 0 ∨ c.outLen % 4 ≠ 0 ∨ 65536 < c.len32 then some .badField else none

/-- The segments of a scatter list. -/
def segsOf (bs : List Byte) : List (Nat × Nat) := (groupsOf 16 bs).map fun e => (getLE e 0 8, getLE e 8 4)

/-- Check 7 of Table 4.1. -/
def scatterOk (bs : List Byte) : Bool :=
  (groupsOf 16 bs).all (fun e => getLE e 12 4 == 0) && decide (((segsOf bs).map Prod.snd).sum < 2 ^ 40)

/-- The ids of pieces that fit below a limit: the ids, their number with those before, the end of the last whole piece, and
whether the limit was passed. -/
def takePieces (cap : Nat) : List Tok.PieceOut → Nat → Nat → List Nat × Nat × Nat × Bool
  | [], n, e => ([], n, e, false)
  | p :: ps, n, e =>
    if cap < n + p.ids.length then (p.ids.take (cap - n), cap, e, true)
    else
      let r := takePieces cap ps (n + p.ids.length) p.stop
      (p.ids ++ r.1, r.2.1, r.2.2.1, r.2.2.2)

/-- What a job's output is: units, the details if an item's write fails, the completion. -/
structure JobPlan where
  units : List JobUnit := []
  starts : List (Nat × Nat) := []
  result : Status := .ok
  d0 : Nat := 0
  d1 : Nat := 0
  deriving DecidableEq, Repr

/-- The output of a TOKENIZE job, unit by unit (Table 4.2): k units done, n ids written, the last whole piece ends at e. A job
whose input is not whole fails in its last unit: there FABRIC_ERROR comes before any other failure of that unit, of whose order the
spec says nothing (log entry 93). DETAIL1 of OUTPUT_FULL is 0 when no piece is wholly written, which the spec leaves open (log
entry 94). -/
def tokenPlan (cap len : Nat) (whole : Bool) : List (Nat × Tok.UnitOut) → Nat → Nat → Nat → JobPlan
  | [], _, n, _ => { result := .ok, d0 := n, d1 := len }
  | (start, u) :: us, k, n, e =>
    if !whole && us.isEmpty then { result := .fabricError, d0 := n, d1 := start }
    else
      let r := takePieces cap u.pieces n e
      let unit : JobUnit := {
        out := [(k, r.1.flatMap (leBytes 4))], longPiece := u.long, input := u.bytes, specials := u.specials, invalid := u.invalid }
      if r.2.2.2 then { units := [unit], starts := [(n, start)], result := .outputFull, d0 := cap, d1 := r.2.2.1 }
      else match u.fail with
        | some f => { units := [unit], starts := [(n, start)], result := f.1, d0 := r.2.1, d1 := f.2 }
        | none =>
          let t := tokenPlan cap len whole us (k + 1) r.2.1 r.2.2.1
          { t with units := unit :: t.units, starts := (n, start) :: t.starts }

/-- A job takes its plan. -/
def Job.plan (j : Job) (p : JobPlan) : Job :=
  { j with units := p.units, starts := p.starts, result := p.result, d0 := p.d0, d1 := p.d1 }

/-- TOKENIZE has its whole input, or an error on it (R142 to R174). -/
def tokenizeRead (s : State) (c : Cmd) : State :=
  let who := Req.command c.ticket
  let segs := segsOf (readable s who c.addr24 (16 * c.len32)).1
  if segs.any fun (x : Nat × Nat) => awaited s who x.1 x.2 then fetchSegs s who segs
  else match s.job? c.ticket with
    | none => s
    | some j =>
      if jobFaulted s j then reject (dropJob s c.ticket) c .digestMismatch
      else
      let prog := jobProg s j
      let input := readSegs s who segs
      let total := (segs.map Prod.snd).sum
      let q : Tok.Req := { voc := jobVoc s c, mode := c.tokMode, prog := prog, pieceMax := c.pieceMax, force := c.bit 17 3 }
      let r := Tok.run q ((enterProgram s j.lead prog).turret j.lead).core.mem input.1 input.2
      let cap := if c.fmtB then c.outLen / 4 else total
      let faults := r.faults ++ r.units.flatMap fun (u : Nat × Tok.UnitOut) => u.2.faults
      let retired := r.retired + (r.units.map fun (u : Nat × Tok.UnitOut) => u.2.retired).sum
      let s := programRan s j.lead 0 c.tag c.ring prog faults retired
      jobReady s c.ticket fun j => j.plan (tokenPlan cap total input.2 r.units 0 0 0)

/-- TOKENIZE executes: the checks of Table 4.1, the scatter list, the placement (R141 to R143). -/
def tokenizeStart (s : State) (c : Cmd) : State :=
  match tokenizeStatus s c with
  | some st => reject s c st
  | none =>
    let n := 16 * c.len32
    match readBytes s (.command c.ticket) c.addr24 n with
    | .wait => awaitBytes s c c.addr24 n
    | .err => reject s c .fabricError
    | .got bs =>
      if !scatterOk bs then reject s c .badField
      else
        let total := ((segsOf bs).map Prod.snd).sum
        if total = 0 then complete s c Status.ok.code
        else tokenizeRead (placeJob s c total {
          slots := if c.slotless then [] else [c.slot16], prog := some (tokenizeProgram s c) }) { c with phase := .recorded }

/-! ## DETOKENIZE -/

/-- The checks of Table 5.6. -/
def detokStatus (s : State) (c : Cmd) : Option Status :=
  if !c.slotless && (jobSlot s c.slot16).isSome then jobSlot s c.slot16
  else if c.bit 17 2 && ((s.stop? c.owner (c.b 19)).map fun p => p.st == .faulted).getD false then some .digestMismatch
  else if c.bit 17 2 && !stopLoaded s c.owner (c.b 19) then some .noStopset
  else if c.addr24 % 4 ≠ 0 then some .badField
  else none

/-- The text of one id of an array (R188, R209). -/
def detokId (raw : Bool) (ss : Option StopSet) (voc : Option VocImage) (t : TextState) (id : Nat) : FeedRes :=
  match tokText voc id with
  | .nothing => { text := t }
  | .eos => { text := t }
  | .bytes bs => feedString raw ss t bs
  | .unknown =>
    let m := matchBytes ss { t with carry := [] } (resolveCarry raw t.carry ++ [0xEF, 0xBF, 0xBD]) []
    { text := m.1, out := m.2.1, cut := if m.2.2 then some 0 else none }

/-- What an id array gives: the output of each written token, the status, DETAIL0 and DETAIL1. -/
structure DetokRes where
  outs : List (List Byte) := []
  status : Status := .ok
  d0 : Nat := 0
  d1 : Nat := 0
  deriving DecidableEq, Repr

/-- The ids in order (R209, R213, R214): n bytes and k tokens are written; `whole` says that the list is the whole array. -/
def detokGo (raw : Bool) (ss : Option StopSet) (voc : Option VocImage) (cap : Nat) (whole : Bool) :
    List Nat → TextState → Nat → Nat → DetokRes
  | [], _, n, k => { status := if whole then .ok else .fabricError, d0 := n, d1 := k }
  | id :: r, t, n, k =>
    let f := detokId raw ss voc t id
    let out := f.out ++ if f.cut.isNone && r.isEmpty && whole then endText raw f.text else []
    if cap < n + out.length then { status := .outputFull, d0 := n, d1 := k }
    else match f.cut with
      | some x => { outs := [out], d0 := n + out.length, d1 := k + 1 + x * 4294967296 + 9223372036854775808 }
      | none =>
        let d := detokGo raw ss voc cap whole r f.text (n + out.length) (k + 1)
        { d with outs := out :: d.outs }

/-- Groups of n elements. -/
def groupsBy {α : Type} (n : Nat) : Nat → List α → List (List α)
  | 0, _ => []
  | _, [] => []
  | k + 1, x :: xs => (x :: xs).take n :: groupsBy n k ((x :: xs).drop n)

/-- The units of a DETOKENIZE with what each writes; the output counts the bytes before it. -/
def detokUnits : List (List (List Byte)) → Nat → Nat → JobPlan
  | [], _, _ => {}
  | g :: gs, k, n =>
    let bs := g.flatten
    let t := detokUnits gs (k + 1) (n + bs.length)
    { t with units := { out := [(k, bs)], input := 4 * g.length } :: t.units, starts := (n, 4096 * k) :: t.starts }

/-- The plan of a result; an unreadable id fails the unit that holds it, unless the job ended in an earlier unit or by a stop
string (R212, R213). -/
def detokPlan (d : DetokRes) (readIds : Nat) (whole : Bool) : JobPlan :=
  let bad := readIds / 4096
  let failed := !whole && (d.status == .fabricError || (d.status == .outputFull && decide (bad ≤ d.outs.length / 4096)))
  let outs := if failed then d.outs.take (4096 * bad) else d.outs
  let p := detokUnits (groupsBy 4096 outs.length outs) 0 0
  if failed then { p with result := .fabricError, d0 := (outs.map List.length).sum, d1 := 4096 * bad }
  else { p with result := d.status, d0 := d.d0, d1 := d.d1 }

/-- DETOKENIZE has its ids, or an error on them. -/
def detokRead (s : State) (c : Cmd) : State :=
  let who := Req.command c.ticket
  if awaited s who c.addr24 (4 * c.len32) then fetchBytes s who c.addr24 (4 * c.len32)
  else if ((s.job? c.ticket).map (jobFaulted s)).getD false then reject (dropJob s c.ticket) c .digestMismatch
  else
    let r := readable s who c.addr24 (4 * c.len32)
    let ids := leWords 4 (r.1.take (r.1.length / 4 * 4))
    let ss := if c.bit 17 2 then s.stop? c.owner (c.b 19) else none
    let cap := if c.fmtB then c.outLen else 64 * c.len32
    let d := detokGo (c.bit 17 1) ss (jobVoc s c) cap r.2 ids {} 0 0
    jobReady s c.ticket fun j => j.plan (detokPlan d ids.length r.2)

/-- DETOKENIZE executes (R210). -/
def detokStart (s : State) (c : Cmd) : State :=
  match detokStatus s c with
  | some st => reject s c st
  | none =>
    if c.len32 = 0 then complete s c Status.ok.code
    else detokRead (placeJob s c (4 * c.len32) {
      slots := if c.slotless then [] else [c.slot16], stop := if c.bit 17 2 then some (c.owner, c.b 19) else none }) { c with
        phase := .recorded }

/-! ## MASK_REPLAY -/

/-- The fields of a mask reference (Table 6.9). -/
def refAut (r : Nat) : Nat := bits r 5 0
def refSlot (r : Nat) : Nat := bits r 8 6
def refKind (r : Nat) : Nat := bits r 10 9
def refTag (r : Nat) : Nat := bits r 18 11
def refBody (r : Nat) : Nat := bits r 63 19

/-- The sequence number that a BODY names: the greatest at or below the write sequence number (R255). -/
def extendSeq (wseq body : Nat) : Option Nat :=
  let n := wseq / 2 ^ 45 * 2 ^ 45 + body
  if n ≤ wseq then some n else if 2 ^ 45 ≤ n then some (n - 2 ^ 45) else none

/-- What is known of something that a job reads: not yet here, failed with a status, or got. -/
inductive Got (α : Type) where
  | wait (addr : Nat)
  | fail (st : Status)
  | got (a : α)
  deriving DecidableEq, Repr

/-- Entry n of an owner's record ring as a command reads it: decrypted (12 R456). -/
def ringEntry (s : State) (t o n : Nat) : Got (List Byte) :=
  let r := (s.ownPkr o).recRing
  let addr := ringLineAddr r (n / 4)
  match readBytes s (.command t) addr 128, s.key? o with
  | .wait, _ => .wait addr
  | .err, _ => .fail .fabricError
  | .got _, none => .fail .noKey
  | .got bs, some k => .got (slice (xtsDecrypt k.key addr 1 o bs) (32 * (n % 4)) 32)

/-- Entries in order; the first that is missing or fails decides. -/
def ringEntries (s : State) (t o : Nat) : List Nat → Got (List (List Byte))
  | [] => .got []
  | n :: ns => match ringEntry s t o n with
    | .wait a => .wait a
    | .fail st => .fail st
    | .got e => match ringEntries s t o ns with
      | .got es => .got (e :: es)
      | .wait a => .wait a
      | .fail st => .fail st

/-- Whether a payload of configuration entries agrees with a reference; its set (check 8 of Table 6.11). -/
def payloadSet (a : Automaton) (ref seq n : Nat) (p : List Byte) : Option ConfSet :=
  let k := (getN p 8).toNat
  if getLE p 0 6 ≠ seq % 2 ^ 48 ∨ (getN p 6).toNat ≠ refAut ref ∨ (getN p 7).toNat ≠ refTag ref ∨ k < 1 ∨ 4 < k ∨ getN p 9 ≠ 0 then none
  else match readConfs k (p.drop 10) with
    | none => none
    | some (cs, len) =>
      if ceilDiv (10 + len) 24 ≠ n ∨ !((p.drop (10 + len)).all (· == 0)) ||
          cs.any fun c => decide (a.img.states.length ≤ c.q) || c.stk.any fun x => decide (0xFFFF ≤ x) then none
      else some cs

/-- The set that a logged reference names. -/
def loggedSet (s : State) (c : Cmd) (a : Automaton) (ref : Nat) : Got ConfSet :=
  let r := (s.ownPkr c.owner).recRing
  match extendSeq r.wseq (refBody ref) with
  | none => .fail .digestMismatch
  | some seq =>
    if r.sizeLog = 0 then .fail .digestMismatch
    else match ringEntry s c.ticket c.owner seq with
      | .wait x => .wait x
      | .fail _ => .fail .digestMismatch
      | .got e =>
        let n := (getN e 7).toNat
        match ringEntries s c.ticket c.owner ((List.range n).map (seq + ·)) with
        | .wait x => .wait x
        | .fail _ => .fail .digestMismatch
        | .got es =>
          let ok := (List.range n).all fun i => let e := getN es i
            getLE e 0 4 == 0xFFFFFFFE && (getN e 6).toNat == i && (getN e 7).toNat == n
          if n = 0 || !ok then .fail .digestMismatch
          else match payloadSet a ref seq n (es.flatMap (·.drop 8)) with
            | some cs => .got cs
            | none => .fail .digestMismatch

/-- The set of an inline reference. -/
def inlineRefSet (a : Automaton) (ref : Nat) : Option ConfSet :=
  let b := refBody ref
  let q0 := bits b 22 1
  let q1 := bits b 44 23
  let n := a.img.states.length
  if b.testBit 0 then (if q0 < n ∧ q1 < n then some (canonical [{ q := q0 }, { q := q1 }]) else none)
  else if q0 < n ∧ q1 = 0 then some [{ q := q0 }] else none

/-- The items that references name: every slot, and the automaton of a set's reference (02 R100). -/
def replayNames (refs : List Nat) : Job :=
  { slots := (refs.map refSlot).eraseDups, auts := ((refs.filter fun r => refKind r == 1 || refKind r == 2).map refAut).eraseDups }

/-- Whether an item is there for a MASK_REPLAY: one whose drop waits for this job is (02 R100). -/
def replayHas (c : Cmd) (st : ItemState) : Bool := st == .loaded || (c.phase == .recorded && st == .dropping)

/-- Checks 3 to 8 of Table 6.11 on one reference; its mask. -/
def replayRef (s : State) (c : Cmd) (ref : Nat) : Got (List Byte) :=
  let slot := s.slot (refSlot ref)
  let kind := refKind ref
  let a := s.automaton (refAut ref)
  match (if replayHas c slot.st then none else jobSlot s (refSlot ref)) with
  | some st => .fail st
  | none =>
    if kind = 0 then .got (maskBytes slot.img (allOnes slot.img))
    else if kind = 3 then .got (maskBytes slot.img (eosMask slot.img))
    else if a.st == .faulted then .fail .digestMismatch
    else if !replayHas c a.st || a.slot != refSlot ref then .fail .noAutomaton
    else if !a.shared && a.owner != c.owner then .fail .ownerMismatch
    else if !(a.history.any fun h => h.1 == refTag ref && h.2 == a.img.digest) then .fail .digestMismatch
    else if kind = 2 && (s.key? c.owner).isNone then .fail .noKey
    else
      let set : Got ConfSet := if kind = 2 then loggedSet s c a ref
        else match inlineRefSet a ref with
          | some cs => .got cs
          | none => .fail .digestMismatch
      match set with
      | .wait x => .wait x
      | .fail st => .fail st
      | .got cs => .got (maskBytes slot.img (maskOf a slot.img cs))

/-- The references in order: the masks, or the first failure. -/
def replayRefs (s : State) (c : Cmd) : List Nat → Got (List (List Byte))
  | [] => .got []
  | r :: rs => match replayRef s c r with
    | .wait x => .wait x
    | .fail st => .fail st
    | .got m => match replayRefs s c rs with
      | .got ms => .got (m :: ms)
      | .wait x => .wait x
      | .fail st => .fail st

/-- The masks that fit below a length (R259). -/
def masksFit (cap : Nat) : List (List Byte) → Nat → List (List Byte)
  | [], _ => []
  | m :: ms, n => if cap < n + m.length then [] else m :: masksFit cap ms (n + m.length)

/-- The units of a MASK_REPLAY: 64 masks each, a mask an item. -/
def replayPlan (ms : List (List Byte)) (all : Bool) : JobPlan :=
  let upTo := fun i => ((ms.take i).map List.length).sum
  let items := (List.range ms.length).map fun i => (i, getN ms i)
  { units := (groupsBy 64 items.length items).map fun g => { out := g, input := 8 * g.length }
    starts := (List.range ms.length).map fun i => (i, upTo i)
    result := if all then .ok else .outputFull, d0 := ms.length, d1 := upTo ms.length }

/-- Record ring lines that a command has read: they were decrypted. -/
def decryptedLines (s : State) (c : Cmd) : Nat :=
  let r := (s.ownPkr c.owner).recRing
  (s.fab.lines.filter fun e => e.1 == .command c.ticket && e.2.2.isSome && r.sizeLog != 0 && decide (r.base / 128 ≤ e.2.1) &&
    decide (e.2.1 < (r.base + 2 ^ r.sizeLog) / 128)).length

def countDecrypted (s : State) (c : Cmd) : State :=
  s.onCry fun y => { y with linesDec := y.linesDec + decryptedLines s c }

/-- MASK_REPLAY (R258 to R260): all references are checked before a mask is written. -/
def runReplay (s : State) (c : Cmd) : State :=
  let n := 8 * c.len32
  if c.addr24 % 8 ≠ 0 ∨ c.outAddr % 128 ≠ 0 then reject s c .badField
  else match readBytes s (.command c.ticket) c.addr24 n with
    | .wait => awaitBytes s c c.addr24 n
    | .err => reject s c .fabricError
    | .got bs =>
      let s := if c.phase == .recorded then s else placeJob s c n (replayNames (leWords 8 bs))
      match replayRefs s c (leWords 8 bs) with
      | .wait x => fetchBytes s (.command c.ticket) x 128
      | .fail st => reject (dropJob (countDecrypted s c) c.ticket) c st
      | .got ms =>
        let fit := masksFit c.outLen ms 0
        jobReady (countDecrypted s c) c.ticket fun j => j.plan (replayPlan fit (fit.length == ms.length))

/-! ## Meanings -/

/-- TOKENIZE (04 R140 to R174). -/
def execTokenize (ticket : Nat) (s : State) : Host.Outcome State Fault Refusal :=
  finish s (runJob s ticket 0x30 tokenizeStart tokenizeRead)

/-- DETOKENIZE (05 R209 to R214). -/
def execDetokenize (ticket : Nat) (s : State) : Host.Outcome State Fault Refusal :=
  finish s (runJob s ticket 0x31 detokStart detokRead)

/-- MASK_REPLAY (06 R257 to R260). -/
def execMaskReplay (ticket : Nat) (s : State) : Host.Outcome State Fault Refusal :=
  finish s (runJob s ticket 0x39 runReplay runReplay)

/-- UNIT_OUTPUT_WRITE: the Record Writer writes the lowest unwritten unit of a job (04 R171). -/
def execUnitOutputWrite (ticket : Nat) (s : State) : Host.Outcome State Fault Refusal :=
  finish s (if s.stepping then unitOutput s ticket else s)

/-- STAGING_PIECE_FREE: a unit that waits for a staging piece takes a free one (04 R170). -/
def execStagingPieceFree (ticket unit : Nat) (s : State) : Host.Outcome State Fault Refusal :=
  finish s (if s.stepping then resumeUnit s ticket unit else s)

/-- LONG_PIECE_AREA_GRANT: a waiting turret takes its cluster's long-piece area (04 R173). -/
def execLongPieceAreaGrant (cluster : Nat) (s : State) : Host.Outcome State Fault Refusal :=
  finish s (if s.stepping then grantArea s cluster else s)

end Sys2Proof.Machine
end

