-- ==== Sys2Proof/Machine/Pack.lean ====
section
/-! DEFINITION. PACK: the descriptor, the placement of sequences into rows, the micro-batches and the result array (10 R400 to
R404). -/

namespace Sys2Proof.Machine

/-! ## The descriptor (Tables 10.8, 10.9) -/

/-- A sequence entry. -/
structure PackSeq where
  stream : Nat := 0
  first : Nat := 0
  last : Nat := 0
  seqFirst : Nat := 0
  seqEnd : Nat := 0
  ok : Bool := true
  deriving DecidableEq, Repr, Inhabited

/-- Tokens of a sequence. -/
def PackSeq.len (q : PackSeq) : Nat := q.last + 1 - q.first

/-- A descriptor. -/
structure PackDesc where
  budget : Nat := 0
  rowLen : Nat := 0
  rows : Nat := 0
  look : Nat := 0
  mbs : Nat := 0
  out : Nat := 0
  outLen : Nat := 0
  seqs : List PackSeq := []
  schedule : List Nat := []
  deriving DecidableEq, Repr

/-- The sequence entry in 32 bytes, with the ranges of Table 10.9. -/
def parseSeq (e : List Byte) : PackSeq :=
  let a := getLE e 4 4
  let b := getLE e 8 4
  { stream := getLE e 0 2 % 16384, first := a, last := b, seqFirst := getLE e 12 6, seqEnd := getLE e 18 6
    ok := decide (getLE e 0 2 < 16384) && getLE e 2 2 == 0 && decide (a ≤ b) && decide (b ≤ a + 2 ^ 24 - 2) &&
      getLE e 24 8 == 0 }

def parseDesc (bs : List Byte) : PackDesc :=
  let n := getLE bs 8 4
  let m := getLE bs 28 4
  { budget := getLE bs 12 4, rowLen := getLE bs 16 4, rows := getLE bs 20 4, look := getLE bs 24 2, mbs := m
    out := getLE bs 32 8, outLen := getLE bs 40 8
    seqs := (groupsOf 32 ((bs.drop 64).take (32 * n))).map parseSeq
    schedule := leWords 4 ((bs.drop (64 + 32 * n)).take (4 * m)) }

/-- Bytes of a micro-batch (Table 10.11). -/
def PackDesc.mbBytes (d : PackDesc) : Nat :=
  let n := d.rows * d.rowLen
  128 + 5 * roundUp (4 * n) 128 + roundUp (8 * n) 128 + roundUp n 128 + roundUp (8 * d.rows) 128

/-- Bytes of the result array. -/
def PackDesc.resultBytes (d : PackDesc) : Nat := roundUp (8 * d.seqs.length) 128

/-- Whether a list holds every number below its length once. -/
def isPermutation (xs : List Nat) : Bool := (List.range xs.length).all fun i => xs.contains i

/-- Check 3 of Table 10.10. -/
def descOk (bs : List Byte) (len : Nat) : Bool :=
  let d := parseDesc bs
  let n := getLE bs 8 4
  decide (64 ≤ len) && getLE bs 0 4 == 0x4B50594E && getLE bs 4 2 == 1 && getLE bs 6 2 == 64 &&
    decide (1 ≤ n) && decide (n ≤ 65536) && decide (1 ≤ d.mbs) && decide (d.mbs ≤ 65536) &&
    decide (1 ≤ d.rowLen) && decide (d.rowLen ≤ 131072) && decide (1 ≤ d.rows) && decide (d.rows ≤ 65536) &&
    decide (d.rowLen ≤ d.budget) && decide (d.budget ≤ 1048575) && decide (d.budget ≤ d.rows * d.rowLen) &&
    decide (1 ≤ d.look) && decide (d.look ≤ 1024) && getLE bs 26 2 == 0 && d.out % 128 == 0 && getLE bs 48 16 == 0 &&
    len == 64 + 32 * n + 4 * d.mbs && isPermutation d.schedule && decide (d.resultBytes + d.mbs * d.mbBytes ≤ d.outLen)

/-! ## Checks 5 and 6 -/

/-- The first index whose element fails a test. -/
def firstBad {α : Type} (p : α → Bool) : List α → Nat → Option Nat
  | [], _ => none
  | x :: xs, i => if p x then some i else firstBad p xs (i + 1)

/-- Whether a sequence lies in the ring (check 5). -/
def seqInRing (r : OwnRing) (q : PackSeq) : Bool :=
  q.ok && decide (q.seqFirst ≤ q.seqEnd) && decide (q.seqEnd ≤ r.wseq) && decide (r.wseq ≤ q.seqFirst + r.entries false)

/-- The records of a sequence in step order, if each step has exactly one (check 6). -/
def seqRecords (q : PackSeq) (es : List (List Byte)) : Option (List (List Byte)) :=
  let mine := es.filter fun e => getLE e 0 4 != 0xFFFFFFFE && getLE e 4 2 == q.stream
  (List.range q.len).mapM fun i => match mine.filter fun e => getLE e 20 4 == q.first + i with
    | [e] => some e
    | _ => none

/-- The records of every sequence, or the index and status of the first that fails. -/
def packRecords (s : State) (c : Cmd) : List PackSeq → Nat → Sum (Got (List (List (List Byte)))) (Nat × Status)
  | [], _ => .inl (.got [])
  | q :: qs, i => match ringEntries s c.ticket c.owner ((List.range (q.seqEnd - q.seqFirst)).map (q.seqFirst + ·)) with
    | .wait x => .inl (.wait x)
    | .fail st => .inr (i, st)
    | .got es => match seqRecords q es with
      | none => .inr (i, .stepMismatch)
      | some rs => match packRecords s c qs (i + 1) with
        | .inl (.got t) => .inl (.got (rs :: t))
        | r => r

/-! ## Placement (R402) -/

/-- A segment placed in a row: its sequence, the first token of the sequence that it holds, its length. -/
structure PackSeg where
  seq : Nat := 0
  ofs : Nat := 0
  len : Nat := 0
  deriving DecidableEq, Repr, Inhabited

/-- A micro-batch: the segments of each row in order. -/
structure MicroBatch where
  rows : List (List PackSeg) := []
  overflow : Bool := false
  deriving DecidableEq, Repr, Inhabited

def rowUsed (r : List PackSeg) : Nat := (r.map (·.len)).sum
def MicroBatch.tokens (m : MicroBatch) : Nat := (m.rows.map rowUsed).sum
def MicroBatch.empty (d : PackDesc) (overflow : Bool) : MicroBatch := { rows := List.replicate d.rows [], overflow := overflow }

/-- The lowest row with room for n tokens. -/
def rowFor (d : PackDesc) (m : MicroBatch) (n : Nat) : Option Nat := m.rows.findIdx? fun r => decide (rowUsed r + n ≤ d.rowLen)

/-- The lowest empty row. -/
def emptyRow (m : MicroBatch) : Option Nat := m.rows.findIdx? (·.isEmpty)

def MicroBatch.put (m : MicroBatch) (r : Nat) (g : PackSeg) : MicroBatch := { m with rows := modAt m.rows r fun x => x ++ [g] }

/-- Fills a micro-batch from the window of sequences (index, tokens) until none fits; the fuel is their number. -/
def fillBatch (d : PackDesc) : Nat → MicroBatch → List (Nat × Nat) → MicroBatch × List (Nat × Nat)
  | 0, m, qs => (m, qs)
  | k + 1, m, qs =>
    let fits := fun (q : Nat × Nat) => decide (m.tokens + q.2 ≤ d.budget) && (rowFor d m q.2).isSome
    match (qs.take d.look).find? fits with
    | none => (m, qs)
    | some q => fillBatch d k (m.put ((rowFor d m q.2).getD 0) { seq := q.1, ofs := 0, len := q.2 }) (qs.filter (·.1 != q.1))

/-- The micro-batches of the sequences that are not overlong, and those unplaced. -/
def packNormal (d : PackDesc) : Nat → List (Nat × Nat) → List MicroBatch × Bool
  | 0, qs => ([], qs.isEmpty)
  | k + 1, qs =>
    if qs.isEmpty then ([], true)
    else
      let r := fillBatch d qs.length (MicroBatch.empty d false) qs
      let t := packNormal d k r.2
      (r.1 :: t.1, t.2)

/-- The segments of an overlong sequence from token o on; the fuel is its length. -/
def segmentsOf (rowLen seq : Nat) : Nat → Nat → Nat → List PackSeg
  | 0, _, _ => []
  | k + 1, o, n => if n = 0 then [] else
      { seq := seq, ofs := o, len := min rowLen n } :: segmentsOf rowLen seq k (o + min rowLen n) (n - min rowLen n)

/-- The micro-batches of one overlong sequence. -/
def packOver (d : PackDesc) : List PackSeg → MicroBatch → List MicroBatch
  | [], m => [m]
  | g :: gs, m => match emptyRow m with
    | some r =>
      if m.tokens + g.len ≤ d.budget then packOver d gs (m.put r g)
      else m :: packOver d gs ((MicroBatch.empty d true).put 0 g)
    | none => m :: packOver d gs ((MicroBatch.empty d true).put 0 g)

/-- The overlong sequences in order, up to the first that would need too many micro-batches. -/
def packOvers (d : PackDesc) : List (Nat × Nat) → List MicroBatch → List MicroBatch
  | [], ms => ms
  | q :: qs, ms =>
    let t := packOver d (segmentsOf d.rowLen q.1 q.2 0 q.2) (MicroBatch.empty d true)
    if d.mbs < ms.length + t.length then ms else packOvers d qs (ms ++ t)

/-- The micro-batches, MB_COUNT of them. -/
def packAll (d : PackDesc) : List MicroBatch :=
  let qs := (List.range d.seqs.length).map fun i => (i, (getN d.seqs i).len)
  let r := packNormal d d.mbs (qs.filter fun q => decide (q.2 ≤ d.rowLen))
  let ms := if r.2 then packOvers d (qs.filter fun q => decide (d.rowLen < q.2)) r.1 else r.1
  ms ++ List.replicate (d.mbs - ms.length) (MicroBatch.empty d false)

/-! ## Output (R403) -/

/-- A slot of a micro-batch: its record, POS, SEG. -/
abbrev PackSlot := Option (List Byte × Nat × Nat)

/-- The slots of a row. -/
def rowSlots (d : PackDesc) (recs : List (List (List Byte))) (r : List PackSeg) : List PackSlot :=
  let used := (List.range r.length).flatMap fun i =>
    let g := getN r i
    (List.range g.len).map fun k => some (getN (getN recs g.seq) (g.ofs + k), g.ofs + k, i + 1)
  used ++ List.replicate (d.rowLen - used.length) none

/-- An array of slots, padded to 128 bytes: what a free slot holds, what a used one holds. -/
def slotArray (n free : Nat) (xs : List PackSlot) (f : List Byte × Nat × Nat → Nat) : List Byte :=
  let bs := xs.flatMap fun x => leBytes n (match x with | some y => f y | none => free)
  slice bs 0 (roundUp bs.length 128)

/-- LOSS of a record: TRAIN, PROMPT, REVOKED (Table 10.7 has REVOKED at [0], PROMPT at [1]). -/
def lossOf (e : List Byte) : Nat :=
  let f := getLE e 6 2
  b2n (!f.testBit 0 && !f.testBit 1) + 2 * b2n (f.testBit 1) + 4 * b2n (f.testBit 0)

/-- A micro-batch as written (Table 10.11): number j, output position p. -/
def batchBytes (d : PackDesc) (recs : List (List (List Byte))) (j p : Nat) (m : MicroBatch) : List Byte :=
  let slots := m.rows.flatMap (rowSlots d recs)
  let epochs := slots.filterMap fun (x : PackSlot) => x.map fun (y : List Byte × Nat × Nat) => getLE y.1 8 4
  let lo := epochs.foldl min (epochs.headD 0)
  let hi := epochs.foldl max 0
  let firsts := ((m.rows.flatten).filter (·.ofs == 0)).length
  let used := (m.rows.filter fun r => !r.isEmpty).length
  let head := leBytes 4 j ++ leBytes 4 p ++ leBytes 4 m.tokens ++ leBytes 4 used ++ leBytes 4 d.rowLen ++ leBytes 4 d.rows ++
    leBytes 4 firsts ++ leBytes 4 (b2n m.overflow + 2 * b2n epochs.isEmpty) ++ leBytes 4 lo ++ leBytes 4 hi
  let info := m.rows.flatMap fun r => match r with
    | [] => leBytes 4 0xFFFFFFFF ++ leBytes 4 0
    | g :: _ => leBytes 4 g.seq ++ leBytes 2 r.length ++ leBytes 1 (b2n (g.ofs != 0)) ++ [0]
  slice head 0 128 ++ slotArray 4 0xFFFFFFFF slots (fun x => getLE x.1 0 4) ++ slotArray 4 0 slots (fun x => x.2.1) ++
    slotArray 4 0 slots (fun x => x.2.2) ++ slotArray 4 0 slots (fun x => getLE x.1 8 4) ++
    slotArray 4 0 slots (fun x => getLE x.1 12 4) ++ slotArray 8 0 slots (fun x => getLE x.1 24 8) ++
    slotArray 1 0 slots (fun x => lossOf x.1) ++ slice info 0 (roundUp info.length 128)

/-- The output position of micro-batch j. -/
def positionOf (d : PackDesc) (j : Nat) : Nat := (d.schedule.findIdx? (· == j)).getD 0

/-- The entry of the result array for a sequence: position and row of its first segment. -/
def resultEntry (d : PackDesc) (ms : List MicroBatch) (i : Nat) : List Byte :=
  let at_ := (List.range ms.length).findSome? fun j =>
    ((getN ms j).rows.findIdx? fun r => r.any fun g => g.seq == i && g.ofs == 0).map fun r => (j, r)
  match at_ with
  | some (j, r) => leBytes 4 (positionOf d j) ++ leBytes 2 r ++ [0, 0]
  | none => leBytes 4 0xFFFFFFFF ++ leBytes 4 0

/-- Writes the result array and the micro-batches in schedule order (R404, 01 R49). -/
def writePack (s : State) (c : Cmd) (d : PackDesc) (recs : List (List (List Byte))) : State :=
  let ms := packAll d
  let res := (List.range d.seqs.length).flatMap (resultEntry d ms)
  let order := (List.range d.mbs).map fun p => (p, getN d.schedule p)
  let before := fun p => ((order.take p).map fun (x : Nat × Nat) => (getN ms x.2).tokens).sum
  let j : Job := {
    ticket := c.ticket, cluster := s.variant.clusters, isPack := true, result := .ok, d0 := d.mbs, d1 := before d.mbs
    starts := (List.range d.mbs).map fun p => (p, before p) }
  let s := (s.onCmd c.ticket fun c => { c with phase := .recorded }).onJob fun js => { js with js := js.js ++ [j] }
  let s := writeBytes s (.jobLine c.ticket 0) d.out (slice res 0 d.resultBytes)
  order.foldl (fun (s : State) (x : Nat × Nat) =>
    writeBytes s (.jobLine c.ticket x.1) (d.out + d.resultBytes + x.1 * d.mbBytes) (batchBytes d recs x.2 x.1 (getN ms x.2))) s

/-- PACK fails a check: DETAIL1 names the sequence at fault, or none. -/
def packFail (s : State) (c : Cmd) (st : Status) (seq : Nat) : State := complete s c st.code 0 0 seq

/-- PACK as far as the bytes here allow (R401). -/
def runPack (s : State) (c : Cmd) : State :=
  let none_ := 0xFFFFFFFF
  if c.addr24 % 64 ≠ 0 then packFail s c .badField none_
  else match readBytes s (.command c.ticket) c.addr24 c.len32 with
    | .wait => awaitBytes s c c.addr24 c.len32
    | .err => packFail s c .fabricError none_
    | .got bs =>
      let d := parseDesc bs
      let r := (s.ownPkr c.owner).recRing
      if !descOk bs c.len32 then packFail s c .badField none_
      else if (s.key? c.owner).isNone then packFail s c .noKey none_
      else if r.sizeLog = 0 then packFail s c .badField none_
      else match firstBad (fun q => !seqInRing r q) d.seqs 0 with
        | some i => packFail s c .badField i
        | none => match packRecords s c d.seqs 0 with
          | .inr (i, st) => packFail (countDecrypted s c) c st i
          | .inl (.wait x) => awaitBytes s c x 128
          | .inl (.fail st) => packFail s c st none_
          | .inl (.got recs) => writePack (countDecrypted s c) c d recs

/-- PACK (10 R400 to R404). -/
def execPack (ticket : Nat) (s : State) : Host.Outcome State Fault Refusal :=
  finish s (runCmd s ticket 0x38 runPack)

end Sys2Proof.Machine
end

