-- ==== Sys2Proof/Machine/Fabric.lean ====
section
/-! DEFINITION. Fabric ports: returns, acknowledgements, timeouts and resets (15 R550 to R552, 14 R523, 13 Table 13.6); reads of
egress queues (11 R415 to R417, 15 R553); the return of the snapshot marker (14 R535). -/

namespace Sys2Proof.Machine

/-! ## Responses -/

/-- A fetch ends at its requester: with the line, or with an error. -/
def deliver (s : State) (r : FabReq) (line : Option (List Byte)) : State :=
  match r.who, line with
  | .message _, _ => s
  | .entry n, none => entryError s n
  | w, l => s.onFab fun f => { f with lines := f.lines ++ [(w, r.line, l)] }

/-- A response whose tag is not outstanding (R552). -/
def unknownTag (s : State) (port : Nat) : State := raiseBy s .fabric 0x0801 0 0 (port + 4)

/-- A fetch return. -/
def fetchReturn (s : State) (port tag : Nat) (err : Bool) (line : List Byte) : State :=
  match s.fab.fetches.find? fun r => r.port == port && r.tag == tag with
  | none => unknownTag s port
  | some r =>
    deliver (s.onFab fun f => { f with fetches := f.fetches.filter (· != r) }) r (if err then none else some (slice line 0 128))

/-- A store acknowledgement. -/
def storeAck (s : State) (port tag : Nat) (err : Bool) : State :=
  match s.fab.stores.find? fun r => r.port == port && r.tag == tag with
  | none => unknownTag s port
  | some r => ackEffect (s.onFab fun f => { f with stores := f.stores.filter (· != r) }) r err

/-- Every request outstanding on a port receives ERROR. -/
def portErrors (s : State) (port : Nat) : State :=
  let fs := s.fab.fetches.filter (·.port == port)
  let ws := s.fab.stores.filter (·.port == port)
  let s := s.onFab fun f => { f with
    fetches := f.fetches.filter (·.port != port), stores := f.stores.filter (·.port != port) }
  ws.foldl (fun s r => ackEffect s r true) (fs.foldl (fun s r => deliver s r none) s)

/-- A fabric-port reset: its requests receive ERROR, and new ones wait until the port leaves reset (13 R494, Table 13.6). -/
def fabricPortReset (s : State) (port : Nat) : State :=
  portErrors (s.onLan fun l => { l with domReset := insertBy id (304 + port) l.domReset }) port

/-- Every outstanding request of every port is answered with ERROR inside the block (14 R530). -/
def answerAll (s : State) : State := (List.range s.variant.fabricPorts).foldl portErrors s

/-- Whether a port has a request outstanding. -/
def portBusy (s : State) (port : Nat) : Bool := s.fab.fetches.any (·.port == port) || s.fab.stores.any (·.port == port)

/-! ## Queue reads -/

/-- Removes n bytes from the front of records of which `done` bytes of the first are read. -/
def skipBytes : List (List Byte) → Nat → Nat → List (List Byte) × Nat
  | [], _, _ => ([], 0)
  | r :: rs, done, n => if done + n < r.length then (r :: rs, done + n) else skipBytes rs 0 (done + n - r.length)

/-- A read of n bytes: what it returns, the queue after it, whether it returned an IDLE record (R415, R416). -/
def EqQueue.read (q : EqQueue) (n : Nat) : List Byte × EqQueue × Bool :=
  let q := q.takeWm
  let bs := (q.recs.flatten.drop q.partRead).take n
  let idle := List.replicate (min 1 (n - bs.length)) (0 : Byte) ++ List.replicate (n - bs.length - 1) (0xFF : Byte)
  let rest := skipBytes q.recs q.partRead n
  (bs ++ idle, EqQueue.flow { q with recs := rest.1, partRead := rest.2 }, decide (bs.length < n))

/-- A drain response with an error: zeros, and no byte of a queue is removed (R553). -/
def drainError (s : State) (port tag : Nat) : State :=
  (s.onEqs fun e => { e with drainErrors := wrap32 (e.drainErrors + 1) }).onFab fun f => { f with
    drains := f.drains ++ [{ port := port, tag := tag, err := true, data := List.replicate 128 0 }] }

/-- A drain-target read of the queue that offset bits [19:14] name. -/
def drainRead (s : State) (port ofs tag : Nat) : State :=
  if !s.stepping || s.lan.fenced then drainError s port tag
  else
    let q := bits ofs 19 14
    let r := (s.queue q).read 128
    ((s.onQueue q fun _ => r.2.1).onEqs fun e => { e with
      readLines := wrap32 (e.readLines + 1), idleReads := wrap32 (e.idleReads + b2n r.2.2) }).onFab fun f => { f with
        drains := f.drains ++ [{ port := port, tag := tag, err := false, data := r.1 }] }

/-- A register read of EQ_DATA[q]. -/
def eqDataRead (s : State) (q : Nat) : State :=
  if !s.ready then refusedAccess s
  else
    let r := (s.queue q).read 4
    served ((s.onQueue q fun _ => r.2.1).onEqs fun e => { e with idleReads := wrap32 (e.idleReads + b2n r.2.2) })
      (BitVec.ofNat 32 (leNat r.1))

/-! ## Snapshot -/

/-- The copies that the units take (14 R535, R536). -/
def State.bank (s : State) : Bank :=
  { rng := s.rng, voc := s.voc, aut := s.aut, cup := s.cup, ctx := s.ctx, sel := s.sel, fin := s.fin, stp := s.stp, pkr := s.pkr
    eqs := s.eqs, job := s.job, mem := s.mem, cry := s.cry, bel := s.bel, tur := s.tur, keys := s.lan.keys }

/-- The marker returns to the Belfry. -/
def markerReturn (s : State) : State :=
  match s.snp.busy with
  | none => s
  | some t =>
    let n := wrap32 (s.snp.seq + 1)
    let b := s.bank
    completeTicket (s.onSnp fun p => { p with valid := true, seq := n, busy := none, bank := some b }) t .ok 0 n 0

/-! ## Meanings -/

/-- FABRIC_FETCH_RETURN (15 R552, 02 R584). -/
def execFabricFetchReturn (port tag : Nat) (err : Bool) (line : List Byte) (s : State) : Host.Outcome State Fault Refusal :=
  finish s (if s.writing then fetchReturn s port tag err line else s)

/-- FABRIC_STORE_ACK (15 R552). -/
def execFabricStoreAck (port tag : Nat) (err : Bool) (s : State) : Host.Outcome State Fault Refusal :=
  finish s (if s.writing then storeAck s port tag err else s)

/-- FABRIC_RESPONSE_TIMEOUT (14 R523); a fenced port takes no reset (R530). -/
def execFabricResponseTimeout (port : Nat) (s : State) : Host.Outcome State Fault Refusal :=
  finish s (if s.writing && !s.lan.fenced && portBusy s port
    then fabricPortReset (raiseBy s .fabric 0x0801 0 0 port) port else s)

/-- DRAIN_READ (11 R415, 15 R553). -/
def execDrainRead (port ofs tag : Nat) (s : State) : Host.Outcome State Fault Refusal :=
  finish s (drainRead s port ofs tag)

/-- DRAIN_WRITE (15 R553). -/
def execDrainWrite (port _ofs tag : Nat) (s : State) : Host.Outcome State Fault Refusal :=
  finish s (drainError s port tag)

/-- EQ_DATA_READ (11 R415, R416). -/
def execEqDataRead (queue : Nat) (s : State) : Host.Outcome State Fault Refusal :=
  finish s (eqDataRead s (queue % 64))

/-- SNAPSHOT_MARKER_RETURN (14 R535). -/
def execSnapshotMarkerReturn (s : State) : Host.Outcome State Fault Refusal :=
  finish s (if s.stepping then markerReturn s else s)

end Sys2Proof.Machine
end

