-- ==== Sys2Proof/Machine/Turrets.lean ====
section
/-! DEFINITION. Turrets: the work a turret runs and its suspension (07 R292, R293), the segment board (R294, R295), turret faults
(14 R510 to R513), and the rows of the 51 Knalen instructions. A row names the turret that issues it; the instruction belongs
to the program that the turret runs, and an instruction of an idle turret is the first of a ROM engine invocation (log entry
28). -/

namespace Sys2Proof.Machine

/-! ## Work (R292, R293) -/

/-- The home stream whose token work is ready: a held result or a mask build, lowest id first. -/
def homeWork (s : State) (p : Nat) : Option Stream :=
  match (s.turret p).activeNo with
  | none => none
  | some n => s.ctx.streams.find? fun x => x.home == n && (x.svc == .build || !x.held.isEmpty) && !x.restoring

/-- Whether a job is lead work that its lead turret has now: special matching and cuts of a TOKENIZE or PROMPT, or units that R168
and the turret's lane let it post (Table 7.11, 04 R166). -/
def leadDue (s : State) (j : Job) : Bool :=
  j.kind == 0 && !j.isPack && ((j.reading && !j.prompt) || (j.prompt && j.units.isEmpty) ||
    (decide ((s.turret j.lead).lane.length < laneSize) &&
      (List.range (min (j.nextUnit + 64) j.units.length)).any fun n => decide (j.nextUnit ≤ n) && !(getN j.units n).posted))

/-- The lead work of a turret. -/
def leadJob (s : State) (p : Nat) : Option Job := s.job.js.find? fun j => j.lead == p && leadDue s j

/-- Whether the steal unit that a turret holds waits for a staging piece (04 R170). -/
def unitHeld (s : State) (p : Nat) : Bool :=
  (s.turret p).taken.any fun u => u.kind != 2 && u.kind != 3 && ((s.job? u.ticket).map fun j => (getN j.units u.unit).suspended).getD false

/-- The engine invocation that a turret starts: home work before lead work before steal units (Table 7.7, Table 7.11). Its
code, its budget and its limits are not part of the interface (R285). -/
def engineInv (s : State) (p : Nat) : Invocation :=
  let base : Invocation := {
    role := roleEngine, codeCount := 4096, runLen := 18446744073709551616, bytesMax := 18446744073709551616 }
  match homeWork s p with
  | some x => { base with prog := if x.held.isEmpty then 14 else 13, cls := 1, slot := some x.slot, autNo := x.aut }
  | none => match leadJob s p with
    | some j => { base with prog := 11, cls := 2, slot := j.slots.head? }
    | none => { base with prog := 8 }

/-- Whether a turret runs programs: the block serves work, and the turret is an active one. -/
def turretRuns (s : State) (p : Nat) : Bool :=
  let t := s.turret p
  s.stepping && decide (p < s.tur.ts.length) && t.usable && !t.quarantined && t.activeNo.isSome

/-- Whether other work comes before an invocation: class-1 work, or lead work while its steal unit waits for a staging piece (R292, R293,
04 R170). -/
def outranked (s : State) (p : Nat) (i : Invocation) : Bool :=
  decide (1 < i.cls) && ((homeWork s p).isSome || (decide (3 ≤ i.cls) && unitHeld s p && (leadJob s p).isSome))

/-- Before an instruction: work that comes first suspends other work; an idle turret resumes what it suspended, or starts an engine
program (R292, R293). -/
def beginWork (s : State) (p : Nat) : State :=
  let t := s.turret p
  match t.inv with
  | some i => if outranked s p i then s.onTurret p fun t => { t.suspends i with inv := some (engineInv s p) } else s
  | none =>
    if t.suspended.getLast?.any fun w => !outranked s p w.1 then s.onTurret p Turret.resumes
    else s.onTurret p fun t => { t with inv := some (engineInv s p), gated := false }

/-- An invocation ends: the turret holds a taken unit no longer, clears the runtime area, and resumes suspended work that nothing comes
before. -/
def endWork (s : State) (p : Nat) (i : Invocation) : State :=
  let s := s.onTurret p fun t => { t with inv := none, core := t.core.ended, taken := if 3 ≤ i.cls then none else t.taken }
  if (s.turret p).suspended.getLast?.any fun w => !outranked s p w.1 then s.onTurret p Turret.resumes else s

/-! ## Turret faults (14 R510 to R513) -/

/-- The usable spare of a cluster. -/
def spareOf (s : State) (k : Nat) : Option Nat :=
  ((List.range 17).map fun i => 17 * k + i).find? fun q =>
    let t := s.turret q
    decide (q < s.tur.ts.length) && t.spare && t.usable && !t.quarantined

/-- Home streams of an active number. -/
def homesOf (s : State) (n : Nat) : Nat := (s.ctx.streams.filter (·.home == n)).length

/-- The active number that takes a home stream of a retired one: the fewest home streams, ties to the same cluster, then to the
lowest number; the limit of 10 R376 holds. -/
def moveTarget (s : State) (k : Nat) : Option Nat :=
  let ok := fun n => (s.tur.ts.any fun t => t.activeNo == some n && t.usable && !t.quarantined) && decide (homesOf s n < 256)
  let near := (List.range 16).map fun i => 16 * k + i
  let far := (List.range s.variant.activeTurrets).filter fun n => n / 16 != k
  leastBy (homesOf s) ((near ++ far).filter ok)

/-- A retired number's home streams move. -/
def moveHomes (s : State) (n : Nat) : State :=
  (s.ctx.streams.filter (·.home == n)).foldl (fun s x => match moveTarget s (n / 16) with
    | some m => s.onStream x.id fun y => { y with home := m }
    | none => s) s

/-- The physical turret that takes over lead roles and posted units when no spare does: the lowest active one of the cluster. -/
def lowestActive (s : State) (k : Nat) : Option Nat :=
  ((List.range 17).map fun i => 17 * k + i).find? fun q =>
    let t := s.turret q
    decide (q < s.tur.ts.length) && t.activeNo.isSome && t.usable && !t.quarantined

/-- Units that a turret no longer offers wait to be posted again: a job's at its lead turret, a fill's at its poster. -/
def unpost (s : State) (us : List UnitRef) : State :=
  us.foldl (fun s u =>
    if u.kind = 2 ∨ u.kind = 3 then
      s.onCup fun c => { c with entries := modWhere c.entries (fun e => e.filling && e.fill == u.ticket) fun e => { e with left := u.unit :: e.left } }
    else s.onJobOf u.ticket fun j => { j with units := modAt j.units u.unit fun x => { x with posted := false } }) s

/-- A steal unit in progress is discarded with its staged output (R511). -/
def discardUnit (s : State) (u : UnitRef) : State :=
  if u.kind = 2 ∨ u.kind = 3 then s
  else s.onJobOf u.ticket fun j => { j with units := modAt j.units u.unit fun x => { x with started := false, suspended := false, pieces := 0 } }

/-- Lead roles, posted units and a unit in progress go from one turret to another (R511); a prompt starts again. A lane holds 64
descriptors, and those that find no room are posted later (R294; log entry 98). -/
def passWork (s : State) (p q : Nat) : State :=
  let s := (s.job.js.filter fun j => j.lead == p && j.prompt).foldl (fun s j => dropJob s j.ticket) s
  let t := s.turret p
  let mine := t.taken.toList ++ t.lane
  let room := laneSize - (s.turret q).lane.length
  let s := s.onJob fun j => { j with js := modWhere j.js (·.lead == p) fun x => { x with lead := q } }
  let s := s.onCup fun c => { c with entries := modWhere c.entries (fun e => e.filling && e.poster == p) fun e => { e with poster := q } }
  let s := (s.onTurret p fun u => { u with lane := [], taken := none }).onTurret q fun u => { u with
    lane := mine.take room ++ u.lane, gated := if mine.isEmpty then u.gated else false }
  let s := t.taken.toList.foldl discardUnit (unpost s (mine.drop room))
  t.taken.toList.foldl (fun s u => stageUnits s u.ticket) s

/-- A turret at its reset values: QUARANTINED and SPARE, the mapping, and what its segment board lane and the block say of its work
stay; its local memory is zero (13 Table 13.3, Table 13.6). -/
def Turret.local (t : Turret) : Turret :=
  { usable := t.usable, spare := t.spare, quarantined := t.quarantined, activeNo := t.activeNo, gated := t.gated
    lane := t.lane, taken := t.taken }

/-- A turret reset: the turret's state, its local memory, its domain (13 R472, R495). -/
def turretReset (s : State) (p : Nat) : State :=
  holdDomain ((s.onTurret p Turret.local).onMem fun m => { m with
    words := m.words.filter fun w => w.1 / 8388608 != 6 || w.1 / 16384 % 512 != p }) p

/-- A turret fault: the turret is gated and quarantined, reset, reported, and replaced (R510, R511, 13 R472). Codes 0xFE and 0xFF are no
exceptions: TUR_FAULT does not take them; it takes an exception after the reset (log entry 97). -/
def turretFault (s : State) (p prog pc code : Nat) : State :=
  let t := s.turret p
  if t.quarantined || decide (s.tur.ts.length ≤ p) then s
  else
    let s := raiseFrom s p 0x0401 0 0 (p + 65536 * prog + 16777216 * (pc % 4096) + 1099511627776 * code)
    let s := (turretReset s p).onTurret p fun t => { t with
      quarantined := true, gated := true, activeNo := none
      fault := if code < 0xFE then code + 256 * prog + 65536 * (pc % 4096) else 0 }
    match t.activeNo with
    | none => s
    | some n => match spareOf s (p / 17) with
      | some q => passWork (s.onTurret q fun u => { u with activeNo := some n, spare := false, gated := false }) p q
      | none =>
        let s := moveHomes s n
        match lowestActive s (p / 17) with
        | some q => passWork s p q
        | none => s

/-- An exception of the running invocation: a turret fault in an engine program, PROGRAM_FAULT in a pre-split one (R273, R274). -/
def kFault (s : State) (p : Nat) (i : Invocation) (code trapCode : Nat) : State :=
  let pc := (s.turret p).core.pc
  if i.role = roleEngine then turretFault s p i.prog pc code
  else endWork (programFaults s p 0 i.tag i.ring i.prog [(code, trapCode, pc)]) p i

/-! ## One instruction -/

/-- What an instruction of an invocation sees beside its core. -/
def kEnv (s : State) (i : Invocation) : KEnv :=
  { voc := i.slot.bind fun n => let x := s.slot n; if x.st == .loaded then some x.img else none
    aut := match i.autNo with
      | some n => s.automaton n
      | none => {} }

/-- One instruction of the program that turret p runs, unless its steal unit waits for a staging piece (04 R170); `g` adds what it does outside the turret. An instruction that
completes is counted (R272, R273, Table 7.14). -/
def kRunWith (s : State) (p : Nat) (f : KEnv → Invocation → Core → KOut) (g : KEnv → Core → State → State) : State :=
  if !turretRuns s p then s
  else
    let s := beginWork s p
    let t := s.turret p
    match t.inv with
    | none => s
    | some i =>
      if 3 ≤ i.cls ∧ unitHeld s p then s
      else if i.role ≠ roleEngine ∧ i.budget = 0 then kFault s p i Exc.budget 0
      else match f (kEnv s i) i t.core with
        | .exc code tr => kFault s p i code tr
        | .go c j => (g (kEnv s i) t.core s).onTurret p fun t => { t with
            core := c, inv := some { j with budget := j.budget - 1 }, instr := wrap32 (t.instr + 1) }
        | .done _ j => endWork (s.onTurret p fun t => { t with instr := wrap32 (t.instr + 1) }) p j

/-- An instruction that acts inside its turret alone. -/
def kRun (s : State) (p : Nat) (f : KEnv → Invocation → Core → KOut) : State := kRunWith s p f fun _ _ s => s

/-! ## The segment board (R294, R295, 04 R167, R168) -/

/-- Whether R168 lets a unit be taken now. -/
def unitPermitted (s : State) (u : UnitRef) : Bool :=
  match s.job? u.ticket with
  | some j => decide (u.unit < j.nextUnit + 64)
  | none => true

/-- The lane of a cluster's board that a take looks at: the most descriptors among the lanes that offer a permitted one, ties
to the lowest turret. -/
def boardLane (s : State) (k : Nat) : Option Nat :=
  let lanes := ((List.range 17).map fun i => 17 * k + i).filter fun q => (s.turret q).lane.any (unitPermitted s)
  leastBy (fun q => 64 - (s.turret q).lane.length) lanes

/-- Descriptors posted in a cluster. -/
def postedIn (s : State) (k : Nat) : Nat := (((List.range 17).map fun i => (s.turret (17 * k + i)).lane.length)).sum

/-- The other cluster whose board offers units and holds the most, ties to the lowest. -/
def remoteBoard (s : State) (k : Nat) : Option Nat :=
  if s.variant = .n16 then none
  else
    let cs := (List.range s.variant.clusters).filter fun c => c != k && (boardLane s c).isSome
    leastBy (fun c => 1088 - postedIn s c) cs

/-- A take: the lane, the unit, the class. -/
structure Take where
  lane : Nat
  unit : UnitRef
  cls : Nat
  deriving DecidableEq, Repr

/-- The unit that STEAL takes: none while home work is ready (04 R167), while the turret holds a unit, or while a lead turret
may post (R293). -/
def pickSteal (s : State) (p : Nat) : Option Take :=
  if (homeWork s p).isSome || (s.turret p).taken.isSome || (leadJob s p).isSome then none
  else match boardLane s (p / 17) with
    | some q => ((s.turret q).lane.find? (unitPermitted s)).map fun u => { lane := q, unit := u, cls := 3 }
    | none => match (remoteBoard s (p / 17)).bind (boardLane s) with
      | some q => ((s.turret q).lane.reverse.find? (unitPermitted s)).map fun u => { lane := q, unit := u, cls := 4 }
      | none => none

/-- The unit leaves its lane and is counted; the lane's turret posts on. -/
def takeUnit (s : State) (p : Nat) (k : Take) : State :=
  let s := { s with fresh := s.fresh + 1 }
  let s := repost (s.onTurret k.lane fun t => { t with lane := t.lane.erase k.unit }) k.lane
  s.onTurret p fun t => { t with
    taken := some k.unit
    steals3 := if k.cls = 3 then satAdd t.steals3 1 65535 else t.steals3
    steals4 := if k.cls = 4 then satAdd t.steals4 1 65535 else t.steals4 }

/-- The mode of a TOKENIZE or a PROMPT. -/
def Cmd.textMode (c : Cmd) : Nat := if c.opcode = 0x30 then c.tokMode else c.b 16 / 2 % 4

/-- The engine program of a steal unit (Table 7.7, Table 7.12): that of the mode, for a TOKENIZE or PROMPT. -/
def unitProg (s : State) (u : UnitRef) : Nat :=
  match u.kind with
  | 0 => 8 + min 2 (((s.cmd? u.ticket).map Cmd.textMode).getD 0)
  | 1 => 12
  | 2 => 15
  | 3 => 15
  | _ => 16

/-- The invocation goes on with a taken unit. -/
def Invocation.withUnit (i : Invocation) (s : State) (k : Take) : Invocation :=
  { i with cls := k.cls, prog := unitProg s k.unit, slot := ((s.job? k.unit.ticket).bind fun j => j.slots.head?).or i.slot }

/-- Where STEAL places a descriptor: an address of the runtime area (log entry 25). -/
def descriptorAt (s : State) (p : Nat) : Nat := 0x6000 + (Config.descriptorAddress (s.fresh + p)).toNat % 0x8000

/-- The bytes of a descriptor (log entry 25). -/
def descriptorBytes (u : UnitRef) : List Byte := (List.range (Config.descriptorSize % 4096)).map (Config.descriptorByte u)

/-- STEAL. -/
def stealRow (s : State) (p d : Nat) : State :=
  match pickSteal s p with
  | none => kRun s p fun _ i c => K.engineOnly i (K.put i c d K.ones)
  | some k =>
    let x := descriptorAt s p
    kRunWith s p (fun _ i c => K.engineOnly i (K.put (i.withUnit s k) (c.store x (descriptorBytes k.unit)) d (BitVec.ofNat 64 x)))
      fun _ _ s => takeUnit s p k

/-- Whether an engine program would post to a full lane: POST then waits. -/
def postWaits (s : State) (p : Nat) : Bool :=
  decide (laneSize ≤ (s.turret p).lane.length) && ((beginWork s p).turret p).inv.any (·.role == roleEngine)

/-- POST: it waits while the lane is full. -/
def postRow (s : State) (p a : Nat) : State :=
  if turretRuns s p && postWaits s p then beginWork s p
  else kRunWith s p (fun _ i c => K.engineOnly i (K.next i c)) fun _ c s =>
    s.onTurret p fun t => { t with lane := t.lane ++ [Config.descriptorUnit c.mem (c.rd a).toNat] }

/-! ## Configuration sets and Cupola bitmaps -/

/-- The events of a step by a byte (06 R220, R237): those of the home stream that the turret works for. A unit that no stream
waits for is no build or step of a stream; its reads count. -/
def astepEvents (p a : Nat) (e : KEnv) (c : Core) (s : State) : State :=
  let r := stepBytes e.aut { set := c.work } [BitVec.ofNat 8 (c.rd a).toNat]
  match homeWork s p with
  | some x => stepEvents s x (x.aut.getD 0) r x.next
  | none => countReads s r

/-- Sets or clears bit b of the Cupola entry that a names (Table 7.4, 12 R439); which entry a number names is free, and
it may name none; a bit that no vocabulary has changes nothing (log entry 70). -/
def bitCupola (set : Bool) (a b : Nat) (c : Core) (s : State) : State :=
  let n := (c.rd b).toNat
  s.onCup fun u => { u with entries := modAt u.entries (Config.cupolaEntry (c.rd a)) fun e =>
    if n < 262144 then { e with a := if set then e.a ||| 1 <<< n else bitDiff e.a (1 <<< n) } else e }

/-- MSET and MCLR. -/
def bitRow (set : Bool) (s : State) (p a b : Nat) (cupola : Bool) : State :=
  if cupola then kRunWith s p (fun _ i c => K.engineOnly i (K.next i c)) fun _ c s => bitCupola set a b c s
  else kRun s p fun _ => K.bitLocal set a b

/-! ## The watchdog and clock gating -/

/-- An engine invocation has run past the watchdog period (14 R513): fault code 0xFE. -/
def turretWatchdog (s : State) (p : Nat) : State :=
  match (s.turret p).inv with
  | some i => if turretRuns s p && i.role == roleEngine then turretFault s p i.prog (s.turret p).core.pc 0xFE else s
  | none => s

/-- A turret that has no work is gated (13 Table 13.1). -/
def gateIdle (s : State) (p : Nat) : State :=
  let t := s.turret p
  if s.ready && turretRuns s p && t.inv.isNone && t.suspended.isEmpty && t.taken.isNone && t.lane.isEmpty && (homeWork s p).isNone &&
      (leadJob s p).isNone && (boardLane s (p / 17)).isNone then s.onTurret p fun t => { t with gated := true }
  else s

/-! ## Meanings -/

/-- TURRET_WATCHDOG_EXPIRE (14 R513). -/
def execTurretWatchdogExpire (turret : Nat) (s : State) : Host.Outcome State Fault Refusal :=
  finish s (turretWatchdog s turret)

/-- IDLE_CLOCK_GATE (13 R467, Table 13.1). -/
def execIdleClockGate (turret : Nat) (s : State) : Host.Outcome State Fault Refusal :=
  finish s (gateIdle s turret)

/-- ADD: d = a + b, modulo 2^64 (07 Table 7.4). -/
def execAdd (p : Nat) (d a b : Nat) (s : State) : Host.Outcome State Fault Refusal :=
  finish s (kRun s p fun _ => K.add d a b)

/-- SUB: d = a - b, modulo 2^64 (07 Table 7.4). -/
def execSub (p : Nat) (d a b : Nat) (s : State) : Host.Outcome State Fault Refusal :=
  finish s (kRun s p fun _ => K.sub d a b)

/-- AND (07 Table 7.4). -/
def execAnd (p : Nat) (d a b : Nat) (s : State) : Host.Outcome State Fault Refusal :=
  finish s (kRun s p fun _ => K.and d a b)

/-- OR (07 Table 7.4). -/
def execOr (p : Nat) (d a b : Nat) (s : State) : Host.Outcome State Fault Refusal :=
  finish s (kRun s p fun _ => K.or d a b)

/-- XOR (07 Table 7.4). -/
def execXor (p : Nat) (d a b : Nat) (s : State) : Host.Outcome State Fault Refusal :=
  finish s (kRun s p fun _ => K.xor d a b)

/-- SLT: d = 1 when a < b as signed values, else 0 (07 Table 7.4). -/
def execSlt (p : Nat) (d a b : Nat) (s : State) : Host.Outcome State Fault Refusal :=
  finish s (kRun s p fun _ => K.slt d a b)

/-- ADDI: d = a + sext(imm) (07 Table 7.4). -/
def execAddi (p : Nat) (d a : Nat) (imm : BitVec 18) (s : State) : Host.Outcome State Fault Refusal :=
  finish s (kRun s p fun _ => K.addi d a imm)

/-- ANDI: d = a AND zext(imm) (07 Table 7.4). -/
def execAndi (p : Nat) (d a : Nat) (imm : BitVec 18) (s : State) : Host.Outcome State Fault Refusal :=
  finish s (kRun s p fun _ => K.andi d a imm)

/-- SHLI (07 Table 7.4). -/
def execShli (p : Nat) (d a : Nat) (imm : BitVec 18) (s : State) : Host.Outcome State Fault Refusal :=
  finish s (kRun s p fun _ => K.shli d a imm)

/-- SHRI (07 Table 7.4). -/
def execShri (p : Nat) (d a : Nat) (imm : BitVec 18) (s : State) : Host.Outcome State Fault Refusal :=
  finish s (kRun s p fun _ => K.shri d a imm)

/-- MOVI: d = sext(imm) (07 Table 7.4). -/
def execMovi (p : Nat) (d : Nat) (imm : BitVec 18) (s : State) : Host.Outcome State Fault Refusal :=
  finish s (kRun s p fun _ => K.movi d imm)

/-- MOVH: d = (d shifted left by 16) OR imm[15:0] (07 Table 7.4). -/
def execMovh (p : Nat) (d : Nat) (imm : BitVec 18) (s : State) : Host.Outcome State Fault Refusal :=
  finish s (kRun s p fun _ => K.movh d imm)

/-- LD (07 Table 7.4). -/
def execLd (p : Nat) (d a : Nat) (imm : BitVec 18) (s : State) : Host.Outcome State Fault Refusal :=
  finish s (kRun s p fun _ => K.ld d a imm)

/-- LDW (07 Table 7.4). -/
def execLdw (p : Nat) (d a : Nat) (imm : BitVec 18) (s : State) : Host.Outcome State Fault Refusal :=
  finish s (kRun s p fun _ => K.ldw d a imm)

/-- LDB (07 Table 7.4). -/
def execLdb (p : Nat) (d a : Nat) (imm : BitVec 18) (s : State) : Host.Outcome State Fault Refusal :=
  finish s (kRun s p fun _ => K.ldb d a imm)

/-- ST (07 Table 7.4). -/
def execSt (p : Nat) (d a : Nat) (imm : BitVec 18) (s : State) : Host.Outcome State Fault Refusal :=
  finish s (kRun s p fun _ => K.st d a imm)

/-- STW (07 Table 7.4). -/
def execStw (p : Nat) (d a : Nat) (imm : BitVec 18) (s : State) : Host.Outcome State Fault Refusal :=
  finish s (kRun s p fun _ => K.stw d a imm)

/-- STB (07 Table 7.4). -/
def execStb (p : Nat) (d a : Nat) (imm : BitVec 18) (s : State) : Host.Outcome State Fault Refusal :=
  finish s (kRun s p fun _ => K.stb d a imm)

/-- PUSH (07 Table 7.4). -/
def execPush (p : Nat) (a : Nat) (s : State) : Host.Outcome State Fault Refusal :=
  finish s (kRun s p fun _ => K.push a)

/-- POP (07 Table 7.4). -/
def execPop (p : Nat) (d : Nat) (s : State) : Host.Outcome State Fault Refusal :=
  finish s (kRun s p fun _ => K.pop d)

/-- PEEK (07 Table 7.4). -/
def execPeek (p : Nat) (d : Nat) (imm : BitVec 18) (s : State) : Host.Outcome State Fault Refusal :=
  finish s (kRun s p fun _ => K.peek d imm)

/-- TLD (07 Table 7.4). -/
def execTld (p : Nat) (d a : Nat) (imm : BitVec 18) (s : State) : Host.Outcome State Fault Refusal :=
  finish s (kRun s p fun _ => K.tld d a imm)

/-- TLDW (07 Table 7.4). -/
def execTldw (p : Nat) (d a : Nat) (imm : BitVec 18) (s : State) : Host.Outcome State Fault Refusal :=
  finish s (kRun s p fun _ => K.tldw d a imm)

/-- HPROBE: a lookup in the merge-rank table (07 Table 7.4). -/
def execHprobe (p : Nat) (d a b : Nat) (s : State) : Host.Outcome State Fault Refusal :=
  finish s (kRun s p fun e => K.hprobe e d a b)

/-- TSTEP: a step in a trie (07 Table 7.4). -/
def execTstep (p : Nat) (d a b : Nat) (longest : Bool) (s : State) : Host.Outcome State Fault Refusal :=
  finish s (kRun s p fun e => K.tstep e d a b longest)

/-- ASTEP: steps the working set by a byte (07 Table 7.4). -/
def execAstep (p : Nat) (d a : Nat) (s : State) : Host.Outcome State Fault Refusal :=
  finish s (kRunWith s p (fun e => K.astep e d a) (astepEvents p a))

/-- ASPEC: applies a special token (07 Table 7.4). -/
def execAspec (p : Nat) (d a : Nat) (s : State) : Host.Outcome State Fault Refusal :=
  finish s (kRun s p fun e => K.aspec e d a)

/-- ASAVE (07 Table 7.4). -/
def execAsave (p : Nat) (d a : Nat) (s : State) : Host.Outcome State Fault Refusal :=
  finish s (kRun s p fun _ => K.asave d a)

/-- ARES (07 Table 7.4). -/
def execAres (p : Nat) (a : Nat) (s : State) : Host.Outcome State Fault Refusal :=
  finish s (kRun s p fun _ => K.ares a)

/-- MSET (07 Table 7.4). -/
def execMset (p : Nat) (a b : Nat) (cupola : Bool) (s : State) : Host.Outcome State Fault Refusal :=
  finish s (bitRow true s p a b cupola)

/-- MCLR (07 Table 7.4). -/
def execMclr (p : Nat) (a b : Nat) (cupola : Bool) (s : State) : Host.Outcome State Fault Refusal :=
  finish s (bitRow false s p a b cupola)

/-- VLD (07 Table 7.4). -/
def execVld (p : Nat) (d a : Nat) (imm : BitVec 18) (s : State) : Host.Outcome State Fault Refusal :=
  finish s (kRun s p fun _ => K.vld d a imm)

/-- VST (07 Table 7.4). -/
def execVst (p : Nat) (d a : Nat) (imm : BitVec 18) (s : State) : Host.Outcome State Fault Refusal :=
  finish s (kRun s p fun _ => K.vst d a imm)

/-- VIN (07 Table 7.4). -/
def execVin (p : Nat) (d a : Nat) (imm : BitVec 18) (s : State) : Host.Outcome State Fault Refusal :=
  finish s (kRun s p fun _ => K.vin d a imm)

/-- VCLS (07 Table 7.4). -/
def execVcls (p : Nat) (d a b : Nat) (s : State) : Host.Outcome State Fault Refusal :=
  finish s (kRun s p fun _ => K.vcls d a b)

/-- VCMPEQ (07 Table 7.4). -/
def execVcmpeq (p : Nat) (d a b : Nat) (s : State) : Host.Outcome State Fault Refusal :=
  finish s (kRun s p fun _ => K.vcmpeq d a b)

/-- VFIND (07 Table 7.4). -/
def execVfind (p : Nat) (d a b : Nat) (s : State) : Host.Outcome State Fault Refusal :=
  finish s (kRun s p fun _ => K.vfind d a b)

/-- VUTF (07 Table 7.4). -/
def execVutf (p : Nat) (d a b : Nat) (writeCs : Bool) (s : State) : Host.Outcome State Fault Refusal :=
  finish s (kRun s p fun _ => K.vutf d a b writeCs)

/-- EMIT (07 Table 7.4). -/
def execEmit (p : Nat) (a : Nat) (kind : Nat) (s : State) : Host.Outcome State Fault Refusal :=
  finish s (kRun s p fun _ => K.emit a kind)

/-- EMITV (07 Table 7.4). -/
def execEmitv (p : Nat) (a b : Nat) (s : State) : Host.Outcome State Fault Refusal :=
  finish s (kRun s p fun _ => K.emitv a b)

/-- STEAL (07 Table 7.4). -/
def execSteal (p : Nat) (d : Nat) (s : State) : Host.Outcome State Fault Refusal :=
  finish s (stealRow s p d)

/-- POST (07 Table 7.4). -/
def execPost (p : Nat) (a : Nat) (s : State) : Host.Outcome State Fault Refusal :=
  finish s (postRow s p a)

/-- BAR: earlier accesses of the model are complete (07 Table 7.4). -/
def execBar (p : Nat) (s : State) : Host.Outcome State Fault Refusal :=
  finish s (kRun s p fun _ => K.bar)

/-- END (07 Table 7.4). -/
def execFin (p : Nat) (s : State) : Host.Outcome State Fault Refusal :=
  finish s (kRun s p fun _ => K.fin)

/-- TRAP (07 Table 7.4). -/
def execTrap (p : Nat) (code : BitVec 8) (s : State) : Host.Outcome State Fault Refusal :=
  finish s (kRun s p fun _ => K.trap code)

/-- BEQ (07 Table 7.4). -/
def execBeq (p : Nat) (a b : Nat) (off : BitVec 18) (s : State) : Host.Outcome State Fault Refusal :=
  finish s (kRun s p fun _ => K.beq a b off)

/-- BNE (07 Table 7.4). -/
def execBne (p : Nat) (a b : Nat) (off : BitVec 18) (s : State) : Host.Outcome State Fault Refusal :=
  finish s (kRun s p fun _ => K.bne a b off)

/-- BLT (07 Table 7.4). -/
def execBlt (p : Nat) (a b : Nat) (off : BitVec 18) (s : State) : Host.Outcome State Fault Refusal :=
  finish s (kRun s p fun _ => K.blt a b off)

/-- J (07 Table 7.4). -/
def execJ (p : Nat) (off : BitVec 18) (s : State) : Host.Outcome State Fault Refusal :=
  finish s (kRun s p fun _ => K.j off)

/-- JAL (07 Table 7.4). -/
def execJal (p : Nat) (d : Nat) (off : BitVec 18) (s : State) : Host.Outcome State Fault Refusal :=
  finish s (kRun s p fun _ => K.jal d off)

/-- JR (07 Table 7.4). -/
def execJr (p : Nat) (a : Nat) (s : State) : Host.Outcome State Fault Refusal :=
  finish s (kRun s p fun _ => K.jr a)

end Sys2Proof.Machine
end

