-- ==== Sys2Proof/Machine/Restore.lean ====
section
/-! DEFINITION. Recovery of what a poisoned word hit: a stream's context from its checkpoint and its ring (14 R521, R522), a
loaded image from external memory (R515). -/

namespace Sys2Proof.Machine

/-! ## A context (R521) -/

/-- The two checkpoint slots of a stream. -/
def ckptSlots (s : State) (x : Stream) : List Nat := ((ckptSlot s x 0).toList ++ (ckptSlot s x 1).toList)

/-- The restore of a stream begins: both slots are read. A restore under way starts again (R522). -/
def startRestore (s : State) (x : Stream) : State :=
  let s := dropLines (s.onStream x.id fun y => { y with restoring := true }) (.restore x.id)
  (ckptSlots s x).foldl (fun s a => fetchBytes s (.restore x.id) a 4096) s

/-- A checkpoint that the procedure keeps. -/
structure Kept where
  serial : Nat
  next : Nat
  seq : Nat
  image : List Byte
  deriving DecidableEq, Repr

/-- Lines of encrypted bytes at an address, decrypted. -/
def decryptAt (key : List Byte) (addr domain owner : Nat) (bs : List Byte) : List Byte :=
  (List.range (bs.length / 128)).flatMap fun i => xtsDecrypt key (addr + 128 * i) domain owner (slice bs (128 * i) 128)

/-- A slot whose magic, stream, owner and CRC are correct (Table 14.3). -/
def keepSlot (x : Stream) (img : List Byte) : Option Kept :=
  let ok := getLE img 0x1C0 4 == 0x4B43594E && getLE img 0x1C4 2 == x.id && (getN img 0x1C6).toNat == x.owner &&
    getLE img 0x1D8 4 == crc32c (putBytes img 0x1D8 [0, 0, 0, 0])
  if ok then some { serial := getLE img 0x1CC 4, next := getLE img 0x1C8 4, seq := getLE img 0x1D0 6, image := img } else none

/-- The slot of the greater serial among those kept. A slot that reads with an error is not kept (log entry 29). -/
def bestSlot (s : State) (x : Stream) : Option Kept :=
  let ks := (ckptSlots s x).filterMap fun a => match readBytes s (.restore x.id) a 4096, s.key? x.owner with
    | .got bs, some k => keepSlot x (decryptAt k.key a 3 x.owner bs)
    | _, _ => none
  ks.foldl (fun (b : Option Kept) k => match b with
    | some c => if c.serial < k.serial then some k else some c
    | none => some k) none

/-- Whether a slot's bytes are still missing. -/
def slotsMissing (s : State) (x : Stream) : Bool := (ckptSlots s x).any fun a => readBytes s (.restore x.id) a 4096 == .wait

/-- The ring lines from a checkpoint's SEQ to the write sequence number. -/
def replayLines (r : OwnRing) (replay : Bool) (seq : Nat) : List Nat :=
  if r.wseq ≤ seq then [] else (List.range ((r.wseq - 1) / perLine replay - seq / perLine replay + 1)).map (seq / perLine replay + ·)

/-- A ring line as the restore reads it: none when it read with an error. -/
def replayLine (s : State) (x : Stream) (l : Nat) : ReadRes :=
  readBytes s (.restore x.id) (ringLineAddr ((s.ownPkr x.owner).ring (!x.record)) l) 128

/-- The entries from a SEQ on, in order: those of the ring, then those of staging. -/
def replayEntries (s : State) (x : Stream) (seq : Nat) : List (List Byte) :=
  let replay := !x.record
  let r := (s.ownPkr x.owner).ring replay
  let n := entryBytes replay
  let key := ((s.key? x.owner).map (·.key)).getD []
  let ring := (List.range (r.wseq - seq)).map fun i =>
    let e := seq + i
    match replayLine s x (e / perLine replay) with
    | .got bs => slice (xtsDecrypt key (ringLineAddr r (e / perLine replay)) (ringDomain replay) x.owner bs) (n * (e % perLine replay)) n
    | _ => []
  ring ++ (r.staged.filter fun e => decide (r.wseq ≤ e.seq) && decide (seq ≤ e.seq)).map (·.bytes)

/-- The token of an entry that belongs to a stream, with the step it names: none for a configuration entry and for another
stream's. A replay entry's step is the next one. -/
def entryToken (x : Stream) (next : Nat) (e : List Byte) : Option (Nat × Nat) :=
  if x.record then
    if getLE e 0 4 = 0xFFFFFFFE ∨ getLE e 4 2 % 16384 ≠ x.id then none else some (getLE e 0 4, getLE e 20 4)
  else if getLE e 0 4 / 262144 ≠ x.id then none else some (getLE e 0 4 % 262144, next)

/-- Whether an entry is the record of a prompt token (10 Table 10.7). -/
def entryPrompt (x : Stream) (e : List Byte) : Bool := x.record && (getLE e 6 2).testBit 1

/-- Applies a token as the home turret does, with no text, record or group (R521): a prompt token leaves no text and a generated
count of 0 (10 R382). -/
def applyToken (s : State) (y : Stream) (t : Nat) (prompt : Bool) : Stream :=
  if prompt then
    { (if Config.promptAdvanced y.id y.next then y.putSet (advanceSet s y [t]).set else y) with
      token := some t, next := y.next + 1, gen := 0, text := {} }
  else
    let feed := match tokText (some (s.vocOf y)) t with
      | .bytes bs => feedString y.utf8Raw (s.stopOf y) y.text bs
      | _ => { text := y.text }
    { (y.putSet (advanceSet s y [t]).set) with token := some t, next := y.next + 1, gen := y.gen + 1, text := feed.text }

/-- A replay of entries: the stream as far as it goes, the tokens applied, the spilled states whose transitions it reads. -/
structure Replayed where
  stream : Stream
  tokens : Nat := 0
  read : List Nat := []
  deriving DecidableEq, Repr

/-- Replays entries; none when an entry's step is not the next. -/
def replayAll (s : State) : List (List Byte) → Replayed → Option Replayed
  | [], r => some r
  | e :: es, r => match entryToken r.stream r.stream.next e with
    | none => replayAll s es r
    | some (t, step) =>
      if step ≠ r.stream.next then none
      else replayAll s es {
        stream := applyToken s r.stream t (entryPrompt r.stream e), tokens := r.tokens + 1
        read := r.read ++ (advanceSet s r.stream [t]).read }

/-- The context that a checkpoint describes, with its header region zeroed: that of the serial that the slot names, which the block
wrote (02 R109), or of bytes that no checkpoint of the block holds. What the block itself keeps of the stream (its state, what is
recorded and held, its checkpoints) stays (log entries 11, 29). -/
def contextOf (x : Stream) (k : Kept) : Stream :=
  let c := ((x.kept.find? (·.1 == k.serial)).map Prod.snd).getD (Config.contextImage (putBytes k.image 0x1C0 (List.replicate 192 0)))
  let i := c.ident
  let p := c.params
  { x with
    slot := i.slot, aut := i.aut, stop := i.stop, queue := i.queue, seed := i.seed, epoch := i.epoch, temp := p.temp
    topK := p.topK, topP := p.topP, minP := p.minP, recip := p.recip, lnMinP := p.lnMinP, maxNew := p.maxNew
    deadPolicy := p.deadPolicy, utf8Raw := p.utf8Raw, bias := c.bias, token := c.commit.token, gen := c.commit.gen
    stack0 := c.stack0, stack1 := c.stack1, area1 := c.commit.area1, text := c.commit.text, next := k.next }

/-- The sequence number whose low 48 bits a checkpoint holds: the greatest at or below the ring's next one (log entry 80). -/
def wholeSeq (next low : Nat) : Nat :=
  let n := next / 2 ^ 48 * 2 ^ 48 + low
  if n ≤ next then n else n - 2 ^ 48

/-- The lines that a predicate takes are written again, and good (12 R442): each listed word of them as a whole word. -/
def mendWords (s : State) (p : Nat → Bool) : State :=
  (s.mem.words.filter fun w => p (w.1 / 16)).foldl (fun s w => putWhole s w.1 w.2.value) s

/-- The line of its store that a listed line is: line n lies in macro n mod M at row n / M (12 R430). -/
def storeLine (v : Variant) (key : Nat) : Nat × Nat :=
  let store := key / 524288
  (store, if store = 6 then key % 524288 else key % 1024 * v.storeUnits store + key / 1024 % 512)

/-- Whether a recorded command sets the epoch of every open stream that it reaches, a lost one too (10 R386, R388). -/
def epochWide (c : Cmd) : Bool := c.opcode == 0x29 || (c.opcode == 0x28 && c.ownerWide)

/-- A lost stream is SUSPENDED with LOST set; it accepts only STREAM_CLOSE, so what else is recorded against it ends with
STREAM_STATE (R522; log entry 29), and it waits for no queue room (11 R420). -/
def loseStream (s : State) (x : Stream) (detail : Nat) : State :=
  let s := raiseBy (s.onCtx fun c => { c with lost := satAdd c.lost 1 65535 }) .context 0x0702 x.id x.next detail
  let s := dropLines s (.restore x.id)
  let others := x.recorded.filter fun t => ((s.cmd? t).map fun c => c.opcode != 0x25 && !epochWide c).getD false
  let s := others.foldl (fun s t => match s.cmd? t with
    | some c =>
      if !opHasStream c.opcode (c.b 16) then reached (s.onCmd t fun c => { c with n0 := c.n0 - 1 }) c x.id
      else reject s c .streamState
    | none => s) (s.onStream x.id fun y => { y with recorded := y.recorded.filter fun t => !others.contains t })
  let s := match s.tree? x.id with
    | some t => endRound s t
    | none => s
  let s := releaseResv (dropSpill (dropAllUnits s x.id) x.id) x
  let s := s.onStp fun p => { p with waiting := p.waiting.filter (·.stream != x.id) }
  tryEnd (s.onStream x.id fun y => { y with
    restoring := false, lost := true, prior := if y.st == .suspended then y.prior else y.st, st := .suspended
    svc := .none, held := [], pagesResv := 0, endDue := 0, endOut := false, ckptDue := false, waitQueue := false, waitRing := false
    waitCkpt := false, waitCup := false, waitPages := false }) x.id

/-- The procedure ends: the restored context is committed, STREAM_RECOVERED is raised, and the stream goes on (R521). -/
def restored (s : State) (x y : Stream) (k : Kept) (n : Nat) : State :=
  let s := (dropLines s (.restore x.id)).onStream x.id fun _ => { y with restoring := false }
  let s := mendWords s fun key => let l := storeLine s.variant key; l.1 == 0 && l.2 / 32 == x.id
  let s := raiseBy (s.onCtx fun c => { c with recovered := satAdd c.recovered 1 65535 }) .context 0x0701 x.id y.next
    (k.serial + 4294967296 * n)
  tryEnd s x.id

/-- CONTEXT_RESTORE_DONE: the slots, then the ring lines, then the replay, with the spill area lines that it reads (00 R2); the row is
repeated as lines arrive. -/
def runRestore (s : State) (x : Stream) : State :=
  if slotsMissing s x then (ckptSlots s x).foldl (fun s a => fetchBytes s (.restore x.id) a 4096) s
  else match bestSlot s x with
    | none => loseStream s x 0
    | some k =>
      let r := (s.ownPkr x.owner).ring (!x.record)
      let seq := wholeSeq r.next k.seq
      let lines := replayLines r (!x.record) seq
      if lines.any (fun l => replayLine s x l == .wait) then
        lines.foldl (fun s l => fetchBytes s (.restore x.id) (ringLineAddr r l) 128) s
      else if lines.any (fun l => replayLine s x l == .err) then loseStream s x 1
      else match replayAll s (replayEntries s x seq) { stream := contextOf x k } with
        | none => loseStream s x 1
        | some p => if spillHere s p.stream p.read then restored (countReads s { read := p.read }) x p.stream k p.tokens else askSpill s x p.read

/-! ## An image (R515) -/

/-- Where an item's image lies, its length and its digest. Kinds: 0 vocabulary, 1 automaton, 2 stop set, 3 program. -/
def itemImage (s : State) (kind id owner : Nat) : Option (Nat × Nat × List Byte) :=
  match kind with
  | 0 => let x := s.slot id; if x.st == .loaded then some (x.addr, x.len, x.img.digest) else none
  | 1 => let a := s.automaton id; if a.st == .loaded then some (a.addr, a.len, a.img.digest) else none
  | 2 => (s.stop? owner id).bind fun p => if p.st == .loaded then some (p.addr, p.len, p.digest) else none
  | _ => (s.program? id).bind fun p => if p.st == .loaded then some (p.addr, p.len, p.digest) else none

/-- The image of an item is read again. -/
def startRepair (s : State) (kind id owner : Nat) : State :=
  match itemImage s kind id owner with
  | none => s
  | some e =>
    let s := s.onMem fun m => { m with repairs := if m.repairs.contains (kind, id, owner) then m.repairs else m.repairs ++ [(kind, id, owner)] }
    fetchBytes s (.repair kind id owner) e.1 e.2.1

/-- An item becomes FAULTED. -/
def faultItem (s : State) (kind id owner : Nat) : State :=
  match kind with
  | 0 => s.onSlot id fun x => { x with st := .faulted }
  | 1 => s.onAutomaton id fun a => { a with st := .faulted }
  | 2 => s.onStop owner id fun p => { p with st := .faulted }
  | _ => s.onProgram id fun p => { p with st := .faulted }

/-- Whether a job names an item; a prompt's stream answers for it. -/
def Job.names (kind id owner : Nat) (j : Job) : Bool :=
  !j.prompt && match kind with
    | 0 => j.slots.contains id
    | 1 => j.auts.contains id
    | 2 => j.stop == some (owner, id)
    | _ => j.prog == some id

/-- Jobs that name a FAULTED item write no further unit and complete with DIGEST_MISMATCH. -/
def failJobs (s : State) (kind id owner : Nat) : State :=
  (s.job.js.filter (Job.names kind id owner)).foldl (fun s j =>
    jobEnd (s.onJobOf j.ticket fun j => { j with
      units := j.units.take j.nextUnit, reading := false, errUnit := none, result := .digestMismatch, d0 := 0, d1 := 0 }) j.ticket) s

/-- The item that a line of an image store belongs to, as (kind, id, owner) (log entry 27). -/
def imageItem (s : State) (store line : Nat) : Option (Nat × Nat × Nat) :=
  let k := Config.lineItem store line
  let auts : List (Nat × Nat × Nat) :=
    ((List.range s.aut.auts.length).filter fun n => (s.automaton n).st == ItemState.loaded).map fun n => (1, n, 0)
  let xs : List (Nat × Nat × Nat) := match store with
    | 1 => ((List.range s.voc.slots.length).filter fun n => (s.slot n).st == ItemState.loaded).map fun n => (0, n, 0)
    | 2 => auts
    | _ => auts ++ (s.aut.stops.map fun (p : StopSet) => (2, p.id, p.owner)) ++ s.aut.progs.map fun (p : Program) => (3, p.id, 0)
  xs[k % xs.length]?

/-- The repair ends: the item's lines are rewritten, or the item is FAULTED and IMAGE_REPAIR_FAILED is raised. -/
def repairOver (s : State) (kind id owner : Nat) (good : Bool) : State :=
  let s := s.onMem fun m => { m with repairs := m.repairs.filter (· != (kind, id, owner)) }
  let s := dropLines s (.repair kind id owner)
  if good then
    let t := s
    mendWords s fun key => let l := storeLine t.variant key; decide (1 ≤ l.1) && decide (l.1 ≤ 3) && imageItem t l.1 l.2 == some (kind, id, owner)
  else
    let src : Src := if kind = 0 then .vocab else .automata
    failJobs (raiseBy (faultItem s kind id owner) src 0x0603 0 0 (kind + 256 * id + if kind = 2 then 65536 * owner else 0)) kind id owner

/-- IMAGE_REPAIR_DONE: a read error leaves the image without its digest (log entry 29). -/
def runRepair (s : State) (kind id owner : Nat) : State :=
  if !s.mem.repairs.contains (kind, id, owner) then s
  else match itemImage s kind id owner with
    | none => s.onMem fun m => { m with repairs := m.repairs.filter (· != (kind, id, owner)) }
    | some e => match readBytes s (.repair kind id owner) e.1 e.2.1 with
      | .wait => fetchBytes s (.repair kind id owner) e.1 e.2.1
      | .err => repairOver s kind id owner false
      | .got bs => repairOver s kind id owner (computedDigest bs == e.2.2)

/-! ## Meanings -/

/-- CONTEXT_RESTORE_DONE (14 R521, R522). -/
def execContextRestoreDone (stream : Nat) (s : State) : Host.Outcome State Fault Refusal :=
  finish s (match s.stream? stream with
    | some x => if s.stepping && x.restoring then runRestore s x else s
    | none => s)

/-- IMAGE_REPAIR_DONE (14 R515). -/
def execImageRepairDone (kind id owner : Nat) (s : State) : Host.Outcome State Fault Refusal :=
  finish s (if s.stepping then runRepair s kind id owner else s)

end Sys2Proof.Machine
end

