-- ==== Sys2Proof/Machine/Stores.lean ====
section
/-! DEFINITION. The macros of the stores (12): arbitration, write groups and the bit windows (R433 to R439), error correction and
injection (R440 to R443), owner tags (R451 to R454), the march test (R444 to R448), and what a poisoned word does (14 Table
14.2). Lines and words of a macro are listed under their addresses: see `lineKey`. -/

namespace Sys2Proof

/-- The class of a request (12 Table 12.2). -/
def StoreWork.cls : StoreWork → Nat
  | .restore | .migration | .repair | .emergency => 1
  | .selector | .capture | .finial => 2
  | .home | .commit | .staging | .egress => 3
  | .bulk | .image | .lineOut | .pack | .checkpoint | .drain | .scrub => 4
  | .march | .writeBack => 5
  | .query | .eqData => 6

def StoreReq.cls (r : StoreReq) : Nat := r.work.cls

namespace Machine

/-! ## Words, lines, tags -/

/-- The address of a word in the listing. -/
def wordKey (store unit row word : Nat) : Nat := lineKey store unit row * 16 + word

/-- A raw word; an unlisted one is a good zero word. -/
def State.rawWord (s : State) (store unit row word : Nat) : RawWord := sget {} s.mem.words (wordKey store unit row word)

/-- Writes a raw word. -/
def State.putWord (s : State) (store unit row word : Nat) (w : RawWord) : State :=
  s.onMem fun m => { m with words := sput {} m.words (wordKey store unit row word) w }

/-- The tag of a line; an unlisted one is free and block-owned (R449). -/
def State.lineTag (s : State) (store unit row : Nat) : Byte := sget 0xC0 s.mem.tags (lineKey store unit row)

/-- The tag of a block-owned line, and of an owner's. -/
def blockTag : Byte := 0x40
def ownerTag (o : Nat) : Byte := BitVec.ofNat 8 (o % 64)

/-- The tag of an automaton's lines. -/
def autTag (a : Automaton) : Option Byte := if a.st == .empty then none else some (if a.shared then blockTag else ownerTag a.owner)

/-- The tag that a line of a store takes when it is allocated (12 Table 12.4); none for what is not there, or has no lines in the store. -/
def allocTag (s : State) (store : Nat) (what : AllocFor) : Option Byte :=
  match what with
  | .stream id => if store = 0 ∨ store = 5 ∨ store = 8 then (s.stream? id).map fun x => ownerTag x.owner else none
  | .vocabulary => if store = 1 then some blockTag else none
  | .automaton n => if store = 2 ∨ store = 3 ∨ store = 4 then autTag (s.automaton n) else none
  | .stopSet o => if store = 2 ∨ store = 3 then some (ownerTag o) else none
  | .program => if store = 2 ∨ store = 3 then some blockTag else none
  | .privateEntry id => if store = 4 then (s.stream? id).map fun x => ownerTag x.owner else none
  | .job t => if store = 4 ∨ store = 8 then (s.cmd? t).map fun c => ownerTag c.owner else none
  | .queue q => if store = 7 then some (ownerTag (s.queue q).owner) else none

/-- STORE, MACRO, LINE and WORD as MEM_ERR_LAST packs them (Table 12.7). -/
def placeBits (store unit row word : Nat) : Nat := store + 16 * unit + 16384 * row + 16777216 * word

/-! ## A poisoned word (14 Table 14.2) -/

/-- Selection units that hold pages of the Logit Buffer. -/
def pagedUnits (s : State) : List SelUnit := s.fin.units.filter fun u => u.sources.any fun r => r.pages != 0

/-- A Cupola entry is invalidated; a unit whose selector read the word does not close. -/
def poisonCupola (s : State) (line requester : Nat) : State :=
  let n := s.cup.entries.length
  let e := s.cup.entries[Config.lineItem 4 line % n]?
  let s := s.onCup fun c => { c with entries := c.entries.filter fun x => some x != e }
  let port := (List.range s.variant.ports).find? fun p => (Src.selector p).number s.variant == requester
  match port.bind fun p => (s.port p).cur with
  | some u => s.onUnit u.1 u.2.1 u.2.2 fun v => { v with poisoned := v.poisoned || v.st == .open }
  | none => s

/-- A queue's reserved group is discarded unpublished (EQ_DATA_LOST). -/
def poisonQueue (s : State) (line : Nat) : State :=
  let q := line / 128
  let gs := (s.queue q).resv.filter fun g => !g.lost
  match gs[Config.lineItem 7 line % gs.length]? with
  | none => s
  | some g =>
    let s := s.onQueue q fun e => { e with resv := modWhere e.resv (fun h => h.stream == g.stream) fun h => { h with lost := true } }
    raiseBy s .queues 0x0604 g.stream (((s.stream? g.stream).map (·.next)).getD 0) (q + 65536 * groupBytes g.records)

/-- A round fails as a root failure does while its root is open, else it ends after its last confirmed token (09 R365). -/
def poisonTree (s : State) (t : Tree) : State :=
  match s.stream? t.stream, s.unit? t.stream t.step 0x7F with
  | some x, some u =>
    if u.st == .open then boundary (failStep (endRound s { t with rootFailed := true }) x) x.id
    else if t.walking then walkOver (s.onTree x.id fun t => { t with nodeFailed := true }) x.id
    else s
  | _, _ => s

/-- A program has read an uncorrectable word: a turret fault that no exception code tells of (07 R273). -/
def programPoisoned (s : State) (p : Nat) : State :=
  turretFault s p (((s.turret p).inv.map (·.prog)).getD 0) (s.turret p).core.pc 0xFF

/-- The effect of a poisoned word on what it belongs to, by its store; staged records have a second copy (14 R516). -/
def poisonItem (s : State) (store unit row requester : Nat) : State :=
  let line := row * s.variant.storeUnits store + unit
  match store with
  | 0 => match s.stream? (line / 32) with
    | some x => startRestore s x
    | none => s
  | 1 | 2 | 3 => match imageItem s store line with
    | some k => startRepair s k.1 k.2.1 k.2.2
    | none => s
  | 4 => poisonCupola s line requester
  | 5 => match (pagedUnits s)[Config.lineItem 5 line % (pagedUnits s).length]? with
    | some u => s.onUnit u.stream u.step u.node fun v => { v with poisoned := true }
    | none => s
  | 6 => programPoisoned s unit
  | 7 => poisonQueue s line
  | _ => match (none :: s.stp.trees.map some)[Config.lineItem 8 line % (s.stp.trees.length + 1)]? with
    | some (some t) => poisonTree s t
    | _ => s

/-- The effect of a poisoned word: on what it belongs to, and on the turret whose program read it. -/
def poisoned (s : State) (store unit row requester : Nat) : State :=
  let s := poisonItem s store unit row requester
  if requester < s.tur.ts.length ∧ store ≠ 6 then programPoisoned s requester else s

/-! ## Error correction (R440, R441) -/

/-- A correction: counted and logged; an event for every 1,024 of them. -/
def foundCe (s : State) (store unit row word requester : Nat) : State :=
  let at_ := placeBits store unit row word
  let s := s.onMem fun m => { m with ce := wrap32 (m.ce + 1), ceTotal := m.ceTotal + 1, errLast := at_ }
  if s.mem.ceTotal % 1024 = 0 then raiseFrom s requester 0x0501 0 0 at_ else s

/-- An uncorrectable word: counted, logged, reported, and its effect. -/
def foundUe (s : State) (store unit row word requester : Nat) : State :=
  let at_ := placeBits store unit row word
  let s := s.onMem fun m => { m with ue := wrap32 (m.ue + 1), errLast := at_ + 268435456 }
  poisoned (raiseFrom s requester 0x0601 0 0 at_) store unit row requester

/-- A read of a word finds what error it holds; a corrected word is to be written back (R440, log entry 30). -/
def readWord (s : State) (store unit row word requester : Nat) : State :=
  let w := s.rawWord store unit row word
  let k := wordKey store unit row word
  if w.err = 1 then foundCe (s.onMem fun m => { m with fixes := if m.fixes.contains k then m.fixes else m.fixes ++ [k] }) store unit row word requester
  else if w.err = 2 then foundUe s store unit row word requester
  else s

/-! ## Requests -/

/-- The words of its line that an operation writes. -/
def opWords : StoreOp → List Nat
  | .read => []
  | .write w _ _ => [w % 16]
  | .writeWords ws => (ws.map fun p => p.1 % 16).eraseDups
  | .setBits w _ => [w % 16]
  | .clearBits w _ => [w % 16]
  | .allocate _ _ => []

/-- What an operation does at one of its words. -/
def opAt (word : Nat) : StoreOp → StoreOp
  | .writeWords ws => .write word 0xFF (((ws.find? fun p => p.1 % 16 == word).map Prod.snd).getD 0)
  | op => op

/-- Whether an operation reads the word that it writes. -/
def opPartial : StoreOp → Bool
  | .read => false
  | .write _ en _ => en != 0xFF
  | .writeWords _ => false
  | .setBits _ _ => true
  | .clearBits _ _ => true
  | .allocate _ _ => false

/-- Whether an operation depends on the value that it leaves: it changes bits of it (R438, log entry 73). -/
def opDepends : StoreOp → Bool
  | .setBits _ _ => true
  | .clearBits _ _ => true
  | _ => false

/-- Whether R453 lets a request act on a line of a tag; local memories carry no tags. A free line takes only the write that
allocates it. -/
def tagAllows (store : Nat) (tag : Byte) (r : StoreReq) : Bool :=
  let free := tag.getLsbD 7
  let block := tag.getLsbD 6
  let mine := match r.owner with
    | none => true
    | some o => !block && tag.toNat % 64 == o
  decide (store = 6) || match r.op with
    | .allocate _ _ => free || mine
    | .read => !free && (mine || block)
    | _ => !free && mine

/-- A request that breaks R453: counted, logged, reported, and handled as an uncorrectable word (R454). -/
def tagFault (s : State) (store unit : Nat) (r : StoreReq) : State :=
  let tag := s.lineTag store unit r.line
  let at_ := store + 16 * unit + 16384 * r.line + 16777216 * tag.toNat
  let s := s.onMem fun m => { m with tagFaults := wrap32 (m.tagFaults + 1), tagLast := at_ }
  let s := raiseFrom s r.requester 0x0602 0 0 (at_ + 4294967296 * r.owner.getD 0 + if r.owner.isNone then 274877906944 else 0)
  poisoned s store unit r.line r.requester

/-! ## Arbitration (R433 to R435) -/

/-- Whether a request ranks before another: class 1, then the promoted ones, then the rest; by class, then by requester. -/
def ranksBefore (promoted : Nat → Bool) (a b : StoreReq) : Bool :=
  let tier := fun r : StoreReq => if r.cls = 1 then 0 else if promoted r.requester then 1 else 2
  decide (tier a < tier b) || (tier a == tier b && (decide (a.cls < b.cls) ||
    (a.cls == b.cls && decide (a.requester < b.requester))))

/-- The request of highest priority. -/
def topRequest (promoted : Nat → Bool) : List StoreReq → Option StoreReq
  | [] => none
  | r :: rs => some (rs.foldl (fun b x => if ranksBefore promoted x b then x else b) r)

/-- Requests in ascending priority: lowest first. -/
def ascending (promoted : Nat → Bool) (rs : List StoreReq) : List StoreReq :=
  let ins := fun (r : StoreReq) (l : List StoreReq) => l.takeWhile (ranksBefore promoted r) ++ [r] ++ l.dropWhile (ranksBefore promoted r)
  rs.foldl (fun l r => ins r l) []

def State.promotedAt (s : State) (store unit : Nat) : Nat → Bool := fun q => s.mem.promoted.contains (store, unit, q)

/-- Consecutive refusals of a requester at a macro. -/
def State.refusals (s : State) (store unit q : Nat) : Nat :=
  ((s.mem.refused.find? fun e => e.1 == store && e.2.1 == unit && e.2.2.1 == q).map fun e => e.2.2.2).getD 0

/-- A cycle of a macro ends: the requests not granted stall (R434), each one counted for its class and at its turret
(07 R269: two CK_TUR cycles); a granted one is no longer promoted. -/
def endCycle (s : State) (store unit : Nat) (granted stalled : List StoreReq) : State :=
  let old := s.mem.refused.filter fun e => !(e.1 == store && e.2.1 == unit)
  let new := stalled.map fun r => (store, unit, r.requester, s.refusals store unit r.requester + 1)
  let s := s.onMem fun m => { m with
    refused := old ++ new
    promoted := m.promoted.filter fun e => !(e.1 == store && e.2.1 == unit && granted.any fun r => r.requester == e.2.2)
    stalls := stalled.foldl (fun l r => modAt l (r.cls - 1) (· + 1)) m.stalls }
  stalled.foldl (fun s r => s.onTurret r.requester fun t => { t with arbStall := wrap32 (t.arbStall + 2) }) s

/-! ## Write groups (R436, R437, R439) -/

/-- The 64-bit mask of byte enables. -/
def enableMask (en : BitVec 8) : DWord :=
  BitVec.ofNat 64 (((List.range 8).map fun i => if en.getLsbD i then 255 * 256 ^ i else 0).sum)

/-- The value that an operation leaves. -/
def opValue (op : StoreOp) (v : DWord) : DWord :=
  match op with
  | .write _ en x => (x &&& enableMask en) ||| (v &&& ~~~(enableMask en))
  | .setBits _ m => v ||| m
  | .clearBits _ m => v &&& ~~~m
  | _ => v

/-- The bytes that an operation writes, or in which it changes a bit. -/
def opBytes (op : StoreOp) (v : DWord) : BitVec 8 :=
  match op with
  | .write _ en _ => en
  | _ => BitVec.ofNat 8 (bitmapOf ((List.range 8).filter fun i => (((opValue op v) ^^^ v) >>> (8 * i)).toNat % 256 != 0))

/-- A member of a write group once applied: what it found, what it touched. -/
structure Applied where
  req : StoreReq
  old : RawWord
  bytes : BitVec 8
  deriving DecidableEq, Repr

/-- Applies members in ascending priority: the word after them, and each member with what it found. -/
def applyGroupOps : List StoreReq → RawWord → RawWord × List Applied
  | [], w => (w, [])
  | r :: rs, w =>
    let w' : RawWord := { value := opValue r.op w.value, err := if opPartial r.op && w.err == 2 then 2 else 0 }
    let t := applyGroupOps rs w'
    (t.1, { req := r, old := w, bytes := opBytes r.op w.value } :: t.2)

/-- Whether a later member is a plain write of a byte that a member touched. -/
def overwritten (a : Applied) (later : List Applied) : Bool :=
  later.any fun b => match b.req.op with
    | .write _ en _ => (en &&& a.bytes) != 0
    | _ => false

/-- The responses of a group, in ascending priority (R437, 16 R577). -/
def groupResponses : List Applied → List StoreResp
  | [] => []
  | a :: rest =>
    let bitOp := opDepends a.req.op
    let code := if bitOp && a.old.err == 2 then 2 else if overwritten a rest then 1 else 0
    { requester := a.req.requester, code := code, data := if bitOp then [a.old.value] else [] } :: groupResponses rest

/-- One word of a write group: errors found, injection (R443); the state and the responses. -/
def writeWord (s : State) (store unit word : Nat) (w : StoreReq) (members : List StoreReq) : State × List StoreResp :=
  let reads := (members.head?.map fun r => opPartial r.op).getD false
  let old := s.rawWord store unit w.line word
  let res := applyGroupOps members old
  let whole := members.any fun r => !opPartial r.op
  let s := if reads && old.err == 1 then foundCe s store unit w.line word w.requester
    else if reads && old.err == 2 then foundUe s store unit w.line word w.requester else s
  let k := wordKey store unit w.line word
  (if whole then putWhole s k res.1.value else (s.onMem fun m => { m with fixes := m.fixes.filter (· != k) }).putWord store unit w.line word res.1,
    groupResponses res.2)

/-- The response of a member whose words gave these: the worst of them. -/
def memberResponse (all : List StoreResp) (r : StoreReq) : StoreResp :=
  let mine := all.filter (·.requester == r.requester)
  { requester := r.requester, code := mine.foldl (fun c x => max c x.code) 0, data := mine.flatMap (·.data) }

/-- Performs a write group, word by word of the winner; one that changes part of a word takes a second cycle (R431). A unit whose operation
depends on the value that a collision took from it repeats it (R438). -/
def writeGroup (s : State) (store unit : Nat) (w : StoreReq) (members : List StoreReq) : State :=
  let r := (opWords w.op).foldl (fun (a : State × List StoreResp) word =>
    let t := writeWord a.1 store unit word w
      ((members.filter fun r => (opWords r.op).contains word).map fun r => { r with op := opAt word r.op })
    (t.1, a.2 ++ t.2)) (s, [])
  let resp := members.map (memberResponse r.2)
  r.1.onMem fun m => { m with
    resp := resp
    collisions := wrap32 (m.collisions + (resp.filter (·.code == 1)).length)
    retry := m.retry ++ ((members.filter fun r => opDepends r.op && resp.any fun a => a.requester == r.requester && a.code == 1).map
      fun r => (store, unit, r))
    busy := if members.any fun r => opPartial r.op then m.busy ++ [(store, unit)] else m.busy }

/-- A read of a line (R440, R441). -/
def readLine (s : State) (store unit : Nat) (r : StoreReq) : State :=
  let ws := (List.range 16).map fun i => s.rawWord store unit r.line i
  let s := (List.range 16).foldl (fun s i => readWord s store unit r.line i r.requester) s
  s.onMem fun m => { m with
    resp := [{ requester := r.requester, code := if ws.any (·.err == 2) then 2 else 0, data := ws.map (·.value) }] }

/-- A unit allocates a line: it writes every word, and the line takes its tag (R452, R453). What is not there allocates nothing (log entry
99). -/
def allocateLine (s : State) (store unit : Nat) (r : StoreReq) (what : AllocFor) (ws : List DWord) : State :=
  let s := s.onMem fun m => { m with resp := [{ requester := r.requester, code := 0, data := [] }] }
  match allocTag s store what with
  | none => s
  | some t =>
    (List.range 16).foldl (fun s i => putWhole s (wordKey store unit r.line i) (getN ws i))
      (s.onMem fun m => { m with tags := sput 0xC0 m.tags (lineKey store unit r.line) t })

/-- Grants the access of the winner; a refused one by R454 reads as a poisoned word and writes nothing. -/
def grantAccess (s : State) (store unit : Nat) (w : StoreReq) (members : List StoreReq) : State :=
  let ok := fun r => tagAllows store (s.lineTag store unit w.line) r
  let bad := members.filter fun r => !ok r
  let good := members.filter ok
  let s := match w.op with
    | .read => if ok w then readLine s store unit w else s.onMem fun m => { m with resp := [] }
    | .allocate a ws => if ok w then allocateLine s store unit w a ws else s.onMem fun m => { m with resp := [] }
    | _ => if good.isEmpty then s.onMem fun m => { m with resp := [] } else writeGroup s store unit w good
  let s := s.onMem fun m => { m with
    resp := m.resp ++ bad.map fun r => { requester := r.requester, code := 2, data := [] } }
  bad.foldl (fun s r => tagFault s store unit r) s

/-- The winner and the members of its write group: writes and bit operations whose words are among the winner's (R436). -/
def groupOf (p : Nat → Bool) (w : StoreReq) (reqs : List StoreReq) : List StoreReq :=
  if (opWords w.op).isEmpty then [w]
  else ascending p (reqs.filter fun r =>
    !(opWords r.op).isEmpty && (opWords r.op).all (opWords w.op).contains && r.line == w.line)

/-! ## The march test (R444 to R448) -/

/-- The store, macro and region of a place in the sweep. -/
def regionAt (v : Variant) : List Nat → Nat → Option (Nat × Nat × Nat)
  | [], _ => none
  | s :: ss, n =>
    let per := Variant.storeRows s / 2
    let all := v.storeUnits s * per
    if n < all then some (s, n / per, n % per) else regionAt v ss (n - all)

/-- Whether a store group holds an allocated line, so that its macros are not gated (13 Table 13.1). The halves of the Context
Store are those of its rows; every Cupola macro holds lines of some entry. -/
def groupAllocated (s : State) (store unit row : Nat) : Bool :=
  let lower := fun unit row : Nat => match store with
    | 0 => decide (row < 512)
    | 4 => decide (unit < s.variant.storeUnits 4 / 2)
    | _ => true
  (s.mem.tags.any fun t => t.1 / 524288 == store && !t.2.getLsbD 7 && lower (t.1 / 1024 % 512) (t.1 % 1024) == lower unit row) || match store with
  | 0 => s.ctx.streams.any fun x => decide (x.id < s.variant.streams / 2) == decide (row < 512)
  | 1 => s.voc.slots.any (·.st != .empty)
  | 2 => s.aut.auts.any (·.transResv != 0)
  | 3 => s.aut.auts.any (·.recResv != 0) || !s.aut.stops.isEmpty || !s.aut.progs.isEmpty
  | 4 => !s.cup.entries.isEmpty || !s.cup.longPiece.isEmpty
  | 5 => !(pagedUnits s).isEmpty || s.stp.trees.any (·.setPages != 0)
  | 6 => !(s.turret unit).gated && !(s.turret unit).quarantined && (s.turret unit).activeNo.isSome
  | 7 => s.eqs.qs.any fun q => !q.recs.isEmpty || !q.resv.isEmpty
  | _ => !s.stp.trees.isEmpty || s.pkr.owners.any fun o => !o.recRing.staged.isEmpty || !o.rplRing.staged.isEmpty

/-- The region ends; the last one of the sweep ends the sweep. -/
def regionOver (s : State) (skipped : Bool) : State :=
  s.onMem fun m => { m with
    region := none, again := false, tries := 0
    skips := wrap32 (m.skips + b2n skipped)
    sweeps := wrap32 (m.sweeps + b2n (m.pos + 1 == s.variant.marchRegions)) }

/-- Words of the two lines of a region, as (row, word). -/
def regionWords (r : Nat) : List (Nat × Nat) := [2 * r, 2 * r + 1].flatMap fun row => (List.range 16).map fun i => (row, i)

/-- The test starts a region: the next one, or the one that ended early. A gated macro's region passes; an uncorrectable
word ends the region (R444, R445, R448). -/
def startRegion (s : State) : State :=
  let n := if !s.mem.posValid then 0 else if s.mem.again then s.mem.pos else (s.mem.pos + 1) % s.variant.marchRegions
  let s := s.onMem fun m => { m with pos := n, posValid := true, again := false }
  match regionAt s.variant (List.range 9) n with
  | none => s
  | some (store, unit, r) =>
    if !groupAllocated s store unit (2 * r) then regionOver s false
    else
      let me := Src.test.number s.variant
      let bad := (regionWords r).any fun x => (s.rawWord store unit x.1 x.2).err == 2
      let s := (regionWords r).foldl (fun s x => readWord s store unit x.1 x.2 me) s
      if bad then regionOver s false else s.onMem fun m => { m with region := some (store, unit, r) }

/-- An operation of the march on both lines of a region: a write, or a compare with what is read, of the background or its complement; lines
ascending or descending. -/
inductive MarchOp where
  | write (inverse : Bool)
  | readWrite (expect : Bool) (down : Bool)
  | read
  deriving DecidableEq, Repr

/-- The march of one background, as the procedure of R445 gives it; `true` is the complement of the background. -/
def marchPasses : List MarchOp := [.write false, .readWrite false false, .readWrite true false, .readWrite false true, .readWrite true true, .read]

/-- The two backgrounds. -/
def marchBackgrounds : List DWord := [0, 0x5555555555555555]

/-- Macro cycles that an operation takes: one access for each line, two where it also writes. -/
def MarchOp.cycles : MarchOp → Nat
  | .readWrite _ _ => 4
  | _ => 2

/-- Cycles of a region: the save reads, the march, the write-back. -/
def marchCycles : Nat := 2 + marchBackgrounds.length * (marchPasses.map MarchOp.cycles).sum + 2

/-- What a line that reads back `get v` after a write of v shows at the compares of the march, each with the value expected. The model's
words are good cells; what the macro's cells read back is the operand of MARCH_REGION_DONE (log entry 100). -/
def marchCompares (get : DWord → DWord) : List (DWord × DWord) :=
  marchBackgrounds.flatMap fun b => marchPasses.flatMap fun p => match p with
    | .write _ => []
    | .readWrite e _ => [(if e then ~~~b else b, get (if e then ~~~b else b))]
    | .read => [(b, get b)]

/-- Whether a line passes the march. -/
def marchPassed (get : DWord → DWord) : Bool := (marchCompares get).all fun c => c.1 == c.2

/-- The saved lines of a region are written back: corrected, as whole words (R443, R445). -/
def restoreRegion (s : State) (store unit r : Nat) : State :=
  (regionWords r).foldl (fun s x => putWhole s (wordKey store unit x.1 x.2) (s.rawWord store unit x.1 x.2).value) s

/-- A request of class 1 to 4 ends the test of the region: the saved lines are written back in the next two cycles, and the
sixteenth time in a sweep the region is skipped (R446). -/
def abortRegion (s : State) (store unit : Nat) : State :=
  let s := match s.mem.region with
    | some (_, _, r) => restoreRegion s store unit r
    | none => s
  let s := s.onMem fun m => { m with busy := m.busy ++ [(store, unit), (store, unit)], tries := m.tries + 1 }
  if 16 ≤ s.mem.tries then regionOver s true else s.onMem fun m => { m with region := none, again := true }

/-- The march of a region completes; a compare that failed at a line is counted, logged and reported (R447). -/
def doneRegion (s : State) (fails : Bool) (row : Nat) : State :=
  match s.mem.region with
  | none => s
  | some (store, unit, r) =>
    let s := regionOver (restoreRegion s store unit r) false
    if !fails then s
    else
      let at_ := store + 16 * unit + 16384 * (2 * r + row % 2)
      raiseBy (s.onMem fun m => { m with fails := wrap32 (m.fails + 1), marchLast := at_ }) .test 0x0502 0 0 at_

/-! ## A cycle of a macro -/

/-- Whether the march test holds a macro. -/
def marchHolds (s : State) (store unit : Nat) : Bool :=
  match s.mem.region with
  | some r => r.1 == store && r.2.1 == unit
  | none => false

/-- A request at a row of its macro. -/
def StoreReq.atRow (store : Nat) (r : StoreReq) : StoreReq := { r with line := r.line % Variant.storeRows store }

/-- The first word of a macro whose correction waits to be written back. -/
def fixOf (s : State) (store unit : Nat) : Option Nat := s.mem.fixes.find? fun k => k / 16384 == store * 512 + unit

/-- A corrected word is written back (R440). -/
def writeBack (s : State) (key : Nat) : State :=
  putWhole (s.onMem fun m => { m with resp := [] }) key (sget {} s.mem.words key).value

/-- The operations that units repeat at a macro (R438). -/
def retriesAt (s : State) (store unit : Nat) : List StoreReq :=
  (s.mem.retry.filter fun e => e.1 == store && e.2.1 == unit).map fun e => e.2.2

/-- One CK_MEM cycle of a macro with the requests presented, those repeated among them (R431 to R436, R446); a corrected word's write-back is
a request of class 5 (R440). -/
def storeCycle (s : State) (store unit : Nat) (new : List StoreReq) : State :=
  let reqs := retriesAt s store unit ++ new
  if s.mem.busy.contains (store, unit) then
    endCycle (s.onMem fun m => { m with busy := m.busy.erase (store, unit), resp := [] }) store unit [] reqs
  else if marchHolds s store unit then
    let s := if reqs.any fun r => decide (r.cls ≤ 4) then abortRegion s store unit else s
    endCycle (s.onMem fun m => { m with resp := [] }) store unit [] reqs
  else
    let p := s.promotedAt store unit
    match topRequest p (reqs.filter fun r => decide (r.cls ≤ 5)), fixOf s store unit with
    | none, some k => endCycle (writeBack s k) store unit [] reqs
    | _, _ => match topRequest p reqs with
      | none => s.onMem fun m => { m with resp := [] }
      | some w =>
        let g := groupOf p w reqs
        let s := s.onMem fun m => { m with retry := m.retry.filter fun e => !(e.1 == store && e.2.1 == unit && g.contains e.2.2) }
        endCycle (grantAccess s store unit w g) store unit g (reqs.filter fun r => !g.contains r)

/-- A requester refused in 256 consecutive cycles is promoted (R435). -/
def promote (s : State) (store unit q : Nat) : State :=
  if 256 ≤ s.refusals store unit q ∧ !s.promotedAt store unit q then
    s.onMem fun m => { m with promoted := m.promoted ++ [(store, unit, q)], starve := wrap32 (m.starve + 1) }
  else s

/-- Whether the configuration has a macro (Table 12.1). -/
def hasMacro (s : State) (store unit : Nat) : Bool := decide (unit < s.variant.storeUnits store)

/-! ## Meanings -/

/-- STORE_ACCESS_GRANT (R433 to R437). A macro that the configuration does not have is a fault. -/
def execStoreAccessGrant (store unit : Nat) (reqs : List StoreReq) (s : State) : Host.Outcome State Fault Refusal :=
  if hasMacro s store unit then finish s (if s.writing then storeCycle s store unit (reqs.map (StoreReq.atRow store)) else s)
  else .fault .noSuchMacro

/-- ARB_STARVE_PROMOTE (R435). -/
def execArbStarvePromote (store unit requester : Nat) (s : State) : Host.Outcome State Fault Refusal :=
  if hasMacro s store unit then finish s (if s.writing then promote s store unit requester else s)
  else .fault .noSuchMacro

/-- MARCH_REGION_START (R444, R445, R448). -/
def execMarchRegionStart (s : State) : Host.Outcome State Fault Refusal :=
  finish s (if s.ready && s.mem.marchEn && s.mem.region.isNone then startRegion s else s)

/-- MARCH_REGION_DONE (R445, R447). -/
def execMarchRegionDone (fails : Bool) (row : Nat) (s : State) : Host.Outcome State Fault Refusal :=
  finish s (if s.writing then doneRegion s fails row else s)

end Machine

end Sys2Proof
end

