-- ==== Sys2Proof/Machine/Resets.lean ====
section
/-! DEFINITION. What a reset leaves (13 Table 13.3): of the units after a cold and after a warm reset, of the Lantern; key
zeroisation (12 R462); turret maps and row repair (07 R263, 16 R580, R581). -/

namespace Sys2Proof.Machine

/-! ## Units -/

/-- Every unit outside the Lantern at its reset value (13 R472). -/
def coldUnits (s : State) : State :=
  { s with
    rng := Rng.start, voc := Voc.start s.variant, aut := Aut.start, cup := {}, ctx := Ctx.start, sel := Sel.start s.variant
    fin := Fin.start, stp := Stp.start, pkr := Pkr.start, eqs := Eqs.start, job := {}, tur := Tur.start s.variant
    mem := Mem.start, cry := { dukSeen := s.cry.dukSeen }, bel := Bel.start, snp := {}, fab := {} }

/-- A slot that a warm reset finds loading is empty; the others stay (03 R130, R134). -/
def Slot.warm (x : Slot) : Slot :=
  match x.st with
  | .loading => {}
  | .dropping => { x with st := .loaded }
  | _ => x

/-- An automaton that a warm reset finds loading is free; the others, serials and histories stay (06 R240). -/
def Automaton.warm (a : Automaton) : Automaton :=
  match a.st with
  | .loading => a.freed
  | .dropping => { a with st := .loaded }
  | _ => a

/-- The state of a stop set or program whose load or drop a reset discards. -/
def ItemState.warm : ItemState → ItemState
  | .loading => .loaded
  | .dropping => .loaded
  | x => x

/-- Automata, stop sets and programs stay; what was only loading goes (06 R240, 07 R291). -/
def Aut.warm (a : Aut) : Aut :=
  { auts := a.auts.map Automaton.warm
    stops := (a.stops.filter fun p => !(p.st == .loading && p.foot == 0)).map fun p => { p with st := p.st.warm, resv := 0 }
    progs := (a.progs.filter fun p => !(p.st == .loading && p.foot == 0)).map fun p => { p with st := p.st.warm, resv := 0 } }

/-- Every pin is released and FILLING entries go; the others stay (06 R246). -/
def Cup.warm (c : Cup) (auts : List Automaton) : Cup :=
  let kept := fun e : CupEntry => match e.key with
    | some k => (getN auts k.aut).st != .loading
    | none => true
  { entries := (c.entries.filter fun e => !e.filling && kept e).map fun e => { e with pins := [], fillFor := none }
    clock := c.clock }

/-- A context as a start finds it: the step in flight, held results and what was recorded against the stream are gone (13
R482, 02 R71). -/
def Stream.warm (x : Stream) : Stream :=
  { x with
    svc := .none, forcedEos := false, pagesResv := 0, held := [], waitQueue := false
    waitRing := false, waitCup := false, waitPages := false, recorded := [], spill := [], endOut := false
    idleSaid := false, ckptDue := x.ckptDue || !x.ckptPend.isEmpty, ckptPend := [], restoring := false, closing := false
    endDue := 0 }

/-- A ring whose line writes in flight were abandoned: its staged entries are written again (13 R493). -/
def OwnRing.warm (r : OwnRing) : OwnRing := { r with staged := r.staged.map fun e => { e with issued := e.acked } }

/-- Contents, FILL, partly read position, OWNER, watermarks and FC_XOFF stay; reservations are released (11 R426). -/
def EqQueue.warm (q : EqQueue) : EqQueue :=
  { owner := q.owner, recs := q.recs, partRead := q.partRead, high := q.high, low := q.low, highStg := q.highStg
    lowStg := q.lowStg, stgWritten := q.stgWritten, newWm := q.newWm, xoff := q.xoff }

/-- QUARANTINED, SPARE, the mapping and local memory stay (13 Table 13.4 step 5, 14 R512). -/
def Turret.warm (t : Turret) : Turret :=
  { usable := t.usable, spare := t.spare, quarantined := t.quarantined, activeNo := t.activeNo, core := t.core.entered }

/-- The units after a warm or clock-loss reset: what Table 13.3 keeps, and all else at its reset value. -/
def warmUnits (s : State) : State :=
  { s with
    rng := { Rng.start with nextTicket := s.rng.nextTicket }
    voc := { slots := s.voc.slots.map Slot.warm }
    aut := s.aut.warm
    cup := s.cup.warm s.aut.auts
    ctx := { Ctx.start with streams := s.ctx.streams.map Stream.warm, owners := s.ctx.owners }
    sel := Sel.start s.variant, fin := Fin.start, stp := Stp.start
    pkr := { owners := s.pkr.owners.map fun p => { p with recRing := p.recRing.warm, rplRing := p.rplRing.warm } }
    eqs := { qs := s.eqs.qs.map EqQueue.warm }
    job := {}
    tur := { ts := s.tur.ts.map Turret.warm }
    mem := { Mem.start with words := s.mem.words, tags := s.mem.tags }
    cry := { dukSeen := s.cry.dukSeen }
    bel := { s.bel with pending := 0, count := 0, lost := 0, sel := 0, cqPending := 0 }
    snp := {}, fab := {} }

/-! ## The Lantern -/

/-- The Lantern after a software cold reset: FAILED_STARTS, LTN_RESET_CAUSE and the log stay, as do the pins and the counts
since power-on; during an option load LTN_OPT stays (13 Table 13.3, R485). -/
def Lan.cold (l : Lan) : Lan :=
  { failed := l.failed, cause := l.cause, causeFail := l.causeFail, writesLost := l.writesLost, fromRecovery := l.fromRecovery
    log := l.log, logNext := l.logNext, logWrapped := l.logWrapped, starts := l.starts, aonTime := l.aonTime
    logicAck := l.logicAck, arrayAck := l.arrayAck, logicReq := l.logicReq, arrayReq := l.arrayReq
    rootOk := l.rootOk, pf := l.pf, pwrLow := l.pwrLow, blkLow := l.blkLow
    optValid := l.optLoading && l.optValid
    opt := if l.optLoading then l.opt else List.replicate 64 0
    wir := l.wir, wdr := l.wdr, wrapLive := l.wrapLive, wrapCold := l.wrapCold }

/-- The Lantern while PWR_ON_N is low: nothing but the pins and the test wrapper stays (13 Table 13.3). -/
def Lan.dead (l : Lan) : Lan :=
  { act := .held, pwrLow := true, blkLow := l.blkLow, rootOk := l.rootOk, pf := l.pf
    wir := l.wir, wdr := l.wdr, wrapLive := l.wrapLive, wrapCold := l.wrapCold }

/-! ## Key zeroisation (12 R462) -/

/-- Lines of an owner that are not yet encrypted go, and are counted. -/
def discardLines (s : State) (o : Nat) (replay : Bool) : State :=
  let r := (s.ownPkr o).ring replay
  let n := (openLines r replay).length
  let s := s.onCry fun c => { c with zeroDrops := wrap32 (c.zeroDrops + n) }
  s.onOwnRing o replay fun r => r.discard replay fun _ => true

/-- Whether a waiting command needs a key: OWNER_KEY at the key port, PACK, MASK_REPLAY, a spilled load, an EPOCH_REVOKE that reads the
ring, a CHECKPOINT with a stream still to write. -/
def needsKey (s : State) (c : Cmd) : Bool :=
  c.phase != .fetched && (c.opcode == 0x18 || c.opcode == 0x38 || c.opcode == 0x39 ||
    (c.opcode == 0x12 && (s.automaton (c.b 16 % 64)).spilled && (s.automaton (c.b 16 % 64)).ticket == c.ticket) ||
    (c.opcode == 0x29 && c.phase == .executing) ||
    (c.opcode == 0x41 && s.ctx.streams.any fun x => x.recorded.contains c.ticket && (ckptSlot s x 0).isSome))

/-- A waiting command ends with NO_KEY, and what it holds goes with it. -/
def endNoKey (s : State) (c : Cmd) : State :=
  if c.opcode = 0x12 then autFail s c .noKey
  else
    let s := s.onJob fun j => { j with js := j.js.filter (·.ticket != c.ticket) }
    let s := s.onCup fun x => { x with
      longWait := x.longWait.filter (·.2 != c.ticket), longPiece := x.longPiece.filter (·.2 != c.ticket) }
    let s := s.onCtx fun x => { x with streams := x.streams.map fun y => { y with recorded := y.recorded.filter (· != c.ticket) } }
    reject (if c.opcode = 0x18 then s.onCry fun y => { y with unwrap := none } else s) c .noKey

/-- Every key is zeroised; `src` is 0 for LTN_KEY_ZERO and 1 for the test wrapper. -/
def zeroise (s : State) (src : Nat) : State :=
  let keyed := (List.range 64).filter fun o => (s.key? o).isSome
  let s := lanLog (s.onLan fun l => { l with keys := List.replicate 64 none }) 0x0B01 src
  let s := keyed.foldl (fun s o => discardLines (discardLines s o false) o true) s
  let ids := (s.ctx.streams.filter fun x => keyed.contains x.owner).map (·.id)
  let s := s.onCtx fun c => { c with streams := c.streams.map fun x => if ids.contains x.id then { x with zeroing := true } else x }
  let s := (s.rng.cmds.filter (needsKey s)).foldl endNoKey s
  if !s.stepping then s
  else ids.foldl boundary (raiseBy s .lantern 0x0B01 0 0 src)

/-! ## Repair (step 5 of a start) -/

/-- Whether an option word or the self-test makes a turret unusable (16 R580). -/
def turretBad (s : State) (failed : List Nat) (p : Nat) : Bool :=
  (getN s.lan.opt (2 + p / 17)).toNat.testBit (p % 17) || failed.contains p

/-- Whether some cluster has fewer than 16 usable turrets (13 R487). -/
def clusterShort (s : State) (failed : List Nat) : Bool :=
  (List.range s.variant.clusters).any fun k =>
    decide (((List.range 17).filter fun i => !turretBad s failed (17 * k + i)).length < 16)

/-- The turrets as repair maps them: the 16 lowest usable ones of a cluster are active, the next its spare (07 R263); an
unusable one reads QUARANTINED (16 R580), and a quarantined one stays so (14 R512). -/
def mapTurrets (bad : Nat → Bool) (ts : List Turret) : List Turret :=
  let out := fun p => bad p || (getN ts p).quarantined
  (List.range ts.length).map fun p =>
    let t := getN ts p
    let rank := ((List.range (p % 17)).filter fun i => !out (p - p % 17 + i)).length
    if out p then { t with usable := !bad p, quarantined := true, spare := false, activeNo := none }
    else { t with usable := true, spare := rank == 16, activeNo := if rank < 16 then some (p / 17 * 16 + rank) else none }

/-- The fields of a row repair entry: store, macro, row, spare row (16 Table 16.13). -/
def repairField (w : Word) : Nat × Nat × Nat × Nat := (w.field 4 1, w.field 14 5, w.field 24 15, w.field 26 25)

/-- Whether the block has the row that an entry names. -/
def repairNames (v : Variant) (w : Word) : Bool :=
  let e := repairField w
  w.bit 0 && decide (e.2.1 < v.storeUnits e.1) && decide (e.2.2.1 < Variant.storeRows e.1)

/-- Whether a later entry replaces an earlier one: the same macro, and the same row or the same spare row (16 R581). -/
def repairSame (a b : Word) : Bool :=
  let x := repairField a
  let y := repairField b
  x.1 == y.1 && x.2.1 == y.2.1 && (x.2.2.1 == y.2.2.1 || x.2.2.2 == y.2.2.2)

/-- Row repair entries as applied: VALID is 0 in those ignored or replaced. -/
def appliedRows (v : Variant) : List Word → List Word
  | [] => []
  | w :: ws =>
    (if repairNames v w && !(ws.any fun u => repairNames v u && repairSame w u) then w else w &&& 0xFFFFFFFE) :: appliedRows v ws

/-- A turret map with the turrets that failed the self-test. -/
def appliedMap (s : State) (failed : List Nat) (k : Nat) : Word :=
  BitVec.ofNat 32 (failed.foldl (fun m p => if p / 17 = k then m ||| 1 <<< (p % 17) else m) (getN s.lan.opt (2 + k)).toNat)

/-- Repair: turrets are mapped, homes of a number that no turret has any more move, and N2_REPAIR will show what was applied. -/
def repair (s : State) (failed : List Nat) : State :=
  let s := s.onLan fun l => { l with
    repair := (List.range 16).map (appliedMap s failed) ++ appliedRows s.variant ((l.opt.drop 18).take 20) }
  let s := s.onTur fun t => { t with ts := mapTurrets (turretBad s failed) t.ts }
  let gone := (List.range s.variant.activeTurrets).filter fun n => !(s.tur.ts.any fun t => t.activeNo == some n)
  gone.foldl moveHomes s

end Sys2Proof.Machine
end

