-- ==== Sys2Proof/Machine/Lantern.lean ====
section
/-! DEFINITION. The Lantern (13, 14 R529 to R531, 15 R558 to R561): starts, warm quiesce, power states, power-fail warning, the
block watchdog, option loading, local resets, zeroisation and fence-off. -/

namespace Sys2Proof.Machine

/-- What happens unless PWR_ON_N is low, which holds the whole block in reset (13 R472, R473). -/
def alive (s : State) (f : State → State) : State := if s.lan.pwrLow then s else f s

/-- A write to a Lantern register: served in every block state (13 R481). -/
def lanWrite (s : State) (f : State → State) : State := alive s fun s => served (f s) 0

/-- A power-state change in the log: the BLOCK_STATE codes left and entered (16 Table 16.10). -/
def logPower (s : State) (left entered : Nat) : State := lanLog s 0xF003 (left + 16 * entered)

/-- The cold columns of Table 13.4. -/
def Lan.isCold (l : Lan) : Bool := l.shape == 0 || l.shape == 3

/-! ## Starts -/

/-- A start of a kind begins (13 R479): ISO_EN is high, the fence ends, the watchdog is 0; the log says which (14 R531). -/
def startNow (s : State) (kind shape : Nat) : State :=
  lanLog (s.onLan fun l => { l with
    blk := .starting, act := if l.blkLow then .held else .start, step := 0, kind := kind, shape := shape, startTimer := false
    notReady := false, iso := true, wdogEn := false, wdogPeriod := 0, domWait := [], domReset := [], fenced := false
    optLoading := false, optStg := List.replicate 64 0
    starts := l.starts + 1, startFrom := l.aonTime, wrapLive := false, wrapCold := false }) 0xF002 kind

/-- A cold start: everything but the Lantern's kept items is at its reset value. -/
def coldStart (s : State) (kind : Nat) : State :=
  startNow ((coldUnits s).onLan fun l => { l.cold with optLoading := l.optLoading }) kind 0

/-- A start that keeps what a warm reset keeps; without committed option words, or after a test instruction took effect, it
runs as a software cold start (13 R486, 15 R565). -/
def warmStart (s : State) (kind shape : Nat) : State :=
  if !s.lan.optValid || s.lan.wrapCold then coldStart s 2 else startNow (warmUnits s) kind shape

/-- An OFF wake: the stores are lost, keys and option words are kept (13 R499). -/
def offStart (s : State) (kind : Nat) : State :=
  if s.lan.wrapCold then coldStart s 2 else startNow (coldUnits s) kind 3

/-- A start of a kind and a column of Table 13.4. -/
def startOf (s : State) (kind shape : Nat) : State :=
  if shape = 0 then coldStart s kind else if shape = 3 then offStart s kind else warmStart s kind shape

/-- A wake begins once its rails are up: the log shows the power state left, and the start counts from its request. -/
def wake (s : State) (kind shape left : Nat) : State :=
  let from_ := s.lan.startFrom
  let s := if left = 3 ∨ left = 4 then logPower s left 0 else s
  (startOf s kind shape).onLan fun l => { l with startFrom := from_ }

/-- A source of no greater reach restarts the start in progress at step 1, with its own kind (13 R474); an option load under way
is discarded (R485). -/
def restart (s : State) : State :=
  lanLog (s.onLan fun l => { l with
    act := if l.blkLow then .held else .start, step := 0, startTimer := false, domWait := [], optLoading := false
    optStg := List.replicate 64 0, startFrom := l.aonTime }) 0xF002 s.lan.kind

/-- Whether a start is in progress, or held or waiting for CK_ROOT_OK. -/
def Lan.inStart (l : Lan) : Bool :=
  l.blk == .starting && match l.act with
  | .start => true
  | .held => true
  | .clockLoss _ => true
  | _ => false

/-- The reach of the start in progress (13 R474). -/
def Lan.reach (l : Lan) : Nat := if l.kind = 1 then 3 else if l.shape = 0 then 2 else 1

/-- Rails that are down are raised first; then the start runs (13 R498, R500). -/
def powerUp (s : State) (kind shape : Nat) : State :=
  let l := s.lan
  if !l.arrayAck || !l.arrayReq then
    s.onLan fun l => { l with
      blk := .transition, act := .railArrayUp kind (if shape = 0 then 0 else 3) l.blk.code, arrayReq := true, startFrom := l.aonTime }
  else if !l.logicAck || !l.logicReq then
    s.onLan fun l => { l with
      blk := .transition, act := .railLogicUp kind shape l.blk.code, logicReq := true, startFrom := l.aonTime }
  else startOf s kind shape

/-- A start fails (13 R487 to R489, R491): counted and logged; the Lantern waits for a retry or enters RECOVERY. -/
def failStart (s : State) (cause : Nat) : State :=
  let n := satAdd s.lan.failed 1 15
  let s := lanLog (s.onLan fun l => { l with
    failed := n, causeFail := cause, startTimer := false, optLoading := false, domWait := [] }) 0xF001 (s.lan.kind + 16 * cause)
  if 3 ≤ n ∨ s.lan.fromRecovery then
    lanLog (s.onLan fun l => { l with blk := .recovery, act := .idle, iso := true, fromRecovery := false, retried := false })
      0xF005 (16 * cause)
  else s.onLan fun l => { l with act := .retryWait }

/-- A step requests the release of a domain: one whose clock is not stable stays in reset, and the step waits (13 R478). -/
def needDomain (s : State) (d : Nat) : State :=
  if s.lan.rootOk then s
  else
    let s := s.onLan fun l => { l with
      domWait := [d], domainNr := d, domainCount := satAdd l.domainCount 1 65535, notReady := true }
    raiseBy (lanLog s 0x0C01 d) .lantern 0x0C01 0 0 d

/-- The option loader begins an attempt at word 0 (13 R483, R484). -/
def beginLoad (s : State) (tries : Nat) : State :=
  s.onLan fun l => { l with optLoading := true, optNext := 0, optTries := tries }

/-- An attempt of the option load fails; the third fails the start (13 R484). -/
def loadFailed (s : State) (crc : Bool) : State :=
  let s := s.onLan fun l => { l with optCrcFail := l.optCrcFail || crc, optBusErr := l.optBusErr || !crc }
  if 3 ≤ s.lan.optTries then failStart s 2 else beginLoad s (s.lan.optTries + 1)

/-- Whether word 0 of the committed option words names this format and configuration (16 R579). -/
def optionsOurs (s : State) : Bool :=
  let w := getN s.lan.opt 0
  w.field 15 0 == 1 && w.field 17 16 == s.variant.code

/-- The attempt has read all 64 words: the CRC decides (13 R483). -/
def loadOver (s : State) : State :=
  let ws := s.lan.optStg
  if crc32c ((ws.take 63).flatMap fun w => leBytes 4 w.toNat) ≠ (getN ws 63).toNat then loadFailed s true
  else
    let s := s.onLan fun l => { l with opt := l.optStg, optValid := true, optLoading := false }
    if optionsOurs s then s else failStart s 2

/-- STORE, MACRO, LINE and WORD of a listed word. -/
def wordPlace (key : Nat) : Nat × Nat × Nat × Nat :=
  let k := key / 16
  (k / 524288, k / 1024 % 512, k % 1024, key % 16)

/-- The retention check of a RETAIN wake or clock-loss start (12 R450, 13 Table 13.4): corrections are counted and written back (R440). -/
def retentionCheck (s : State) : State :=
  let s := (s.mem.words.filter fun w => w.2.err == 1).foldl (fun s w =>
    let x := wordPlace w.1
    putWhole (foundCe s x.1 x.2.1 x.2.2.1 x.2.2.2 (Src.lantern.number s.variant)) w.1 w.2.value) s
  s.onMem fun m => { m with checked := true, clearUe := min (m.words.filter fun w => w.2.err == 2).length 65535 }

/-- The words that the retention check found uncorrectable are reported (12 R441, R450). -/
def reportUes (s : State) : State :=
  if !s.mem.checked then s
  else (s.mem.words.filter fun w => w.2.err == 2).foldl (fun s w =>
    let x := wordPlace w.1
    foundUe s x.1 x.2.1 x.2.2.1 x.2.2.2 (Src.lantern.number s.variant)) s

/-- Every staged record and configuration entry is written to its ring (13 R493). -/
def writeStaged (s : State) : State :=
  (List.range 64).foldl (fun s o => writeLines (writeLines s o false true) o true true) s

/-- A stream that a start finds open is SUSPENDED, with its state before kept (13 R482, 14 R526, R527). -/
def suspendByStart (x : Stream) : Stream :=
  if x.st == .suspended then { x with inner := some (x.inner.getD (x.cause, x.prior)), cause := .byStart, prior := .suspended }
  else { x with st := .suspended, prior := x.st, cause := .byStart, susTag := contextTag x }

/-- A TARGET write that was latched during the transition acts (13 R500). -/
def Lan.takeTarget (l : Lan) : Lan :=
  match l.targetLatched with
  | none => l
  | some t =>
    let l := { l with targetLatched := none }
    match l.blk, t with
    | .ready, 1 => { l with blk := .transition, act := .entry 1 }
    | .ready, 2 => { l with blk := .transition, act := .entry 2 }
    | .retain, 0 => { l with blk := .transition, act := .railLogicUp 9 2 3, logicReq := true, startFrom := l.aonTime }
    | .retain, 2 => { l with blk := .transition, act := .railArrayDown 3, arrayReq := false }
    | .off, 0 => { l with blk := .transition, act := .railArrayUp 10 3 4, arrayReq := true, startFrom := l.aonTime }
    | _, _ => l

/-- The block is READY (13 Table 13.4 step 8, R490, 16 Table 16.9). -/
def reachReady (s : State) : State :=
  let s := s.onCtx fun c => { c with streams := c.streams.map suspendByStart }
  let s := s.onLan fun l => { l with
    blk := .ready, act := .idle, step := 8, failed := 0, iso := false, startTimer := false, retried := false
    fromRecovery := false, startTime := wrap32 (l.aonTime - l.startFrom), wdogEn := false, wdogPeriod := 0 }
  let s := reportUes (raiseBy s .lantern 0x0C02 0 0 (s.lan.kind + 65536 * (s.lan.starts % 65536)))
  s.onLan Lan.takeTarget

/-- Step n of the start completes (13 Table 13.4). -/
def finishStep (s : State) (n : Nat) (failed : List Nat) : State :=
  let cold := s.lan.isCold
  let done := fun s : State => s.onLan fun l => { l with step := n }
  match n with
  | 2 =>
    let s := s.onLan fun l => { l with step := 2, cause := l.kind, startTimer := true }
    if cold then beginLoad (s.onLan fun l => { l with optCrcFail := false, optBusErr := false }) 1 else s
  | 3 =>
    if s.lan.optLoading then s
    else if !optionsOurs s then failStart s 2
    else if s.lan.shape = 1 then done s else needDomain (done s) 325
  | 4 =>
    if cold then done (s.onMem fun m => { m with words := [], tags := [], cleared := true })
    else if s.lan.shape = 2 then done (retentionCheck s)
    else done s
  | 5 =>
    if s.lan.shape = 1 then writeStaged (needDomain (done s) 325)
    else if clusterShort s failed then failStart s 3
    else writeStaged (done (repair s failed))
  | 6 =>
    let out := fun r : FabReq => match r.who with | .ringLine _ _ _ _ => true | _ => false
    if s.fab.stores.any out || s.fab.waiting.any out then s else done s
  | 8 => reachReady s
  | _ => done s

/-- A step of the start sequence completes, unless it waits for a domain. -/
def stepDone (s : State) (failed : List Nat) : State :=
  if s.lan.blk != .starting || s.lan.act != .start || !s.lan.domWait.isEmpty || decide (8 ≤ s.lan.step) then s
  else finishStep s (s.lan.step + 1) failed

/-! ## Sources of a reset -/

/-- A warm source (BLK_RST_N, SW_WARM, the block watchdog): the block quiesces first (13 R492); a start in progress restarts
(R474); an entry sequence is abandoned; in RETAIN, OFF and PF_HOLD it has no effect (R500, R503). -/
def warmSource (s : State) (kind : Nat) : State :=
  let quiet := fun s : State => s.onLan fun l => { l with
    blk := .transition, act := .quiesce, warmNext := kind, startFrom := l.aonTime }
  match s.lan.blk with
  | .ready => quiet s
  | .starting => if s.lan.act == .start || s.lan.act == .retryWait then restart s else s
  | .recovery => if kind = 4 then warmStart (s.onLan fun l => { l with fromRecovery := true }) 4 1 else s
  | .transition => match s.lan.act with
    | .entry _ => quiet s
    | .railLogicDown _ => s.onLan fun l => { l with act := .railLogicUp kind 1 6, logicReq := true, startFrom := l.aonTime }
    | .railArrayDown _ => s.onLan fun l => { l with act := .railArrayUp kind 3 6, arrayReq := true, startFrom := l.aonTime }
    | _ => s
  | _ => s

/-- Commits and issued writes are done, the others are abandoned and counted; the reset is asserted (13 R492). -/
def quiesced (s : State) : State :=
  let n := s.lan.warmNext
  let from_ := s.lan.startFrom
  let lost := min s.fab.stores.length 255
  (warmStart (s.onLan fun l => { l with writesLost := lost }) n 1).onLan fun l => { l with startFrom := from_ }

/-- A software cold reset (13 R472, R474, R500). -/
def swCold (s : State) : State :=
  let l := s.lan
  if l.inStart && decide (2 ≤ l.reach) then restart s
  else powerUp (if l.blk == .recovery then s.onLan fun l => { l with fromRecovery := true } else s) 2 0

/-- CK_ROOT_OK falls: a start of kind clock-loss follows its rise (13 R471); a start in progress keeps its kind (R474). -/
def clockFall (s : State) : State :=
  let s := s.onLan fun l => { l with rootOk := false }
  let wait := fun (s : State) (fresh : Bool) => s.onLan fun l => { l with
    act := .clockLoss fresh, blk := .starting, step := 0, iso := true, startTimer := false, optLoading := false, domWait := [] }
  let lose := fun (s : State) (kind shape : Nat) => wait ((warmUnits s).onLan fun l => { l with kind := kind, shape := shape }) true
  match s.lan.blk with
  | .ready => lose s 6 2
  | .starting => if s.lan.act == .start || s.lan.act == .retryWait then wait s false else s
  | .transition => match s.lan.act with
    | .quiesce => lose s s.lan.warmNext 1
    | .entry _ => lose s 6 2
    | .emergency => lose s 6 2
    | _ => s
  | _ => s

/-- CK_ROOT_OK rises: what waited for it goes on (13 R471, R498). -/
def clockRise (s : State) : State :=
  let s := s.onLan fun l => { l with rootOk := true }
  match s.lan.act with
  | .clockLoss fresh => if fresh then warmStart s s.lan.kind s.lan.shape else restart s
  | .railLogicUp k sh left => if s.lan.logicAck then wake s k sh left else s
  | _ => s

/-! ## Power states -/

/-- A write of TARGET (13 R497, R498, R500); 0x3 writes the current value. -/
def writeTarget (s : State) (t : Nat) : State :=
  if t = 3 ∨ s.lan.blk = .pfHold then s
  else
    let s := s.onLan fun l => { l with target := t }
    match s.lan.blk with
    | .recovery => s
    | _ => (s.onLan fun l => { l with targetLatched := some t }).onLan fun l =>
      if l.blk == .ready || l.blk == .retain || l.blk == .off then l.takeTarget else l

/-- Whether a step whose STEP_ISSUED has arrived has neither committed nor failed (13 R497). -/
def stepsRun (s : State) : Bool :=
  (s.fin.units.any fun u => u.deadline && u.st != .failed) || s.ctx.streams.any fun x => !x.held.isEmpty

/-- The entry sequence goes on: partly filled lines are written, writes complete, then the block is isolated and gated and the
rail is requested off (13 R497). What PD_LOGIC held is lost; the stores, and with them the streams, go with PD_ARRAY (R499, R500). -/
def entryOver (s : State) (t : Nat) : State :=
  if stepsRun s then s
  else
    let s := writeStaged s
    if !s.fab.stores.isEmpty || !s.fab.waiting.isEmpty then s
    else
      (warmUnits s).onLan fun l => { l with act := .railLogicDown t, iso := true, logicReq := false }

/-- A rail acknowledgement that the N2 waits for (15 R561). -/
def railAck (s : State) (array level : Bool) : State :=
  match s.lan.act, array, level with
  | .railLogicDown t, false, false =>
    if t = 2 then s.onLan fun l => { l with logicAck := false, act := .railArrayDown 1, arrayReq := false }
    else (logPower (s.onLan fun l => { l with logicAck := false, blk := .retain, act := .idle }) 1 3).onLan Lan.takeTarget
  | .railArrayDown left, true, false =>
    let n := min s.ctx.streams.length 65535
    let s := (coldUnits s).onLan fun l => { l with
      arrayAck := false, blk := .off, act := .idle, discarded := n }
    (logPower s left 4).onLan Lan.takeTarget
  | .railArrayUp k sh left, true, true =>
    s.onLan fun l => { l with arrayAck := true, act := .railLogicUp k sh left, logicReq := true }
  | .railLogicUp k sh left, false, true =>
    let s := s.onLan fun l => { l with logicAck := true }
    if s.lan.rootOk then wake s k sh left else s
  | _, _, _ => s

/-! ## Power-fail warning (13 R501 to R503) -/

/-- A stream whose last committed boundary an emergency checkpoint writes. -/
def canSave (s : State) (x : Stream) : Bool :=
  (s.key? x.owner).isSome && (ckptSlot s x (x.ckptSerial + 1)).isSome && !x.lost && !x.restoring

/-- The emergency checkpoint: uncommitted results go, staged lines and checkpoints are written (13 R501). -/
def emergency (s : State) : State :=
  let s := s.onFin fun f => { f with units := [], maskQueue := [], maskGiven := [] }
  let s := s.onStp fun p => { p with trees := [], waiting := [] }
  let s := s.onCtx fun c => { c with streams := c.streams.map fun x => { x with svc := .none, held := [], pagesResv := 0, endDue := 0 } }
  let s := writeStaged s
  let save := s.ctx.streams.filter (canSave s)
  let skip := (s.ctx.streams.filter fun x => (s.key? x.owner).isNone || (ckptSlot s x 0).isNone).length
  let s := s.onLan fun l => { l with
    blk := .transition, act := .emergency, pfFrom := l.aonTime, pfSkip := skip % 65536, pfNoCkpt := false }
  save.foldl takeCkpt s

/-- PF_HOLD begins; the log says whether a checkpoint was taken (16 Table 16.10). -/
def enterHold (s : State) (taken : Bool) (n : Nat) : State :=
  lanLog (s.onLan fun l => { l with
    blk := .pfHold, act := .idle, iso := true, startTimer := false, optLoading := false, domWait := [] }) 0xF004 (b2n taken + 65536 * n)

/-- PF_WARN_N acts (13 R501, R502). -/
def pfWarn (s : State) : State :=
  let s := s.onLan fun l => { l with pf := true }
  let none_ := fun s : State => s.onLan fun l => { l with pfNoCkpt := true }
  match s.lan.blk with
  | .ready => emergency s
  | .starting => enterHold (none_ s) false 0
  | .transition => if s.lan.act == .emergency then s else enterHold (none_ s) false 0
  | .retain => lanLog (none_ s) 0xF004 0
  | .off => lanLog (none_ s) 0xF004 0
  | _ => s

/-- The emergency checkpoint's writes are complete (13 R501 steps 4 and 5). -/
def emergencyOver (s : State) : State :=
  if s.lan.act != .emergency || !s.fab.stores.isEmpty || !s.fab.waiting.isEmpty then s
  else
    let n := (s.ctx.streams.filter fun x => canSave s x && !x.ckptDue).length % 65536
    enterHold (s.onLan fun l => { l with pfCkpt := n, pfTime := wrap32 (l.aonTime - l.pfFrom) }) true n

/-! ## Fence-off and local resets -/

/-- LTN_FENCE (14 R530). -/
def fenceOff (s : State) : State :=
  if s.lan.fenced then s else answerAll (lanLog (s.onLan fun l => { l with fenced := true }) 0xF006 0)

/-- A turret's local reset (13 Table 13.6): QUARANTINED and SPARE stay, local memory is zero. -/
def resetTurret (s : State) (p : Nat) : State :=
  let t := s.turret p
  if !s.stepping then s
  else if decide (s.tur.ts.length ≤ p) || !(t.quarantined || t.spare) then s.onLan fun l => { l with localRefused := true }
  else turretReset s p

/-- An ingress port's local reset: the shard in progress is dropped with its sub-lane state, up to the next header. -/
def resetIngress (s : State) (p : Nat) : State :=
  if !s.stepping || decide (s.variant.ports ≤ p) then s
  else
    let cut := fun u : SelUnit => { u with sources := u.sources.filter fun r => r.peer || r.port != p || r.whole }
    let s := s.onFin fun f => { f with units := f.units.map cut }
    holdDomain (s.onPort p fun _ => { drop := true }) (272 + p)

/-- A fabric port's local reset; while the block is fenced nothing is outstanding. -/
def resetFabric (s : State) (p : Nat) : State :=
  if !s.stepping || decide (s.variant.fabricPorts ≤ p) then s else fabricPortReset s p

/-! ## The block watchdog (13 R475) -/

/-- LTN_WDOG_CTL. -/
def writeWdog (s : State) (v : Word) : State :=
  let period := v.field 31 16
  if s.lan.wdogEn || (v.bit 0 && period == 0) then s
  else s.onLan fun l => { l with wdogEn := v.bit 0, wdogPeriod := period, wdogStart := l.aonTime }

/-- LTN_WDOG_KICK. -/
def kickWdog (s : State) (v : Word) : State :=
  if v = 0x4B1C then s.onLan fun l => { l with wdogStart := l.aonTime } else s

/-! ## Meanings: resets -/

/-- SW_COLD (13 R472). -/
def execSwCold (s : State) : Host.Outcome State Fault Refusal := finish s (lanWrite s swCold)

/-- SW_WARM (13 R472, R492). -/
def execSwWarm (s : State) : Host.Outcome State Fault Refusal := finish s (lanWrite s fun s => warmSource s 4)

/-- LTN_WDOG_CTL_WRITE (13 R475). -/
def execLtnWdogCtlWrite (value : Word) (s : State) : Host.Outcome State Fault Refusal :=
  finish s (lanWrite s fun s => writeWdog s value)

/-- LTN_WDOG_KICK (13 R475). -/
def execLtnWdogKick (value : Word) (s : State) : Host.Outcome State Fault Refusal :=
  finish s (lanWrite s fun s => kickWdog s value)

/-- BLOCK_WATCHDOG_EXPIRE (13 R475): it counts while ENABLE is 1 and the block is READY. -/
def execBlockWatchdogExpire (s : State) : Host.Outcome State Fault Refusal :=
  finish s (if s.lan.wdogEn && s.ready then warmSource s 5 else s)

/-- LTN_KEY_ZERO (12 R462). -/
def execLtnKeyZero (value : Word) (s : State) : Host.Outcome State Fault Refusal :=
  finish s (lanWrite s fun s => if value = 0x5A then zeroise s 0 else s)

/-- LTN_FENCE (14 R530). -/
def execLtnFence (value : Word) (s : State) : Host.Outcome State Fault Refusal :=
  finish s (lanWrite s fun s => if value = 0xFE4C then fenceOff s else s)

/-- PWR_TARGET_ON (13 R498). -/
def execPwrTargetOn (s : State) : Host.Outcome State Fault Refusal := finish s (lanWrite s fun s => writeTarget s 0)

/-- PWR_TARGET_RETAIN (13 R497). -/
def execPwrTargetRetain (s : State) : Host.Outcome State Fault Refusal := finish s (lanWrite s fun s => writeTarget s 1)

/-- PWR_TARGET_OFF (13 R497). -/
def execPwrTargetOff (s : State) : Host.Outcome State Fault Refusal := finish s (lanWrite s fun s => writeTarget s 2)

/-- POWER_ENTRY_QUIESCED (13 R497 steps 1 to 5). -/
def execPowerEntryQuiesced (s : State) : Host.Outcome State Fault Refusal :=
  finish s (match s.lan.blk, s.lan.act with
    | .transition, .entry t => entryOver s t
    | _, _ => s)

/-- POWER_RAIL_ACK (15 R561). -/
def execPowerRailAck (array level : Bool) (s : State) : Host.Outcome State Fault Refusal :=
  finish s (alive s fun s => railAck s array level)

/-- LOCAL_RESET_TURRET (13 R495). -/
def execLocalResetTurret (index : Nat) (s : State) : Host.Outcome State Fault Refusal :=
  finish s (lanWrite s fun s => resetTurret s index)

/-- LOCAL_RESET_INGRESS_PORT (13 R495). -/
def execLocalResetIngressPort (index : Nat) (s : State) : Host.Outcome State Fault Refusal :=
  finish s (lanWrite s fun s => resetIngress s index)

/-- LOCAL_RESET_FABRIC_PORT (13 R495). -/
def execLocalResetFabricPort (index : Nat) (s : State) : Host.Outcome State Fault Refusal :=
  finish s (lanWrite s fun s => resetFabric s index)

/-- POWER_ON_ASSERT (13 R472). -/
def execPowerOnAssert (s : State) : Host.Outcome State Fault Refusal :=
  finish s { coldUnits s with lan := s.lan.dead, cry := {} }

/-- POWER_ON_RELEASE (13 R473, 14 R531). -/
def execPowerOnRelease (s : State) : Host.Outcome State Fault Refusal :=
  finish s (if s.lan.pwrLow then startNow (s.onLan fun l => { l with pwrLow := false }) 1 0 else s)

/-- BLK_RST_ASSERT (13 R473, R492). -/
def execBlkRstAssert (s : State) : Host.Outcome State Fault Refusal :=
  finish s (let t := s.onLan fun l => { l with blkLow := true }
    alive t fun t => warmSource t 3)

/-- BLK_RST_RELEASE (13 R473): a reset that the input held lets its start begin. -/
def execBlkRstRelease (s : State) : Host.Outcome State Fault Refusal :=
  finish s (let t := s.onLan fun l => { l with blkLow := false }
    alive t fun t => if t.lan.blk == .starting && t.lan.act == .held
      then t.onLan fun l => { l with act := .start, startFrom := l.aonTime } else t)

/-- WARM_QUIESCE_DONE (13 R492). -/
def execWarmQuiesceDone (s : State) : Host.Outcome State Fault Refusal :=
  finish s (if s.lan.blk == .transition && s.lan.act == .quiesce then quiesced s else s)

/-- CK_ROOT_OK_FALL (13 R471). -/
def execCkRootOkFall (s : State) : Host.Outcome State Fault Refusal := finish s (clockFall s)

/-- CK_ROOT_OK_RISE (13 R471). -/
def execCkRootOkRise (s : State) : Host.Outcome State Fault Refusal := finish s (clockRise s)

/-- DOMAIN_RESET_RELEASE (13 R477, R478). -/
def execDomainResetRelease (domain : Nat) (s : State) : Host.Outcome State Fault Refusal :=
  finish s (if s.lan.rootOk then s.onLan fun l => { l with
    domWait := l.domWait.filter (· != domain), domReset := l.domReset.filter (· != domain) } else s)

/-- START_STEP_DONE (13 R479). -/
def execStartStepDone (failedTurrets : List Nat) (s : State) : Host.Outcome State Fault Refusal :=
  finish s (alive s fun s => stepDone s failedTurrets)

/-- OPTION_WORD_RESPONSE (15 R559, 13 R483, R484). -/
def execOptionWordResponse (err : Bool) (data : Word) (s : State) : Host.Outcome State Fault Refusal :=
  finish s (if !s.lan.optLoading || s.lan.act != .start then s
    else if err then loadFailed s false
    else
      let s := s.onLan fun l => { l with optStg := setAt l.optStg l.optNext data, optNext := l.optNext + 1 }
      if s.lan.optNext < 64 then s else loadOver s)

/-- OPTION_BUS_TIMEOUT (15 R559): a bus error. -/
def execOptionBusTimeout (s : State) : Host.Outcome State Fault Refusal :=
  finish s (if s.lan.optLoading && s.lan.act == .start then loadFailed s false else s)

/-- START_TIMER_EXPIRE (13 R487). -/
def execStartTimerExpire (s : State) : Host.Outcome State Fault Refusal :=
  finish s (if s.lan.startTimer && s.lan.blk == .starting then failStart s 1 else s)

/-- START_RETRY (13 R488): the first retry after a failed start that was not cold is of its kind, every other a software cold
start. -/
def execStartRetry (s : State) : Host.Outcome State Fault Refusal :=
  finish s (if s.lan.blk == .starting && s.lan.act == .retryWait then
    if s.lan.isCold || s.lan.retried then coldStart s 8
    else warmStart (s.onLan fun l => { l with retried := true }) 8 s.lan.shape
  else s)

/-- PF_WARN (13 R501, R502). -/
def execPfWarn (s : State) : Host.Outcome State Fault Refusal := finish s (alive s pfWarn)

/-- EMERGENCY_CKPT_DONE (13 R501). -/
def execEmergencyCkptDone (s : State) : Host.Outcome State Fault Refusal := finish s (emergencyOver s)

/-- PF_WARN_RELEASE (13 R503). -/
def execPfWarnRelease (s : State) : Host.Outcome State Fault Refusal :=
  finish s (s.onLan fun l => { l with pf := false })

/-- PF_HOLD_EXPIRE (13 R503): a warm start with cause PF recovery, without a quiesce. -/
def execPfHoldExpire (s : State) : Host.Outcome State Fault Refusal :=
  finish s (if s.lan.blk == .pfHold && !s.lan.pf then powerUp s 7 1 else s)

end Sys2Proof.Machine
end

