-- ==== Sys2Proof/Machine/RegRead.lean ====
section
/-! DEFINITION. What a read of each register of the 1 MiB window returns (16 Table 16.1 and the tables it names), the Lantern
range first, and the snapshot bank (14 R536). -/

namespace Sys2Proof.Machine

/-- Bit i of the result is p i, for 32 values from `first`. -/
def bitsFrom (first : Nat) (p : Nat → Bool) : Nat := ((List.range 32).map fun i => b2n (p (first + i)) * 2 ^ i).sum

/-- The low or the high 32 bits of a number. -/
def half (n : Nat) (high : Bool) : Nat := if high then n / 4294967296 % 4294967296 else n % 4294967296

/-- A 16-bit field at a place. -/
def at16 (n : Nat) : Nat := n % 65536 * 65536

/-- STATE of a slot, automaton or program (03 Table 3.8, 16 R577). -/
def ItemState.code : ItemState → Nat
  | .empty => 0
  | .loading => 1
  | .loaded => 2
  | .dropping => 3
  | .faulted => 3

/-- Whether an item's image is in force. -/
def ItemState.shown (x : ItemState) : Bool := 2 ≤ x.code

/-! ## Lantern (16 Table 16.2 to 16.5, 13 Table 13.9, 14 Table 14.12) -/

/-- LTN_CONFIG (16 Table 16.4). -/
def configWord (s : State) : Nat :=
  s.variant.code + 16 * s.variant.clusters + 512 * s.variant.ports + 65536 * s.variant.slots + 1048576 * s.variant.fabricPorts +
    8388608 * b2n s.hasPeer

/-- LTN_STATE (13 Table 13.10). -/
def stateWord (l : Lan) : Nat := l.blk.code + 16 * l.step + 256 * l.failed + 4096 * b2n l.notReady + 8192 * b2n l.optValid

/-- TRANSITION of LTN_PWR_STAT (15 R561). -/
def Lan.inTransition (l : Lan) : Bool :=
  match l.act with
  | .entry _ => true
  | .railLogicDown _ => true
  | .railArrayDown _ => true
  | .railArrayUp _ _ _ => true
  | .railLogicUp _ _ _ => true
  | _ => false

/-- LTN_PWR_STAT. -/
def pwrStat (l : Lan) : Nat :=
  b2n l.logicAck + 2 * b2n l.arrayAck + 4 * b2n l.iso + 8 * b2n l.rootOk + 16 * b2n l.pf + 32 * b2n l.pfNoCkpt +
    64 * b2n l.inTransition + at16 l.discarded

/-- A word of a Lantern log entry (14 R531). -/
def logWord (e : LogEntry) (w : Nat) : Nat :=
  match w with
  | 0 => e.code
  | 1 => e.detail % 4294967296
  | 2 => half e.time false
  | _ => half e.time true

/-- A Lantern register. -/
def lanRead (s : State) (o : Nat) : Nat :=
  let l := s.lan
  if 0x400 ≤ o then (if o < 0x800 then logWord (getN l.log ((o - 0x400) / 16)) (o % 16 / 4) else 0)
  else if 0x300 ≤ o then (getN l.optStg ((o - 0x300) / 4)).toNat
  else if 0x200 ≤ o then (getN l.opt ((o - 0x200) / 4)).toNat
  else match o with
  | 0x000 => 0x14E327AB
  | 0x004 => configWord s
  | 0x008 => s.variant.streams
  | 0x00C => s.variant.physTurrets + 65536 * s.variant.activeTurrets
  | 0x010 => s.variant.sramKiB
  | 0x100 => stateWord l
  | 0x104 => l.cause + 16 * l.causeFail + 256 * l.writesLost
  | 0x10C => b2n l.wdogEn + at16 l.wdogPeriod
  | 0x114 => l.target
  | 0x118 => pwrStat l
  | 0x11C => l.pfCkpt + at16 l.pfSkip
  | 0x120 => l.pfTime
  | 0x124 => l.startTime
  | 0x128 => l.domainNr + at16 l.domainCount
  | 0x130 => b2n (!l.domReset.isEmpty) + 2 * b2n l.localRefused
  | 0x134 => b2n l.optValid + 2 * b2n l.optCrcFail + 4 * b2n l.optBusErr + 8 * l.optTries
  | 0x144 => b2n l.fenced
  | 0x148 => l.logNext + 64 * b2n l.logWrapped + at16 l.starts
  | 0x14C => half l.aonTime false
  | 0x150 => half l.aonTime true
  | 0x160 => l.ckTokens.v
  | 0x164 => l.ckMs.v
  | 0x168 => l.ckTokens.stg
  | 0x16C => l.ckMs.stg
  | 0x170 => l.ringWdog.v
  | 0x174 => l.idleTmo.v
  | 0x178 => l.deadline.v
  | 0x17C => l.turWdog.v
  | 0x180 => l.ringWdog.stg
  | 0x184 => l.idleTmo.stg
  | 0x188 => l.deadline.stg
  | 0x18C => l.turWdog.stg
  | _ => 0

/-! ## Ring Unit (02 Table 2.1 to 2.4, 16 Table 16.6) -/

/-- RING_CCTL. -/
def cctlWord (r : CmdRing) : Nat :=
  b2n r.enable + 2 * b2n r.fmtB + 4 * b2n r.priv + 16 * r.weight + 256 * r.sizeLog + 65536 * r.owner + 16777216 * r.cq

/-- RING_CSTAT. -/
def cstatWord (s : State) (n : Nat) : Nat :=
  let r := s.ring n
  b2n (inFlight s n == 0) + 2 * b2n r.fetchErr + 4 * b2n r.tailRange + 8 * b2n r.enRefused + 65536 * inFlight s n

/-- RING_QCTL. -/
def qctlWord (q : CplRing) : Nat := b2n q.enable + 2 * b2n q.fmtB + 16 * q.irqLine + 256 * q.sizeLog + 65536 * b2n q.full

/-- An error bit of a command ring is set. -/
def CmdRing.bad (r : CmdRing) : Bool := r.fetchErr || r.tailRange || r.enRefused

/-- A Ring Unit register. -/
def ringRead (s : State) (o : Nat) : Nat :=
  if o < 0x1800 then
    let n := (o - 0x1000) / 0x20
    let r := s.ring n
    match o % 0x20 with
    | 0x00 => half r.base false
    | 0x04 => half r.base true
    | 0x08 => cctlWord r
    | 0x0C => r.tail
    | 0x10 => r.head
    | 0x14 => cstatWord s n
    | _ => 0
  else if o < 0x1C00 then
    let q := s.cqr ((o - 0x1800) / 0x10)
    match o % 0x10 with
    | 0x0 => half q.base false
    | 0x4 => half q.base true
    | 0x8 => qctlWord q
    | _ => q.head
  else match o with
  | 0x1C00 => bitsFrom 0 fun n => (s.ring n).enable
  | 0x1C04 => bitsFrom 32 fun n => (s.ring n).enable
  | 0x1C08 => bitsFrom 0 fun m => (s.cqr m).enable
  | 0x1C0C => bitsFrom 32 fun m => (s.cqr m).enable
  | 0x1C10 => bitsFrom 0 fun n => (s.ring n).bad
  | 0x1C14 => bitsFrom 32 fun n => (s.ring n).bad
  | 0x1C18 => bitsFrom 0 fun m => (s.cqr m).full
  | 0x1C1C => bitsFrom 32 fun m => (s.cqr m).full
  | 0x1C20 => s.rng.dispatched
  | 0x1C24 => s.rng.completions
  | 0x1C28 => s.rng.clsNote + 256 * s.rng.clsRej + 65536 * s.rng.clsFail + 16777216 * s.rng.clsAbort
  | 0x1C2C => s.rng.lastErr
  | _ => 0

/-! ## Vocabulary Store (03 Table 3.7, 3.8) -/

/-- VOC_SLOT_STAT. -/
def slotStat (x : Slot) : Nat :=
  let v := x.img
  x.st.code + if x.st.shown then
    4 * b2n v.isV1 + 8 * b2n (v.byteBase != 0xFFFFFFFF) + 16 * b2n (v.mergeCount != 0) + 32 * b2n v.hasLm +
      64 * b2n (!v.cont.isEmpty) + 128 * v.eos.length
  else 0

/-- A register of the Vocabulary Store. VOC_SLOT_REFS has six bits for the automata of a slot; with all 64 loaded for one slot the
count takes the reserved bit 22, of which the spec says nothing (log entry 92). -/
def vocRead (s : State) (o : Nat) : Nat :=
  if o < 0x2100 then match o with
    | 0x2000 => freeEntries s
    | 0x2004 => freeVocBytes s
    | 0x2008 => s.variant.slots + 16 * s.variant.replicas
    | _ => 0
  else
    let n := (o - 0x2100) / 0x40
    let x := s.slot n
    if 0x2300 ≤ o ∨ s.variant.slots ≤ n then 0
    else match o % 0x40 with
    | 0x00 => slotStat x
    | 0x04 => if x.st.shown then x.img.v else 0
    | 0x08 => if x.st.shown then x.bytes else 0
    | 0x0C => if x.st.shown then x.img.byteBase else 0xFFFFFFFF
    | 0x10 => (s.ctx.streams.filter (·.slot == n)).length +
        65536 * (s.aut.auts.filter fun a => a.st.shown && a.slot == n).length
    | k => if 0x20 ≤ k then getLE x.img.digest (k - 0x20) 4 else 0

/-! ## Automaton Store and Cupola (06 Table 6.12, 6.13, 07 Table 7.17, 7.18) -/

/-- AUT_STAT. -/
def autStat (a : Automaton) : Nat :=
  a.st.code + 4 * b2n a.img.pushdown + 8 * b2n a.spilled + 16 * b2n a.shared + 32 * b2n a.eager + 256 * a.slot +
    4096 * a.owner + (if a.st.shown then 1048576 * a.img.maxConf else 0) + 16777216 * a.serial

/-- A register of an automaton's block. -/
def autBlock (s : State) (n k : Nat) : Nat :=
  let a := s.automaton n
  if a.st == .empty then 0
  else match k with
  | 0x00 => autStat a
  | 0x04 => a.img.states.length
  | 0x08 => a.transOn
  | 0x0C => a.img.transCount - a.transOn
  | 0x10 => a.img.recBytes
  | 0x14 => (s.ctx.streams.filter (·.aut == some n)).length
  | _ => 0

/-- Loaded slots that name a program as a default (07 Table 7.18). -/
def slotRefs (s : State) (id : Nat) : Nat :=
  (s.voc.slots.filter fun x => x.st == .loaded &&
    ((if x.img.defMr = 0xFF then romDefault 0 else x.img.defMr) == id ||
      (if x.img.defLm = 0xFF then romDefault 1 else x.img.defLm) == id ||
      (if x.img.defByte = 0xFF then romDefault 2 else x.img.defByte) == id)).length

/-- AUT_PROG_STAT of a program id. -/
def progStat (s : State) (id : Nat) : Nat :=
  let refs := 256 * slotRefs s id
  if id < 32 then
    refs + if id = 0 then 0x36 else if id < 3 then 0x16 else if 8 ≤ id ∧ id ≤ 16 then 0x0E else 0x04
  else match s.program? id with
    | none => refs
    | some p => refs + p.st.code + 16 + 32 * b2n p.cutAtMark

/-- A register of the Automaton Store. -/
def autRead (s : State) (o : Nat) : Nat :=
  let prog := s.program? s.aut.progSel
  if 0x3100 ≤ o ∧ o < 0x3900 then autBlock s ((o - 0x3100) / 0x20) (o % 0x20)
  else if 0x3020 ≤ o ∧ o < 0x3040 then
    let a := s.automaton s.aut.digestSel
    if a.st.shown then getLE a.img.digest (o - 0x3020) 4 else 0
  else if 0x3C10 ≤ o ∧ o < 0x3C30 then (prog.map fun p => getLE p.digest (o - 0x3C10) 4).getD 0
  else match o with
  | 0x3000 => freeTrans s
  | 0x3004 => freeRec s
  | 0x3008 => s.aut.spillReads
  | 0x300C => s.aut.eagerSkipped
  | 0x3010 => s.aut.evConf + 256 * s.aut.evStack + 65536 * s.aut.evDead
  | 0x301C => s.aut.digestSel
  | 0x3C00 => s.aut.progSel
  | 0x3C04 => progStat s s.aut.progSel
  | 0x3C08 => (prog.map (·.foot)).getD 0
  | 0x3C0C => (prog.map fun p => p.code.length).getD 0
  | _ => 0

/-- A register of the Cupola. -/
def cupRead (s : State) (o : Nat) : Nat :=
  match o with
  | 0x4000 => s.variant.cupolaBytes
  | 0x4004 => cupUsed s
  | 0x4008 => ((s.cup.entries.filter fun e => !e.pins.isEmpty).map (·.bytes)).sum
  | 0x400C => (s.cup.entries.filter fun e => !e.filling).length
  | 0x4010 => s.cup.hits
  | 0x4014 => s.cup.misses
  | 0x4018 => s.cup.evictions
  | 0x401C => s.cup.fillWaits
  | 0x4020 => s.cup.pressure
  | 0x4024 => bitsFrom 0 fun c => s.cup.longPiece.any (·.1 == c)
  | _ => 0

/-! ## Selectors, Finial, Steeple (08 Table 8.12, 8.13, 09 Table 9.6) -/

/-- A register of a selector's block. -/
def selRead (s : State) (p k : Nat) : Nat :=
  let q := s.port p
  if s.variant.ports ≤ p then 0
  else match k with
  | 0x00 => b2n q.enable
  | 0x04 => match q.cur with
    | some c => 1 + 2 * q.fmt + 65536 * c.1
    | none => 0
  | 0x08 => q.shards
  | 0x0C => q.values / 1024
  | 0x10 => q.padding / 1024
  | 0x14 => q.nans
  | 0x18 => q.stray
  | 0x1C => q.dropped
  | 0x20 => q.late
  | 0x24 => q.fault
  | 0x28 => q.faultInfo
  | 0x2C => q.faultStep
  | _ => 0

/-- Mask builds and tree attachments that wait for free units (08 R334): a tree needs NODES + 1 of them. -/
def unitWaits (s : State) : Nat :=
  (s.ctx.streams.filter (·.svc == .waitUnit)).length + (s.stp.waiting.filter fun w => decide (16384 < unitsOpen s + w.nodes + 1)).length

/-- A register of the Finial. -/
def finRead (s : State) (o : Nat) : Nat :=
  let f := s.fin
  if 0x8200 ≤ o ∧ o < 0x8280 then
    let p := getN f.part ((o - 0x8200) / 16)
    if s.variant.slots ≤ (o - 0x8200) / 16 || !s.hasPeer then 0
    else match o % 16 with
    | 0x0 => p.1 + 256 * p.2.1
    | 0x4 => p.2.2.1
    | 0x8 => p.2.2.2
    | _ => 0
  else if 0x8100 ≤ o then (if o < 0x8200 then getN f.resultCtl ((o - 0x8100) / 4) else 0)
  else match o with
  | 0x8000 => unitsOpen s + at16 (unitWaits s)
  | 0x8004 => pagesFree s
  | 0x8008 => (s.ctx.streams.map (·.pagesResv)).sum
  | 0x800C => f.lbWaits
  | 0x8010 => f.steps
  | 0x8014 => f.deep + 65536 * f.races
  | 0x8018 => f.evMirror + 256 * f.evDup + 65536 * f.evFail + 16777216 * f.evNoCand
  | 0x801C => f.late
  | 0x8020 => f.tieCut
  | 0x8024 => f.peerLists + 65536 * f.notices
  | 0x8028 => f.failLast
  | _ => 0

/-- A register of Steeple. -/
def stpRead (s : State) (o : Nat) : Nat :=
  let p := s.stp
  if 0x9040 ≤ o ∧ o < 0x9084 then getN p.hist ((o - 0x9040) / 4)
  else match o with
  | 0x9000 => s.variant.poolNodes - poolUsed s + 65536 * s.variant.poolNodes
  | 0x9004 => p.trees.length
  | 0x9008 => p.rounds
  | 0x900C => p.nodes
  | 0x9010 => p.accepted
  | 0x9014 => p.confirmed
  | 0x9018 => p.pruned
  | 0x901C => p.poolWaits
  | 0x9020 => p.failRoot + 65536 * p.failNode
  | 0x9024 => p.withdrawn
  | _ => 0

/-! ## Context, Record Writer, queues (10 Table 10.12, 10.13, 11 Table 11.3, 11.4, 14 Table 14.12) -/

/-- A register of the Context Store. -/
def ctxRead (s : State) (o : Nat) : Nat :=
  let c := s.ctx
  let w := s.owner c.ownerSel
  if 0xA004 ≤ o ∧ o < 0xA020 then (getN c.qLatch ((o - 0xA004) / 4)).toNat
  else match o with
  | 0xA020 => c.streams.length
  | 0xA024 => c.ownerSel
  | 0xA028 => w.epoch
  | 0xA02C => (c.streams.filter (·.owner == c.ownerSel)).length
  | 0xA030 => 2 ^ w.revoked.length - 1
  | 0xA034 => c.revokedSel
  | 0xA038 => (getN w.revoked c.revokedSel).1
  | 0xA03C => c.idleEvents
  | 0xA040 => half c.enumAddr false
  | 0xA044 => half c.enumAddr true
  | 0xA048 => c.enumLen
  | 0xA050 => b2n c.enumDone + 2 * b2n c.enumFull + 4 * b2n c.enumErr + 8 * c.enumCount
  | 0xA054 => c.recovered + 65536 * c.lost
  | _ => 0

/-- The places of a base and size register triple. -/
def areaRead (base log k : Nat) : Nat :=
  match k with
  | 0 => half base false
  | 4 => half base true
  | _ => log

/-- Whether a PACK is executing (10 R406). -/
def packing (s : State) : Bool := s.rng.cmds.any fun c => c.opcode == 0x38 && (c.phase == .executing || c.phase == .recorded)

/-- A register of the Record Writer and Packer. -/
def pkrRead (s : State) (o : Nat) : Nat :=
  let sel := s.pkr.ownerSel
  let p := s.ownPkr sel
  let waits := fun rec_ : Bool => s.ctx.streams.any fun x => x.owner == sel && x.record == rec_ && x.waitRing
  if 0xB008 ≤ o ∧ o < 0xB014 then areaRead p.recRing.base p.recRing.sizeLog (o - 0xB008)
  else if 0xB014 ≤ o ∧ o < 0xB020 then areaRead p.rplRing.base p.rplRing.sizeLog (o - 0xB014)
  else if 0xB020 ≤ o ∧ o < 0xB038 then getN p.stg ((o - 0xB020) / 4)
  else if 0xB0A0 ≤ o ∧ o < 0xB0AC then areaRead p.ckBase p.ckLog (o - 0xB0A0)
  else if 0xB0AC ≤ o ∧ o < 0xB0B8 then getN p.stg (6 + (o - 0xB0AC) / 4)
  else match o with
  | 0xB000 => sel
  | 0xB004 => b2n (waits true) + 2 * b2n (waits false) + 4 * b2n (packing s)
  | 0xB040 => half p.recRing.wseq false
  | 0xB044 => half p.recRing.wseq true
  | 0xB048 => half p.head false
  | 0xB04C => half p.head true
  | 0xB050 => half (ringFloor s sel false) false
  | 0xB054 => half (ringFloor s sel false) true
  | 0xB058 => half p.rplRing.wseq false
  | 0xB05C => half p.rplRing.wseq true
  | 0xB060 => half (ringFloor s sel true) false
  | 0xB064 => half (ringFloor s sel true) true
  | 0xB080 => s.pkr.records
  | 0xB084 => s.pkr.confEntries
  | 0xB088 => s.pkr.replays
  | 0xB08C => s.pkr.fullWaits
  | 0xB090 => s.pkr.revokeMarks
  | 0xB094 => s.pkr.mbs
  | 0xB098 => s.pkr.tokens / 1024
  | 0xB0B8 => p.ckpts
  | 0xB0BC => p.skips
  | _ => 0

/-- EQ_WM: the watermarks in force once a committed change is taken. -/
def wmWord (high low : Nat) : Nat := high + 65536 * low

/-- A register of a queue's block; EQ_DATA has a row of its own. -/
def queueRead (s : State) (n k : Nat) : Nat :=
  let q := s.queue n
  match k with
  | 0x00 => q.owner + 256 * b2n q.xoffEn
  | 0x04 => q.fill + 32768 * b2n q.xoff + 65536 * b2n (!q.waiters.isEmpty) + 131072 * b2n (q.partRead != 0)
  | 0x08 => match q.newWm with
    | some w => wmWord w.1 w.2
    | none => wmWord q.high q.low
  | 0x0C => wmWord q.highStg q.lowStg
  | 0x14 => (s.ctx.streams.filter (·.queue == n)).length
  | 0x18 => q.records
  | 0x1C => q.waits + 65536 * q.flushed
  | _ => 0

/-- A register of the egress queues. -/
def eqRead (s : State) (o : Nat) : Nat :=
  if o < 0xC800 then queueRead s ((o - 0xC000) / 0x20) (o % 0x20)
  else match o with
  | 0xC800 => bitsFrom 0 fun q => (s.queue q).xoff
  | 0xC804 => bitsFrom 32 fun q => (s.queue q).xoff
  | 0xC808 => bitsFrom 0 fun q => !(s.queue q).waiters.isEmpty
  | 0xC80C => bitsFrom 32 fun q => !(s.queue q).waiters.isEmpty
  | 0xC810 => s.eqs.ownerDrops
  | 0xC814 => s.eqs.drainErrors
  | 0xC818 => s.eqs.readLines
  | 0xC81C => s.eqs.idleReads
  | _ => 0

/-! ## Memory, Crypto, Belfry, turrets (12 Table 12.7 to 12.9, 14 Table 14.12, 07 Table 7.14 to 7.16) -/

/-- A register of the stores. -/
def memRead (s : State) (o : Nat) : Nat :=
  let m := s.mem
  if 0xD100 ≤ o ∧ o < 0xD118 then getN m.stalls ((o - 0xD100) / 4) / 16
  else match o with
  | 0xD000 => b2n m.marchEn + 16 * m.marchPeriod
  | 0xD004 => b2n m.marchEnStg + 16 * m.marchPeriodStg
  | 0xD008 => m.pos
  | 0xD00C => m.sweeps
  | 0xD010 => m.fails
  | 0xD014 => m.skips
  | 0xD018 => m.marchLast
  | 0xD01C => m.ce
  | 0xD020 => m.ue
  | 0xD024 => m.errLast
  | 0xD028 => m.collisions
  | 0xD02C => m.tagFaults
  | 0xD030 => m.tagLast
  | 0xD034 => m.starve
  | 0xD038 => b2n m.injArm + 2 * b2n m.injDouble + 4 * m.injStore
  | 0xD03C => b2n m.cleared + 2 * b2n m.checked + at16 m.clearUe
  | _ => 0

/-- A register of the Crypto Unit. -/
def cryRead (s : State) (o : Nat) : Nat :=
  let c := s.cry
  let fp := ((s.key? c.fpSel).map (·.fp)).getD 0
  match o with
  | 0xE000 => b2n c.dukSeen + 2 * b2n c.unwrap.isSome
  | 0xE004 => bitsFrom 0 fun n => (s.key? n).isSome
  | 0xE008 => bitsFrom 32 fun n => (s.key? n).isSome
  | 0xE00C => c.fpSel
  | 0xE010 => half fp false
  | 0xE014 => half fp true
  | 0xE018 => c.linesEnc / 1024
  | 0xE01C => c.linesDec / 1024
  | 0xE020 => c.keyFaults
  | 0xE024 => c.keyFaultLast
  | 0xE028 => c.zeroDrops
  | _ => 0

/-- The 32 bytes of an event record (14 R532). -/
def eventBytes (e : Event) : List Byte :=
  leBytes 2 e.code ++ leBytes 1 (e.code / 256) ++ [0] ++ leBytes 2 e.stream ++ [0, 0] ++ leBytes 4 e.step ++ leBytes 4 e.requester ++
    leBytes 8 e.time ++ leBytes 8 e.detail

/-- A word of the event record that BEL_LOG_SEL selects. -/
def logDataWord (b : Bel) (w : Nat) : Nat :=
  match b.log.find? (·.1 == b.sel) with
  | some e => getLE (eventBytes e.2) (4 * w) 4
  | none => 0

/-- BEL_ROUTE. -/
def routeWord (r : Route) : Nat := r.line + 16 * b2n r.enable + 32 * b2n r.msg

/-- A word of a line's message registers. -/
def msgWord (m : Nat × Word) (k : Nat) : Nat :=
  match k with
  | 0 => half m.1 false
  | 4 => half m.1 true
  | 8 => m.2.toNat
  | _ => 0

/-- A register of the Belfry. -/
def belRead (s : State) (o : Nat) : Nat :=
  let b := s.bel
  if 0xF020 ≤ o ∧ o < 0xF040 then logDataWord b ((o - 0xF020) / 4)
  else if 0xF040 ≤ o ∧ o < 0xF080 then routeWord (getN b.routes ((o - 0xF040) / 4))
  else if 0xF080 ≤ o ∧ o < 0xF0C0 then routeWord (getN b.routesStg ((o - 0xF080) / 4))
  else if 0xF100 ≤ o ∧ o < 0xF200 then msgWord (getN b.msgsStg ((o - 0xF100) / 16)) (o % 16)
  else if 0xF200 ≤ o ∧ o < 0xF300 then msgWord (getN b.msgs ((o - 0xF200) / 16)) (o % 16)
  else match o with
  | 0xF000 => b.pending
  | 0xF004 => b.count
  | 0xF008 => b.lost
  | 0xF00C => b.wr
  | 0xF010 => b.sel
  | 0xF014 => b.cqPending
  | _ => 0

/-- STATE of TUR_STAT (Table 7.15, 13 Table 13.1). -/
def turretCode (t : Turret) : Nat :=
  if t.gated || t.spare || t.quarantined then 0
  else match t.inv with
    | none => 1
    | some i => if i.cls = 1 then 2 else 3

/-- A register of a turret's block. -/
def turRead (s : State) (p k : Nat) : Nat :=
  let t := s.turret p
  let shown := if t.spare || t.quarantined then none else t.activeNo
  if s.variant.physTurrets ≤ p then 0
  else match k with
  | 0x00 => turretCode t + 4 * b2n t.spare + 8 * b2n t.quarantined + 16 * (p / 17) + 256 * shown.getD 0 +
      65536 * ((shown.map (homesOf s)).getD 0)
  | 0x04 => match t.inv with
    | some i => i.prog % 256 + 256 + 512 * i.cls + 4096 * (t.core.pc % 4096)
    | none => 0
  | 0x08 => t.instr
  | 0x0C => t.busy / 16
  | 0x10 => t.arbStall
  | 0x14 => t.steals3 + 65536 * t.steals4
  | 0x18 => t.switch
  | 0x1C => t.fault
  | 0x20 => t.faultCount
  | 0x24 => t.lane.length
  | _ => 0

/-! ## The window -/

/-- A register of a unit, from 0x0_1000 to 0x2_0FFF. -/
def unitRead (s : State) (o : Nat) : Nat :=
  if o < 0x1000 then 0
  else if o < 0x2000 then ringRead s o
  else if o < 0x3000 then vocRead s o
  else if o < 0x4000 then autRead s o
  else if o < 0x5000 then cupRead s o
  else if o < 0x7000 then selRead s ((o - 0x5000) / 0x100) (o % 0x100)
  else if o < 0x8000 then 0
  else if o < 0x9000 then finRead s o
  else if o < 0xA000 then stpRead s o
  else if o < 0xB000 then ctxRead s o
  else if o < 0xC000 then pkrRead s o
  else if o < 0xD000 then eqRead s o
  else if o < 0xE000 then memRead s o
  else if o < 0xF000 then cryRead s o
  else if o < 0x10000 then belRead s o
  else if o < 0x21000 then turRead s ((o - 0x10000) / 0x100) (o % 0x100)
  else 0

/-- Whether a unit's register is rw, wo or w1c, or EQ_DATA: the bank holds no copy of it (14 R535, R536). -/
def noCopy (o : Nat) : Bool :=
  (decide (0x1000 ≤ o) && decide (o < 0x1800) && decide (o % 0x20 < 0x10)) ||
    (decide (0x1800 ≤ o) && decide (o < 0x1C00)) || o == 0x301C || o == 0x3C00 ||
    (decide (0x5000 ≤ o) && decide (o < 0x7000) && (o % 0x100 == 0 || o % 0x100 == 0x24)) ||
    (decide (0x8100 ≤ o) && decide (o < 0x8280)) || o == 0xA024 || o == 0xA034 || (decide (0xA040 ≤ o) && decide (o < 0xA050)) ||
    o == 0xB000 || (decide (0xB020 ≤ o) && decide (o < 0xB038)) || o == 0xB048 || o == 0xB04C ||
    (decide (0xB0AC ≤ o) && decide (o < 0xB0B8)) ||
    (decide (0xC000 ≤ o) && decide (o < 0xC800) && (o % 0x20 == 0 || o % 0x20 == 0x0C || o % 0x20 == 0x10)) ||
    o == 0xD004 || o == 0xD038 || o == 0xE00C || o == 0xF000 || o == 0xF010 || o == 0xF014 ||
    (decide (0xF080 ≤ o) && decide (o < 0xF200))

/-- The units as the snapshot bank copied them. -/
def State.withBank (s : State) (b : Bank) : State :=
  { s with
    rng := b.rng, voc := b.voc, aut := b.aut, cup := b.cup, ctx := b.ctx, sel := b.sel, fin := b.fin, stp := b.stp, pkr := b.pkr
    eqs := b.eqs, job := b.job, mem := b.mem, cry := b.cry, bel := b.bel, tur := b.tur, lan := { s.lan with keys := b.keys } }

/-- A register of the snapshot bank (14 Table 14.12, R536). -/
def snpRead (s : State) (o : Nat) : Nat :=
  match o with
  | 0x40000 => b2n s.snp.valid
  | 0x40004 => s.snp.seq
  | 0x40008 => s.snp.time
  | _ => match s.snp.bank with
    | none => 0
    | some b => if o < 0x41000 ∨ 0x61000 ≤ o ∨ noCopy (o - 0x40000) then 0 else unitRead (s.withBank b) (o - 0x40000)

/-- What a read of an offset returns (16 R566); an offset that no table assigns reads 0 (15 R555). -/
def regRead (s : State) (o : Nat) : Word :=
  BitVec.ofNat 32 (if o < 0x1000 then lanRead s o else if o < 0x40000 then unitRead s o else snpRead s o)

/-! ## Level outputs -/

/-- INT_O[l]: a pending group routed to line l without a message, or a completion's interrupt (14 R533, 02 R76); 0 behind the clamps
(13 R489, R496, Table 13.5). -/
def intOut (s : State) (l : Nat) : Bool :=
  !s.lan.iso && (s.bel.cqPending.testBit l || (List.range s.bel.routes.length).any fun g =>
    let r := getN s.bel.routes g
    s.bel.pending.testBit g && r.enable && !r.msg && r.line == l)

/-- FC_XOFF[q] (11 R423); 1 behind the clamps (13 Table 13.5). -/
def fcXoff (s : State) (q : Nat) : Bool := s.lan.iso || (s.queue q).xoff

end Sys2Proof.Machine
end

