-- ==== Sys2Proof/Machine/RegWrite.lean ====
section
/-! DEFINITION. Writes of registers by their access codes (00 R17, R18), reads that clear a counter (R20, R587), CTX_QUERY and the
enumeration of suspended streams (10 R405, 14 R528), PKR_REC_HEAD (10 R399), BEL_LOG_DATA (14 R532). -/

namespace Sys2Proof.Machine

/-! ## Lantern -/

/-- LTN_SW_RESET: the two codes of 13 Table 13.3. -/
def writeSwReset (s : State) (v : Word) : State :=
  if v = 0xC01D0001 then swCold s else if v = 0x3A530002 then warmSource s 4 else s

/-- LTN_LOCAL_RESET: KIND and INDEX (13 Table 13.9). -/
def writeLocalReset (s : State) (v : Word) : State :=
  match v.field 11 9 with
  | 1 => resetTurret s (v.field 8 0)
  | 2 => resetIngress s (v.field 8 0)
  | 3 => resetFabric s (v.field 8 0)
  | _ => s

/-- A write in the Lantern range; the _STG registers are staging groups 1 and 3 (16 Table 16.5). -/
def lanRegWrite (s : State) (o : Nat) (v : Word) : State :=
  let g1 := fun f : Lan → Lan => s.onLan fun l => { f l with g1Written := true }
  let g3 := fun f : Lan → Lan => s.onLan fun l => { f l with g3Written := true }
  match o with
  | 0x108 => writeSwReset s v
  | 0x10C => writeWdog s v
  | 0x110 => kickWdog s v
  | 0x114 => writeTarget s (v.field 1 0)
  | 0x12C => writeLocalReset s v
  | 0x130 => if v.bit 1 then s.onLan fun l => { l with localRefused := false } else s
  | 0x140 => if v = 0xFE4C then fenceOff s else s
  | 0x154 => if v = 0x5A then zeroise s 0 else s
  | 0x168 => g1 fun l => { l with ckTokens := { l.ckTokens with stg := v.field 20 0 } }
  | 0x16C => g1 fun l => { l with ckMs := { l.ckMs with stg := v.field 15 0 } }
  | 0x180 => g3 fun l => { l with ringWdog := { l.ringWdog with stg := v.field 15 0 } }
  | 0x184 => g3 fun l => { l with idleTmo := { l.idleTmo with stg := v.field 11 0 } }
  | 0x188 => g3 fun l => { l with deadline := { l.deadline with stg := v.field 21 0 } }
  | 0x18C => g3 fun l => { l with turWdog := { l.turWdog with stg := v.field 24 0 } }
  | _ => s

/-! ## Units -/

/-- RING_CSTAT: the w1c bits (02 Table 2.3). -/
def writeCstat (s : State) (n : Nat) (v : Word) : State :=
  s.onRing n fun r => { r with
    fetchErr := r.fetchErr && !v.bit 1, tailRange := r.tailRange && !v.bit 2, enRefused := r.enRefused && !v.bit 3 }

/-- A base register of a ring, ignored while the ring is enabled (02 R59). -/
def writeCbase (s : State) (n : Nat) (high : Bool) (v : Word) : State :=
  s.onRing n fun r => if r.enable then r else { r with base := setBase r.base high v }

def writeQbase (s : State) (m : Nat) (high : Bool) (v : Word) : State :=
  s.onCq m fun q => if q.enable then q else { q with base := setBase q.base high v }

/-- The Ring Unit (02 Table 2.1). -/
def ringRegWrite (s : State) (o : Nat) (v : Word) : State :=
  if o < 0x1800 then
    let n := (o - 0x1000) / 0x20
    match o % 0x20 with
    | 0x00 => writeCbase s n false v
    | 0x04 => writeCbase s n true v
    | 0x08 => writeCctl s n v
    | 0x0C => writeCtail s n v
    | 0x14 => writeCstat s n v
    | _ => s
  else if o < 0x1C00 then
    let m := (o - 0x1800) / 0x10
    match o % 0x10 with
    | 0x0 => writeQbase s m false v
    | 0x4 => writeQbase s m true v
    | 0x8 => writeQctl s m v
    | 0xC => writeQhead s m v
    | _ => s
  else s

/-- Bits of a w1c register that a write leaves (00 Table 0.7). -/
def w1c (n : Nat) (v : Word) : Nat := bitDiff n v.toNat

/-- A selector's block (08 Table 8.12). -/
def selRegWrite (s : State) (p k : Nat) (v : Word) : State :=
  if s.variant.ports ≤ p then s
  else match k with
  | 0x00 => s.onPort p fun q => { q with enable := v.bit 0 }
  | 0x24 => s.onPort p fun q => { q with fault := w1c q.fault v }
  | _ => s

/-- Whether FIN_PART of a slot takes a write: not while an open stream is bound to it, nor without a peer merge port (08 R339). -/
def partOpen (s : State) (n : Nat) : Bool :=
  s.hasPeer && decide (n < s.variant.slots) && !(s.ctx.streams.any fun x => x.slot == n)

/-- FIN_RESULT_CTL and FIN_PART_* (08 Table 8.13). -/
def finRegWrite (s : State) (o : Nat) (v : Word) : State :=
  if 0x8100 ≤ o ∧ o < 0x8200 then
    s.onFin fun f => { f with resultCtl := setAt f.resultCtl ((o - 0x8100) / 4) (b2n (v.bit 0) + 2 * min (v.field 7 1) 64) }
  else if 0x8200 ≤ o ∧ o < 0x8280 ∧ partOpen s ((o - 0x8200) / 16) then
    s.onFin fun f => { f with part := modAt f.part ((o - 0x8200) / 16) fun p =>
      match o % 16 with
      | 0x0 => (if v.field 1 0 = 3 then 0 else v.field 1 0, v.field 14 8, p.2.2)
      | 0x4 => (p.1, p.2.1, v.toNat, p.2.2.2)
      | 0x8 => (p.1, p.2.1, p.2.2.1, v.toNat)
      | _ => p }
  else s

/-! ### Context: query and enumeration -/

/-- What CTX_QUERY latches (10 Table 10.12): seven words, one token-boundary state (02 R107); of a stream that is not open, its number
alone. -/
def queryWords (s : State) (n : Nat) : List Word :=
  let words : List Nat := match s.stream? n with
    | none => [1 + 65536 * n, 0, 0, 0, 0, 0, 0]
    | some x =>
      [1 + 2 + 4 * b2n x.record + 16 * x.stateCode + 256 * x.endReason + 65536 * n, x.next, x.epoch, x.armedSeen.getD 0xFFFFFFFF, x.gen,
        x.slot + 8 * x.aut.getD 0 + 512 * b2n x.aut.isSome + 1024 * x.stop.getD 0 + 262144 * b2n x.stop.isSome +
          524288 * x.queue + 33554432 * x.owner,
        x.home]
  words.map (BitVec.ofNat 32)

/-- CTX_QUERY (10 R405). -/
def writeQuery (s : State) (v : Word) : State := s.onCtx fun c => { c with qLatch := queryWords s (v.field 13 0) }

/-- An enumeration entry (14 Table 14.7). -/
def enumEntry (s : State) (x : Stream) : List Byte :=
  leBytes 2 x.id ++ leBytes 1 x.owner ++ leBytes 1 (x.prior.code + 8 * x.cause.code + 32 * b2n x.lost) ++ leBytes 4 x.next ++
    leBytes 4 x.susTag ++ leBytes 4 s.lan.starts

/-- A write of CTX_ENUM_CTL (14 R528): GO writes the entries that CTX_ENUM_LEN leaves room for. While an enumeration runs a
further GO has no effect. -/
def writeEnum (s : State) (v : Word) : State :=
  if !v.bit 0 || s.ctx.enumBusy then s
  else
    let xs := s.ctx.streams.filter fun x => x.st == .suspended && (v.bit 7 || x.owner == v.field 6 1)
    let n := min xs.length (s.ctx.enumLen / 16)
    let s := s.onCtx fun c => { c with
      enumBusy := true, enumDone := false, enumErr := false, enumFull := decide (n < xs.length), enumCount := n }
    writeBytes s .enumLine s.ctx.enumAddr ((xs.take n).flatMap (enumEntry s))

/-- The enumeration's writes are complete. -/
def enumOver (s : State) : State :=
  if !s.ctx.enumBusy || writesOut s .enumLine then s
  else s.onCtx fun c => { c with enumBusy := false, enumDone := true }

/-- The Context Store (10 Table 10.12, 14 Table 14.12). -/
def ctxRegWrite (s : State) (o : Nat) (v : Word) : State :=
  match o with
  | 0xA000 => writeQuery s v
  | 0xA024 => s.onCtx fun c => { c with ownerSel := v.field 5 0 }
  | 0xA034 => s.onCtx fun c => { c with revokedSel := v.field 3 0 }
  | 0xA040 => s.onCtx fun c => { c with enumAddr := c.enumAddr / 4294967296 * 4294967296 + v.toNat / 128 * 128 }
  | 0xA044 => s.onCtx fun c => { c with enumAddr := c.enumAddr % 4294967296 + 4294967296 * v.toNat }
  | 0xA048 => s.onCtx fun c => { c with enumLen := v.toNat }
  | 0xA04C => writeEnum s v
  | _ => s

/-! ### Record Writer -/

/-- PKR_REC_HEAD_HI applies both words; a value above the write sequence number is ignored (10 R399). -/
def writeRecHead (s : State) (v : Word) : State :=
  let n := s.pkr.headLo + 4294967296 * v.field 15 0
  s.onOwnPkr s.pkr.ownerSel fun p => if n ≤ p.recRing.wseq then { p with head := n } else p

/-- A _STG register of group 2 of the selected owner (16 R572): base low, base high, size. -/
def writeArea (s : State) (i : Nat) (v : Word) : State :=
  let n := if i % 3 = 0 then v.toNat / 4096 * 4096 else if i % 3 = 1 then v.toNat else v.field 5 0
  s.onOwnPkr s.pkr.ownerSel fun p => { p with stg := setAt p.stg i n, stgWritten := true }

/-- The Record Writer (10 Table 10.13, 14 Table 14.12). -/
def pkrRegWrite (s : State) (o : Nat) (v : Word) : State :=
  if 0xB020 ≤ o ∧ o < 0xB038 then writeArea s ((o - 0xB020) / 4) v
  else if 0xB0AC ≤ o ∧ o < 0xB0B8 then writeArea s (6 + (o - 0xB0AC) / 4) v
  else match o with
  | 0xB000 => s.onPkr fun p => { p with ownerSel := v.field 5 0 }
  | 0xB048 => s.onPkr fun p => { p with headLo := v.toNat }
  | 0xB04C => writeRecHead s v
  | _ => s

/-! ### Queues, stores, Crypto Unit, Belfry -/

/-- EQ_CTL: OWNER only while no stream is bound and the queue is empty (11 R408); XOFF_EN acts on FC_XOFF (R423). -/
def writeEqCtl (s : State) (n : Nat) (v : Word) : State :=
  let free := !(s.ctx.streams.any fun x => x.queue == n)
  s.onQueue n fun q =>
    EqQueue.flow { q with owner := if free && q.fill == 0 then v.field 5 0 else q.owner, xoffEn := v.bit 8 }

/-- A queue's block (11 Table 11.3). -/
def eqRegWrite (s : State) (o : Nat) (v : Word) : State :=
  if 0xC800 ≤ o then s
  else
    let n := (o - 0xC000) / 0x20
    match o % 0x20 with
    | 0x00 => writeEqCtl s n v
    | 0x0C => s.onQueue n fun q => { q with highStg := v.field 14 0, lowStg := v.field 30 16, stgWritten := true }
    | _ => s

/-- The stores (12 Table 12.7, 12.8). -/
def memRegWrite (s : State) (o : Nat) (v : Word) : State :=
  match o with
  | 0xD004 => s.onMem fun m => { m with marchEnStg := v.bit 0, marchPeriodStg := v.field 15 4, stgWritten := true }
  | 0xD038 => s.onMem fun m => { m with injArm := v.bit 0, injDouble := v.bit 1, injStore := v.field 5 2 }
  | _ => s

/-- A word of a line's staged message: address low, address high, data (14 Table 14.12). -/
def putMsg (m : Nat × Word) (k : Nat) (v : Word) : Nat × Word :=
  match k with
  | 0 => (m.1 / 4294967296 * 4294967296 + v.toNat / 4 * 4, m.2)
  | 4 => (m.1 % 4294967296 + 4294967296 * v.toNat, m.2)
  | 8 => (m.1, v)
  | _ => m

/-- The Belfry (14 Table 14.12). -/
def belRegWrite (s : State) (o : Nat) (v : Word) : State :=
  if 0xF080 ≤ o ∧ o < 0xF0C0 then
    s.onBel fun b => { b with
      routesStg := setAt b.routesStg ((o - 0xF080) / 4) { line := v.field 3 0, enable := v.bit 4, msg := v.bit 5 }, stgWritten := true }
  else if 0xF100 ≤ o ∧ o < 0xF200 then
    s.onBel fun b => { b with
      msgsStg := modAt b.msgsStg ((o - 0xF100) / 16) fun m => putMsg m (o % 16) v, stgWritten := b.stgWritten || o % 16 != 12 }
  else match o with
  | 0xF000 => s.onBel fun b => { b with pending := w1c b.pending v }
  | 0xF010 => s.onBel fun b => { b with sel := v.field 9 0 }
  | 0xF014 => s.onBel fun b => { b with cqPending := w1c b.cqPending v }
  | _ => s

/-- A write in the fabric side's range; ro registers and unassigned offsets keep their values (15 R555). -/
def unitRegWrite (s : State) (o : Nat) (v : Word) : State :=
  if o < 0x2000 then ringRegWrite s o v
  else if o = 0x301C then s.onAut fun a => { a with digestSel := v.field 5 0 }
  else if o = 0x3C00 then s.onAut fun a => { a with progSel := v.field 7 0 }
  else if 0x5000 ≤ o ∧ o < 0x7000 then selRegWrite s ((o - 0x5000) / 0x100) (o % 0x100) v
  else if 0x8000 ≤ o ∧ o < 0x9000 then finRegWrite s o v
  else if 0xA000 ≤ o ∧ o < 0xB000 then ctxRegWrite s o v
  else if 0xB000 ≤ o ∧ o < 0xC000 then pkrRegWrite s o v
  else if 0xC000 ≤ o ∧ o < 0xD000 then eqRegWrite s o v
  else if 0xD000 ≤ o ∧ o < 0xE000 then memRegWrite s o v
  else if o = 0xE00C then s.onCry fun c => { c with fpSel := v.field 5 0 }
  else if 0xF000 ≤ o ∧ o < 0x10000 then belRegWrite s o v
  else s

/-- A register write, on the side that serves its offset (15 R554, R555). -/
def regWrite (s : State) (o : Nat) (v : Word) : State :=
  if o < 0x1000 then lanWrite s fun s => lanRegWrite s o v else fabricWrite s fun s => unitRegWrite s o v

/-! ## Reads that clear (00 R20, R587) -/

/-- The remainder that the clearing read of a counter divided by n leaves (R587). -/
def keepRest (n count : Nat) : Nat := count % n

/-- The rc counters of the Ring Unit, the Automaton Store and the Cupola. -/
def clearRc1 (s : State) (o : Nat) : State :=
  match o with
  | 0x1C20 => s.onRng fun r => { r with dispatched := 0 }
  | 0x1C24 => s.onRng fun r => { r with completions := 0 }
  | 0x1C28 => s.onRng fun r => { r with clsNote := 0, clsRej := 0, clsFail := 0, clsAbort := 0 }
  | 0x3008 => s.onAut fun a => { a with spillReads := 0 }
  | 0x300C => s.onAut fun a => { a with eagerSkipped := 0 }
  | 0x3010 => s.onAut fun a => { a with evConf := 0, evStack := 0, evDead := 0 }
  | 0x4010 => s.onCup fun c => { c with hits := 0 }
  | 0x4014 => s.onCup fun c => { c with misses := 0 }
  | 0x4018 => s.onCup fun c => { c with evictions := 0 }
  | 0x401C => s.onCup fun c => { c with fillWaits := 0 }
  | 0x4020 => s.onCup fun c => { c with pressure := 0 }
  | _ => s

/-- The rc counters of a selector. -/
def clearSel (s : State) (p k : Nat) : State :=
  s.onPort p fun q => match k with
  | 0x08 => { q with shards := 0 }
  | 0x0C => { q with values := keepRest 1024 q.values }
  | 0x10 => { q with padding := keepRest 1024 q.padding }
  | 0x14 => { q with nans := 0 }
  | 0x18 => { q with stray := 0 }
  | 0x1C => { q with dropped := 0 }
  | 0x20 => { q with late := 0 }
  | _ => q

/-- The rc counters of the Finial. -/
def clearFin (s : State) (o : Nat) : State :=
  s.onFin fun f => match o with
  | 0x800C => { f with lbWaits := 0 }
  | 0x8010 => { f with steps := 0 }
  | 0x8014 => { f with deep := 0, races := 0 }
  | 0x8018 => { f with evMirror := 0, evDup := 0, evFail := 0, evNoCand := 0 }
  | 0x801C => { f with late := 0 }
  | 0x8020 => { f with tieCut := 0 }
  | 0x8024 => { f with peerLists := 0, notices := 0 }
  | _ => f

/-- The rc counters of Steeple. -/
def clearStp (s : State) (o : Nat) : State :=
  s.onStp fun p =>
    if 0x9040 ≤ o ∧ o < 0x9084 then { p with hist := setAt p.hist ((o - 0x9040) / 4) 0 }
    else match o with
    | 0x9008 => { p with rounds := 0 }
    | 0x900C => { p with nodes := 0 }
    | 0x9010 => { p with accepted := 0 }
    | 0x9014 => { p with confirmed := 0 }
    | 0x9018 => { p with pruned := 0 }
    | 0x901C => { p with poolWaits := 0 }
    | 0x9020 => { p with failRoot := 0, failNode := 0 }
    | 0x9024 => { p with withdrawn := 0 }
    | _ => p

/-- The rc counters of the Context Store. -/
def clearCtx (s : State) (o : Nat) : State :=
  s.onCtx fun c => match o with
  | 0xA03C => { c with idleEvents := 0 }
  | 0xA054 => { c with recovered := 0, lost := 0 }
  | _ => c

/-- The rc counters of the Record Writer; two belong to the selected owner. -/
def clearPkr (s : State) (o : Nat) : State :=
  match o with
  | 0xB080 => s.onPkr fun p => { p with records := 0 }
  | 0xB084 => s.onPkr fun p => { p with confEntries := 0 }
  | 0xB088 => s.onPkr fun p => { p with replays := 0 }
  | 0xB08C => s.onPkr fun p => { p with fullWaits := 0 }
  | 0xB090 => s.onPkr fun p => { p with revokeMarks := 0 }
  | 0xB094 => s.onPkr fun p => { p with mbs := 0 }
  | 0xB098 => s.onPkr fun p => { p with tokens := keepRest 1024 p.tokens }
  | 0xB0B8 => s.onOwnPkr s.pkr.ownerSel fun p => { p with ckpts := 0 }
  | 0xB0BC => s.onOwnPkr s.pkr.ownerSel fun p => { p with skips := 0 }
  | _ => s

/-- The rc counters of the queues. -/
def clearEqs (s : State) (o : Nat) : State :=
  if o < 0xC800 then
    s.onQueue ((o - 0xC000) / 0x20) fun q => match o % 0x20 with
    | 0x18 => { q with records := 0 }
    | 0x1C => { q with waits := 0, flushed := 0 }
    | _ => q
  else s.onEqs fun e => match o with
  | 0xC810 => { e with ownerDrops := 0 }
  | 0xC814 => { e with drainErrors := 0 }
  | 0xC818 => { e with readLines := 0 }
  | 0xC81C => { e with idleReads := 0 }
  | _ => e

/-- The rc counters of the stores. -/
def clearMem (s : State) (o : Nat) : State :=
  s.onMem fun m =>
    if 0xD100 ≤ o ∧ o < 0xD118 then { m with stalls := modAt m.stalls ((o - 0xD100) / 4) (keepRest 16) }
    else match o with
    | 0xD00C => { m with sweeps := 0 }
    | 0xD010 => { m with fails := 0 }
    | 0xD014 => { m with skips := 0 }
    | 0xD01C => { m with ce := 0 }
    | 0xD020 => { m with ue := 0 }
    | 0xD028 => { m with collisions := 0 }
    | 0xD02C => { m with tagFaults := 0 }
    | 0xD034 => { m with starve := 0 }
    | _ => m

/-- The rc counters of the Crypto Unit. -/
def clearCry (s : State) (o : Nat) : State :=
  s.onCry fun c => match o with
  | 0xE018 => { c with linesEnc := keepRest 1024 c.linesEnc }
  | 0xE01C => { c with linesDec := keepRest 1024 c.linesDec }
  | 0xE020 => { c with keyFaults := 0 }
  | 0xE028 => { c with zeroDrops := 0 }
  | _ => c

/-- The rc counters of the Belfry. -/
def clearBel (s : State) (o : Nat) : State :=
  s.onBel fun b => match o with
  | 0xF004 => { b with count := 0 }
  | 0xF008 => { b with lost := 0 }
  | _ => b

/-- The rc counters of a turret. -/
def clearTur (s : State) (p k : Nat) : State :=
  s.onTurret p fun t => match k with
  | 0x08 => { t with instr := 0 }
  | 0x0C => { t with busy := keepRest 16 t.busy }
  | 0x10 => { t with arbStall := 0 }
  | 0x14 => { t with steals3 := 0, steals4 := 0 }
  | 0x18 => { t with switch := 0 }
  | 0x20 => { t with faultCount := 0 }
  | _ => t

/-- What a read of an offset clears; a read of another register clears nothing. -/
def clearRc (s : State) (o : Nat) : State :=
  if o < 0x5000 then clearRc1 s o
  else if o < 0x7000 then clearSel s ((o - 0x5000) / 0x100) (o % 0x100)
  else if o < 0x9000 then clearFin s o
  else if o < 0xA000 then clearStp s o
  else if o < 0xB000 then clearCtx s o
  else if o < 0xC000 then clearPkr s o
  else if o < 0xD000 then clearEqs s o
  else if o < 0xE000 then clearMem s o
  else if o < 0xF000 then clearCry s o
  else if o < 0x10000 then clearBel s o
  else if o < 0x21000 then clearTur s ((o - 0x10000) / 0x100) (o % 0x100)
  else s

/-- A read of BEL_LOG_DATA marks the selected record read (14 R532). -/
def logDataRead (s : State) (w : Nat) : State :=
  if !s.ready then refusedAccess s
  else served (s.onBel fun b => { b with log := b.log.map fun e => if e.1 == b.sel then (e.1, { e.2 with isRead := true }) else e })
    (BitVec.ofNat 32 (logDataWord s.bel w))

/-- A read of a register, on the side that serves its offset: EQ_DATA and BEL_LOG_DATA act as their own rows. -/
def readRegister (s : State) (o : Nat) : State :=
  if o < 0x1000 then alive s fun s => served s (regRead s o)
  else if 0xC000 ≤ o ∧ o < 0xC800 ∧ o % 0x20 = 0x10 then eqDataRead s ((o - 0xC000) / 0x20)
  else if 0xF020 ≤ o ∧ o < 0xF040 then logDataRead s ((o - 0xF020) / 4)
  else if !s.ready then refusedAccess s
  else served (clearRc s o) (regRead s o)

/-! ## Meanings -/

/-- CTX_QUERY (10 R405). -/
def execCtxQuery (value : Word) (s : State) : Host.Outcome State Fault Refusal :=
  finish s (fabricWrite s fun s => writeQuery s value)

/-- CTX_ENUM_GO (14 R528). -/
def execCtxEnumGo (value : Word) (s : State) : Host.Outcome State Fault Refusal :=
  finish s (fabricWrite s fun s => writeEnum s value)

/-- CTX_ENUM_DONE (14 R528). -/
def execCtxEnumDone (s : State) : Host.Outcome State Fault Refusal :=
  finish s (if s.stepping then enumOver s else s)

/-- PKR_REC_HEAD_WRITE (10 R399). -/
def execPkrRecHeadWrite (value : Word) (s : State) : Host.Outcome State Fault Refusal :=
  finish s (fabricWrite s fun s => writeRecHead s value)

/-- BEL_LOG_DATA_READ (14 R532). -/
def execBelLogDataRead (word : Nat) (s : State) : Host.Outcome State Fault Refusal :=
  finish s (logDataRead s word)

/-- RC_COUNTER_READ (00 R20, R587). -/
def execRcCounterRead (offset : Nat) (s : State) : Host.Outcome State Fault Refusal :=
  finish s (readRegister s offset)

/-- REGISTER_WRITE (00 R17, R18). -/
def execRegisterWrite (offset : Nat) (value : Word) (s : State) : Host.Outcome State Fault Refusal :=
  finish s (regWrite s offset value)

end Sys2Proof.Machine
end

