-- ==== Sys2Proof/Machine/Steps.lean ====
section
/-! DEFINITION. The meanings of the rows of a step: Cupola fills, MASK_RDY, logits, peer messages, the token record, the commit
and its timers, rounds (01, 06, 08, 09, 10, 12 R457, 14 R506, R519). A row that the state does not call for changes nothing
(log entry 10). -/

namespace Sys2Proof.Machine

/-! ## Masks -/

/-- CUPOLA_SPACE_FREE: a turret that waits under CUPOLA_PRESSURE takes freed space (06 R246). -/
def execCupolaSpaceFree (stream : Nat) (s : State) : Host.Outcome State Fault Refusal :=
  finish s (match s.stream? stream with
    | some x =>
      if !s.ready || !x.waitCup || x.svc != .build then s
      else takeSpace s x
    | none => s)

/-- Whether the completion of a one-stream EPOCH_SET of a stream is not yet written (10 R387). -/
def epochUnwritten (s : State) (stream : Nat) : Bool :=
  s.rng.comps.any fun e => e.opcode == 0x28 && e.hasStream && e.stream == stream && e.status == 0

/-- MASK_RDY: a mask build completes (01 R32, 06 R248, R249). -/
def execMaskRdy (stream : Nat) (s : State) : Host.Outcome State Fault Refusal :=
  finish s (match s.stream? stream with
    | some x =>
      if s.ready && x.svc == .build && !x.restoring && !epochUnwritten s stream then finishBuild s x else s
    | none => s)

/-- MASK_RDY_DELIVER: MR_READY takes the pair presented (15 R544). -/
def execMaskRdyDeliver (s : State) : Host.Outcome State Fault Refusal :=
  finish s (if !s.carrying then s
    else match s.fin.maskQueue with
      | [] => s
      | p :: rest => s.onFin fun f => { f with maskQueue := rest, maskGiven := f.maskGiven ++ [p] })

/-- STEP_ISSUED starts the step deadline of the units of a delivered pair (15 R545, 14 R506, 09 R360). -/
def execStepIssued (stream step : Nat) (s : State) : Host.Outcome State Fault Refusal :=
  finish s (if !s.carrying || !s.fin.maskGiven.contains (stream, step) then s
    else s.onFin fun f => { f with
      maskGiven := f.maskGiven.filter (· != (stream, step))
      units := f.units.map fun u =>
        if u.stream == stream && u.step == step && u.st == .open then { u with deadline := true } else u })

/-! ## Logits -/

/-- A beat at a disabled port is dropped and counted (08 Table 8.12); a fenced block ignores it, and a port in reset drops it
uncounted (13 Table 13.6, 14 R530). -/
def atPort (s : State) (port : Nat) (f : State → State) : State :=
  if !s.carrying || decide (s.variant.ports ≤ port) || s.lan.domReset.contains (272 + port) then s
  else if (s.port port).enable then f s
  else s.onPort port fun q => { q with dropped := wrap32 (q.dropped + 1) }

/-- LOGIT_HEADER_BEAT (08 R299 to R303). -/
def execLogitHeaderBeat (port : Nat) (beat : List Byte) (s : State) : Host.Outcome State Fault Refusal :=
  finish s (atPort s port fun s => headerBeat s port beat)

/-- LOGIT_DATA_BEAT (08 R300, R309). -/
def execLogitDataBeat (port vcnt : Nat) (beat : List Byte) (s : State) : Host.Outcome State Fault Refusal :=
  finish s (atPort s port fun s => dataBeat s port vcnt beat)

/-- A merger whose coverage has a gap, or a sender without its notice (14 R507). -/
def peerTimeout (s : State) (x : Stream) (u : SelUnit) : State :=
  let r := coverRange s x
  let gap := if u.st == .closed then some 0xFFFFFFFF
    else if (partOf s x).1 = 1 then uncovered (u.sources.filter (·.whole)) r.1 r.2 else none
  match gap with
  | some id => raiseBy s .finial 0x0102 u.stream u.step (id + 4294967296 * u.node)
  | none => s

/-- STEP_DEADLINE_EXPIRE (14 R506, R507). -/
def execStepDeadlineExpire (stream step node : Nat) (s : State) : Host.Outcome State Fault Refusal :=
  finish s (match s.stream? stream, s.unit? stream step node with
    | some x, some u =>
      if s.stepping && u.deadline && (u.st == .open || (u.st == .closed && u.awaitNotice)) then
        failUnit (peerTimeout s x u) u 3
      else s
    | _, _ => s)

/-! ## The token record -/

/-- Class-1 work of a home turret suspends the work of another class that runs there (07 R293). -/
def suspendWork (s : State) (home : Nat) : State :=
  (ungate s (s.physOf home)).onTurret (s.physOf home) fun t => match t.inv with
    | some i => if i.cls = 1 then t else { t.suspends i with inv := none }
    | none => t

/-- Puts the record of a plain step's token on the egress port and holds the result (01 R36, R37). -/
def emitResult (s : State) (x : Stream) (u : SelUnit) (r : Result) : State :=
  let s := emitToken s x.id r.step r.token (tokenFlags false false ((s.vocOf x).isEos r.token) false)
  let s := dropUnits s x.id u.step
  suspendWork (s.onStream x.id fun y => { y with held := [r] }) x.home

/-- The reference of a result as the Finial passes it on; the commit fixes BODY of a logged set (log entry 12). -/
def finialRef (s : State) (x : Stream) (r : Result) : Nat := (resultRef s { x with record := false } r 0).1

/-- A merger notifies each merged peer (08 R342). -/
def sendNotices (s : State) (u : SelUnit) (r : Result) : State :=
  s.onFin fun f => { f with
    peerOut := f.peerOut ++ u.peersMerged.map fun p => (p, 2, resultBytes r 0)
    notices := (f.notices + u.peersMerged.length) % 65536 }

/-- FINIAL_TOKEN_RECORD: the token of a closed plain step (08 R318 to R328, R342). -/
def execFinialTokenRecord (stream : Nat) (s : State) : Host.Outcome State Fault Refusal :=
  finish s (match s.stream? stream with
    | none => s
    | some x => match s.unit? stream x.next 0x7F with
      | none => s
      | some u =>
        if !s.stepping || u.st != .closed || u.awaitNotice || (s.tree? stream).isSome || !x.held.isEmpty || x.svc != .open then s
        else
          let r := chooseToken x.params x.id x.next 0x7F u.closedVals (unitFlags x u true)
          let r := { r with maskRef := finialRef s x r }
          sendNotices (emitResult s x u r) u r)

/-! ## Peer messages (08 R341, R342, 15 R547, R548) -/

/-- A dropped message: SELECTOR_PORT_FAULT with fault HCRC and the peer's source number. -/
def peerFault (s : State) (source : Nat) : State :=
  raiseBy s .peer 0x0201 0 0 (32 + source)

/-- A token notice reaches the sender's step. -/
def takeNotice (s : State) (m : List Byte) : State :=
  let r := resultOfBytes m
  match s.stream? r.stream, s.unit? r.stream r.step 0x7F with
  | some x, some u =>
    if u.st == .closed && u.awaitNotice && x.next == r.step && x.held.isEmpty then
      emitResult s x u { r with list := u.list.take 64 }
    else s
  | _, _ => s

/-- A partial list whose form is good becomes a source of its unit. -/
def takeList (s : State) (source : Nat) (m : List Byte) : State :=
  let stream := getLE m 0 2 % 16384
  let node := (getN m 2).toNat
  let step := getLE m 4 4
  match s.unit? stream step node with
  | none => raiseBy s .peer 0x0103 stream step (32 + source + 256 * node)
  | some u =>
    if u.st != .open then raiseBy s .peer 0x0103 stream step (32 + source + 256 * node)
    else if u.noMask then s
    else if 1024 ≤ u.sources.length then
      failUnit (raiseBy s .peer 0x0201 stream step (32 + source + 256 * 2)) u 0
    else
      let s := s.onUnit stream step node fun u => { u with sources := u.sources ++ [peerSource source m] }
      tryClose s stream step node

/-- Whether a message is a whole partial list with a good HCRC. -/
def listOk (m : List Byte) : Bool :=
  m.length == roundUp (80 + 8 * getLE m 16 2) 64 && getLE m 68 4 == crc32c (m.take 68)

/-- PEER_PARTIAL_LIST: a message on the peer merge input. -/
def execPeerPartialList (source type : Nat) (message : List Byte) (s : State) : Host.Outcome State Fault Refusal :=
  finish s (if !s.carrying || !s.hasPeer then s
    else if s.variant.peers ≤ source then peerFault s source
    else if type = 2 ∧ message.length = 64 then takeNotice s message
    else if type ≠ 1 ∨ !listOk message then peerFault s source
    else takeList s source message)

/-- TOKEN_NOTICE: a notice on the peer merge input. -/
def execTokenNotice (source : Nat) (message : List Byte) (s : State) : Host.Outcome State Fault Refusal :=
  finish s (if !s.carrying || !s.hasPeer then s
    else if s.variant.peers ≤ source ∨ message.length ≠ 64 then peerFault s source
    else takeNotice s message)

/-! ## The commit and the timers -/

/-- TOKEN_COMMIT: the home turret commits the next held result (01 R27); at a boundary that waits, what waits is tried again. -/
def execTokenCommit (stream : Nat) (s : State) : Host.Outcome State Fault Refusal :=
  finish s (match s.stream? stream with
    | none => s
    | some x =>
      if !s.stepping || x.restoring then s
      else match x.held with
        | r :: rest => commitHeld s x r rest
        | [] => if x.atBoundary then tryEnd s stream else s)

/-- RECORD_LINE_TIMER: partly filled lines of a ring are written (12 R457). -/
def execRecordLineTimer (owner : Nat) (replay : Bool) (s : State) : Host.Outcome State Fault Refusal :=
  finish s (if s.writing then writeLines s owner replay true else s)

/-- CKPT_TIME_INTERVAL: streams that committed since their last checkpoint are due (14 R519). -/
def execCkptTimeInterval (s : State) : Host.Outcome State Fault Refusal :=
  finish s (if !s.ready || s.lan.ckMs.v == 0 then s
    else (s.ctx.streams.filter fun x => x.ckptSteps != 0).foldl (fun s x =>
      boundary (s.onStream x.id fun y => { y with ckptDue := true }) x.id) s)

/-- STREAM_IDLE: once for each stay at a boundary (10 R385). -/
def execStreamIdle (stream : Nat) (s : State) : Host.Outcome State Fault Refusal :=
  finish s (match s.stream? stream with
    | some x =>
      if s.ready && s.lan.idleTmo.v != 0 && x.atBoundary && !x.idleSaid then
        let s := (s.onStream stream fun y => { y with idleSaid := true }).onCtx fun c =>
          { c with idleEvents := wrap32 (c.idleEvents + 1) }
        raiseBy s .lantern 0x0003 stream x.next s.lan.idleTmo.v
      else s
    | none => s)

/-! ## Rounds -/

/-- DRAFT_TREE_ATTACH: a DRAFT recorded against a stream at its boundary takes effect, with the commands recorded before it (09 R351
to R354). -/
def execDraftTreeAttach (stream : Nat) (s : State) : Host.Outcome State Fault Refusal :=
  finish s (match s.stream? stream with
    | none => s
    | some x =>
      if !s.ready || !x.atBoundary || x.endDue != 0 then s
      else if x.recorded.any fun t => ((s.cmd? t).map fun c => c.opcode == 0x24).getD false then boundaryWith effectDraft s stream
      else s)

/-- DRAFT_VERIFY_STEP: the walk decides at a position whose unit has closed or failed (09 R361 to R366). -/
def execDraftVerifyStep (stream : Nat) (s : State) : Host.Outcome State Fault Refusal :=
  finish s (match s.stream? stream, s.tree? stream with
    | some x, some t => match s.unit? stream t.step t.pos with
      | some u =>
        if !s.stepping || !t.walking || x.svc != .open then s
        else if u.st == .closed && !u.awaitNotice then walkPosition s x t u
        else if u.st == .failed then walkOver (s.onTree stream fun t => { t with nodeFailed := true }) stream
        else s
      | none => s
    | _, _ => s)

end Sys2Proof.Machine
end

