-- ==== Sys2Proof/Machine/Wrapper.lean ====
section
/-! DEFINITION. The IEEE 1500 wrapper (15 R564, R565, Table 15.13). `wir` is the instruction register, `wdr` what the data
register captures. -/

namespace Sys2Proof.Machine

/-- Selects an instruction and captures its data register. -/
def selectWrap (s : State) (i : WrapIns) (data : Nat) : State := s.onLan fun l => { l with wir := i, wdr := data }

/-- Instructions 0x08 to 0x0C take effect only while BLK_RST_N is low or the block is in RECOVERY (R565). -/
def testAllowed (s : State) : Bool := s.lan.blkLow || s.lan.blk == .recovery

/-- A test instruction: outside its time it acts as WS_BYPASS and captures 0; when the first takes effect every key is zeroised,
and the next start is a software cold start (R565). What the test leaves in SRAM and flip-flops that start clears. -/
def testIns (s : State) (i : WrapIns) (data : Nat) : State :=
  if !testAllowed s then selectWrap s i 0
  else
    let s := if s.lan.wrapLive then s else zeroise s 1
    selectWrap { s.onLan fun l => { l with wrapLive := true, wrapCold := true } with fresh := s.fresh + 1 } i data

/-- N2_REPAIR: bits [32i+31:32i] hold option word 2 + i as applied (16 R583). -/
def repairBits (ws : List Word) : Nat := ws.foldr (fun w n => w.toNat + 4294967296 * n) 0

/-- WS_BYPASS (15 Table 15.13): the 1-bit bypass register captures 0. -/
def execWsBypass (s : State) : Host.Outcome State Fault Refusal := finish s (selectWrap s .bypass 0)

/-- N2_IDCODE captures LTN_ID (15 Table 15.13, 16 R567). -/
def execN2Idcode (s : State) : Host.Outcome State Fault Refusal := finish s (selectWrap s .idcode (lanRead s 0))

/-- N2_LANTERN captures the Lantern register at a word offset (15 Table 15.13). -/
def execN2Lantern (offset : Nat) (s : State) : Host.Outcome State Fault Refusal :=
  finish s (selectWrap s .lantern (offset % 1024 + 1024 * (regRead s (4 * (offset % 1024))).toNat))

/-- WS_EXTEST (15 R565): the boundary register's layout is not given (log entry 32). -/
def execWsExtest (s : State) : Host.Outcome State Fault Refusal := finish s (testIns s .extest (Config.wrapperData 0x08 s.fresh))

/-- WS_INTEST (15 R565). -/
def execWsIntest (s : State) : Host.Outcome State Fault Refusal := finish s (testIns s .intest (Config.wrapperData 0x09 s.fresh))

/-- N2_SCAN (15 R565); with NO_SCAN it acts as WS_BYPASS (16 R582). -/
def execN2Scan (s : State) : Host.Outcome State Fault Refusal :=
  finish s (if (getN s.lan.opt 1).toNat.testBit 2 then selectWrap s .scan 0 else testIns s .scan (Config.wrapperData 0x0A s.fresh))

/-- N2_MBIST (15 Table 15.13): which bits show pass, fail and the first failing macro is not given (log entry 32). -/
def execN2Mbist (s : State) : Host.Outcome State Fault Refusal := finish s (testIns s .mbist (Config.wrapperData 0x0B s.fresh))

/-- N2_REPAIR captures the repair applied at the last start (16 R583). -/
def execN2Repair (s : State) : Host.Outcome State Fault Refusal := finish s (testIns s .repair (repairBits s.lan.repair))

/-- WRAPPER_RESET (15 R564): WRSTN low selects WS_BYPASS. -/
def execWrapperReset (s : State) : Host.Outcome State Fault Refusal := finish s (selectWrap s .bypass 0)

end Sys2Proof.Machine
end

