-- ==== Sys2Proof/Machine/Dispatch.lean ====
section
/-! DEFINITION. One arm per command: which meaning it has. -/

namespace Sys2Proof.Machine

def exec (i : Instr) (s : State) : Host.Outcome State Fault Refusal :=
  match i with
  | .ringCtailDoorbell ring value => Sys2Proof.Machine.execRingCtailDoorbell ring value s
  | .cmdRingEnable ring value => Sys2Proof.Machine.execCmdRingEnable ring value s
  | .cmdRingDisable ring value => Sys2Proof.Machine.execCmdRingDisable ring value s
  | .cqRingEnable ring value => Sys2Proof.Machine.execCqRingEnable ring value s
  | .cqRingDisable ring value => Sys2Proof.Machine.execCqRingDisable ring value s
  | .ringQheadWrite ring value => Sys2Proof.Machine.execRingQheadWrite ring value s
  | .commandFetch ring => Sys2Proof.Machine.execCommandFetch ring s
  | .commandDispatch => Sys2Proof.Machine.execCommandDispatch s
  | .completionWrite cq => Sys2Proof.Machine.execCompletionWrite cq s
  | .ringStall ring => Sys2Proof.Machine.execRingStall ring s
  | .nop ticket => Sys2Proof.Machine.execNop ticket s
  | .fence ticket => Sys2Proof.Machine.execFence ticket s
  | .commitConfig ticket => Sys2Proof.Machine.execCommitConfig ticket s
  | .loadVocab ticket => Sys2Proof.Machine.execLoadVocab ticket s
  | .dropVocab ticket => Sys2Proof.Machine.execDropVocab ticket s
  | .loadAutomaton ticket => Sys2Proof.Machine.execLoadAutomaton ticket s
  | .dropAutomaton ticket => Sys2Proof.Machine.execDropAutomaton ticket s
  | .loadProgram ticket => Sys2Proof.Machine.execLoadProgram ticket s
  | .loadStopset ticket => Sys2Proof.Machine.execLoadStopset ticket s
  | .ownerKey ticket => Sys2Proof.Machine.execOwnerKey ticket s
  | .ownerRelease ticket => Sys2Proof.Machine.execOwnerRelease ticket s
  | .streamOpen ticket => Sys2Proof.Machine.execStreamOpen ticket s
  | .streamParams ticket => Sys2Proof.Machine.execStreamParams ticket s
  | .prompt ticket => Sys2Proof.Machine.execPrompt ticket s
  | .stepArm ticket => Sys2Proof.Machine.execStepArm ticket s
  | .draft ticket => Sys2Proof.Machine.execDraft ticket s
  | .streamClose ticket => Sys2Proof.Machine.execStreamClose ticket s
  | .epochSet ticket => Sys2Proof.Machine.execEpochSet ticket s
  | .epochRevoke ticket => Sys2Proof.Machine.execEpochRevoke ticket s
  | .tokenize ticket => Sys2Proof.Machine.execTokenize ticket s
  | .detokenize ticket => Sys2Proof.Machine.execDetokenize ticket s
  | .pack ticket => Sys2Proof.Machine.execPack ticket s
  | .maskReplay ticket => Sys2Proof.Machine.execMaskReplay ticket s
  | .snapshot ticket => Sys2Proof.Machine.execSnapshot ticket s
  | .checkpoint ticket => Sys2Proof.Machine.execCheckpoint ticket s
  | .suspend ticket => Sys2Proof.Machine.execSuspend ticket s
  | .resume ticket => Sys2Proof.Machine.execResume ticket s
  | .reattach ticket => Sys2Proof.Machine.execReattach ticket s
  | .flush ticket => Sys2Proof.Machine.execFlush ticket s
  | .cupolaFillDone aut state syms exact => Sys2Proof.Machine.execCupolaFillDone aut state syms exact s
  | .cupolaSpaceFree stream => Sys2Proof.Machine.execCupolaSpaceFree stream s
  | .maskRdy stream => Sys2Proof.Machine.execMaskRdy stream s
  | .maskRdyDeliver => Sys2Proof.Machine.execMaskRdyDeliver s
  | .stepIssued stream step => Sys2Proof.Machine.execStepIssued stream step s
  | .logitHeaderBeat port beat => Sys2Proof.Machine.execLogitHeaderBeat port beat s
  | .logitDataBeat port vcnt beat => Sys2Proof.Machine.execLogitDataBeat port vcnt beat s
  | .stepDeadlineExpire stream step node => Sys2Proof.Machine.execStepDeadlineExpire stream step node s
  | .finialTokenRecord stream => Sys2Proof.Machine.execFinialTokenRecord stream s
  | .peerPartialList source type message => Sys2Proof.Machine.execPeerPartialList source type message s
  | .tokenNotice source message => Sys2Proof.Machine.execTokenNotice source message s
  | .tokenCommit stream => Sys2Proof.Machine.execTokenCommit stream s
  | .recordLineTimer owner replay => Sys2Proof.Machine.execRecordLineTimer owner replay s
  | .ckptTimeInterval => Sys2Proof.Machine.execCkptTimeInterval s
  | .streamIdle stream => Sys2Proof.Machine.execStreamIdle stream s
  | .draftTreeAttach stream => Sys2Proof.Machine.execDraftTreeAttach stream s
  | .draftVerifyStep stream => Sys2Proof.Machine.execDraftVerifyStep stream s
  | .fabricFetchReturn port tag err line => Sys2Proof.Machine.execFabricFetchReturn port tag err line s
  | .fabricStoreAck port tag err => Sys2Proof.Machine.execFabricStoreAck port tag err s
  | .fabricResponseTimeout port => Sys2Proof.Machine.execFabricResponseTimeout port s
  | .drainRead port ofs tag => Sys2Proof.Machine.execDrainRead port ofs tag s
  | .drainWrite port ofs tag => Sys2Proof.Machine.execDrainWrite port ofs tag s
  | .eqDataRead queue => Sys2Proof.Machine.execEqDataRead queue s
  | .unitOutputWrite ticket => Sys2Proof.Machine.execUnitOutputWrite ticket s
  | .stagingPieceFree ticket unit => Sys2Proof.Machine.execStagingPieceFree ticket unit s
  | .longPieceAreaGrant cluster => Sys2Proof.Machine.execLongPieceAreaGrant cluster s
  | .storeAccessGrant store unit reqs => Sys2Proof.Machine.execStoreAccessGrant store unit reqs s
  | .arbStarvePromote store unit requester => Sys2Proof.Machine.execArbStarvePromote store unit requester s
  | .marchRegionStart => Sys2Proof.Machine.execMarchRegionStart s
  | .marchRegionDone fails row => Sys2Proof.Machine.execMarchRegionDone fails row s
  | .contextRestoreDone stream => Sys2Proof.Machine.execContextRestoreDone stream s
  | .imageRepairDone kind id owner => Sys2Proof.Machine.execImageRepairDone kind id owner s
  | .turretWatchdogExpire turret => Sys2Proof.Machine.execTurretWatchdogExpire turret s
  | .snapshotMarkerReturn => Sys2Proof.Machine.execSnapshotMarkerReturn s
  | .ctxQuery value => Sys2Proof.Machine.execCtxQuery value s
  | .ctxEnumGo value => Sys2Proof.Machine.execCtxEnumGo value s
  | .ctxEnumDone => Sys2Proof.Machine.execCtxEnumDone s
  | .pkrRecHeadWrite value => Sys2Proof.Machine.execPkrRecHeadWrite value s
  | .belLogDataRead word => Sys2Proof.Machine.execBelLogDataRead word s
  | .rcCounterRead offset => Sys2Proof.Machine.execRcCounterRead offset s
  | .registerWrite offset value => Sys2Proof.Machine.execRegisterWrite offset value s
  | .swCold => Sys2Proof.Machine.execSwCold s
  | .swWarm => Sys2Proof.Machine.execSwWarm s
  | .ltnWdogCtlWrite value => Sys2Proof.Machine.execLtnWdogCtlWrite value s
  | .ltnWdogKick value => Sys2Proof.Machine.execLtnWdogKick value s
  | .blockWatchdogExpire => Sys2Proof.Machine.execBlockWatchdogExpire s
  | .ltnKeyZero value => Sys2Proof.Machine.execLtnKeyZero value s
  | .ltnFence value => Sys2Proof.Machine.execLtnFence value s
  | .pwrTargetOn => Sys2Proof.Machine.execPwrTargetOn s
  | .pwrTargetRetain => Sys2Proof.Machine.execPwrTargetRetain s
  | .pwrTargetOff => Sys2Proof.Machine.execPwrTargetOff s
  | .powerEntryQuiesced => Sys2Proof.Machine.execPowerEntryQuiesced s
  | .powerRailAck array level => Sys2Proof.Machine.execPowerRailAck array level s
  | .localResetTurret index => Sys2Proof.Machine.execLocalResetTurret index s
  | .localResetIngressPort index => Sys2Proof.Machine.execLocalResetIngressPort index s
  | .localResetFabricPort index => Sys2Proof.Machine.execLocalResetFabricPort index s
  | .powerOnAssert => Sys2Proof.Machine.execPowerOnAssert s
  | .powerOnRelease => Sys2Proof.Machine.execPowerOnRelease s
  | .blkRstAssert => Sys2Proof.Machine.execBlkRstAssert s
  | .blkRstRelease => Sys2Proof.Machine.execBlkRstRelease s
  | .warmQuiesceDone => Sys2Proof.Machine.execWarmQuiesceDone s
  | .ckRootOkFall => Sys2Proof.Machine.execCkRootOkFall s
  | .ckRootOkRise => Sys2Proof.Machine.execCkRootOkRise s
  | .domainResetRelease domain => Sys2Proof.Machine.execDomainResetRelease domain s
  | .startStepDone failedTurrets => Sys2Proof.Machine.execStartStepDone failedTurrets s
  | .optionWordResponse err data => Sys2Proof.Machine.execOptionWordResponse err data s
  | .optionBusTimeout => Sys2Proof.Machine.execOptionBusTimeout s
  | .startTimerExpire => Sys2Proof.Machine.execStartTimerExpire s
  | .startRetry => Sys2Proof.Machine.execStartRetry s
  | .pfWarn => Sys2Proof.Machine.execPfWarn s
  | .emergencyCkptDone => Sys2Proof.Machine.execEmergencyCkptDone s
  | .pfHoldExpire => Sys2Proof.Machine.execPfHoldExpire s
  | .dukKeyValid key => Sys2Proof.Machine.execDukKeyValid key s
  | .dukTimeout => Sys2Proof.Machine.execDukTimeout s
  | .wsBypass => Sys2Proof.Machine.execWsBypass s
  | .n2Idcode => Sys2Proof.Machine.execN2Idcode s
  | .n2Lantern offset => Sys2Proof.Machine.execN2Lantern offset s
  | .wsExtest => Sys2Proof.Machine.execWsExtest s
  | .wsIntest => Sys2Proof.Machine.execWsIntest s
  | .n2Scan => Sys2Proof.Machine.execN2Scan s
  | .n2Mbist => Sys2Proof.Machine.execN2Mbist s
  | .n2Repair => Sys2Proof.Machine.execN2Repair s
  | .add p d a b => Sys2Proof.Machine.execAdd p d a b s
  | .sub p d a b => Sys2Proof.Machine.execSub p d a b s
  | .and p d a b => Sys2Proof.Machine.execAnd p d a b s
  | .or p d a b => Sys2Proof.Machine.execOr p d a b s
  | .xor p d a b => Sys2Proof.Machine.execXor p d a b s
  | .slt p d a b => Sys2Proof.Machine.execSlt p d a b s
  | .addi p d a imm => Sys2Proof.Machine.execAddi p d a imm s
  | .andi p d a imm => Sys2Proof.Machine.execAndi p d a imm s
  | .shli p d a imm => Sys2Proof.Machine.execShli p d a imm s
  | .shri p d a imm => Sys2Proof.Machine.execShri p d a imm s
  | .movi p d imm => Sys2Proof.Machine.execMovi p d imm s
  | .movh p d imm => Sys2Proof.Machine.execMovh p d imm s
  | .ld p d a imm => Sys2Proof.Machine.execLd p d a imm s
  | .ldw p d a imm => Sys2Proof.Machine.execLdw p d a imm s
  | .ldb p d a imm => Sys2Proof.Machine.execLdb p d a imm s
  | .st p d a imm => Sys2Proof.Machine.execSt p d a imm s
  | .stw p d a imm => Sys2Proof.Machine.execStw p d a imm s
  | .stb p d a imm => Sys2Proof.Machine.execStb p d a imm s
  | .push p a => Sys2Proof.Machine.execPush p a s
  | .pop p d => Sys2Proof.Machine.execPop p d s
  | .peek p d imm => Sys2Proof.Machine.execPeek p d imm s
  | .tld p d a imm => Sys2Proof.Machine.execTld p d a imm s
  | .tldw p d a imm => Sys2Proof.Machine.execTldw p d a imm s
  | .hprobe p d a b => Sys2Proof.Machine.execHprobe p d a b s
  | .tstep p d a b longest => Sys2Proof.Machine.execTstep p d a b longest s
  | .astep p d a => Sys2Proof.Machine.execAstep p d a s
  | .aspec p d a => Sys2Proof.Machine.execAspec p d a s
  | .asave p d a => Sys2Proof.Machine.execAsave p d a s
  | .ares p a => Sys2Proof.Machine.execAres p a s
  | .mset p a b cupola => Sys2Proof.Machine.execMset p a b cupola s
  | .mclr p a b cupola => Sys2Proof.Machine.execMclr p a b cupola s
  | .vld p d a imm => Sys2Proof.Machine.execVld p d a imm s
  | .vst p d a imm => Sys2Proof.Machine.execVst p d a imm s
  | .vin p d a imm => Sys2Proof.Machine.execVin p d a imm s
  | .vcls p d a b => Sys2Proof.Machine.execVcls p d a b s
  | .vcmpeq p d a b => Sys2Proof.Machine.execVcmpeq p d a b s
  | .vfind p d a b => Sys2Proof.Machine.execVfind p d a b s
  | .vutf p d a b writeCs => Sys2Proof.Machine.execVutf p d a b writeCs s
  | .emit p a kind => Sys2Proof.Machine.execEmit p a kind s
  | .emitv p a b => Sys2Proof.Machine.execEmitv p a b s
  | .steal p d => Sys2Proof.Machine.execSteal p d s
  | .post p a => Sys2Proof.Machine.execPost p a s
  | .bar p => Sys2Proof.Machine.execBar p s
  | .fin p => Sys2Proof.Machine.execFin p s
  | .trap p code => Sys2Proof.Machine.execTrap p code s
  | .beq p a b off => Sys2Proof.Machine.execBeq p a b off s
  | .bne p a b off => Sys2Proof.Machine.execBne p a b off s
  | .blt p a b off => Sys2Proof.Machine.execBlt p a b off s
  | .j p off => Sys2Proof.Machine.execJ p off s
  | .jal p d off => Sys2Proof.Machine.execJal p d off s
  | .jr p a => Sys2Proof.Machine.execJr p a s
  | .pfWarnRelease => Sys2Proof.Machine.execPfWarnRelease s
  | .idleClockGate turret => Sys2Proof.Machine.execIdleClockGate turret s
  | .wrapperReset => Sys2Proof.Machine.execWrapperReset s

end Sys2Proof.Machine
end

