-- ==== Sys2Proof/Safety.lean ====
section
/-! DEFINITION. The terms in which statements speak: what a safe run is, when the block serves, that a command posts its
completion, that an event was raised, and equality of two states but for what the fabric side holds. -/

namespace Sys2Proof

/-- A command completes in a state. -/
def Completes (i : Instr) (s : Machine.State) : Prop := ∃ t, Machine.exec i s = .next t

/-- The next n steps from a state all answer a next state. -/
def Safe : Nat → Machine.State → Prop
  | 0, _ => True
  | n + 1, s => ∃ t, Machine.step s = .next t ∧ Safe n t

namespace Machine

/-! ## Gates -/

/-- READY and not fenced: registers of the fabric side are served and the fabric carries traffic (13 R481, 14 R530). -/
def State.Serving (s : State) : Prop := s.ready = true ∧ s.lan.fenced = false

/-- The command c of a ticket has passed its checks of R80 and waits for its unit; its opcode is op (02 R69, Table 2.9). -/
def State.Accepted (s : State) (ticket op : Nat) (c : Cmd) : Prop :=
  s.carrying = true ∧ s.cmd? ticket = some c ∧ c.opcode = op ∧ c.phase = .dispatched

/-- The command c of a ticket executes: its unit waits for reads, writes or jobs. -/
def State.Executing (s : State) (ticket op : Nat) (c : Cmd) : Prop :=
  s.carrying = true ∧ s.cmd? ticket = some c ∧ c.opcode = op ∧ c.phase = .executing

/-- The command c has been dispatched to act on the open stream x, which accepts it: its owner's, in an accepting state, not closing,
not lost (02 R82, R98, 10 R378, 14 R522, R526). -/
def State.Takes (s : State) (ticket op : Nat) (c : Cmd) (x : Stream) : Prop :=
  s.Accepted ticket op c ∧ s.stream? c.stream = some x ∧ x.owner = c.owner ∧ x.closing = false ∧ x.lost = false ∧
    accepts x op = true

/-- A stream at a token boundary with no command recorded against it and nothing that waits there (02 R97). -/
def Stream.Resting (x : Stream) : Prop :=
  x.atBoundary = true ∧ x.recorded = [] ∧ x.endDue = 0 ∧ x.zeroing = false

/-! ## States that agree but for the fabric side -/

/-- The state without what the fabric ports hold, the drain responses apart: outstanding and waiting accesses, lines that were
read. -/
def State.sansFab (s : State) : State := { s with fab := { drains := s.fab.drains } }

/-- The state without the fabric ports and without the Belfry. -/
def State.sansBel (s : State) : State := { s with fab := { drains := s.fab.drains }, bel := {} }

/-- Whether the fabric takes a new read of a line (15 R551): no write of the line is under way, the line's port is not held by
a local reset and has room. -/
def State.LineFree (s : State) (line : Nat) : Prop :=
  (∀ r ∈ s.fab.stores ++ s.fab.waiting, r.line ≠ line) ∧ s.portHeld (portOfLine s.variant line) = false ∧
    portRoom s.fab.fetches (portOfLine s.variant line) = true

/-- A requester holds a line, or has asked for it. -/
def State.Asked (t : State) (who : Req) (line : Nat) : Prop :=
  (lineOf t who line).isSome = true ∨ ∃ r ∈ t.fab.fetches, r.who = who ∧ r.line = line

/-! ## Completions and events -/

/-- The completion of a command: its ring, tag and opcode with a status, STEP and the DETAIL fields (02 Table 2.5). -/
def Comp.IsFor (e : Comp) (c : Cmd) (status step d0 d1 : Nat) : Prop :=
  e.ticket = c.ticket ∧ e.ring = c.ring ∧ e.cq = c.cq ∧ e.irq = c.irq ∧ e.tag = c.tag ∧ e.opcode = c.opcode ∧
    e.status = status ∧ e.step = step ∧ e.d0 = d0 ∧ e.d1 = d1

/-- A command's completion is posted. -/
def State.Answered (t : State) (c : Cmd) (status step d0 d1 : Nat) : Prop :=
  ∃ e ∈ t.rng.comps, e.IsFor c status step d0 d1

/-- A command's completion is posted, and the command is no longer in flight. -/
def State.Posted (t : State) (c : Cmd) (status step d0 d1 : Nat) : Prop :=
  t.cmd? c.ticket = none ∧ ∃ e ∈ t.rng.comps, e.IsFor c status step d0 d1

/-- From s to t the Ring Unit changed in one way: the command c left it and its completion was posted. -/
def Completed (s t : State) (c : Cmd) (status step d0 d1 : Nat) : Prop :=
  ∃ e : Comp, e.IsFor c status step d0 d1 ∧
    t.rng = { s.rng with cmds := s.rng.cmds.filter (·.ticket != c.ticket), comps := s.rng.comps ++ [e] }

/-- From s to t one event was raised by a requester: it is in the log at the write index, not read; its group is pending; the
count rose (14 R532, R533). -/
def RaisedFrom (s t : State) (requester code stream step detail : Nat) : Prop :=
  (∃ e : Event, (s.bel.wr, e) ∈ t.bel.log ∧ e.code = code ∧ e.stream = stream ∧ e.step = step ∧
    e.requester = requester ∧ e.time = s.lan.aonTime ∧ e.detail = detail ∧ e.isRead = false) ∧
    t.bel.wr = (s.bel.wr + 1) % 1024 ∧ t.bel.count = wrap32 (s.bel.count + 1) ∧
    t.bel.pending = s.bel.pending ||| 1 <<< (code / 256)

/-- From s to t one event was raised by a unit that is no turret. -/
def Raised (s t : State) (u : Src) (code stream step detail : Nat) : Prop :=
  RaisedFrom s t (u.number s.variant) code stream step detail

/-! ## Starts -/

/-- From s to t a start of a kind, in a column of Table 13.4, began (13 R479, 14 R531): at step 0, isolated, not fenced, the watchdog off; it is
counted and is the newest entry of the Lantern log. -/
def Started (s t : State) (kind shape : Nat) : Prop :=
  t.lan.blk = .starting ∧ t.lan.act = (if s.lan.blkLow = true then .held else .start) ∧ t.lan.step = 0 ∧ t.lan.kind = kind ∧
    t.lan.shape = shape ∧ t.lan.iso = true ∧ t.lan.fenced = false ∧ t.lan.wdogEn = false ∧ t.lan.notReady = false ∧
    t.lan.starts = s.lan.starts + 1 ∧ t.lan.log = setAt s.lan.log s.lan.logNext { code := 0xF002, detail := kind, time := s.lan.aonTime } ∧
    t.lan.logNext = (s.lan.logNext + 1) % 64

/-- Both rails are up and requested. -/
def State.Powered (s : State) : Prop :=
  s.lan.arrayAck = true ∧ s.lan.arrayReq = true ∧ s.lan.logicAck = true ∧ s.lan.logicReq = true

/-! ## Turrets -/

/-- The local memories that a turret holds: its own, and those of the work it has suspended (07 R265, R293). -/
def Turret.memories (t : Turret) : List (List (Nat × Byte)) := t.core.mem :: t.suspended.map (·.2.mem)

/-- Physical turret p runs invocation i with core c: it may retire an instruction now, and no class-1 work is about to suspend it (07 R292,
R293); its steal unit waits for no staging piece (04 R170). -/
def State.Runs (s : State) (p : Nat) (i : Invocation) (c : Core) : Prop :=
  s.lan.fenced = false ∧ turretRuns s p = true ∧ (s.turret p).inv = some i ∧ (s.turret p).core = c ∧ (i.cls ≤ 1 ∨ homeWork s p = none) ∧
    (3 ≤ i.cls → unitHeld s p = false) ∧ (i.role = roleEngine ∨ i.budget ≠ 0)

/-- From s to t turret p retired one instruction: its core is d, its invocation j with one instruction less to spend; nothing
else changed. -/
def Retired (s t : State) (p : Nat) (d : Core) (j : Invocation) : Prop :=
  t.sansFab = { s with tur := { s.tur with ts := modAt s.tur.ts p fun (u : Turret) =>
    { u with core := d, inv := some { j with budget := j.budget - 1 }, instr := wrap32 (u.instr + 1) } } }.sansFab

/-- An instruction of turret p completes: core d, invocation j. -/
def State.Does (s : State) (ins : Instr) (p : Nat) (d : Core) (j : Invocation) : Prop := ∃ t, exec ins s = .next t ∧ Retired s t p d j

/-- An instruction of turret p raises an exception of Table 7.5, with a TRAP code: a turret fault in an engine program (07 R273, 14 R510), else
PROGRAM_FAULT (07 R274). -/
def State.Excepts (s : State) (ins : Instr) (p : Nat) (i : Invocation) (c : Core) (code trapCode : Nat) : Prop :=
  ∃ t, exec ins s = .next t ∧ (t.turret p).fault = code + 256 * i.prog + 65536 * (c.pc % 4096) ∧
    (i.role = roleEngine → (t.turret p).quarantined = true ∧
      RaisedFrom s t p 0x0401 0 0 (p + 65536 * i.prog + 16777216 * (c.pc % 4096) + 1099511627776 * code)) ∧
    (i.role ≠ roleEngine → (t.turret p).quarantined = false ∧ (t.turret p).faultCount = satAdd (s.turret p).faultCount 1 4294967295 ∧
      RaisedFrom s t p 0x0402 0 i.tag (code + 256 * i.prog + 65536 * c.pc + 268435456 * trapCode + 68719476736 * i.ring))

end Machine

end Sys2Proof
end

