-- ==== Sys2Proof/Certificates/Slice0/Obligations.lean ====
section
/-! DEFINITION. The statements for the provers, family by family in the order of the command table. `s.Serving` says that the block
is READY and not fenced, `s.Accepted` that a command has been dispatched to its unit, `sansFab` leaves out of a comparison what
the fabric ports hold, `Completed` that a command posted its one completion. Every other field of the state stands in the
equations, so each says what its commands change and that they change nothing else. -/

open Sys2Proof Sys2Proof.Machine

/-! ## Rings (02) -/

/-- R66: a tail index at or above 2^SIZE_LOG2 leaves the tail, sets TAIL_RANGE and raises RING_TAIL_RANGE (detail: ring number
and index, 16 Table 16.9). -/
def Obligations.TailOutOfRangeIgnored : Prop :=
  ∀ (s : State) (n : Nat) (v : Word), s.Serving → n < 64 → 2 ^ (s.ring n).sizeLog ≤ v.toNat % 65536 →
    ∃ t, exec (.ringCtailDoorbell n v) s = .next t ∧
      t.sansBel = { s with
        rng := { s.rng with c := modAt s.rng.c n fun r => { r with tailRange := true } }, csp := { data := 0 } }.sansBel ∧
      Raised s t .ring 0x0902 0 0 (n + 65536 * (v.toNat % 65536))

/-- R59: while ENABLE reads 1, a write changes no other field of RING_CCTL or RING_QCTL and no base register: with ENABLE
written as 1, and at the base registers, nothing changes. -/
def Obligations.EnabledRingFieldsHold : Prop :=
  ∀ (s : State) (n : Nat) (v : Word), s.Serving → n < 64 →
    ((s.ring n).enable = true →
      (v.bit 0 = true → ∃ t, exec (.cmdRingEnable n v) s = .next t ∧ t.sansFab = { s with csp := { data := 0 } }.sansFab) ∧
      (v.bit 0 = false → ∃ t, exec (.cmdRingDisable n v) s = .next t ∧
        t.sansFab = { s with
          rng := { s.rng with c := modAt s.rng.c n fun r => { r with enable := false } }, csp := { data := 0 } }.sansFab) ∧
      ∃ t u, exec (.registerWrite (0x1000 + 0x20 * n) v) s = .next t ∧
        exec (.registerWrite (0x1004 + 0x20 * n) v) s = .next u ∧
        t.sansFab = { s with csp := { data := 0 } }.sansFab ∧ u.sansFab = { s with csp := { data := 0 } }.sansFab) ∧
    ((s.cqr n).enable = true →
      (v.bit 0 = true → ∃ t, exec (.cqRingEnable n v) s = .next t ∧ t.sansFab = { s with csp := { data := 0 } }.sansFab) ∧
      (v.bit 0 = false → ∃ t, exec (.cqRingDisable n v) s = .next t ∧ (t.sansFab = { s with csp := { data := 0 } }.sansFab ∨
        t.sansFab = { s with
          rng := { s.rng with q := modAt s.rng.q n fun q => { q with enable := false } }, csp := { data := 0 } }.sansFab)) ∧
      ∃ t u, exec (.registerWrite (0x1800 + 0x10 * n) v) s = .next t ∧
        exec (.registerWrite (0x1804 + 0x10 * n) v) s = .next u ∧
        t.sansFab = { s with csp := { data := 0 } }.sansFab ∧ u.sansFab = { s with csp := { data := 0 } }.sansFab)

/-- The fields of RING_CCTL that a write gives a disabled command ring (Table 2.2). -/
def Sys2Proof.Machine.CmdRing.written (r : CmdRing) (v : Word) : CmdRing :=
  { r with fmtB := v.bit 1, priv := v.bit 2, weight := v.field 7 4, sizeLog := v.field 12 8, owner := v.field 21 16
           cq := v.field 29 24 }

/-- ENABLE = 1 on a disabled command ring: in each case of R60 ENABLE stays 0 and ENABLE_REFUSED is set; otherwise the ring is
enabled and its head becomes its tail, or stays where a fetch error stopped it (R62). The other fields take the written
values either way.

ENABLE on a completion ring. 0 to 1 with SIZE_LOG2 in 6 to 16: head and write index become 0 and the write phase 1 (R74);
with another SIZE_LOG2 the ring stays disabled (R60). 1 to 0: ignored while an enabled command ring names the ring or a
fetched command's completion is not written (R61), otherwise the ring is disabled. -/
def Obligations.RingEnables : Prop :=
  (∀ (s : State) (n : Nat) (v : Word), s.Serving → n < 64 → (s.ring n).enable = false → v.bit 0 = true →
    (∀ l, lineOf s (.entry n) l ≠ some none) →
    let q := s.cqr (v.field 29 24)
    let refused := v.field 12 8 < 6 ∨ 16 < v.field 12 8 ∨ q.enable = false ∨ q.fmtB ≠ v.bit 1 ∨ (s.ring n).fetchErr = true ∨
      (v.bit 1 = false ∧ (getN s.lan.opt 1).toNat.testBit 1 = true)
    ∃ t, exec (.cmdRingEnable n v) s = .next t ∧
      (refused → t.sansFab = { s with
        rng := { s.rng with c := modAt s.rng.c n fun _ => { (s.ring n).written v with enRefused := true } }
        csp := { data := 0 } }.sansFab) ∧
      (¬ refused → t.sansFab = { s with
        rng := { s.rng with c := modAt s.rng.c n fun _ => { (s.ring n).written v with
          enable := true, head := if (s.ring n).stopped then (s.ring n).head else (s.ring n).tail
          stopped := false, stallSaid := false } }
        csp := { data := 0 } }.sansFab)) ∧
  (∀ (s : State) (m : Nat) (v : Word), s.Serving → m < 64 →
    ((s.cqr m).enable = false → v.bit 0 = true →
      let fields := { s.cqr m with fmtB := v.bit 1, irqLine := v.field 7 4, sizeLog := v.field 12 8 }
      ∃ t, exec (.cqRingEnable m v) s = .next t ∧
        (6 ≤ v.field 12 8 ∧ v.field 12 8 ≤ 16 → t.sansFab = { s with
          rng := { s.rng with q := modAt s.rng.q m fun _ => { fields with
            enable := true, head := 0, widx := 0, phase := true, full := false } }
          csp := { data := 0 } }.sansFab) ∧
        (v.field 12 8 < 6 ∨ 16 < v.field 12 8 →
          t.sansFab = { s with rng := { s.rng with q := modAt s.rng.q m fun _ => fields }, csp := { data := 0 } }.sansFab)) ∧
    ((s.cqr m).enable = true → v.bit 0 = false →
      let held := (∃ r ∈ s.rng.c, r.enable = true ∧ r.cq = m) ∨ (∃ c ∈ s.rng.cmds, c.cq = m) ∨ ∃ e ∈ s.rng.comps, e.cq = m
      ∃ t, exec (.cqRingDisable m v) s = .next t ∧
        (held → t.sansFab = { s with csp := { data := 0 } }.sansFab) ∧
        (¬ held → t.sansFab = { s with
          rng := { s.rng with q := modAt s.rng.q m fun q => { q with enable := false } }, csp := { data := 0 } }.sansFab)))

/-- A doorbell sets the tail and nothing else of the registers (R63), and a ring that may fetch (enabled, not stopped, not
empty, fewer than 256 in flight, R67 and R68) asks for the line of the entry at its head.

COMMAND_FETCH. Once the entry at the head has been read, it is staged as a command that waits for dispatch, with the next
ticket and the completion ring that CQ names now (R72), and the head moves one entry on (R63, R64). An error response to the read leaves
the head, sets FETCH_ERR, stops the ring and raises RING_FETCH_ERROR (R67). A ring with 256 commands in flight fetches nothing (R68). -/
def Obligations.DoorbellAndFetch : Prop :=
  (∀ (s : State) (n : Nat) (v : Word), s.Serving → n < 64 → v.toNat % 65536 < 2 ^ (s.ring n).sizeLog →
    (∀ l, lineOf s (.entry n) l ≠ some none) →
    ∃ t, exec (.ringCtailDoorbell n v) s = .next t ∧
      t.sansFab = { s with
        rng := { s.rng with c := modAt s.rng.c n fun r => { r with tail := v.toNat % 65536 } }, csp := { data := 0 } }.sansFab ∧
      (n < s.rng.c.length → (s.ring n).enable = true → (s.ring n).stopped = false → (s.ring n).head ≠ v.toNat % 65536 →
        inFlight s n < 256 → s.LineFree ((s.ring n).entryAddr / 128) → t.Asked (.entry n) ((s.ring n).entryAddr / 128))) ∧
  (∀ (s : State) (n : Nat), s.Serving → n < 64 → n < s.rng.c.length → (s.ring n).enable = true → (s.ring n).stopped = false →
    (s.ring n).head ≠ (s.ring n).tail →
    (256 ≤ inFlight s n → ∃ t, exec (.commandFetch n) s = .next t ∧ t.sansFab = s.sansFab) ∧
    (inFlight s n < 256 →
      (∀ bs, lineOf s (.entry n) ((s.ring n).entryAddr / 128) = some (some bs) →
        ∃ t c, exec (.commandFetch n) s = .next t ∧
          t.sansFab = { s with rng := { s.rng with
            c := modAt s.rng.c n fun r => { r with head := (r.head + 1) % 2 ^ r.sizeLog, stallSaid := false }
            cmds := s.rng.cmds ++ [c], nextTicket := s.rng.nextTicket + 1 } }.sansFab ∧
          c.ticket = s.rng.nextTicket ∧ c.ring = n ∧ c.cq = (s.ring n).cq ∧ c.phase = .fetched ∧
          ((s.ring n).fmtB = true → c.ent = slice bs ((s.ring n).entryAddr % 128) 64)) ∧
      (lineOf s (.entry n) ((s.ring n).entryAddr / 128) = some none →
        ∃ t, exec (.commandFetch n) s = .next t ∧
          t.sansBel = { s with rng := { s.rng with
            c := modAt s.rng.c n fun r => { r with fetchErr := true, stopped := true } } }.sansBel ∧
          Raised s t .ring 0x0802 0 0 (n + 65536 * (s.ring n).head))))

/-- COMPLETION_WRITE into a free entry (R72 to R76): the record is written at the write index, in one fabric write for a ring
whose base is aligned (R73); the index moves on, and the phase inverts when it wraps (R74); the line's bit is set for a command with
IRQ (R76); the counters of 16 Table 16.6 count it.

The bytes of a completion record (Table 2.5, R77): 32 in format B, 16 in format A; TAG, STATUS, OPCODE, PHASE and RING first in both. -/
def Obligations.CompletionRecords : Prop :=
  (∀ (s : State) (m : Nat) (e : Comp), s.carrying = true → nextComp s m = some e → (s.cqr m).hasRoom = true →
    (∀ l, lineOf s (.entry e.ring) l ≠ some none) →
    let q := s.cqr m
    let addr := q.base + q.widx * (if q.fmtB then 32 else 16)
    let cls := e.status / 4096
    ∃ t, exec (.completionWrite m) s = .next t ∧
      t.rng = { s.rng with
        comps := s.rng.comps.filter (·.ticket != e.ticket)
        q := modAt s.rng.q m fun q => { q with
          full := false, widx := (q.widx + 1) % 2 ^ q.sizeLog, phase := if q.widx + 1 = 2 ^ q.sizeLog then !q.phase else q.phase }
        completions := wrap32 (s.rng.completions + 1)
        clsNote := if cls = 1 then min (s.rng.clsNote + 1) 255 else min s.rng.clsNote 255
        clsRej := if cls = 2 then min (s.rng.clsRej + 1) 255 else min s.rng.clsRej 255
        clsFail := if cls = 3 then min (s.rng.clsFail + 1) 255 else min s.rng.clsFail 255
        clsAbort := if cls = 4 then min (s.rng.clsAbort + 1) 255 else min s.rng.clsAbort 255
        lastErr := if cls < 2 then s.rng.lastErr else e.status + 65536 * e.ring + 16777216 * e.opcode } ∧
      t.bel = { s.bel with cqPending := if e.irq then s.bel.cqPending ||| 1 <<< q.irqLine else s.bel.cqPending } ∧
      { t with rng := s.rng, bel := s.bel }.sansFab = s.sansFab ∧
      (∀ l ∈ linesOf addr (cplRecord q e).length, ∃ r ∈ t.fab.stores ++ t.fab.waiting, r.line = l ∧ r.who = .completion m ∧
        r.data = (lineWrite addr (cplRecord q e) l).1 ∧ r.enables = (lineWrite addr (cplRecord q e) l).2) ∧
      (q.base % 4096 = 0 → (linesOf addr (cplRecord q e).length).length = 1)) ∧
  (∀ (q : CplRing) (e : Comp), e.ring < 64 → e.tag < 2 ^ 32 → e.status < 2 ^ 16 → e.opcode < 2 ^ 8 → e.stream < 2 ^ 14 → e.step < 2 ^ 32 →
    e.d0 < 2 ^ 64 → e.d1 < 2 ^ 64 →
    let r := cplRecord q e
    r.length = (if q.fmtB then 32 else 16) ∧ getLE r 0 4 = e.tag ∧ getLE r 4 2 = e.status ∧ getLE r 6 1 = e.opcode ∧
      getLE r 7 1 = (if q.phase then 1 else 0) + 2 * e.ring ∧
      (q.fmtB = false → getLE r 8 8 = e.d0) ∧
      (q.fmtB = true → getLE r 8 2 = (if e.hasStream then e.stream else 0) ∧ getLE r 10 2 = 0 ∧ getLE r 12 4 = e.step ∧
        getLE r 16 8 = e.d0 ∧ getLE r 24 8 = e.d1))

/-- RING_QHEAD records how far software has read; FULL falls once an entry is free (R75).

R75 without a free entry: FULL is set, CQ_FULL raised once, and no ring that names the completion ring dispatches. -/
def Obligations.CompletionRingRoom : Prop :=
  (∀ (s : State) (m : Nat) (v : Word), s.Serving → m < 64 →
    ∃ t, exec (.ringQheadWrite m v) s = .next t ∧
      t.sansFab = { s with
        rng := { s.rng with q := modAt s.rng.q m fun q => { q with
          head := v.toNat % 65536, full := q.full && ((q.widx + 1) % 2 ^ q.sizeLog == v.toNat % 65536) } }
        csp := { data := 0 } }.sansFab) ∧
  (∀ (s : State) (m : Nat) (e : Comp), s.carrying = true → m < s.rng.q.length → nextComp s m = some e →
    (s.cqr m).hasRoom = false → (s.cqr m).full = false →
    ∃ t, exec (.completionWrite m) s = .next t ∧
      t.sansBel = { s with rng := { s.rng with q := modAt s.rng.q m fun q => { q with full := true } } }.sansBel ∧
      Raised s t .ring 0x0903 0 0 m ∧
      ∀ c : Cmd, (s.ring c.ring).cq = m → mayDispatch t c = false)

/-- COMMAND_DISPATCH (R69). The ring that has the turn dispatches while its turn lasts; then the next ring in ascending order that has a
command to dispatch begins a turn of WEIGHT + 1. DISPATCHED counts, and the command is with its unit, or the first failing check of R80
completes it. With nothing to dispatch nothing changes.

R70: the ring watchdog raises RING_STALL for a ring whose head and tail differ, once for each stay, and does nothing else; period 0
switches it off (16 Table 16.6a). -/
def Obligations.DispatchAndWatchdog : Prop :=
  (∀ (s : State), s.carrying = true → s.rng.rrRing < 64 →
    (∀ k c, k < 64 → ringPick s ((s.rng.rrRing + k) % 64) = some c → (∀ j < k, ringPick s ((s.rng.rrRing + j) % 64) = none) →
      let m := (s.rng.rrRing + k) % 64
      let left := if k = 0 ∧ s.rng.rrLeft ≠ 0 then s.rng.rrLeft - 1 else (s.ring c.ring).weight
      ∃ t, exec .commandDispatch s = .next t ∧ c.ring = m ∧
        { t with rng := s.rng }.sansFab = s.sansFab ∧
        (headerStatus s c = none → t.rng = { s.rng with
          dispatched := wrap32 (s.rng.dispatched + 1), rrRing := if left = 0 then (m + 1) % 64 else m, rrLeft := left
          cmds := modWhere s.rng.cmds (·.ticket == c.ticket) fun c => { c with phase := .dispatched } }) ∧
        (∀ st, headerStatus s c = some st → ∃ e : Comp, e.IsFor c st.code 0 0 0 ∧ t.rng = { s.rng with
          dispatched := wrap32 (s.rng.dispatched + 1), rrRing := if left = 0 then (m + 1) % 64 else m, rrLeft := left
          cmds := s.rng.cmds.filter (·.ticket != c.ticket), comps := s.rng.comps ++ [e] })) ∧
    ((∀ n < 64, ringPick s n = none) → ∃ t, exec .commandDispatch s = .next t ∧ t.sansFab = s.sansFab)) ∧
  (∀ (s : State) (n : Nat), s.Serving → (s.ring n).head ≠ (s.ring n).tail →
    (s.lan.ringWdog.v ≠ 0 → (s.ring n).stallSaid = false → ∃ t, exec (.ringStall n) s = .next t ∧
      t.sansBel = { s with rng := { s.rng with c := modAt s.rng.c n fun r => { r with stallSaid := true } } }.sansBel ∧
      Raised s t .lantern 0x0901 0 0 n) ∧
    ((s.ring n).stallSaid = true → ∃ t, exec (.ringStall n) s = .next t ∧ t.sansFab = s.sansFab))

/-! ## Commands of the block (02, 03, 05, 06, 07, 12) -/

/-- NOP and a FENCE without SYNC_RECORDS complete with OK and change nothing; a FENCE that waits for the owner's record ring
completes once every entry staged when it executed is written, which its n0 says (R94, Table 2.10). -/
def Obligations.NopAndFenceComplete : Prop :=
  ∀ (s : State) (k : Nat) (c : Cmd),
    (s.Accepted k 0x00 c → ∃ t, exec (.nop k) s = .next t ∧ Completed s t c 0 0 0 0 ∧ { t with rng := s.rng }.sansFab = s.sansFab) ∧
    (s.Accepted k 0x01 c → c.bit 16 0 = false → ∃ t, exec (.fence k) s = .next t ∧ Completed s t c 0 0 0 0 ∧
      { t with rng := s.rng }.sansFab = s.sansFab) ∧
    (s.Executing k 0x01 c → c.bit 16 0 = true →
      let ring := (s.ownPkr c.owner).recRing
      (c.n0 ≤ ring.wseq → ∃ t, exec (.fence k) s = .next t ∧ Completed s t c 0 0 0 0 ∧
        { t with rng := s.rng }.sansFab = s.sansFab) ∧
      (ring.wseq < c.n0 → c.n0 ≤ ring.next → ∃ t, exec (.fence k) s = .next t ∧ t.sansFab = s.sansFab))

/-- COMMIT_CONFIG applies every selected group with staged writes, or none (R103 to R106): a mask of 0 selects all. With a selected
group that fails its check, nothing is applied and DETAIL0 names the failing groups; otherwise each group's live values become
the staged ones and DETAIL0 names the groups. Group 0 reaches each queue at its next reservation, publication or read (11 R424). Groups 0, 1,
3, 4 and 5 here.

Group 2 of COMMIT_CONFIG for an owner without open streams (10 R398): the record, replay and checkpoint areas are the staged ones,
both rings begin at sequence number 0 with nothing staged, and PKR_REC_HEAD is 0. -/
def Obligations.CommitConfig : Prop :=
  (∀ (s : State) (k : Nat) (c : Cmd), s.Accepted k 0x02 c →
    let sel := fun g => (c.le 16 4 == 0 || (c.le 16 4).testBit g) && groupWritten s g
    ((∃ g < 6, sel g = true ∧ groupOk s g = false) →
      ∃ t, exec (.commitConfig k) s = .next t ∧ { t with rng := s.rng }.sansFab = s.sansFab ∧
        Completed s t c 0x2018 0 (bitmapOf ((List.range 6).filter fun g => sel g && !groupOk s g)) 0) ∧
    ((∀ g < 6, sel g = true → groupOk s g = true) → sel 2 = false →
      ∃ t, exec (.commitConfig k) s = .next t ∧ Completed s t c 0 0 (bitmapOf ((List.range 6).filter sel)) 0 ∧
        let l1 := if sel 1 then { s.lan with
          ckTokens := { v := s.lan.ckTokens.stg, stg := s.lan.ckTokens.stg }, ckMs := { v := s.lan.ckMs.stg, stg := s.lan.ckMs.stg }
          g1Written := false } else s.lan
        let l3 := if sel 3 then { l1 with
          ringWdog := { v := s.lan.ringWdog.stg, stg := s.lan.ringWdog.stg }, idleTmo := { v := s.lan.idleTmo.stg, stg := s.lan.idleTmo.stg }
          deadline := { v := s.lan.deadline.stg, stg := s.lan.deadline.stg }
          turWdog := { v := s.lan.turWdog.stg, stg := s.lan.turWdog.stg }, g3Written := false } else l1
        t.sansFab = { s with
          rng := t.rng, lan := l3
          eqs := if sel 0 then { s.eqs with qs := s.eqs.qs.map fun (q : EqQueue) =>
            if q.stgWritten then { q with newWm := some (q.highStg, q.lowStg), stgWritten := false } else q } else s.eqs
          bel := if sel 4 then { s.bel with routes := s.bel.routesStg, msgs := s.bel.msgsStg, stgWritten := false } else s.bel
          mem := if sel 5 then { s.mem with
            marchEn := s.mem.marchEnStg, marchPeriod := s.mem.marchPeriodStg, stgWritten := false } else s.mem }.sansFab)) ∧
  (∀ (s : State) (k o : Nat) (c : Cmd), s.Accepted k 0x02 c → c.le 16 4 = 4 → groupOk s 2 = true → o < 64 → o < s.pkr.owners.length →
    (s.ownPkr o).stgWritten = true → (∀ x ∈ s.ctx.streams, (s.ownPkr x.owner).stgWritten = false) →
    ∃ t, exec (.commitConfig k) s = .next t ∧ t.Answered c 0 0 4 0 ∧
      let p := s.ownPkr o
      t.ownPkr o = { p with
        recRing := { base := (p.area 0).1, sizeLog := (p.area 0).2 }, rplRing := { base := (p.area 1).1, sizeLog := (p.area 1).2 }
        ckBase := (p.area 2).1, ckLog := (p.area 2).2, head := 0, stgWritten := false })

/-- LOAD_VOCAB with its image read (n0 = 1 says that its header passed, 03 R128 to R130, Table 3.5): a wrong digest or a bad body leaves the
slot empty with the status of the check; otherwise the slot holds the image and the completion tells V and the bytes taken. An occupied
slot answers ID_BUSY. DROP_VOCAB empties a loaded slot that nothing is bound to and that no job names, else IN_USE (R133).

LOAD_AUTOMATON. With a good image that fits on the block and without EAGER the automaton is loaded, its serial and history move on,
and DETAIL0 and DETAIL1 tell the transition entries on and off the block; a load with eager or spilled parts does the same once its fills and its
writes are over (06 R235 to R240). DROP_AUTOMATON frees an id that no stream is bound to, with its Cupola entries; the serial and
history stay (R241); a bound one answers IN_USE. -/
def Obligations.SlotsAndAutomata : Prop :=
  (∀ (s : State) (k : Nat) (c : Cmd),
    (s.Accepted k 0x10 c → (s.slot c.slot16).st ≠ .empty →
      ∃ t, exec (.loadVocab k) s = .next t ∧ Completed s t c 0x2009 0 0 0 ∧ { t with rng := s.rng }.sansFab = s.sansFab) ∧
    (∀ img, s.Executing k 0x10 c → c.n0 = 1 → readBytes s (.command c.ticket) c.addr24 c.len32 = .got img →
      (computedDigest img ≠ imgDigest img → ∃ t, exec (.loadVocab k) s = .next t ∧ Completed s t c 0x2013 0 0 0 ∧
        { t with rng := s.rng }.sansFab = { s with voc := { s.voc with slots := modAt s.voc.slots c.slot16 fun _ => {} } }.sansFab) ∧
      (computedDigest img = imgDigest img → vocBodyOk img = false → ∃ t, exec (.loadVocab k) s = .next t ∧
        Completed s t c 0x2012 0 0 0 ∧
        { t with rng := s.rng }.sansFab = { s with voc := { s.voc with slots := modAt s.voc.slots c.slot16 fun _ => {} } }.sansFab) ∧
      (computedDigest img = imgDigest img → vocBodyOk img = true →
        let p := parseVoc img
        let bytes := p.sLen + s.variant.replicas * p.lLen
        ∃ t, exec (.loadVocab k) s = .next t ∧ Completed s t c 0 0 p.v bytes ∧
          { t with rng := s.rng }.sansFab = { s with voc := { s.voc with slots := modAt s.voc.slots c.slot16 fun _ => {
            st := .loaded, img := p, entries := p.v, bytes := bytes, addr := c.addr24, len := c.len32 } } }.sansFab)) ∧
    (s.Accepted k 0x11 c → (s.slot c.slot16).st = .loaded →
      let x := s.slot c.slot16
      let bound := (∃ y ∈ s.ctx.streams, y.slot = c.slot16) ∨ ∃ a ∈ s.aut.auts, a.st ≠ .empty ∧ a.slot = c.slot16
      (bound → ∃ t, exec (.dropVocab k) s = .next t ∧ Completed s t c 0x200F 0 0 0 ∧ { t with rng := s.rng }.sansFab = s.sansFab) ∧
      (¬ bound → (∀ j ∈ s.job.js, c.slot16 ∉ j.slots) →
        ∃ t, exec (.dropVocab k) s = .next t ∧ Completed s t c 0 0 x.entries x.bytes ∧
          { t with rng := s.rng }.sansFab = { s with voc := { s.voc with slots := modAt s.voc.slots c.slot16 fun _ => {} } }.sansFab))) ∧
  (∀ (s : State) (k : Nat) (c : Cmd), let n := c.b 16 % 64; let a := s.automaton n
    let done := fun (b : Automaton) (t : State) => let serial := (a.serial + 1) % 256
      Completed s t c (if a.spilled then 0x1001 else 0) 0 a.transOn (b.img.transCount - a.transOn) ∧
      t.aut = { s.aut with auts := modAt s.aut.auts n fun _ => { b with
        st := .loaded, serial := serial, history := ((serial, b.img.digest) :: a.history).take 16 } }
    (∀ img, s.Executing k 0x12 c → c.n0 = 1 → n < s.aut.auts.length → readBytes s (.command c.ticket) c.addr24 c.len32 = .got img →
      computedDigest img = imgDigest img → autBodyOk img (s.slot (c.b 18 % 8)).img = true → a.spilled = false → c.bit 17 0 = false →
      (∀ e ∈ s.cup.entries, e.fillFor = none) →
      ∃ t, exec (.loadAutomaton k) s = .next t ∧ { t with rng := s.rng, aut := s.aut }.sansFab = s.sansFab ∧
        done { a with
          img := parseAut img (s.slot (c.b 18 % 8)).img.v, owner := c.owner, shared := c.bit 17 1, eager := false
          addr := c.addr24, len := c.len32, spillAddr := c.le 40 8, spillLen := c.le 48 4 } t) ∧
    (s.Executing k 0x12 c → c.n0 = 3 → n < s.aut.auts.length → (∀ e ∈ s.cup.entries, e.fillFor = some c.ticket → e.filling = false) →
      ∃ t, exec (.loadAutomaton k) s = .next t ∧ done a t) ∧
    (s.Executing k 0x12 c → c.n0 = 2 → n < s.aut.auts.length → c.failed = false → writesOut s (.spillLine c.ticket) = false →
      c.bit 17 0 = false → (∀ e ∈ s.cup.entries, e.fillFor = none) → ∃ t, exec (.loadAutomaton k) s = .next t ∧ done a t) ∧
    (s.Accepted k 0x13 c → a.st = .loaded → (a.shared = true → (s.ring c.ring).priv = true) → (a.shared = false → a.owner = c.owner) →
      ((∃ x ∈ s.ctx.streams, x.aut = some n) → ∃ t, exec (.dropAutomaton k) s = .next t ∧ Completed s t c 0x200F 0 0 0 ∧
        { t with rng := s.rng }.sansFab = s.sansFab) ∧
      ((∀ x ∈ s.ctx.streams, x.aut ≠ some n) → (∀ j ∈ s.job.js, n ∉ j.auts) →
        ∃ t, exec (.dropAutomaton k) s = .next t ∧ Completed s t c 0 0 0 0 ∧
          { t with rng := s.rng, tur := s.tur }.sansFab = { s with
            aut := { s.aut with auts := modAt s.aut.auts n fun a => { serial := a.serial, history := a.history } }
            cup := { s.cup with entries := s.cup.entries.filter fun e => !((e.key.map fun (q : CupKey) => q.aut == n).getD false) } }.sansFab ∧
          ((∀ e ∈ s.cup.entries, (e.key.map fun (q : CupKey) => q.aut) = some n → e.filling = false) → t.tur = s.tur))))

/-- LOAD_PROGRAM and LOAD_STOPSET with the image read and no job that names the item (07 R288 to R290, 05 R192 to R194): a wrong digest
keeps what was loaded; a good image takes effect whole, and DETAIL0 tells its bytes; that of a stop set which a stream is bound to by now takes none
(the model's choice, log entry 82). With LEN 0 the item is unloaded. -/
def Obligations.ProgramsAndStopSets : Prop :=
  ∀ (s : State) (k : Nat) (c : Cmd), let n := c.b 16
    (s.Executing k 0x14 c → (∀ j ∈ s.job.js, j.prog ≠ some n) →
      (∀ img, 0 < c.len32 → c.n0 = 1 → readBytes s (.command c.ticket) c.addr24 c.len32 = .got img →
        (computedDigest img ≠ imgDigest img → ∃ t, exec (.loadProgram k) s = .next t ∧ Completed s t c 0x2013 0 0 0 ∧
          ∀ p, s.program? n = some p → p.foot ≠ 0 → p.st = .loaded → p.resv = 0 → t.program? n = some p) ∧
        (computedDigest img = imgDigest img → progBodyOk img = true →
          ∃ t, exec (.loadProgram k) s = .next t ∧ Completed s t c 0 0 (progFootprint img) 0 ∧
            { t with rng := s.rng }.sansFab = { s with aut := { s.aut with
              progs := modWhere s.aut.progs (·.id == n) fun _ => parseProg img n c.addr24 } }.sansFab)) ∧
      (c.len32 = 0 → ∃ t, exec (.loadProgram k) s = .next t ∧ Completed s t c 0 0 0 0 ∧
        { t with rng := s.rng }.sansFab = { s with aut := { s.aut with progs := s.aut.progs.filter (·.id != n) } }.sansFab)) ∧
    (s.Executing k 0x15 c → (∀ j ∈ s.job.js, j.stop ≠ some (c.owner, n)) →
      let bound := c.bit 17 0 = true ∧ ∃ x ∈ s.ctx.streams, x.owner = c.owner ∧ x.stop = some n
      (∀ img, 0 < c.len32 → c.n0 = 1 → readBytes s (.command c.ticket) c.addr24 c.len32 = .got img →
        (computedDigest img ≠ imgDigest img → ∃ t, exec (.loadStopset k) s = .next t ∧ Completed s t c 0x2013 0 0 0 ∧
          ∀ p, s.stop? c.owner n = some p → p.foot ≠ 0 → p.st = .loaded → p.resv = 0 → t.stop? c.owner n = some p) ∧
        (computedDigest img = imgDigest img → stopCanonical img = true → bound → ∃ t, exec (.loadStopset k) s = .next t ∧
          Completed s t c 0x200F 0 0 0 ∧
          ∀ p, s.stop? c.owner n = some p → p.foot ≠ 0 → p.st = .loaded → p.resv = 0 → t.stop? c.owner n = some p) ∧
        (computedDigest img = imgDigest img → stopCanonical img = true → ¬ bound →
          ∃ t, exec (.loadStopset k) s = .next t ∧ Completed s t c 0 0 (stopFootprint img) 0 ∧
            { t with rng := s.rng }.sansFab = { s with aut := { s.aut with
              stops := modWhere s.aut.stops (fun p => p.owner == c.owner && p.id == n) fun _ =>
                parseStop img c.owner n c.addr24 } }.sansFab)) ∧
      (c.len32 = 0 → ∃ t, exec (.loadStopset k) s = .next t ∧ Completed s t c 0 0 0 0 ∧
        { t with rng := s.rng }.sansFab = { s with aut := { s.aut with
          stops := s.aut.stops.filter fun p => !(p.owner == c.owner && p.id == n) } }.sansFab))

/-- OWNER_KEY on a free key slot, its blob read, asks the key port; the key that the port presents unwraps the blob (12 R460, R461, Table
12.6): a wrong check value or equal halves is KEY_FAULT, a good key goes to the owner's slot with the first 8 bytes of the blob's SHA-256
as its fingerprint. A key port that presents no key is KEY_FAULT with cause 0. An owner with a key answers ID_BUSY.

OWNER_RELEASE, with no other command of the owner in flight (12 R455): afterwards the owner has no open stream, no automaton of its own, no
stop set, no key, epoch 0 and no revoked epoch, no areas, empty queues; no store line is tagged for it, and every word of a line that was
reads 0 (here no error injection is armed); FIN_RESULT_CTL of the owner is 0. Another owner's tagged lines and words stay. -/
def Obligations.OwnerKeysAndRelease : Prop :=
  (∀ (s : State) (k : Nat) (c : Cmd),
    (s.Accepted k 0x18 c → s.key? c.owner ≠ none → ∃ t, exec (.ownerKey k) s = .next t ∧ Completed s t c 0x2009 0 0 0 ∧
      { t with rng := s.rng }.sansFab = s.sansFab) ∧
    (∀ blob, s.Accepted k 0x18 c → s.key? c.owner = none → c.addr24 % 8 = 0 →
      readBytes s (.command c.ticket) c.addr24 72 = .got blob → s.cry.unwrap = none →
      ∃ t, exec (.ownerKey k) s = .next t ∧ t.sansFab = { s with
        cry := { s.cry with unwrap := some c.ticket }
        rng := { s.rng with cmds := modWhere s.rng.cmds (·.ticket == c.ticket) fun c => { c with phase := .executing } } }.sansFab) ∧
    (∀ blob duk, s.carrying = true → s.cry.unwrap = some k → s.cmd? k = some c →
      readBytes s (.command c.ticket) c.addr24 72 = .got blob →
      let u := kwUnwrap duk blob
      (u.1 = List.replicate 8 (0xA6 : Byte) → u.2.take 32 ≠ u.2.drop 32 →
        ∃ t, exec (.dukKeyValid duk) s = .next t ∧ Completed s t c 0 0 0 0 ∧
          { t with rng := s.rng }.sansFab = { s with
            lan := { s.lan with keys := setAt s.lan.keys c.owner (some { key := u.2, fp := getLE (sha256 blob) 0 8 }) }
            cry := { s.cry with unwrap := none, dukSeen := true } }.sansFab) ∧
      (∀ cause, (cause = 1 ∧ u.1 ≠ List.replicate 8 (0xA6 : Byte)) ∨
          (cause = 2 ∧ u.1 = List.replicate 8 (0xA6 : Byte) ∧ u.2.take 32 = u.2.drop 32) →
        ∃ t, exec (.dukKeyValid duk) s = .next t ∧ Completed s t c 0x2014 0 0 0 ∧
          { t with rng := s.rng }.sansFab = { s with cry := { s.cry with
            unwrap := none, dukSeen := true, keyFaults := wrap32 (s.cry.keyFaults + 1), keyFaultLast := c.owner + 64 * cause } }.sansFab)) ∧
    (s.carrying = true → s.cry.unwrap = some k → s.cmd? k = some c →
      ∃ t, exec .dukTimeout s = .next t ∧ Completed s t c 0x2014 0 0 0 ∧
        { t with rng := s.rng }.sansFab = { s with cry := { s.cry with
          unwrap := none, dukSeen := false, keyFaults := wrap32 (s.cry.keyFaults + 1), keyFaultLast := c.owner } }.sansFab)) ∧
  (∀ (s : State) (k : Nat) (c : Cmd), s.Accepted k 0x19 c → (∀ d ∈ s.rng.cmds, d.owner = c.owner → d.ticket = c.ticket) →
    (∀ x ∈ s.ctx.streams, x.owner = c.owner → x.recorded = []) → s.aut.auts.length ≤ 64 →
    let o := c.owner
    ∃ t d0, exec (.ownerRelease k) s = .next t ∧ t.Answered c 0 0 d0 0 ∧
      (∀ x ∈ t.ctx.streams, x.owner ≠ o) ∧ (∀ a ∈ t.aut.auts, a.st ≠ .empty → a.shared = false → a.owner ≠ o) ∧
      (∀ p ∈ t.aut.stops, p.owner ≠ o) ∧ t.lan.keys = setAt s.lan.keys o none ∧
      t.owner o = { epoch := 0, revoked := [] } ∧ (t.ownPkr o).recRing.sizeLog = 0 ∧ (t.ownPkr o).rplRing.sizeLog = 0 ∧
      (t.ownPkr o).ckLog = 0 ∧ (∀ q ∈ t.eqs.qs, q.owner = o → q.recs = [] ∧ q.resv = []) ∧
      t.mem.tags = s.mem.tags.filter (fun g => g.2.toNat % 128 != o) ∧
      (s.mem.injArm = false → ∀ w ∈ s.mem.words, w ∈ t.mem.words ↔ ∀ g ∈ s.mem.tags, g.2.toNat % 128 = o → g.1 ≠ w.1 / 16) ∧
      t.fin.resultCtl = setAt s.fin.resultCtl o 0)

/-! ## Stream commands (02 R96 to R98, 10, 14) -/

/-- STREAM_OPEN: the first failing check of Table 10.1 completes it and changes no state (R374); one that passes opens the stream at once in
the state of R375 and Table 10.2: IDLE, nothing armed, step 0, temperature and top-p 1.0, the automaton's start set, and completes with its home
turret in DETAIL0. Every other stream stays. -/
def Obligations.StreamOpens : Prop :=
  ∀ (s : State) (k : Nat) (c : Cmd), s.Accepted k 0x20 c →
    (∀ st, openStatus s c = some st → ∃ t, exec (.streamOpen k) s = .next t ∧ Completed s t c st.code 0 0 0 ∧
      { t with rng := s.rng }.sansFab = s.sansFab) ∧
    (openStatus s c = none → s.tree? c.stream = none →
      ∃ t home x, exec (.streamOpen k) s = .next t ∧ openHome s c = some home ∧
        t.Answered c (if ((c.openAut.map fun n => (s.automaton n).spilled).getD false) then 0x1001 else 0) 0 home 0 ∧
        t.stream? c.stream = some x ∧ x.st = .idle ∧ x.owner = c.owner ∧ x.slot = c.slot16 ∧ x.aut = c.openAut ∧ x.stop = c.openStop ∧
        x.queue = c.b 32 % 64 ∧ x.home = home ∧ x.record = c.bit 18 2 ∧ x.seed = c.le 24 8 ∧
        x.epoch = (if c.bit 18 3 then (s.owner c.owner).epoch else c.le 20 4) ∧ x.next = 0 ∧ x.gen = 0 ∧ x.armed = some 0 ∧
        x.temp = 0x3F800000 ∧ x.topK = 0 ∧ x.topP = 0x3F800000 ∧ x.minP = 0 ∧ x.maxNew = none ∧ x.deadPolicy = 0 ∧ x.utf8Raw = false ∧
        x.bias = [] ∧ x.text = {} ∧ x.endReason = 0 ∧
        x.set = (match c.openAut with | some n => startSet (s.automaton n).img | none => []) ∧
        ∀ n, n ≠ c.stream → t.stream? n = s.stream? n)

/-- What R96 leaves of a state in which a command is recorded against a stream: the command waits, the stream lists it; `f` is what the
command changes in the stream before its boundary. -/
def Sys2Proof.Machine.State.recordedOn (s : State) (k id : Nat) (f : Stream → Stream) : State :=
  { s with
    rng := { s.rng with cmds := modWhere s.rng.cmds (·.ticket == k) fun c => { c with phase := .recorded } }
    ctx := { s.ctx with streams := modWhere s.ctx.streams (·.id == id) fun y =>
      { f y with recorded := if y.recorded.contains k then y.recorded else y.recorded ++ [k] } } }

/-- R96: a command for a stream with a step in flight is recorded and takes effect at the stream's next token boundary; until
then nothing of the stream changes but that a STREAM_CLOSE puts it in state CLOSING (R377) and an EPOCH_SET sets its pending
epoch (R386). One-stream forms; CLOSE with ABORT = 0; STREAM_PARAMS whose bindings pass, without a bias table.

R82, R98, R378: a stream command that the stream does not take completes at once and changes nothing: STREAM_STATE for a stream that is not
open, or does not accept it in its state, OWNER_MISMATCH for another owner's. -/
def Obligations.HeldAndRefusedCommands : Prop :=
  (∀ (s : State) (k : Nat) (c : Cmd) (x : Stream), x.atBoundary = false →
    (s.Takes k 0x21 c x → paramsStatus s x c = none → c.sel 3 = false →
      ∃ t, exec (.streamParams k) s = .next t ∧ t.sansFab = (s.recordedOn k x.id id).sansFab) ∧
    (s.Takes k 0x22 c x → ∃ t, exec (.prompt k) s = .next t ∧ t.sansFab = (s.recordedOn k x.id id).sansFab) ∧
    (s.Takes k 0x23 c x → ∃ t, exec (.stepArm k) s = .next t ∧ t.sansFab = (s.recordedOn k x.id id).sansFab) ∧
    (s.Takes k 0x24 c x → ∃ t, exec (.draft k) s = .next t ∧ t.sansFab = (s.recordedOn k x.id id).sansFab) ∧
    (s.Takes k 0x25 c x → c.bit 16 0 = false →
      ∃ t, exec (.streamClose k) s = .next t ∧ t.sansFab = (s.recordedOn k x.id fun y => { y with closing := true }).sansFab) ∧
    (s.Takes k 0x28 c x → c.ownerWide = false → epochRevoked s x.owner (c.le 20 4) = false →
      ∃ t, exec (.epochSet k) s = .next t ∧
        t.sansFab = (s.recordedOn k x.id fun y => { y with pendEpoch := some (c.le 20 4) }).sansFab) ∧
    (s.Takes k 0x42 c x → c.ownerWide = false →
      ∃ t, exec (.suspend k) s = .next t ∧ t.sansFab = (s.recordedOn k x.id id).sansFab)) ∧
  (∀ (s : State) (k : Nat) (c : Cmd),
    (s.stream? c.stream = none → ∀ i op, (i, op) ∈ [(Instr.streamParams k, 0x21), (.prompt k, 0x22), (.stepArm k, 0x23), (.draft k, 0x24),
        (.streamClose k, 0x25), (.reattach k, 0x44)] → s.Accepted k op c →
      ∃ t, exec i s = .next t ∧ Completed s t c 0x2008 0 0 0 ∧ { t with rng := s.rng }.sansFab = s.sansFab) ∧
    (∀ x, s.stream? c.stream = some x → ∀ i op, (i, op) ∈ [(Instr.streamParams k, 0x21), (.prompt k, 0x22), (.stepArm k, 0x23),
        (.draft k, 0x24), (.streamClose k, 0x25)] → s.Accepted k op c →
      (x.owner ≠ c.owner → ∃ t, exec i s = .next t ∧ Completed s t c 0x2005 0 0 0 ∧ { t with rng := s.rng }.sansFab = s.sansFab) ∧
      (x.owner = c.owner → x.closing = true ∨ accepts x op = false → ∃ t, exec i s = .next t ∧ Completed s t c 0x2008 0 0 0 ∧
        { t with rng := s.rng }.sansFab = s.sansFab)))

/-- R97 for STEP_ARM (10 R384): at a boundary it arms COUNT steps, 0 for no limit, and completes with the stream's next step; a STEP that is neither
0xFFFF_FFFF nor the next step is STEP_MISMATCH and arms nothing. -/
def Obligations.StepArmAtBoundary : Prop :=
  ∀ (s : State) (k : Nat) (c : Cmd) (x : Stream), s.Takes k 0x23 c x → x.Resting →
    (c.le 20 4 = 0xFFFFFFFF ∨ c.le 20 4 = x.next → ∃ t y, exec (.stepArm k) s = .next t ∧ t.Answered c 0 x.next (c.le 16 4) 0 ∧
      t.stream? x.id = some y ∧ y.armed = (if c.le 16 4 = 0 then none else some (c.le 16 4)) ∧ y.next = x.next) ∧
    (c.le 20 4 ≠ 0xFFFFFFFF → c.le 20 4 ≠ x.next → ∃ t y, exec (.stepArm k) s = .next t ∧ t.Answered c 0x2015 x.next 0 0 ∧
      t.stream? x.id = some y ∧ y.armed = x.armed)

/-- R97 for PROMPT (10 R381, R382): its tokens are taken in whole: the completion gives the next step, the number of tokens and the bytes read.
Here the slot is loaded, the bytes are read, ring and queue have room, the first checkpoint is taken, and a prompt that is shared or has a long piece (04 R173,
R178) has its units posted and its area.

R97 for STREAM_PARAMS (02 R84, R85): groups that SELECT names are taken, every other field keeps its value. Here the stream is not at a dead end,
MAX_NEW_TOKENS does not end it, and no held text is released. -/
def Obligations.PromptsAndParams : Prop :=
  (∀ (s : State) (k : Nat) (c : Cmd) (x : Stream) (bs : List Byte) (ts : List Nat), s.Takes k 0x22 c x → x.Resting → s.tree? x.id = none →
    jobSlot s x.slot = none → readBytes s (.command k) c.addr24 c.promptLen = .got bs → (promptTokens s x c bs).ids = .ok ts → x.waitCkpt = false →
    (promptShared (promptTokens s x c bs) c.promptLen = true ∨ promptLong (promptTokens s x c bs) = true → s.job? k ≠ none) →
    (promptLong (promptTokens s x c bs) = true → (x.home / 16, k) ∈ s.cup.longPiece) →
    spillHere s x (if c.bit 16 3 = true then (advanceSet s x ts).read else []) = true →
    x.next + ts.length ≤ 0xFFFFFFFD →
    ts.length + 1024 ≤ ((s.ownPkr x.owner).ring (!x.record)).entries (!x.record) →
    queueRoom s x (textRecord true x.id x.lastStep (endText x.utf8Raw x.text)) = true → ringRoom s x.owner (!x.record) ts.length = true →
    ∃ t y, exec (.prompt k) s = .next t ∧ t.Answered c 0 (x.next + ts.length) ts.length c.promptLen ∧
      t.stream? x.id = some y ∧ y.next = x.next + ts.length ∧ y.gen = 0 ∧ y.text = {}) ∧
  (∀ (s : State) (k : Nat) (c : Cmd) (x : Stream), s.Takes k 0x21 c x → x.Resting → s.tree? x.id = none → x.st ≠ .deadEnd →
    paramsStatus s x c = none →
    (c.sel 3 = true → ∃ bs, readBytes s (.command k) (c.le 40 8) (8 * (c.b 48 % 128)) = .got bs ∧ biasOk (s.vocOf x).v (biasPairs bs) = true) →
    (c.sel 1 = true → c.le 36 4 ≠ 0) → x.text.hold = [] →
    ∃ t y st, exec (.streamParams k) s = .next t ∧ t.Answered c st x.next 0 0 ∧
      st = (if c.sel 5 && !c.bit 20 6 && (s.automaton (c.b 20 % 64)).spilled then 0x1001 else 0) ∧
      t.stream? x.id = some y ∧ y.next = x.next ∧ y.seed = x.seed ∧ y.owner = x.owner ∧
      y.temp = (if c.sel 0 then c.word 24 else x.temp) ∧ y.topK = (if c.sel 0 then c.le 22 2 else x.topK) ∧
      y.topP = (if c.sel 0 then c.word 28 else x.topP) ∧ y.minP = (if c.sel 0 then c.word 32 else x.minP) ∧
      y.maxNew = (if c.sel 1 then some (c.le 36 4) else x.maxNew) ∧
      y.deadPolicy = (if c.sel 2 then c.b 18 % 4 else x.deadPolicy) ∧ y.utf8Raw = (if c.sel 2 then c.bit 18 2 else x.utf8Raw) ∧
      (c.sel 3 = false → y.bias = x.bias) ∧
      (∀ bs, c.sel 3 = true → readBytes s (.command k) (c.le 40 8) (8 * (c.b 48 % 128)) = .got bs → y.bias = biasPairs bs) ∧
      y.stop = (if c.sel 4 then (if c.bit 20 7 then none else some (c.b 19)) else x.stop) ∧
      y.aut = (if c.sel 5 then (if c.bit 20 6 then none else some (c.b 20 % 64)) else x.aut))

/-- R97 for STREAM_CLOSE, EPOCH_SET, SUSPEND and CHECKPOINT. A close publishes the held text and END, frees the stream and tells its last step and
end reason (10 R377, 11 R413). An epoch is set (R386). A suspended stream keeps the state it had for its RESUME (14 R526). A checkpoint takes the next serial and writes
the context in 32 lines (14 R518), or completes at once for a stream without slots. -/
def Obligations.BoundaryCommands : Prop :=
  ∀ (s : State) (k : Nat) (c : Cmd) (x : Stream), x.Resting →
    (s.Takes k 0x25 c x → c.bit 16 0 = false → s.tree? x.id = none → queueRoom s x (closeGroup x false) = true →
      ∃ t, exec (.streamClose k) s = .next t ∧ t.stream? x.id = none ∧ t.Answered c 0 x.lastStep (if x.endReason = 0 then 6 else x.endReason) 0 ∧
        (queueOwned s x = true → x.queue < s.eqs.qs.length → (∀ g ∈ (s.queue x.queue).resv, g.lost = false) →
          (t.queue x.queue).recs = (s.queue x.queue).recs ++ closeGroup x false)) ∧
    (s.Takes k 0x28 c x → c.ownerWide = false → epochRevoked s x.owner (c.le 20 4) = false →
      ∃ t y, exec (.epochSet k) s = .next t ∧ t.Answered c 0 x.next 0 0 ∧ t.stream? x.id = some y ∧ y.epoch = c.le 20 4 ∧ y.pendEpoch = none) ∧
    (s.Takes k 0x42 c x → c.ownerWide = false → s.tree? x.id = none →
      ∃ t y, exec (.suspend k) s = .next t ∧ t.Answered c 0 x.next 0 0 ∧ t.stream? x.id = some y ∧ y.st = .suspended ∧ y.prior = x.st ∧
        y.cause = .bySuspend) ∧
    (s.Takes k 0x41 c x → c.ownerWide = false →
      (∀ n, ckptSlot s x n = none) → c.n1 = 0 → ∃ t, exec (.checkpoint k) s = .next t ∧ t.Answered c 0 0 0 0) ∧
    (s.Takes k 0x41 c x → c.ownerWide = false → x.pendEpoch = none → ∀ addr key, ckptSlot s x (x.ckptSerial + 1) = some addr → s.key? x.owner = some key →
      ∃ t y, exec (.checkpoint k) s = .next t ∧ t.stream? x.id = some y ∧ y.ckptSerial = x.ckptSerial + 1 ∧ y.ckptDue = false ∧
        y.ckptPend = x.ckptPend ++ [(x.ckptSerial + 1, ((s.ownPkr x.owner).ring (!x.record)).next, 32, false)])

/-- The epochs of an owner. EPOCH_SET with OWNER_WIDE sets the owner's epoch; without open streams of the owner it completes, else it is pending for each of
them and recorded against it (02 R99, 10 R386, R387). EPOCH_REVOKE lists the revoked epoch with its FALLBACK as the most recent of 16, moves an owner that
is at it to the FALLBACK, which is pending from now on for the streams that were at it or had it pending (10 R388, R391); it completes once no record is
to be marked. A revoked epoch, or a revoked FALLBACK, is refused with EPOCH_REVOKED (02 R101); with records to mark and without a key it is NO_KEY.
Every affected stream has a step in flight. -/
def Obligations.OwnerEpochs : Prop :=
  ∀ (s : State) (k : Nat) (c : Cmd), let o := c.owner
    (s.Accepted k 0x28 c → c.ownerWide = true →
      (epochRevoked s o (c.le 20 4) = true → ∃ t, exec (.epochSet k) s = .next t ∧ Completed s t c 0x2016 0 0 0 ∧
        { t with rng := s.rng }.sansFab = s.sansFab) ∧
      (epochRevoked s o (c.le 20 4) = false → (∀ x ∈ s.ctx.streams, x.owner ≠ o) →
        ∃ t, exec (.epochSet k) s = .next t ∧ Completed s t c 0 0 0 0 ∧
          { t with rng := s.rng }.sansFab = { s with ctx := { s.ctx with
            owners := modAt s.ctx.owners o fun w => { w with epoch := c.le 20 4 } } }.sansFab) ∧
      (epochRevoked s o (c.le 20 4) = false → (s.ctx.streams.map (·.id)).Nodup →
        (∀ x ∈ s.ctx.streams, x.owner = o → x.atBoundary = false ∧ k ∉ x.recorded) →
        let ids := (s.ctx.streams.filter (·.owner == o)).map (·.id)
        ids ≠ [] → ∃ t, exec (.epochSet k) s = .next t ∧ t.sansFab = { s with
          rng := { s.rng with cmds := modWhere s.rng.cmds (·.ticket == k) fun d => { d with phase := .recorded, waits := ids, n0 := ids.length } }
          ctx := { s.ctx with
            owners := modAt s.ctx.owners o fun w => { w with epoch := c.le 20 4 }
            streams := modWhere s.ctx.streams (·.owner == o) fun y => { y with
              pendEpoch := some (c.le 20 4), recorded := y.recorded ++ [k] } } }.sansFab)) ∧
    (s.Accepted k 0x29 c →
      (epochRevoked s o (c.le 24 4) = true → ∃ t, exec (.epochRevoke k) s = .next t ∧ Completed s t c 0x2016 0 0 0 ∧
        { t with rng := s.rng }.sansFab = s.sansFab) ∧
      (epochRevoked s o (c.le 24 4) = false → s.key? o = none → (s.ownPkr o).head < (s.ownPkr o).recRing.next →
        ∃ t, exec (.epochRevoke k) s = .next t ∧ Completed s t c 0x200E 0 0 0 ∧ { t with rng := s.rng }.sansFab = s.sansFab) ∧
      (epochRevoked s o (c.le 24 4) = false → s.key? o ≠ none ∨ (s.ownPkr o).recRing.next ≤ (s.ownPkr o).head →
        (s.ctx.streams.map (·.id)).Nodup →
        let hit := fun x : Stream => x.owner == o && (x.epoch == c.le 20 4 || x.pendEpoch == some (c.le 20 4))
        (∀ x ∈ s.ctx.streams, hit x = true → x.atBoundary = false) →
        ∃ t, exec (.epochRevoke k) s = .next t ∧ t.ctx = { s.ctx with
          owners := modAt s.ctx.owners o fun w => {
            epoch := if w.epoch = c.le 20 4 then c.le 24 4 else w.epoch
            revoked := ((c.le 20 4, c.le 24 4) :: w.revoked).take 16 }
          streams := modWhere s.ctx.streams hit fun y => { y with pendEpoch := some (c.le 24 4), recorded := y.recorded ++ [k] } } ∧
          t.lan = s.lan ∧ t.mem = s.mem ∧ t.voc = s.voc ∧ t.aut = s.aut ∧ t.eqs = s.eqs ∧
          ((∀ x ∈ s.ctx.streams, hit x = false) → (s.ownPkr o).recRing.staged = [] →
            ((s.ownPkr o).recRing.next + 3) / 4 ≤ (s.ownPkr o).head / 4 →
            (∀ r ∈ s.fab.stores ++ s.fab.waiting, (∀ p n, r.who ≠ .markLine k p n) ∧ ∀ stop tries, r.who ≠ .ringLine o false stop tries) →
            c.n0 = 0 → c.failed = false → Completed s t c 0 0 0 0)))

/-- R102: SNAPSHOT executes only after the previous SNAPSHOT's marker has returned: until then it changes nothing and completes nothing. Once it executes, VALID
falls and the marker travels; the marker's return makes the copies, counts the snapshot and completes the command with the count in DETAIL0 (14 R535). -/
def Obligations.SnapshotWaitsForMarker : Prop :=
  ∀ (s : State) (k m : Nat) (c : Cmd),
    (s.Accepted k 0x40 c → s.snp.busy = some m → ∃ t, exec (.snapshot k) s = .next t ∧ t.sansFab = s.sansFab) ∧
    (s.Accepted k 0x40 c → s.snp.busy = none → ∃ t, exec (.snapshot k) s = .next t ∧ t.sansFab = { s with
      rng := { s.rng with cmds := modWhere s.rng.cmds (·.ticket == k) fun c => { c with phase := .recorded } }
      snp := { s.snp with valid := false, busy := some k, time := wrap32 s.lan.aonTime } }.sansFab) ∧
    (s.carrying = true → s.snp.busy = some k → s.cmd? k = some c →
      ∃ t, exec .snapshotMarkerReturn s = .next t ∧ Completed s t c 0 0 (wrap32 (s.snp.seq + 1)) 0 ∧
        { t with rng := s.rng }.sansFab = { s with snp := { s.snp with
          valid := true, seq := wrap32 (s.snp.seq + 1), busy := none, bank := some s.bank } }.sansFab)

/-- The state of a stream that a RESUME or REATTACH brings to state st is that state; from IDLE or RUNNING, at a boundary without a round, it goes on as its armed
count says. -/
def Sys2Proof.Machine.State.Returns (s : State) (x : Stream) (st : StState) (y : Stream) : Prop :=
  (st = .ended ∨ st = .deadEnd ∨ st = .stepFailed → y.st = st) ∧
  (st = .idle ∨ st = .running → x.atBoundary = true → s.tree? x.id = none → x.rebuild = false → boundFaulted s x = false →
    (∀ u, s.unit? x.id x.next 0x7F = some u → u.st ≠ .failed) → y.st = if x.armed = some 0 ∧ x.armSpent = false then .idle else .running)

/-- RESUME and REATTACH act at once; for one stream they complete with its next step, OWNER_WIDE with the number of streams. A resumed or reattached stream is
in the state that it was suspended in, or suspended as before when a start found it so; one whose step failed runs it again and spends no armed step
(14 R508, R526, R527). Without a key RESUME is NO_KEY. A REATTACH with another STEP or TAG is STEP_MISMATCH or TAG_MISMATCH and changes nothing.

FLUSH of one queue (11 R421): every record goes but one that is partly read; a FLUSHED record with their number follows; the queue takes its
pending watermarks (R424) and FC_XOFF follows R423. Another owner's queue is OWNER_MISMATCH. With ALL the same happens to every queue of the owner, and DETAIL0
is the sum. -/
def Obligations.ResumeReattachFlush : Prop :=
  (∀ (s : State) (k : Nat) (c : Cmd), s.Accepted k 0x43 c → c.ownerWide = true →
    (s.key? c.owner = none → ∃ t, exec (.resume k) s = .next t ∧ Completed s t c 0x200E 0 0 0 ∧ { t with rng := s.rng }.sansFab = s.sansFab) ∧
    (s.key? c.owner ≠ none → (s.ctx.streams.map (·.id)).Nodup →
      let mine := s.ctx.streams.filter fun x => x.owner == c.owner && streamTakes x 0x43
      ∃ t, exec (.resume k) s = .next t ∧ t.Answered c 0 0 mine.length 0 ∧
        ((∀ x ∈ mine, x.recorded = [] ∧ x.endDue = 0 ∧ x.zeroing = false) → ∀ x ∈ mine, ∃ y, t.stream? x.id = some y ∧
          (x.st = .suspended → s.Returns x x.prior y) ∧
          (x.st = .stepFailed → y.armSpent = true ∧ y.idleSaid = false ∧ s.Returns { x with armSpent := true } .running y)))) ∧
  (∀ (s : State) (k : Nat) (c : Cmd) (x : Stream), x.recorded = [] → x.endDue = 0 → x.zeroing = false →
    (s.Takes k 0x43 c x → c.ownerWide = false →
      (s.key? c.owner = none → ∃ t, exec (.resume k) s = .next t ∧ Completed s t c 0x200E 0 0 0 ∧ { t with rng := s.rng }.sansFab = s.sansFab) ∧
      (s.key? c.owner ≠ none → ∃ t y, exec (.resume k) s = .next t ∧ t.Answered c 0 x.next 0 0 ∧ t.stream? x.id = some y ∧
        (x.st = .suspended → s.Returns x x.prior y) ∧
        (x.st = .stepFailed → y.armSpent = true ∧ y.idleSaid = false ∧ s.Returns { x with armSpent := true } .running y))) ∧
    (s.Takes k 0x44 c x →
      (c.le 20 4 ≠ x.next → ∃ t, exec (.reattach k) s = .next t ∧ Completed s t c 0x2015 0 0 0 ∧ { t with rng := s.rng }.sansFab = s.sansFab) ∧
      (c.le 20 4 = x.next → c.le 24 8 ≠ x.susTag + 4294967296 * (s.lan.starts % 4294967296) →
        ∃ t, exec (.reattach k) s = .next t ∧ Completed s t c 0x2017 0 0 0 ∧ { t with rng := s.rng }.sansFab = s.sansFab) ∧
      (c.le 20 4 = x.next → c.le 24 8 = x.susTag + 4294967296 * (s.lan.starts % 4294967296) →
        ∃ t y, exec (.reattach k) s = .next t ∧ t.Answered c 0 x.next 0 0 ∧ t.stream? x.id = some y ∧
          (x.inner = none → s.Returns x x.prior y) ∧
          ∀ i, x.inner = some i → y.st = .suspended ∧ y.cause = i.1 ∧ y.prior = i.2 ∧ y.inner = none))) ∧
  (∀ (s : State) (k : Nat) (c : Cmd), s.Accepted k 0x48 c → c.bit 17 0 = true → s.eqs.qs.length = 64 →
    let mine := (List.range 64).filter fun n => (s.queue n).owner == c.owner
    ∃ t, exec (.flush k) s = .next t ∧ Completed s t c 0 0 ((mine.map fun n => (s.queue n).flushOut.2).sum) 0 ∧
      { t with rng := s.rng, eqs := s.eqs }.sansFab = s.sansFab ∧
      ∀ n, t.queue n = if n < 64 ∧ (s.queue n).owner = c.owner then (s.queue n).flushOut.1 else s.queue n) ∧
  (∀ (s : State) (k : Nat) (c : Cmd), s.Accepted k 0x48 c → c.bit 17 0 = false →
    let n := c.b 16 % 64
    let q := s.queue n
    ((q.owner ≠ c.owner → ∃ t, exec (.flush k) s = .next t ∧ Completed s t c 0x2005 0 0 0 ∧ { t with rng := s.rng }.sansFab = s.sansFab) ∧
     (q.owner = c.owner → n < s.eqs.qs.length →
      let keep := if q.partRead = 0 then [] else q.recs.take 1
      let gone := q.recs.length - keep.length
      ∃ t, exec (.flush k) s = .next t ∧ Completed s t c 0 0 gone 0 ∧
        { t with rng := s.rng, eqs := s.eqs }.sansFab = s.sansFab ∧
        (∀ m, m ≠ n → t.queue m = s.queue m) ∧
        (t.queue n).recs = keep ++ [egressRecord 4 false 0 0 gone []] ∧ (t.queue n).partRead = q.partRead ∧ (t.queue n).resv = q.resv ∧
        (t.queue n).records = wrap32 (q.records + 1) ∧ (t.queue n).flushed = min (q.flushed + gone) 65535 ∧
        (t.queue n).newWm = none ∧
        (t.queue n).xoff = (q.xoffEn && (if (t.queue n).high ≤ (t.queue n).fill then true
          else if (t.queue n).fill ≤ (t.queue n).low then false else q.xoff)))))

/-! ## Bulk jobs (04, 05, 06, 10) -/

/-- A job of a ticket that has its input and its plan: the output of each unit, and the completion that it will post. -/
def Sys2Proof.Machine.State.Planned (t : State) (k : Nat) (outs : List (List (Nat × List Byte))) (status : Status) (d0 d1 : Nat) : Prop :=
  ∃ j, t.job? k = some j ∧ j.reading = false ∧ j.units.map (·.out) = outs ∧ j.result = status ∧ j.d0 = d0 ∧ j.d1 = d1

/-- Jobs start (04 R141, 05 R210, 06 R258, 10 R401). A failing check completes the command before any output byte is written. An empty input of a TOKENIZE or DETOKENIZE completes
at once with OK. Otherwise the job is placed on the cluster with the fewest pending input bytes (01 R45), under a lead turret that is ungated, and reads its input.

A job whose input has been read has its whole plan: what each unit writes, in unit order, and the completion (05 R209 to R214, 06 R258 to R260). DETOKENIZE, whose
first units the lead turret posts to its lane when that is empty (04 R166, R168), or which completes with DIGEST_MISMATCH when an item that it names is FAULTED by now (14 R515);
and MASK_REPLAY with all its references checked. -/
def Obligations.JobsStartAndPlan : Prop :=
  (∀ (s : State) (k : Nat) (c : Cmd),
    let lead := pickLead s (pickCluster s)
    let placed := fun (kind input : Nat) (prog : Option Nat) (stop : Option (Nat × Nat)) (t : State) => t.sansFab = { s with
      rng := { s.rng with cmds := modWhere s.rng.cmds (·.ticket == k) fun c => { c with phase := .recorded } }
      tur := { s.tur with ts := modAt s.tur.ts lead fun u => { u with gated := false } }
      job := { s.job with js := s.job.js ++ [({
        ticket := k, kind := kind, cluster := pickCluster s, lead := lead, input := input, reading := true, addr := c.outAddr
        slots := if c.slotless then [] else [c.slot16], prog := prog, stop := stop } : Job)] } }.sansFab
    (s.Accepted k 0x30 c →
      (∀ st, tokenizeStatus s c = some st → ∃ t, exec (.tokenize k) s = .next t ∧ Completed s t c st.code 0 0 0 ∧
        { t with rng := s.rng }.sansFab = s.sansFab) ∧
      (∀ bs, tokenizeStatus s c = none → readBytes s (.command k) c.addr24 (16 * c.len32) = .got bs → scatterOk bs = true →
        let total := ((segsOf bs).map Prod.snd).sum
        (total = 0 → ∃ t, exec (.tokenize k) s = .next t ∧ Completed s t c 0 0 0 0 ∧ { t with rng := s.rng }.sansFab = s.sansFab) ∧
        ((∃ g ∈ segsOf bs, awaited s (.command k) g.1 g.2 = true) → (readable s (.command k) c.addr24 (16 * c.len32)).1 = bs →
          ∃ t, exec (.tokenize k) s = .next t ∧ placed 0 total (some (tokenizeProgram s c)) none t))) ∧
    (s.Accepted k 0x31 c →
      (∀ st, detokStatus s c = some st → ∃ t, exec (.detokenize k) s = .next t ∧ Completed s t c st.code 0 0 0 ∧
        { t with rng := s.rng }.sansFab = s.sansFab) ∧
      (detokStatus s c = none → c.len32 = 0 → ∃ t, exec (.detokenize k) s = .next t ∧ Completed s t c 0 0 0 0 ∧
        { t with rng := s.rng }.sansFab = s.sansFab) ∧
      (detokStatus s c = none → awaited s (.command k) c.addr24 (4 * c.len32) = true → c.len32 ≠ 0 →
        ∃ t, exec (.detokenize k) s = .next t ∧ placed 1 (4 * c.len32) none (if c.bit 17 2 then some (c.owner, c.b 19) else none) t)) ∧
    (s.Accepted k 0x39 c → (c.addr24 % 8 ≠ 0 ∨ c.outAddr % 128 ≠ 0) →
      ∃ t, exec (.maskReplay k) s = .next t ∧ Completed s t c 0x2002 0 0 0 ∧ { t with rng := s.rng }.sansFab = s.sansFab) ∧
    (s.Accepted k 0x38 c → c.addr24 % 64 ≠ 0 →
      ∃ t, exec (.pack k) s = .next t ∧ Completed s t c 0x2002 0 0 0xFFFFFFFF ∧ { t with rng := s.rng }.sansFab = s.sansFab)) ∧
  (∀ (s : State) (k : Nat) (c : Cmd), s.carrying = true → s.cmd? k = some c →
    (∀ j, c.opcode = 0x31 → c.phase = .recorded → s.job? k = some j → j.reading = true → awaited s (.command k) c.addr24 (4 * c.len32) = false →
      let r := readable s (.command k) c.addr24 (4 * c.len32)
      let ids := leWords 4 (r.1.take (r.1.length / 4 * 4))
      let d := detokGo (c.bit 17 1) (if c.bit 17 2 then s.stop? c.owner (c.b 19) else none) (jobVoc s c)
        (if c.fmtB then c.outLen else 64 * c.len32) r.2 ids {} 0 0
      let p := detokPlan d ids.length r.2
      (jobFaulted s j = true → ∃ t, exec (.detokenize k) s = .next t ∧ Completed s t c 0x2013 0 0 0 ∧ t.job? k = none) ∧
      (jobFaulted s j = false → p.units ≠ [] → j.nextUnit = 0 → j.errUnit = none →
      ∃ t, exec (.detokenize k) s = .next t ∧ t.Planned k (p.units.map (·.out)) p.result p.d0 p.d1 ∧
        { t with job := s.job, tur := s.tur }.sansFab = s.sansFab ∧
        (j.lead < s.tur.ts.length → (s.turret j.lead).lane = [] →
          (t.turret j.lead).lane = (List.range (min 64 p.units.length)).map fun n => { kind := j.kind, ticket := k, unit := n }))) ∧
    (∀ bs ms, c.opcode = 0x39 → c.phase = .dispatched → s.job? k = none → c.addr24 % 8 = 0 → c.outAddr % 128 = 0 →
      readBytes s (.command k) c.addr24 (8 * c.len32) = .got bs → replayRefs s c (leWords 8 bs) = .got ms →
      let fit := masksFit c.outLen ms 0
      fit ≠ [] →
      ∃ t, exec (.maskReplay k) s = .next t ∧ { t with job := s.job, rng := s.rng, cry := s.cry, tur := s.tur }.sansFab = s.sansFab ∧
        t.Planned k ((replayPlan fit (fit.length == ms.length)).units.map (·.out)) (if fit.length = ms.length then .ok else .outputFull)
          fit.length ((fit.map List.length).sum)))

/-- TOKENIZE output (04 R140, R171, R174, Table 4.2): for input read whole and units that do not fail, the units' outputs in order spell the ids
of the pieces in order, 4 little-endian bytes each; when they fit in the output buffer all of them and DETAIL0 counts them, DETAIL1 the input bytes; when they
do not, exactly as many as fit and the status is OUTPUT_FULL. -/
def Obligations.TokenizeWritesIdsInOrder : Prop :=
  ∀ (cap len : Nat) (us : List (Nat × Tok.UnitOut)), (∀ u ∈ us, u.2.fail = none) →
    let ids := us.flatMap fun u => u.2.pieces.flatMap (·.ids)
    let p := tokenPlan cap len true us 0 0 0
    (p.units.flatMap fun u => u.out.flatMap Prod.snd) = (ids.take cap).flatMap (leBytes 4) ∧
      (ids.length ≤ cap → p.result = .ok ∧ p.d0 = ids.length ∧ p.d1 = len) ∧
      (cap < ids.length → p.result = .outputFull ∧ p.d0 = cap)

/-- Units of a job (04 R168 to R173). UNIT_OUTPUT_WRITE writes the lowest unwritten unit at the output position, which moves on by its bytes, once no line of the job is outstanding;
its input counts as pending no longer (01 R45). A unit with a
long piece is written only while its job holds its cluster's area. STAGING_PIECE_FREE gives a waiting unit free pieces, up to 16, and it resumes once it
has what it needs. LONG_PIECE_AREA_GRANT gives a cluster's free area to the first that waits for it. -/
def Obligations.UnitsWrittenInOrder : Prop :=
  ∀ (s : State) (k : Nat) (j : Job), s.carrying = true → s.job? k = some j →
    (jobQuiet s k = false → ∃ t, exec (.unitOutputWrite k) s = .next t ∧ t.sansFab = s.sansFab) ∧
    (∀ u n bs, j.units[j.nextUnit]? = some u → j.reading = false → j.errUnit = none → jobQuiet s k = true → u.longPiece = false →
      u.out = [(n, bs)] → bs ≠ [] →
      ∃ t j', exec (.unitOutputWrite k) s = .next t ∧ t.job? k = some j' ∧ j'.nextUnit = j.nextUnit + 1 ∧ j'.addr = j.addr + bs.length ∧
        j'.input = j.input - u.input ∧
        (∀ l ∈ linesOf j.addr bs.length, ∃ r ∈ t.fab.stores ++ t.fab.waiting, r.line = l ∧ r.who = .jobLine k n ∧
          r.data = (lineWrite j.addr bs l).1) ∧
        t.rng = s.rng ∧ { t with job := s.job, cup := s.cup, tur := s.tur }.sansFab = s.sansFab) ∧
    (∀ u, j.units[j.nextUnit]? = some u → u.longPiece = true → j.reading = false → j.errUnit = none →
      (j.cluster, j.ticket) ∉ s.cup.longPiece → (∃ w ∈ s.cup.longPiece, w.1 = j.cluster) →
      ∃ t, exec (.unitOutputWrite k) s = .next t ∧ t.job? k = some j ∧ t.rng = s.rng) ∧
    (∀ n u, j.units[n]? = some u → u.suspended = true →
      let got := u.pieces + min (unitNeed u - u.pieces) (freePieces s)
      ∃ t, exec (.stagingPieceFree k n) s = .next t ∧ t.sansFab = { s with job := { s.job with
        js := modWhere s.job.js (·.ticket == k) fun j' => { j' with units := modAt j'.units n fun u => { u with
          pieces := got, suspended := decide (got < unitNeed u) && decide (j'.nextUnit < n) } } } }.sansFab) ∧
    (∀ g w s1, s.cup.longWait.find? (·.1 == g) = some w → (∀ v ∈ s.cup.longPiece, v.1 ≠ g) → makeRoom s longArea = some s1 →
      ∃ t, exec (.longPieceAreaGrant g) s = .next t ∧ t.cup.longPiece = s1.cup.longPiece ++ [w] ∧
        t.cup.longWait = s1.cup.longWait.filter (· != w) ∧ t.rng = s.rng)

/-- PACK's placement (10 R402): MB_COUNT micro-batches, each with ROWS rows, no row longer than ROW_LEN, no micro-batch over the token budget.

PACK with its descriptor and records read (10 R401 to R404): the result array and every micro-batch are written, and the job waits for the acknowledgements with
DETAIL0 the number of micro-batches and DETAIL1 the tokens packed. -/
def Obligations.PackMicroBatches : Prop :=
  (∀ d : PackDesc, 1 ≤ d.rows → d.rowLen ≤ d.budget →
    (packAll d).length = d.mbs ∧
    ∀ m ∈ packAll d, m.rows.length = d.rows ∧ m.tokens ≤ d.budget ∧ ∀ r ∈ m.rows, rowUsed r ≤ d.rowLen) ∧
  (∀ (s : State) (k : Nat) (c : Cmd) (bs : List Byte) (recs : List (List (List Byte))), s.Accepted k 0x38 c → c.addr24 % 64 = 0 →
    readBytes s (.command k) c.addr24 c.len32 = .got bs → descOk bs c.len32 = true → s.key? c.owner ≠ none →
    (s.ownPkr c.owner).recRing.sizeLog ≠ 0 →
    firstBad (fun q => !seqInRing (s.ownPkr c.owner).recRing q) (parseDesc bs).seqs 0 = none →
    packRecords s c (parseDesc bs).seqs 0 = .inl (.got recs) →
    let d := parseDesc bs
    ∃ t j, exec (.pack k) s = .next t ∧ t.job.js = s.job.js ++ [j] ∧ j.ticket = k ∧ j.isPack = true ∧ j.result = .ok ∧ j.d0 = d.mbs ∧
      j.d1 = (((List.range d.mbs).map fun p => (getN (packAll d) (getN d.schedule p)).tokens)).sum ∧
      { t with rng := s.rng, job := s.job, cry := s.cry }.sansFab = s.sansFab ∧
      ∀ l ∈ linesOf d.out d.resultBytes, ∃ r ∈ t.fab.stores ++ t.fab.waiting, r.line = l ∧ r.who = .jobLine k 0)

/-! ## A step: masks, logits, tokens (01, 06, 08, 09) -/

/-- MASK_RDY (01 R32, 06 R247, R248, 08 R331, 10 R384): a plain step whose keys are all in the Cupola, with a mask that is not empty, the transitions that its build reads,
and room for its values and a private entry, raises MASK_RDY for (stream, step); its unit has the descriptor, from which a selector reads the mask that was built; one armed
step is spent, once. Here the unit has no shard yet.

R249 under policy 0x0: at a dead end the stream enters DEAD_END, its unit goes, and GRAMMAR_DEAD_END is raised with the stream and the step by
the home turret (detail: automaton and configurations, 16 Table 16.9). Here the build drops nothing and reads no spilled state. -/
def Obligations.MaskReadyOrDeadEnd : Prop :=
  (∀ (s : State) (n : Nat) (x : Stream) (u : SelUnit), s.Serving → s.stream? n = some x → x.svc = .build → x.restoring = false →
    epochUnwritten s n = false → s.tree? x.id = none → s.unit? x.id x.next 0x7F = some u → u.sources = [] →
    (uncovered [] (coverRange s x).1 (coverRange s x).2).isSome = true → (∀ a, x.aut = some a → (s.automaton a).slot = x.slot) →
    (∀ k ∈ serviceKeys s x, ∃ e, s.cupEntry? k = some e ∧ e.filling = false) → x.forcedEos = false →
    let b := setMask s x x.set
    let at_ := (x.id, x.next, 0x7F)
    b.mask ≠ 0 → spillHere s x b.ev.read = true → (x.armed ≠ some 0 ∨ x.armSpent = true) →
    (b.wide = true → (∀ e ∈ s.cup.entries, e.priv ≠ some at_) ∧ makeRoom s (ceilDiv (s.vocOf x).v 1024 * 128) ≠ none) →
    (needsValues s x = true → unitPages (s.vocOf x).v ≤ pagesFree s) →
    ∃ t y v, exec (.maskRdy n) s = .next t ∧ t.fin.maskQueue = s.fin.maskQueue ++ [(x.id, x.next)] ∧
      t.stream? n = some y ∧ y.svc = .open ∧ y.armSpent = true ∧ y.armed = (if x.armSpent then x.armed else x.armed.map (· - 1)) ∧
      y.next = x.next ∧ y.set = x.set ∧
      t.unit? x.id x.next 0x7F = some v ∧ v.mask = some (b.desc at_) ∧ descMask t (s.vocOf x) (b.desc at_) = b.mask ∧ v.st = u.st ∧
      t.rng = s.rng ∧ t.eqs = s.eqs) ∧
  (∀ (s : State) (n : Nat) (x : Stream), s.Serving → s.stream? n = some x → x.svc = .build → x.restoring = false → epochUnwritten s n = false →
    s.tree? x.id = none → (∀ k ∈ serviceKeys s x, ∃ e, s.cupEntry? k = some e ∧ e.filling = false) → x.forcedEos = false →
    (setMask s x x.set).mask = 0 → (setMask s x x.set).ev.cells = [] → (setMask s x x.set).ev.confDrops = [] → (setMask s x x.set).ev.read = [] →
    spillHere s x [] = true → x.deadPolicy = 0 → x.recorded = [] → x.endDue = 0 → x.zeroing = false →
    ∃ t y, exec (.maskRdy n) s = .next t ∧ t.stream? n = some y ∧ y.st = .deadEnd ∧ y.svc = .none ∧ y.next = x.next ∧
      t.unit? x.id x.next 0x7F = none ∧ t.fin.maskQueue = s.fin.maskQueue ∧
      RaisedFrom s t (s.physOf x.home) 0x0001 x.id x.next (x.aut.getD 0 + 256 * x.set.length))

/-- CUPOLA_FILL_DONE makes the entry of its key valid, with all its units done (06 R245); every other entry keeps what it holds: here no eager load waits for it. CUPOLA_SPACE_FREE: a stream that waited under
CUPOLA_PRESSURE, whose keys are now all there and whose mask needs no private entry, waits no longer (R246).

The step ports (15 R544, R545): MASK_RDY pairs leave in the order raised, and STEP_ISSUED of a delivered pair starts the deadlines of its open units;
for a pair that was not delivered it changes nothing. -/
def Obligations.CupolaAndStepPorts : Prop :=
  (∀ (s : State), s.Serving →
    (∀ n q syms exact e, s.cupEntry? { aut := n, q := q, syms := syms, exact := exact } = some e → e.fillFor = none →
      ∃ t, exec (.cupolaFillDone n q syms exact) s = .next t ∧
        t.cupEntry? { aut := n, q := q, syms := syms, exact := exact } = some { e with filling := false, left := [] } ∧
        (∀ k, k ≠ { aut := n, q := q, syms := syms, exact := exact } → (t.cupEntry? k).map (fun e => (e.a, e.d, e.filling, e.pins)) =
          (s.cupEntry? k).map fun e => (e.a, e.d, e.filling, e.pins)) ∧
        { t with cup := s.cup, tur := s.tur, job := s.job }.sansFab = s.sansFab) ∧
    (∀ n x, s.stream? n = some x → x.waitCup = true → x.svc = .build → s.tree? x.id = none →
      (∀ k ∈ serviceKeys s x, ∃ e, s.cupEntry? k = some e ∧ e.filling = false) → (rootBuild s x).wide = false →
      ∃ t, exec (.cupolaSpaceFree n) s = .next t ∧ t.sansFab = { s with ctx := { s.ctx with
        streams := modWhere s.ctx.streams (·.id == n) fun y => { y with waitCup := false } } }.sansFab)) ∧
  (∀ (s : State), s.carrying = true →
    (∀ p rest, s.fin.maskQueue = p :: rest → ∃ t, exec .maskRdyDeliver s = .next t ∧
      t.sansFab = { s with fin := { s.fin with maskQueue := rest, maskGiven := s.fin.maskGiven ++ [p] } }.sansFab) ∧
    (∀ n step, (n, step) ∈ s.fin.maskGiven → ∃ t, exec (.stepIssued n step) s = .next t ∧ t.sansFab = { s with fin := { s.fin with
      maskGiven := s.fin.maskGiven.filter (· != (n, step))
      units := s.fin.units.map fun (u : SelUnit) =>
        if u.stream = n ∧ u.step = step ∧ u.st = UnitSt.open then { u with deadline := true } else u } }.sansFab) ∧
    (∀ n step, (n, step) ∉ s.fin.maskGiven → ∃ t, exec (.stepIssued n step) s = .next t ∧ t.sansFab = s.sansFab))

/-- A header beat on an enabled port (08 R299 to R303). A good header of a shard that is not empty, for an open unit whose descriptor was staged before its first shard and that
needs no values captured, opens the shard at the port and adds a source with the header's range. A wrong HCRC is fault HCRC: the port's fault bit 0 and
SELECTOR_PORT_FAULT, no unit named (R302). A stray header is counted and reported (R303). On a disabled port a beat is dropped and counted. -/
def Obligations.HeaderBeats : Prop :=
  ∀ (s : State) (p : Nat) (b : List Byte), s.carrying = true → p < s.variant.ports → p < s.sel.ports.length → 272 + p ∉ s.lan.domReset →
    let h := parseHeader b
    ((s.port p).enable = false → ∃ t, exec (.logitHeaderBeat p b) s = .next t ∧ t.sansFab = { s with sel := { s.sel with
      ports := modAt s.sel.ports p fun q => { q with dropped := wrap32 (q.dropped + 1) } } }.sansFab) ∧
    ((s.port p).enable = true → (s.port p).cur = none →
      (getLE b 16 4 ≠ crc32c (b.take 16) → ∃ t, exec (.logitHeaderBeat p b) s = .next t ∧
        t.sansBel = { s with sel := { s.sel with ports := modAt s.sel.ports p fun q => { q with
          cur := none, left := 0, drop := true, fault := q.fault ||| 1 } } }.sansBel ∧
        Raised s t (.selector p) 0x0201 0 0 p) ∧
      (getLE b 16 4 = crc32c (b.take 16) → h.hver = 1 ∨ h.hver = 2 → headerFieldBad b = false →
        (s.stream? h.stream = none → ∃ t, exec (.logitHeaderBeat p b) s = .next t ∧
          t.sansBel = { s with sel := { s.sel with ports := modAt s.sel.ports p fun q => { q with
            cur := none, left := h.count, drop := h.count != 0, stray := wrap32 (q.stray + 1) } } }.sansBel ∧
          Raised s t (.selector p) 0x0103 h.stream h.step (p + 256 * h.node)) ∧
        (∀ x u m, s.stream? h.stream = some x → h.base + h.count ≤ (s.vocOf x).v → s.unit? h.stream h.step h.node = some u →
          u.st = .open → u.noMask = false → u.late = false → u.sources.length < 1024 → u.mask = some m → needsValues s x = false → 0 < h.count →
          ∃ t, exec (.logitHeaderBeat p b) s = .next t ∧ t.sansFab = ({ s with
            sel := { s.sel with ports := modAt s.sel.ports p fun q => { q with
              cur := some (h.stream, h.step, h.node), left := h.count, fmt := h.fmt, drop := false
              shards := wrap32 (q.shards + 1), late := wrap32 q.late } } }.onUnit h.stream h.step h.node fun v => { v with sources := v.sources ++ [({
              src := p, port := p, base := h.base, count := h.count, mirror := h.mirror, crc := 0xFFFFFFFF, whole := false
              lanes := List.replicate 64 {} } : Source)] }).sansFab)))

/-- A data beat on an enabled port (08 R300, R309, 15 R543). LIp_VCNT 0 has no effect. A beat outside a shard is a fault. Within a shard that it does not end, its
values go to the unit's source in lane order as binary32 under the mask that the unit's descriptor gives, and the port counts values and padding. -/
def Obligations.DataBeats : Prop :=
  ∀ (s : State) (p v : Nat) (b : List Byte), s.carrying = true → p < s.variant.ports → p < s.sel.ports.length → 272 + p ∉ s.lan.domReset →
    (s.port p).enable = true →
    (v = 0 → ∃ t, exec (.logitDataBeat p v b) s = .next t ∧ t.sansFab = s.sansFab) ∧
    (0 < v → (s.port p).drop = false → (s.port p).cur = none → ∃ t, exec (.logitDataBeat p v b) s = .next t ∧
      t.sansBel = { s with sel := { s.sel with ports := modAt s.sel.ports p fun q => { q with fault := q.fault ||| 64 } } }.sansBel ∧
      Raised s t (.selector p) 0x0201 0 0 (p + 1536)) ∧
    (∀ id step node x u, 0 < v → (s.port p).drop = false → (s.port p).cur = some (id, step, node) → v < (s.port p).left →
      v ≤ (if (s.port p).fmt = 0 then 32 else 64) → s.stream? id = some x → s.unit? id step node = some u → u.st = .open →
      (∃ r ∈ u.sources, r.port = p ∧ r.peer = false ∧ r.whole = false ∧ r.mirror ≠ 2 ∧ r.got + v < r.count) →
      ∃ t w, exec (.logitDataBeat p v b) s = .next t ∧
        { t with sel := s.sel, fin := s.fin }.sansFab = s.sansFab ∧ (t.port p).left = (s.port p).left - v ∧
        (t.port p).values = (s.port p).values + v ∧
        (t.port p).padding = (s.port p).padding + ((if (s.port p).fmt = 0 then 32 else 64) - v) ∧
        t.unit? id step node = some w ∧ w.st = .open ∧
        w.sources = u.sources.map fun r => if r.port = p ∧ r.peer = false ∧ r.whole = false
          then r.take x (u.mask.map (descMask s (s.vocOf x))) (raceArgs x (yieldStep s u)) ((List.range v).map (laneValue (s.port p).fmt b)) else r)

/-- R506 and R317: at its deadline an open unit of a plain step fails with reason DEADLINE: STEP_FAILED is raised and counted, the FAIL record goes to the egress port, and the
stream waits in STEP_FAILED. Here no peer takes part. -/
def Obligations.DeadlineFailsTheStep : Prop :=
  ∀ (s : State) (n : Nat) (x : Stream) (u : SelUnit), s.carrying = true → s.stream? n = some x → s.unit? n x.next 0x7F = some u →
    u.st = .open → u.deadline = true → (partOf s x).1 = 0 → s.tree? x.id = none → x.svc = .open → x.held = [] → x.recorded = [] →
    x.endDue = 0 → x.zeroing = false → x.pendEpoch = none →
    ∃ t y, exec (.stepDeadlineExpire n x.next 0x7F) s = .next t ∧ t.stream? n = some y ∧ y.st = .stepFailed ∧ y.svc = .none ∧ y.next = x.next ∧
      t.unit? n x.next 0x7F = none ∧
      t.fin.egress = s.fin.egress ++ [{ stream := n, step := x.next, token := 0xFFFFFFFF, flags := 2 }] ∧
      t.fin.failLast = n + 16384 * 3 + 65536 * 0x7F ∧ Raised s t .finial 0x0101 n x.next (3 + 256 * 0x7F)

/-- FINIAL_TOKEN_RECORD (01 R36, 08 R318 to R328): the token that the unit's path chooses goes to the egress port with its EOS flag, the unit goes, the result is held
for the commit, and each merged peer is sent a notice (R342). -/
def Obligations.TokenRecord : Prop :=
  ∀ (s : State) (n : Nat) (x : Stream) (u : SelUnit), s.carrying = true → s.stream? n = some x → s.unit? n x.next 0x7F = some u →
    u.st = .closed → u.awaitNotice = false → s.tree? n = none → x.held = [] → x.svc = .open →
    let tok := (chooseToken x.params x.id x.next 0x7F u.closedVals (unitFlags x u true)).token
    ∃ t y r, exec (.finialTokenRecord n) s = .next t ∧ t.stream? n = some y ∧ y.held = [r] ∧ r.token = tok ∧ r.step = x.next ∧ y.next = x.next ∧
      t.unit? n x.next 0x7F = none ∧
      t.fin.egress = s.fin.egress ++ [{ stream := n, step := x.next, token := tok, flags := if (s.vocOf x).isEos tok then 4 else 0 }] ∧
      t.fin.peerOut = s.fin.peerOut ++ u.peersMerged.map (fun p => (p, 2, resultBytes r 0)) ∧
      t.rng = s.rng ∧ t.eqs = s.eqs ∧ t.pkr = s.pkr

/-- Messages on the peer merge input (08 R341, R342, 15 R547, R548). A message that is no good partial list, or a notice of another length, is dropped and reported as
SELECTOR_PORT_FAULT with the peer's source number. A good list for a unit that does not exist is a stray; for an open unit it becomes a source. A notice that its sender's step
waits for puts the merger's token on the egress port and holds its result. -/
def Obligations.PeerMessages : Prop :=
  ∀ (s : State) (i : Nat) (m : List Byte), s.carrying = true → s.hasPeer = true → i < s.variant.peers →
    (listOk m = false → ∃ t, exec (.peerPartialList i 1 m) s = .next t ∧ t.sansBel = s.sansBel ∧
      Raised s t .peer 0x0201 0 0 (32 + i)) ∧
    (m.length ≠ 64 → ∃ t, exec (.tokenNotice i m) s = .next t ∧ t.sansBel = s.sansBel ∧ Raised s t .peer 0x0201 0 0 (32 + i)) ∧
    (listOk m = true → let id := getLE m 0 2 % 16384; let node := (getN m 2).toNat; let step := getLE m 4 4
      (s.unit? id step node = none → ∃ t, exec (.peerPartialList i 1 m) s = .next t ∧ t.sansBel = s.sansBel ∧
        Raised s t .peer 0x0103 id step (32 + i + 256 * node)) ∧
      (∀ u, s.unit? id step node = some u → u.st = .open → u.noMask = false → u.sources.length < 1024 → u.mask = none →
        ∃ t, exec (.peerPartialList i 1 m) s = .next t ∧ t.sansFab = { s with fin := { s.fin with
          units := modWhere s.fin.units (fun (v : SelUnit) => v.stream == id && v.step == step && v.node == node) fun (v : SelUnit) =>
            { v with sources := v.sources ++ [peerSource i m] } } }.sansFab)) ∧
    (∀ x u, m.length = 64 → let r := resultOfBytes m
      s.stream? r.stream = some x → s.unit? r.stream r.step 0x7F = some u → u.st = .closed → u.awaitNotice = true → x.next = r.step → x.held = [] →
      ∃ t y, exec (.tokenNotice i m) s = .next t ∧ t.stream? r.stream = some y ∧ y.held = [{ r with list := u.list.take 64 }] ∧
        t.fin.egress = s.fin.egress ++ [{ stream := x.id, step := r.step, token := r.token
                                          flags := if (s.vocOf x).isEos r.token then 4 else 0 }])

/-- TOKEN_COMMIT (01 R27, 05 R203, 06, 10 R392, 11 R412 to R414): the held result of a plain step, with room in queue and ring and the transitions that its step reads, is committed whole: the next step number, the
token, the generated count, the advanced set in the area that was not active (10 R380), the text state, the group published, the entries staged; and a stream that ends there takes its end reason, is ENDED, and
sends the END record of the following step to the egress port (R41). -/
def Obligations.TokenCommits : Prop :=
  ∀ (s : State) (n : Nat) (x : Stream) (r : Result), s.carrying = true → s.stream? n = some x → x.restoring = false → x.held = [r] → x.waitCkpt = false →
    s.tree? n = none → x.recorded = [] → x.endDue = 0 → x.zeroing = false → x.st = .running →
    let p := commitPlan s x r
    queueRoom s x p.group = true → ringRoom s x.owner (!x.record) p.entries.length = true → x.owner < s.pkr.owners.length → x.queue < s.eqs.qs.length →
    spillHere s x p.stepped.read = true → x.endOut = false →
    ∃ t y, exec (.tokenCommit n) s = .next t ∧ t.stream? n = some y ∧ y.next = x.next + 1 ∧ y.gen = x.gen + 1 ∧ y.set = p.stepped.set ∧
      y.area1 = !x.area1 ∧ y.token = some r.token ∧
      (p.reason = 0 → y.text = p.feed.text ∧ y.endReason = x.endReason) ∧
      (p.reason ≠ 0 → y.st = .ended ∧ y.endReason = p.reason ∧ y.armed = some 0 ∧
        t.fin.egress = s.fin.egress ++ [{ stream := n, step := x.next + 1, token := 0xFFFFFFFF, flags := 1 }]) ∧
      ((t.ownPkr x.owner).ring (!x.record)).next = ((s.ownPkr x.owner).ring (!x.record)).next + p.entries.length ∧
      (queueOwned s x = true → (∀ g ∈ (s.queue x.queue).resv, g.lost = false) →
        (t.queue x.queue).recs = (s.queue x.queue).recs ++ p.group)

/-- R203: a stream ends at a token for the first reason that holds, in the order STOP_STRING, EOS, LENGTH; an EOS id gives no text, so it never completes a
stop match. What the end does (R41) is TokenCommits' last part. -/
def Obligations.EndReasonOrder : Prop :=
  ∀ (s : State) (x : Stream) (r : Result),
    let p := commitPlan s x r
    let stopped := p.feed.cut ≠ none
    let eos := (s.vocOf x).isEos r.token = true
    let long := x.maxNew = some (x.gen + 1) ∨ r.step = 0xFFFFFFFD
    (eos → ¬ stopped) ∧ (stopped → p.reason = 1) ∧ (¬ stopped → eos → p.reason = 2) ∧ (¬ stopped → ¬ eos → long → p.reason = 3) ∧
      (¬ stopped → ¬ eos → ¬ long → p.reason = 0)

/-- The timers of streams and rings. RECORD_LINE_TIMER writes every partly filled line of a ring: with a key, each staged entry is then under way (12 R457). CKPT_TIME_INTERVAL
makes every stream that committed since its last checkpoint due (14 R519); here each has a step in flight. STREAM_IDLE is raised once for each stay at a boundary (10 R385). -/
def Obligations.StreamTimers : Prop :=
  ∀ (s : State), s.Serving →
    (∀ o replay, o < s.pkr.owners.length → s.key? o ≠ none → ∃ t, exec (.recordLineTimer o replay) s = .next t ∧
      (∀ e ∈ ((t.ownPkr o).ring replay).staged, e.issued = true) ∧
      ((t.ownPkr o).ring replay).staged.map (fun e => (e.seq, e.bytes)) = ((s.ownPkr o).ring replay).staged.map (fun e => (e.seq, e.bytes)) ∧
      { t with pkr := s.pkr, cry := s.cry }.sansFab = s.sansFab) ∧
    (s.lan.ckMs.v ≠ 0 → (s.ctx.streams.map (·.id)).Nodup → (∀ x ∈ s.ctx.streams, x.ckptSteps ≠ 0 → x.atBoundary = false) →
      ∃ t, exec .ckptTimeInterval s = .next t ∧ t.sansFab = { s with ctx := { s.ctx with
        streams := s.ctx.streams.map fun (x : Stream) => if x.ckptSteps ≠ 0 then { x with ckptDue := true } else x } }.sansFab) ∧
    (∀ n x, s.stream? n = some x → s.lan.idleTmo.v ≠ 0 → x.atBoundary = true →
      (x.idleSaid = false → ∃ t, exec (.streamIdle n) s = .next t ∧
        t.sansBel = { s with ctx := { s.ctx with
          streams := modWhere s.ctx.streams (·.id == n) fun y => { y with idleSaid := true }
          idleEvents := wrap32 (s.ctx.idleEvents + 1) } }.sansBel ∧
        Raised s t .lantern 0x0003 n x.next s.lan.idleTmo.v) ∧
      (x.idleSaid = true → ∃ t, exec (.streamIdle n) s = .next t ∧ t.sansFab = s.sansFab))

/-- DRAFT_TREE_ATTACH (09 R351 to R354, R360): a recorded DRAFT at its stream's boundary whose STEP is the next step, whose tree passes Table 9.2 and finds room, attaches it and
completes with the step and the number of nodes; with another STEP it is STEP_MISMATCH and no tree is attached.

DRAFT_VERIFY_STEP under greedy verification (09 R361, R362, R366): at a position whose unit has closed, the token that the plain choice draws there is confirmed: held for the
commit after those before it and put on the egress port, marked as a draft token exactly when a live child of the position carries it. -/
def Obligations.DraftTrees : Prop :=
  (∀ (s : State) (n : Nat) (x : Stream) (c : Cmd) (k : Nat), s.Serving → s.stream? n = some x → x.atBoundary = true → x.endDue = 0 → x.zeroing = false →
    x.recorded = [k] → s.cmd? k = some c → c.opcode = 0x24 → s.tree? n = none → x.st = .idle ∨ x.st = .running → boundFaulted s x = false →
    (∀ u, s.unit? n x.next 0x7F = some u → u.st ≠ .failed) →
    (c.le 16 4 ≠ x.next → ∃ t, exec (.draftTreeAttach n) s = .next t ∧ t.Answered c 0x2015 (c.le 16 4) 0 0 ∧ t.tree? n = none) ∧
    (∀ tr bs, c.le 16 4 = x.next → draftFields c = true → readBytes s (.command k) c.addr24 c.len32 = .got bs → checkTree s x c (.got bs) = .ok tr → treeFits s tr = true →
      ∃ t y, exec (.draftTreeAttach n) s = .next t ∧ t.Answered c 0 x.next tr.nodes.length 0 ∧ t.tree? n = some y ∧
        y.nodes.map (fun d => (d.token, d.parent)) = tr.nodes.map (fun d => (d.token, d.parent)) ∧ y.step = x.next ∧ y.pos = 0x7F)) ∧
  (∀ (s : State) (n : Nat) (x : Stream) (tr : Tree) (u : SelUnit), s.carrying = true → s.stream? n = some x → s.tree? n = some tr →
    s.unit? n tr.step tr.pos = some u → tr.walking = true → x.svc = .open → u.st = .closed → u.awaitNotice = false → u.list ≠ [] → tr.stochastic = false →
    let plain := unitResult s x u none false
    let draft := (childrenOf tr.nodes tr.pos).any fun i => (getN tr.nodes i).token == plain.token && !(getN tr.nodes i).pruned
    ∃ t y r, exec (.draftVerifyStep n) s = .next t ∧ t.stream? n = some y ∧ y.held = x.held ++ [r] ∧ r.token = plain.token ∧ r.draft = draft ∧
      t.fin.egress = s.fin.egress ++ [{ stream := n, step := r.step, token := plain.token
                                        flags := (if (s.vocOf x).isEos plain.token then 4 else 0) + if draft then 8 else 0 }])

/-! ## Fabric, queues, stores, turret faults, registers (07, 10, 11, 12, 14, 15) -/

/-- The fabric ports (15 R552, 14 R523). A return takes the fetch of its port and tag from the outstanding ones, and its requester holds the line, or an error; an error ends
a command ring's read as a fetch error (02 R67). An acknowledgement takes the store: a completion's needs no more; a ring line's makes its entries written and counted (12
R457), and an error is repeated three times, then blocks the ring and raises RECORD_WRITE_FAULT (10 R397); an enumeration, a spill and a job remember an error, and a job with nothing
left to write completes (04 R174). A tag that is not outstanding is discarded and FABRIC_PORT_FAULT is raised. A port that leaves a request without a response raises
FABRIC_PORT_FAULT and is reset: each of its reads ends with an error. -/
def Obligations.FabricResponses : Prop :=
  ∀ (s : State) (p tag : Nat), s.Serving →
    (∀ r err line, s.fab.fetches.find? (fun (r : FabReq) => r.port == p && r.tag == tag) = some r →
      ∃ t, exec (.fabricFetchReturn p tag err line) s = .next t ∧ t.fab.fetches = s.fab.fetches.filter (· != r) ∧
        ((err = true → ∀ n, r.who ≠ .entry n) → (∀ n, r.who ≠ .message n) → t.sansFab = s.sansFab ∧
          t.fab.lines = s.fab.lines ++ [(r.who, r.line, if err then none else some (slice line 0 128))]) ∧
        (∀ n, r.who = .message n → t.sansFab = s.sansFab ∧ t.fab.lines = s.fab.lines) ∧
        (∀ n, err = true → r.who = .entry n →
          t.sansBel = { s with rng := { s.rng with c := modAt s.rng.c n fun r => { r with fetchErr := true, stopped := true } } }.sansBel ∧
          Raised s t .ring 0x0802 0 0 (n + 65536 * (s.ring n).head))) ∧
    (∀ err line, (∀ r ∈ s.fab.fetches, r.port = p → r.tag ≠ tag) →
      ∃ t, exec (.fabricFetchReturn p tag err line) s = .next t ∧ t.sansBel = s.sansBel ∧ t.fab.fetches = s.fab.fetches ∧
        t.fab.lines = s.fab.lines ∧ Raised s t .fabric 0x0801 0 0 (p + 4)) ∧
    (∀ r err, s.fab.stores.find? (fun (r : FabReq) => r.port == p && r.tag == tag) = some r →
      ∃ t, exec (.fabricStoreAck p tag err) s = .next t ∧
        (∀ n, r.who = .completion n ∨ r.who = .message n → t.sansFab = s.sansFab ∧
          (s.fab.waiting = [] → t.fab.stores = s.fab.stores.filter (· != r))) ∧
        (r.who = .enumLine → t.sansFab = (if err = true then { s with ctx := { s.ctx with enumErr := true } } else s).sansFab) ∧
        (∀ k, r.who = .spillLine k → t.sansFab = (if err = true then { s with rng := { s.rng with
          cmds := modWhere s.rng.cmds (·.ticket == k) fun c => { c with failed := true } } } else s).sansFab) ∧
        (∀ o replay stop tries, r.who = .ringLine o replay stop tries → o < s.pkr.owners.length → (∀ c ∈ s.rng.cmds, c.opcode ≠ 0x29) →
          let ring := (s.ownPkr o).ring replay
          let line := (stop - 1) / perLine replay
          let new := ring.staged.filter fun e => e.seq / perLine replay == line && decide (e.seq < stop) && !e.acked
          (err = false → (t.ownPkr o).ring replay = ring.markWritten replay line stop ∧ { t with pkr := s.pkr }.sansFab = s.sansFab ∧
            (replay = true → t.pkr.replays = wrap32 (s.pkr.replays + new.length) ∧ t.pkr.records = s.pkr.records) ∧
            (replay = false → t.pkr.records = wrap32 (s.pkr.records + (new.filter (·.isRec)).length) ∧
              t.pkr.confEntries = wrap32 (s.pkr.confEntries + (new.filter (!·.isRec)).length))) ∧
          (err = true → tries < 3 → (s.key? o).isSome = true →
            ∃ w ∈ t.fab.stores ++ t.fab.waiting, ∃ stop', w.who = .ringLine o replay stop' (tries + 1)) ∧
          (err = true → 3 ≤ tries → ring.blocked = false → ((t.ownPkr o).ring replay).blocked = true ∧
            { t with pkr := s.pkr }.sansBel = s.sansBel ∧ Raised s t .records 0x0803 0 0 (o + 64 * b2n replay))) ∧
        (∀ k n j c, r.who = .jobLine k n → s.job? k = some j → s.cmd? k = some c → err = false →
          j.reading = false → j.errUnit = none → j.units.length ≤ j.nextUnit → j.isPack = false →
          (∀ w ∈ s.fab.stores.filter (· != r) ++ s.fab.waiting, ∀ m, w.who ≠ .jobLine k m) →
          t.job? k = none ∧ Completed s t c j.result.code 0 j.d0 j.d1)) ∧
    (∀ err, (∀ r ∈ s.fab.stores, r.port = p → r.tag ≠ tag) →
      ∃ t, exec (.fabricStoreAck p tag err) s = .next t ∧ t.sansBel = s.sansBel ∧ Raised s t .fabric 0x0801 0 0 (p + 4)) ∧
    ((∃ r ∈ s.fab.fetches ++ s.fab.stores, r.port = p) → (∀ r ∈ s.fab.fetches, r.port = p → ∀ n, r.who ≠ .entry n ∧ r.who ≠ .message n) →
      (∀ r ∈ s.fab.stores, r.port = p → ∃ n, r.who = .completion n ∨ r.who = .message n) →
      ∃ t, exec (.fabricResponseTimeout p) s = .next t ∧ t.sansBel = { s with lan := { s.lan with
          domReset := insertBy id (304 + p) s.lan.domReset } }.sansBel ∧ Raised s t .fabric 0x0801 0 0 p ∧
        t.fab.fetches = s.fab.fetches.filter (·.port != p) ∧
        t.fab.lines = s.fab.lines ++ (s.fab.fetches.filter (·.port == p)).map fun r => (r.who, r.line, none))

/-- Reads of egress queues (11 R415, R416, 15 R553). A drain read of 128 bytes, and a read of EQ_DATA of 4, return the next published bytes in order, and an IDLE record
where fewer are there; the bytes returned leave the queue. A drain write, and a read while the block does not serve, get an error of zeros and remove nothing. -/
def Obligations.QueueReads : Prop :=
  ∀ (s : State) (p ofs tag : Nat), s.eqs.qs.length = 64 →
    let left := fun (u : State) (q : Nat) => (u.queue q).recs.flatten.drop (u.queue q).partRead
    let error := fun u : State => { u with eqs := { u.eqs with drainErrors := wrap32 (u.eqs.drainErrors + 1) }
                                           fab := { u.fab with drains := u.fab.drains ++
                                             [{ port := p, tag := tag, err := true, data := List.replicate 128 0 }] } }
    (s.Serving → ∃ t, exec (.drainRead p ofs tag) s = .next t ∧
      t.fab.drains = s.fab.drains ++ [{ port := p, tag := tag, err := false
                                        data := (left s (bits ofs 19 14) ++ (0 : Byte) :: List.replicate 127 0xFF).take 128 }] ∧
      left t (bits ofs 19 14) = (left s (bits ofs 19 14)).drop 128 ∧ (∀ q, q ≠ bits ofs 19 14 → t.queue q = s.queue q) ∧
      { t with eqs := s.eqs, fab := s.fab }.sansFab = s.sansFab) ∧
    (s.Serving → ∀ q < 64, ∃ t, exec (.eqDataRead q) s = .next t ∧
      t.csp = { data := BitVec.ofNat 32 (leNat ((left s q ++ [(0 : Byte), 0xFF, 0xFF, 0xFF]).take 4)) } ∧
      left t q = (left s q).drop 4 ∧ { t with eqs := s.eqs, csp := s.csp }.sansFab = s.sansFab) ∧
    (s.fab.waiting = [] → exec (.drainWrite p ofs tag) s = .next (error s) ∧
      (s.carrying = false → exec (.drainRead p ofs tag) s = .next (error s)))

/-- One whole-word write that its line's tag allows, presented alone to a macro that is free (12 R442, R443, R453): the word holds the value and is good, unless an armed
injection for the store makes it bad, once; no other word changes. A write of part of a word leaves a word that holds an uncorrectable error uncorrectable. -/
def Obligations.WordWrites : Prop :=
  ∀ (s : State) (m u : Nat) (r : StoreReq) (w : Nat) (en : BitVec 8) (x : DWord), s.Serving → hasMacro s m u = true →
    s.mem.busy.contains (m, u) = false → marchHolds s m u = false → retriesAt s m u = [] → (r.cls ≤ 5 ∨ fixOf s m u = none) →
    scanon {} s.mem.words = true → r.op = .write w en x →
    let row := r.line % Variant.storeRows m
    tagAllows m (s.lineTag m u row) (StoreReq.atRow m r) = true →
    (en = 0xFF → ∃ t, exec (.storeAccessGrant m u [r]) s = .next t ∧
      t.rawWord m u row (w % 16) = { value := x
                                     err := if s.mem.injArm && s.mem.injStore == m then (if s.mem.injDouble then 2 else 1) else 0 } ∧
      t.mem.injArm = (s.mem.injArm && s.mem.injStore != m) ∧ t.mem.tags = s.mem.tags ∧
      ∀ k, k ≠ wordKey m u row (w % 16) → sget {} t.mem.words k = sget {} s.mem.words k) ∧
    (en ≠ 0xFF → (s.rawWord m u row (w % 16)).err = 2 → ∃ t, exec (.storeAccessGrant m u [r]) s = .next t ∧
      (t.rawWord m u row (w % 16)).err = 2)

/-- Arbitration of a macro (12 R433 to R435, Table 12.1). A class-1 read is served before a request of a higher class number: it gets the words of its line, and the other stalls, which
counts as a refusal. A requester refused 256 times in a row is promoted and counted; one refused less often is not. A macro that the configuration does not have is a fault. -/
def Obligations.StoreArbitration : Prop :=
  ∀ (s : State) (m u : Nat),
    (s.Serving → hasMacro s m u = true → s.mem.busy.contains (m, u) = false → marchHolds s m u = false → retriesAt s m u = [] → ∀ a b : StoreReq, a.cls = 1 → 1 < b.cls →
      a.op = .read → (∀ i < 16, (s.rawWord m u (a.line % Variant.storeRows m) i).err = 0) →
      tagAllows m (s.lineTag m u (a.line % Variant.storeRows m)) (StoreReq.atRow m a) = true →
      ∃ t, exec (.storeAccessGrant m u [b, a]) s = .next t ∧ t.mem.words = s.mem.words ∧ t.mem.tags = s.mem.tags ∧
        t.mem.resp = [{ requester := a.requester, code := 0
                        data := (List.range 16).map fun i => (s.rawWord m u (a.line % Variant.storeRows m) i).value }] ∧
        t.refusals m u b.requester = s.refusals m u b.requester + 1) ∧
    (s.Serving → hasMacro s m u = true → ∀ q, ∃ t, exec (.arbStarvePromote m u q) s = .next t ∧ t.sansFab =
      (if 256 ≤ s.refusals m u q ∧ (m, u, q) ∉ s.mem.promoted then { s with mem := { s.mem with
        promoted := s.mem.promoted ++ [(m, u, q)], starve := wrap32 (s.mem.starve + 1) } } else s).sansFab) ∧
    (hasMacro s m u = false → (∀ rs, exec (.storeAccessGrant m u rs) s = .fault .noSuchMacro) ∧
      ∀ q, exec (.arbStarvePromote m u q) s = .fault .noSuchMacro)

/-- The march test (12 R444 to R448). A start takes the region after the last one, where its words are good, and holds its macro. A region that completes is over: its words hold what was saved, and are good, no
other word changes, the last of a sweep counts the sweep, and a failed compare is counted, logged and reported as MARCH_FAIL. -/
def Obligations.MarchTest : Prop :=
  ∀ (s : State), s.Serving →
    (∀ m u r, s.mem.marchEn = true → s.mem.region = none → s.mem.posValid = true → s.mem.again = false →
      regionAt s.variant (List.range 9) ((s.mem.pos + 1) % s.variant.marchRegions) = some (m, u, r) → groupAllocated s m u (2 * r) = true →
      (∀ x ∈ regionWords r, (s.rawWord m u x.1 x.2).err = 0) →
      ∃ t, exec .marchRegionStart s = .next t ∧ t.sansFab = { s with mem := { s.mem with
        pos := (s.mem.pos + 1) % s.variant.marchRegions, region := some (m, u, r) } }.sansFab) ∧
    (∀ fails row m u r, s.mem.region = some (m, u, r) → s.mem.injArm = false → scanon {} s.mem.words = true →
      let after := fun t : State => { s with mem := { s.mem with
        words := t.mem.words, fixes := t.mem.fixes, region := none, again := false, tries := 0, skips := wrap32 (s.mem.skips + 0)
        sweeps := wrap32 (s.mem.sweeps + if s.mem.pos + 1 = s.variant.marchRegions then 1 else 0) } }
      let place := m + 16 * u + 16384 * (2 * r + row % 2)
      ∃ t, exec (.marchRegionDone fails row) s = .next t ∧
        (∀ x ∈ regionWords r, t.rawWord m u x.1 x.2 = { value := (s.rawWord m u x.1 x.2).value, err := 0 }) ∧
        (∀ k, (∀ x ∈ regionWords r, k ≠ wordKey m u x.1 x.2) → sget {} t.mem.words k = sget {} s.mem.words k) ∧
        (fails = false → t.sansFab = (after t).sansFab) ∧
        (fails = true → t.sansBel = { after t with mem := { (after t).mem with fails := wrap32 (s.mem.fails + 1), marchLast := place } }.sansBel ∧
          Raised s t .test 0x0502 0 0 place))

/-- Recovery from poisoned words (14 R515, R521, R522). A restore whose better slot is read, with no ring entry behind it, gives the stream its checkpointed context and raises
STREAM_RECOVERED; with no good slot the stream is SUSPENDED and lost, and STREAM_LOST is raised. A repair whose image reads with its digest ends; else the item is FAULTED and
IMAGE_REPAIR_FAILED is raised. Here a step of the restored stream is in flight. -/
def Obligations.RestoreAndRepair : Prop :=
  ∀ (s : State), s.Serving →
    (∀ n x, s.stream? n = some x → x.restoring = true → slotsMissing s x = false → x.recorded = [] → x.endDue = 0 → x.zeroing = false → x.spill = [] →
      (∀ k, let ring := (s.ownPkr x.owner).ring (!x.record); bestSlot s x = some k → ring.wseq ≤ wholeSeq ring.next k.seq → ring.staged = [] →
        x.svc = .open → ∃ t, exec (.contextRestoreDone n) s = .next t ∧ t.stream? n = some { contextOf x k with restoring := false } ∧
          t.ctx.recovered = satAdd s.ctx.recovered 1 65535 ∧ Raised s t .context 0x0701 n k.next k.serial) ∧
      (bestSlot s x = none → s.tree? n = none → ∃ t y, exec (.contextRestoreDone n) s = .next t ∧ t.stream? n = some y ∧
        y.lost = true ∧ y.st = .suspended ∧ y.restoring = false ∧ y.held = [] ∧ y.svc = .none ∧
        t.ctx.lost = satAdd s.ctx.lost 1 65535 ∧ Raised s t .context 0x0702 n x.next 0)) ∧
    (∀ kind id owner e bs, kind < 4 → s.mem.repairs.contains (kind, id, owner) = true → itemImage s kind id owner = some e →
      readBytes s (.repair kind id owner) e.1 e.2.1 = .got bs →
      ∃ t, exec (.imageRepairDone kind id owner) s = .next t ∧ (kind, id, owner) ∉ t.mem.repairs ∧
        (computedDigest bs = e.2.2 → t.aut = s.aut ∧ t.voc = s.voc ∧ t.bel = s.bel ∧ t.rng = s.rng) ∧
        (computedDigest bs ≠ e.2.2 → itemImage t kind id owner = none ∧
          (kind = 0 → id < s.voc.slots.length → (t.slot id).st = .faulted) ∧ (kind = 1 → id < s.aut.auts.length → (t.automaton id).st = .faulted) ∧
          (kind = 2 → ∃ p, t.stop? owner id = some p ∧ p.st = .faulted) ∧ (kind = 3 → ∃ p, t.program? id = some p ∧ p.st = .faulted) ∧
          Raised s t (if kind = 0 then .vocab else .automata) 0x0603 0 0 (kind + 256 * id + if kind = 2 then 65536 * owner else 0)))

/-- The turret watchdog and clock gating (14 R510, R511, R513, 13 R472, Table 13.1). An engine invocation that runs past the period is a turret fault of code 0xFE: the turret is reset with
its local memory, gated and QUARANTINED, TURRET_FAULT is raised with turret, program, pc and code, and the cluster's usable spare takes its active number, as it does the lead roles and
posted units, as far as its lane has room. A turret with no work is gated. -/
def Obligations.TurretFaults : Prop :=
  ∀ (s : State) (p : Nat), s.Serving →
    (∀ i n q, turretRuns s p = true → (s.turret p).inv = some i → i.role = roleEngine → (s.turret p).activeNo = some n → spareOf s (p / 17) = some q → q ≠ p →
      ∃ t, exec (.turretWatchdogExpire p) s = .next t ∧
        t.turret p = { usable := (s.turret p).usable, spare := (s.turret p).spare, quarantined := true, gated := true } ∧
        p ∈ t.lan.domReset ∧ (∀ w ∈ t.mem.words, w.1 / 8388608 = 6 → w.1 / 16384 % 512 ≠ p) ∧
        (t.turret q).activeNo = some n ∧ (t.turret q).spare = false ∧ (t.turret q).gated = false ∧ (∀ j ∈ t.job.js, j.lead ≠ p) ∧
        ((∀ j ∈ s.job.js, j.lead = p → j.prompt = false) →
          (t.turret q).lane = ((s.turret p).taken.toList ++ (s.turret p).lane).take (64 - (s.turret q).lane.length) ++ (s.turret q).lane ∧
          ∀ k, k ≠ p → k ≠ q → t.turret k = s.turret k) ∧ t.ctx = s.ctx ∧
        RaisedFrom s t p 0x0401 0 0 (p + 65536 * i.prog + 16777216 * ((s.turret p).core.pc % 4096) + 1099511627776 * 0xFE)) ∧
    (turretRuns s p = true → (s.turret p).inv = none → (s.turret p).suspended = [] → (s.turret p).taken = none → (s.turret p).lane = [] →
      homeWork s p = none → leadJob s p = none → boardLane s (p / 17) = none → ∃ t, exec (.idleClockGate p) s = .next t ∧ t.sansFab = { s with tur := { s.tur with
        ts := modAt s.tur.ts p fun u => { u with gated := true } } }.sansFab)

/-- Registers of the units (10 R399, R405, 14 R528, R532, 00 R20, 15 R555). CTX_QUERY latches a stream's boundary state; GO starts the enumeration of SUSPENDED streams, which is done once its
writes are; PKR_REC_HEAD above the write sequence number is ignored; BEL_LOG_DATA gives a word of the selected record and marks it read; an rc counter is returned and cleared; a write of
a read-only register is answered and has no effect. While the block is not READY each such access is an error and a read gives 0xFFFF_FFFF (13 R481). -/
def Obligations.UnitRegisters : Prop :=
  ∀ (s : State), s.lan.fenced = false →
    (s.ready = true →
      (∀ v x, s.stream? (v.field 13 0) = some x → ∃ t, exec (.ctxQuery v) s = .next t ∧
        t.ctx.qLatch.drop 1 = [BitVec.ofNat 32 x.next, BitVec.ofNat 32 x.epoch, BitVec.ofNat 32 (x.armedSeen.getD 0xFFFFFFFF), BitVec.ofNat 32 x.gen,
          BitVec.ofNat 32 (x.slot + 8 * x.aut.getD 0 + 512 * b2n x.aut.isSome + 1024 * x.stop.getD 0 + 262144 * b2n x.stop.isSome +
            524288 * x.queue + 33554432 * x.owner), BitVec.ofNat 32 x.home] ∧
        { t with ctx := s.ctx, csp := s.csp }.sansFab = s.sansFab ∧ t.csp.err = false) ∧
      (∀ v, v.bit 0 = true → s.ctx.enumBusy = false →
        let xs := s.ctx.streams.filter fun x => x.st == .suspended && (v.bit 7 || x.owner == v.field 6 1)
        ∃ t, exec (.ctxEnumGo v) s = .next t ∧ t.csp.err = false ∧ t.ctx = { s.ctx with
          enumBusy := true, enumDone := false, enumErr := false, enumFull := decide (min xs.length (s.ctx.enumLen / 16) < xs.length)
          enumCount := min xs.length (s.ctx.enumLen / 16) }) ∧
      (s.ctx.enumBusy = true → writesOut s .enumLine = false → ∃ t, exec .ctxEnumDone s = .next t ∧
        t.sansFab = { s with ctx := { s.ctx with enumBusy := false, enumDone := true } }.sansFab) ∧
      (∀ v, s.pkr.ownerSel < s.pkr.owners.length → let n := s.pkr.headLo + 4294967296 * v.field 15 0
        ∃ t, exec (.pkrRecHeadWrite v) s = .next t ∧ t.csp.err = false ∧
          (t.ownPkr s.pkr.ownerSel).head = (if n ≤ (s.ownPkr s.pkr.ownerSel).recRing.wseq then n else (s.ownPkr s.pkr.ownerSel).head) ∧
          { t with pkr := s.pkr, csp := s.csp }.sansFab = s.sansFab) ∧
      (∀ w e, w < 8 → s.bel.log.find? (·.1 == s.bel.sel) = some (s.bel.sel, e) → ∃ t, exec (.belLogDataRead w) s = .next t ∧
        t.csp = { data := BitVec.ofNat 32 (getLE (eventBytes e) (4 * w) 4) } ∧
        (∀ x ∈ t.bel.log, x.1 = s.bel.sel → x.2.isRead = true) ∧ { t with bel := s.bel, csp := s.csp }.sansFab = s.sansFab) ∧
      (∃ t, exec (.rcCounterRead 0x1C20) s = .next t ∧ t.sansFab = { s with
        rng := { s.rng with dispatched := 0 }, csp := { data := BitVec.ofNat 32 s.rng.dispatched } }.sansFab) ∧
      (∀ v, ∃ t, exec (.registerWrite 0x1C20 v) s = .next t ∧ t.sansFab = { s with csp := {} }.sansFab)) ∧
    (s.ready = false → ∀ v : Word, ∀ o, 0x1000 ≤ o → ∀ i ∈ [Instr.ctxQuery v, .ctxEnumGo v, .pkrRecHeadWrite v, .registerWrite o v, .rcCounterRead o, .belLogDataRead o, .eqDataRead o],
      ∃ t, exec i s = .next t ∧ t.sansFab = { s with csp := { err := true, data := 0xFFFFFFFF } }.sansFab)

/-! ## The Lantern (12, 13, 14) and the wrapper (15) -/

/-- Reset sources (13 R471 to R474, R492). PWR_ON_N low puts every unit at its reset value and clears keys and option words; its rise begins a power-on start. SW_COLD begins a software
cold start that keeps no stream and no key. SW_WARM, BLK_RST_N and the block watchdog make a READY block quiesce; when that is done, a warm start begins that keeps keys, option words, queue contents
and store words, and drops commands and steps. A rise of BLK_RST_N lets a held start begin. -/
def Obligations.ResetSources : Prop :=
  ∀ (s : State),
    (∃ t, exec .powerOnAssert s = .next t ∧ t.lan.pwrLow = true ∧ t.lan.blk = .starting ∧ t.lan.keys = List.replicate 64 none ∧ t.lan.optValid = false ∧
      t.lan.failed = 0 ∧ t.lan.fenced = false ∧ t.rng = Rng.start ∧ t.ctx = Ctx.start ∧ t.aut = Aut.start ∧ t.eqs = Eqs.start ∧ t.mem = Mem.start ∧ t.fab = {}) ∧
    (s.lan.pwrLow = true → ∃ t, exec .powerOnRelease s = .next t ∧ t.lan.pwrLow = false ∧ Started s t 1 0) ∧
    (s.lan.pwrLow = false → s.lan.inStart = false → s.Powered → ∃ t, exec .swCold s = .next t ∧ Started s t 2 0 ∧
      t.lan.keys = List.replicate 64 none ∧ t.ctx = Ctx.start ∧ t.rng = Rng.start ∧ t.mem = Mem.start ∧ t.lan.failed = s.lan.failed) ∧
    (s.Serving → s.lan.pwrLow = false →
      let quiet := fun k : Nat => { s with lan := { s.lan with blk := .transition, act := .quiesce, warmNext := k, startFrom := s.lan.aonTime } }
      (∃ t, exec .swWarm s = .next t ∧ t.sansFab = { quiet 4 with csp := {} }.sansFab) ∧
      (∃ t, exec .blkRstAssert s = .next t ∧ t.sansFab = { quiet 3 with lan := { (quiet 3).lan with blkLow := true } }.sansFab) ∧
      (s.lan.wdogEn = true → ∃ t, exec .blockWatchdogExpire s = .next t ∧ t.sansFab = (quiet 5).sansFab)) ∧
    (s.lan.blk = .transition → s.lan.act = .quiesce → s.lan.optValid = true → s.lan.wrapCold = false →
      ∃ t, exec .warmQuiesceDone s = .next t ∧ Started s t s.lan.warmNext 1 ∧ t.lan.keys = s.lan.keys ∧ t.lan.opt = s.lan.opt ∧
        t.lan.writesLost = min s.fab.stores.length 255 ∧ t.rng.cmds = [] ∧ t.rng.comps = [] ∧ t.fin.units = [] ∧
        t.ctx.streams.map (·.id) = s.ctx.streams.map (·.id) ∧ t.eqs.qs.map (·.recs) = s.eqs.qs.map (·.recs) ∧
        t.mem.words = s.mem.words ∧ t.mem.tags = s.mem.tags) ∧
    (s.lan.pwrLow = false → s.lan.fenced = false → s.lan.blk = .starting → s.lan.act = .held → ∃ t, exec .blkRstRelease s = .next t ∧
      t.sansFab = { s with lan := { s.lan with blkLow := false, act := .start, startFrom := s.lan.aonTime } }.sansFab)

/-- The start sequence (13 R479, R483, R484, R487 to R490). A step completes in turn; step 2 begins the option load of a cold start, step 4 clears the stores of one, step 8 makes the block READY: FAILED_STARTS is 0,
every open stream is SUSPENDED, BLOCK_READY is raised. Option words are taken in order; a bus error begins the load anew, and the third one in a start fails the start. A start fails at its timer too: it is
counted with its cause, and the third time, or after a RECOVERY, the block enters RECOVERY; else a retry follows (the kind code of a retry is the model's choice, log entry 48). -/
def Obligations.StartSequence : Prop :=
  ∀ (s : State), s.lan.pwrLow = false → s.lan.fenced = false → s.lan.blk = .starting →
    let failed := fun (u : State) (cause : Nat) => u.lan.failed = satAdd s.lan.failed 1 15 ∧ u.lan.causeFail = cause ∧
      (if 3 ≤ satAdd s.lan.failed 1 15 ∨ s.lan.fromRecovery = true then u.lan.blk = .recovery ∧ u.lan.iso = true
        else u.lan.blk = .starting ∧ u.lan.act = .retryWait)
    (∀ fs, s.lan.act = .start → s.lan.domWait = [] →
      (s.lan.step = 0 ∨ s.lan.step = 6 → ∃ t, exec (.startStepDone fs) s = .next t ∧
        t.sansFab = { s with lan := { s.lan with step := s.lan.step + 1 } }.sansFab) ∧
      (s.lan.step = 1 → s.lan.isCold = true → ∃ t, exec (.startStepDone fs) s = .next t ∧ t.lan.step = 2 ∧ t.lan.cause = s.lan.kind ∧
        t.lan.startTimer = true ∧ t.lan.optLoading = true ∧ t.lan.optNext = 0 ∧ t.lan.optTries = 1) ∧
      (s.lan.step = 3 → s.lan.isCold = true → ∃ t, exec (.startStepDone fs) s = .next t ∧ t.lan.step = 4 ∧ t.mem.words = [] ∧ t.mem.tags = [] ∧
        t.mem.cleared = true) ∧
      (s.lan.step = 7 → s.mem.checked = false → s.lan.targetLatched = none → ∃ t, exec (.startStepDone fs) s = .next t ∧ t.ready = true ∧
        t.lan.failed = 0 ∧ t.lan.iso = false ∧ t.lan.step = 8 ∧ t.ctx.streams = s.ctx.streams.map suspendByStart ∧
        Raised s t .lantern 0x0C02 0 0 (s.lan.kind + 65536 * (s.lan.starts % 65536)))) ∧
    (s.lan.act = .start → s.lan.optLoading = true →
      (∀ w, s.lan.optNext < 63 → ∃ t, exec (.optionWordResponse false w) s = .next t ∧ t.sansFab = { s with lan := { s.lan with
        optStg := setAt s.lan.optStg s.lan.optNext w, optNext := s.lan.optNext + 1 } }.sansFab) ∧
      (∀ w, ∀ i ∈ [Instr.optionWordResponse true w, .optionBusTimeout],
        (s.lan.optTries < 3 → ∃ t, exec i s = .next t ∧ t.lan.optBusErr = true ∧ t.lan.optNext = 0 ∧ t.lan.optTries = s.lan.optTries + 1 ∧
          t.lan.blk = .starting) ∧
        (3 ≤ s.lan.optTries → ∃ t, exec i s = .next t ∧ t.lan.optBusErr = true ∧ failed t 2))) ∧
    (s.lan.startTimer = true → ∃ t, exec .startTimerExpire s = .next t ∧ failed t 1) ∧
    (s.lan.act = .retryWait →
      (s.lan.isCold = true ∨ s.lan.retried = true → ∃ t, exec .startRetry s = .next t ∧ Started s t 8 0 ∧ t.ctx = Ctx.start) ∧
      (s.lan.isCold = false → s.lan.retried = false → s.lan.optValid = true → s.lan.wrapCold = false →
        ∃ t, exec .startRetry s = .next t ∧ Started s t 8 s.lan.shape ∧ t.lan.retried = true ∧ t.lan.keys = s.lan.keys))

/-- Power states (13 R497 to R500, 15 R561). A TARGET of RETAIN or OFF begins the entry sequence in READY, and during a transition it is latched; ON wakes a block in RETAIN. Once no issued step runs and
no write is outstanding the block is isolated and the logic rail is requested off. An acknowledgement that is awaited completes the rail's change: RETAIN or OFF is reached and logged, or the wake start begins; any other is ignored. -/
def Obligations.PowerStates : Prop :=
  ∀ (s : State), s.lan.pwrLow = false → s.lan.fenced = false →
    (∀ i k, (i = Instr.pwrTargetRetain ∧ k = 1) ∨ (i = Instr.pwrTargetOff ∧ k = 2) →
      (s.ready = true → ∃ t, exec i s = .next t ∧ t.sansFab = { s with csp := {}, lan := { s.lan with
        target := k, targetLatched := none, blk := .transition, act := .entry k } }.sansFab) ∧
      (s.lan.blk = .transition → ∃ t, exec i s = .next t ∧ t.sansFab = { s with csp := {}, lan := { s.lan with
        target := k, targetLatched := some k } }.sansFab)) ∧
    (s.lan.blk = .retain → ∃ t, exec .pwrTargetOn s = .next t ∧ t.sansFab = { s with csp := {}, lan := { s.lan with
      target := 0, targetLatched := none, blk := .transition, act := .railLogicUp 9 2 3, logicReq := true, startFrom := s.lan.aonTime } }.sansFab) ∧
    (∀ k, s.lan.blk = .transition → s.lan.act = .entry k → stepsRun s = false → (writeStaged s).fab.stores = [] → (writeStaged s).fab.waiting = [] →
      ∃ t, exec .powerEntryQuiesced s = .next t ∧ t.lan.act = .railLogicDown k ∧ t.lan.iso = true ∧ t.lan.logicReq = false ∧ t.lan.keys = s.lan.keys ∧
        t.rng.cmds = [] ∧ t.ctx.streams.map (·.id) = s.ctx.streams.map (·.id) ∧ t.mem.words = s.mem.words) ∧
    (s.lan.act = .railLogicDown 1 → s.lan.targetLatched = none → ∃ t, exec (.powerRailAck false false) s = .next t ∧ t.sansFab = { s with lan := { s.lan with
      logicAck := false, blk := .retain, act := .idle, log := setAt s.lan.log s.lan.logNext { code := 0xF003, detail := 49, time := s.lan.aonTime }
      logNext := (s.lan.logNext + 1) % 64, logWrapped := s.lan.logWrapped || s.lan.logNext + 1 == 64 } }.sansFab) ∧
    (s.lan.act = .railLogicDown 2 → ∃ t, exec (.powerRailAck false false) s = .next t ∧ t.sansFab = { s with lan := { s.lan with
      logicAck := false, act := .railArrayDown 1, arrayReq := false } }.sansFab) ∧
    (s.lan.act = .railArrayDown 1 → s.lan.targetLatched = none → ∃ t, exec (.powerRailAck true false) s = .next t ∧ t.lan.blk = .off ∧ t.lan.arrayAck = false ∧
      t.ctx = Ctx.start ∧ t.mem = Mem.start ∧ t.lan.keys = s.lan.keys) ∧
    (s.lan.act = .railLogicUp 9 2 3 → s.lan.rootOk = true → s.lan.optValid = true → s.lan.wrapCold = false → s.lan.blkLow = false →
      ∃ t, exec (.powerRailAck false true) s = .next t ∧ t.lan.blk = .starting ∧ t.lan.act = .start ∧ t.lan.kind = 9 ∧ t.lan.shape = 2 ∧ t.lan.logicAck = true ∧
        t.lan.keys = s.lan.keys ∧ t.mem.words = s.mem.words) ∧
    (∀ array level, s.lan.act = .idle → ∃ t, exec (.powerRailAck array level) s = .next t ∧ t.sansFab = s.sansFab)

/-- Power-fail warning and clock loss (13 R471, R477, R478, R501 to R503). PF_WARN_N in READY begins the emergency checkpoint: steps in flight and held results go; once its writes are complete the block is in PF_HOLD, and when
PF_WARN_N has stayed high a warm start follows. In a start it leads to PF_HOLD at once. A loss of CK_ROOT_OK stops a READY block, and a start follows its rise. A domain leaves reset when it is released with its clock. -/
def Obligations.PowerFailAndClock : Prop :=
  ∀ (s : State), s.lan.fenced = false →
    (s.lan.pwrLow = false → s.ready = true → ∃ t, exec .pfWarn s = .next t ∧ t.lan.blk = .transition ∧ t.lan.act = .emergency ∧ t.lan.pf = true ∧
      t.fin.units = [] ∧ t.stp.trees = [] ∧ ∀ x ∈ t.ctx.streams, x.held = [] ∧ x.svc = .none) ∧
    (s.lan.pwrLow = false → s.lan.blk = .starting → ∃ t, exec .pfWarn s = .next t ∧ t.lan.blk = .pfHold ∧ t.lan.act = .idle ∧ t.lan.iso = true ∧
      t.lan.pf = true ∧ t.lan.pfNoCkpt = true ∧ t.ctx = s.ctx) ∧
    (s.lan.act = .emergency → s.fab.stores = [] → s.fab.waiting = [] → ∃ t, exec .emergencyCkptDone s = .next t ∧ t.lan.blk = .pfHold ∧ t.lan.act = .idle ∧
      t.lan.iso = true ∧ t.lan.pfTime = wrap32 (s.lan.aonTime - s.lan.pfFrom) ∧ t.ctx = s.ctx) ∧
    (s.lan.blk = .pfHold → s.lan.pf = false → s.Powered → s.lan.optValid = true → s.lan.wrapCold = false →
      ∃ t, exec .pfHoldExpire s = .next t ∧ Started s t 7 1 ∧ t.lan.keys = s.lan.keys) ∧
    (∃ t, exec .pfWarnRelease s = .next t ∧ t.sansFab = { s with lan := { s.lan with pf := false } }.sansFab) ∧
    (s.ready = true → ∃ t, exec .ckRootOkFall s = .next t ∧ t.lan.rootOk = false ∧ t.lan.act = .clockLoss true ∧ t.lan.blk = .starting ∧ t.lan.kind = 6 ∧
      t.lan.shape = 2 ∧ t.lan.iso = true ∧ t.lan.keys = s.lan.keys ∧ t.rng.cmds = [] ∧ t.mem.words = s.mem.words) ∧
    (s.lan.act = .clockLoss true → s.lan.optValid = true → s.lan.wrapCold = false → ∃ t, exec .ckRootOkRise s = .next t ∧ t.lan.rootOk = true ∧
      Started s t s.lan.kind s.lan.shape) ∧
    (∀ d, ∃ t, exec (.domainResetRelease d) s = .next t ∧ t.sansFab = (if s.lan.rootOk = true then { s with lan := { s.lan with
      domWait := s.lan.domWait.filter (· != d), domReset := s.lan.domReset.filter (· != d) } } else s).sansFab)

/-- Other writes to the Lantern (12 R462, 13 R475, R494, R495, 14 R530). LTN_KEY_ZERO zeroises every key, and LTN_FENCE fences the block off: what is outstanding ends with an error; any other value has no effect. A local reset of a
turret needs it QUARANTINED or spare; one of a port drops its shard, or answers its accesses with errors. The watchdog is enabled once, with a PERIOD, and a kick restarts its count. -/
def Obligations.LanternWrites : Prop :=
  ∀ (s : State) (v : Word), s.lan.pwrLow = false → s.lan.fenced = false →
    let log := fun (code detail : Nat) => setAt s.lan.log s.lan.logNext { code := code, detail := detail, time := s.lan.aonTime }
    let idle := { s with csp := {} }
    (∃ t, exec (.ltnKeyZero 0x5A) s = .next t ∧ t.lan.keys = List.replicate 64 none ∧ t.lan.log = log 0x0B01 0) ∧
    (v ≠ 0x5A → ∃ t, exec (.ltnKeyZero v) s = .next t ∧ t.sansFab = idle.sansFab) ∧
    ((∀ r ∈ s.fab.fetches ++ s.fab.stores, r.port < s.variant.fabricPorts ∧ ∃ n, r.who = .command n) → s.fab.waiting = [] →
      ∃ t, exec (.ltnFence 0xFE4C) s = .next t ∧ t.fab.fetches = [] ∧ t.fab.stores = [] ∧ t.sansFab = { idle with lan := { s.lan with
        fenced := true, log := log 0xF006 0, logNext := (s.lan.logNext + 1) % 64, logWrapped := s.lan.logWrapped || s.lan.logNext + 1 == 64 } }.sansFab) ∧
    (v ≠ 0xFE4C → ∃ t, exec (.ltnFence v) s = .next t ∧ t.sansFab = idle.sansFab) ∧
    (∀ p, s.stepping = true → p < s.tur.ts.length →
      ((s.turret p).quarantined = true ∨ (s.turret p).spare = true → ∃ t, exec (.localResetTurret p) s = .next t ∧ p ∈ t.lan.domReset ∧
        t.turret p = { usable := (s.turret p).usable, spare := (s.turret p).spare, quarantined := (s.turret p).quarantined
                       activeNo := (s.turret p).activeNo, gated := (s.turret p).gated, lane := (s.turret p).lane, taken := (s.turret p).taken } ∧
        (∀ w ∈ t.mem.words, w.1 / 8388608 = 6 → w.1 / 16384 % 512 ≠ p) ∧ ∀ q, q ≠ p → t.turret q = s.turret q) ∧
      ((s.turret p).quarantined = false → (s.turret p).spare = false → ∃ t, exec (.localResetTurret p) s = .next t ∧
        t.sansFab = { idle with lan := { s.lan with localRefused := true } }.sansFab)) ∧
    (∀ p, s.stepping = true → p < s.variant.ports → ∃ t, exec (.localResetIngressPort p) s = .next t ∧ 272 + p ∈ t.lan.domReset ∧
      t.sel.ports = modAt s.sel.ports p (fun _ => { drop := true }) ∧
      ∀ u ∈ t.fin.units, ∀ r ∈ u.sources, r.port = p → r.peer = true ∨ r.whole = true) ∧
    (∀ p, s.stepping = true → p < s.variant.fabricPorts → (∀ r ∈ s.fab.fetches ++ s.fab.stores, r.port ≠ p) →
      ∃ t, exec (.localResetFabricPort p) s = .next t ∧ t.sansFab = { idle with lan := { s.lan with
        domReset := insertBy id (304 + p) s.lan.domReset } }.sansFab) ∧
    (∃ t, exec (.ltnWdogCtlWrite v) s = .next t ∧ t.sansFab = (if s.lan.wdogEn = true ∨ (v.bit 0 = true ∧ v.field 31 16 = 0) then idle else
      { idle with lan := { s.lan with wdogEn := v.bit 0, wdogPeriod := v.field 31 16, wdogStart := s.lan.aonTime } }).sansFab) ∧
    (∃ t, exec (.ltnWdogKick v) s = .next t ∧ t.sansFab = (if v = 0x4B1C then
      { idle with lan := { s.lan with wdogStart := s.lan.aonTime } } else idle).sansFab)

/-- The test wrapper (15 R564, R565, Table 15.13). WRSTN and WS_BYPASS select the bypass register; N2_IDCODE captures LTN_ID; N2_LANTERN captures the offset and the register. The test instructions take effect only while BLK_RST_N is low or
in RECOVERY: the first one to do so zeroises every key and makes the next start a cold one. At any other time they capture 0 and change nothing. -/
def Obligations.WrapperInstructions : Prop :=
  ∀ (s : State), s.lan.fenced = false →
    let capture := fun (w : WrapIns) (n : Nat) => { s with lan := { s.lan with wir := w, wdr := n } }
    (∃ t, exec .wsBypass s = .next t ∧ t.sansFab = (capture .bypass 0).sansFab) ∧
    (∃ t, exec .wrapperReset s = .next t ∧ t.sansFab = (capture .bypass 0).sansFab) ∧
    (∃ t, exec .n2Idcode s = .next t ∧ t.sansFab = (capture .idcode 0x14E327AB).sansFab) ∧
    (∀ o < 1024, ∃ t, exec (.n2Lantern o) s = .next t ∧ t.sansFab = (capture .lantern (o + 1024 * (regRead s (4 * o)).toNat)).sansFab) ∧
    (∀ i w, (i, w) ∈ [(Instr.wsExtest, WrapIns.extest), (.wsIntest, .intest), (.n2Scan, .scan), (.n2Mbist, .mbist), (.n2Repair, .repair)] →
      (s.lan.blkLow = false → s.lan.blk ≠ .recovery → ∃ t, exec i s = .next t ∧ t.sansFab = (capture w 0).sansFab) ∧
      (s.lan.blkLow = true ∨ s.lan.blk = .recovery → (getN s.lan.opt 1).toNat.testBit 2 = false → ∃ t, exec i s = .next t ∧ t.lan.wir = w ∧
        t.lan.wrapCold = true ∧ (s.lan.wrapLive = false → t.lan.keys = List.replicate 64 none) ∧
        (i = .n2Repair → t.lan.wdr = repairBits s.lan.repair)))

/-! ## Knalen (07 Table 7.4, Table 7.5) -/

/-- Arithmetic and logic (07 R264, R268, Table 7.4, Table 7.5): d takes the result modulo 2^64, the pc moves on, nothing else changes; past the last instruction PC_RANGE is raised. g0 reads 0 and a write to it is discarded; another register reads as written. -/
def Obligations.KnalenArithmetic : Prop :=
  (∀ (c : Core) (d : Nat) (x : DWord), c.rd 0 = 0 ∧ c.wr 0 x = c ∧ (d ≠ 0 → d < c.g.length → (c.wr d x).rd d = x ∧ ∀ e, e ≠ d → (c.wr d x).rd e = c.rd e)) ∧
  ∀ (s : State) (p : Nat) (i : Invocation) (c : Core) (d a b : Nat) (m : BitVec 18), s.Runs p i c →
    (i.codeCount ≤ c.pc + 1 → ∀ ins ∈ [Instr.add p d a b, .sub p d a b, .and p d a b, .or p d a b, .xor p d a b, .slt p d a b, .addi p d a m, .andi p d a m,
      .shli p d a m, .shri p d a m, .movi p d m, .movh p d m], s.Excepts ins p i c 2 0) ∧
    (c.pc + 1 < i.codeCount →
    let does := fun (ins : Instr) (x : DWord) => s.Does ins p (c.wr d x).advance i
    does (.add p d a b) (c.rd a + c.rd b) ∧ does (.sub p d a b) (c.rd a - c.rd b) ∧ does (.and p d a b) (c.rd a &&& c.rd b) ∧
    does (.or p d a b) (c.rd a ||| c.rd b) ∧ does (.xor p d a b) (c.rd a ^^^ c.rd b) ∧
    does (.slt p d a b) (if (c.rd a).toInt < (c.rd b).toInt then 1 else 0) ∧
    does (.addi p d a m) (c.rd a + m.signExtend 64) ∧ does (.andi p d a m) (c.rd a &&& m.setWidth 64) ∧
    (m.toNat < 64 → does (.shli p d a m) (c.rd a <<< m.toNat) ∧ does (.shri p d a m) (c.rd a >>> m.toNat)) ∧
    does (.movi p d m) (m.signExtend 64) ∧ (m.toNat < 65536 → does (.movh p d m) ((c.rd d <<< 16) ||| m.setWidth 64)))

/-- Local memory and the stack (07 R265, R270, Table 7.2). LD, LDW, ST and STW require an address that is a multiple of their access size; an access outside the regions of the role raises LOCAL_RANGE. PUSH below 0xF000, and POP or PEEK at or
above 0x1_0000, raise STACK_FAULT. A stored byte reads back, and no other byte changes. -/
def Obligations.KnalenLocalMemory : Prop :=
  (∀ (c : Core) (x : Nat) (bs : List Byte), scanon 0 c.mem = true → (c.store x bs).load x bs.length = bs ∧
    ∀ y, y < x ∨ x + bs.length ≤ y → sget 0 (c.store x bs).mem y = sget 0 c.mem y) ∧
  ∀ (s : State) (p : Nat) (i : Invocation) (c : Core) (d a : Nat) (m : BitVec 18), s.Runs p i c → c.pc + 1 < i.codeCount →
    let x := (c.rd a + m.signExtend 64).toNat
    let loads := fun (ins : Instr) (n : Nat) => s.Does ins p (c.wr d (BitVec.ofNat 64 (leNat (c.load x n)))).advance i
    let stores := fun (ins : Instr) (n : Nat) => s.Does ins p (c.store x (leBytes n (c.rd d).toNat)).advance i
    (∀ ins n, (ins, n) ∈ [(Instr.ld p d a m, 8), (.ldw p d a m, 4), (.st p d a m, 8), (.stw p d a m, 4)] →
      (localOk i.role x n = false → s.Excepts ins p i c 3 0) ∧ (localOk i.role x n = true → x % n ≠ 0 → s.Excepts ins p i c 4 0)) ∧
    (localOk i.role x 1 = false → s.Excepts (.ldb p d a m) p i c 3 0 ∧ s.Excepts (.stb p d a m) p i c 3 0) ∧
    (localOk i.role x 8 = true → x % 8 = 0 → loads (.ld p d a m) 8 ∧ stores (.st p d a m) 8) ∧
    (localOk i.role x 4 = true → x % 4 = 0 → loads (.ldw p d a m) 4 ∧ stores (.stw p d a m) 4) ∧
    (localOk i.role x 1 = true → loads (.ldb p d a m) 1 ∧ stores (.stb p d a m) 1) ∧
    (if c.sp < 0xF000 + 8 then s.Excepts (.push p a) p i c 6 0
      else s.Does (.push p a) p { c.store (c.sp - 8) (leBytes 8 (c.rd a).toNat) with sp := c.sp - 8 }.advance i) ∧
    (if 0x10000 ≤ c.sp then s.Excepts (.pop p d) p i c 6 0
      else s.Does (.pop p d) p { c.wr d (BitVec.ofNat 64 (leNat (c.load c.sp 8))) with sp := c.sp + 8 }.advance i) ∧
    (if 0x10000 ≤ c.sp + 8 * m.toNat then s.Excepts (.peek p d m) p i c 6 0
      else s.Does (.peek p d m) p (c.wr d (BitVec.ofNat 64 (leNat (c.load (c.sp + 8 * m.toNat) 8)))).advance i)

/-- Tables, tries, configuration sets and bitmaps (07 Table 7.4, 03 R121, R125, 06 R220). A table entry beyond the table's length raises TABLE_RANGE; in an engine program the other instructions look up the bound slot's merge ranks and tries, step the
working set by the bound automaton, save it and load it, and set or clear a bit of local memory or of a Cupola entry; what is not there raises TABLE_RANGE, or LOCAL_RANGE; in a pre-split program they raise ROLE_FAULT. The saved form of a set is a free value of the model (log entry 24), as is the entry that a register names (log entry 70). -/
def Obligations.KnalenTables : Prop :=
  ∀ (s : State) (p : Nat) (i : Invocation) (c : Core) (d a b : Nat) (m : BitVec 18), s.Runs p i c → c.pc + 1 < i.codeCount →
    let e := kEnv s i
    let does := fun (ins : Instr) (x : DWord) => s.Does ins p (c.wr d x).advance i
    (let t := getN c.t (m.toNat % 8)
     let k := (c.rd a + BitVec.ofNat 64 (m.toNat / 8)).toNat
     (if 8 * (k + 1) ≤ t.length then does (.tld p d a m) (BitVec.ofNat 64 (getLE t (8 * k) 8)) else s.Excepts (.tld p d a m) p i c 5 0) ∧
     (if 4 * (k + 1) ≤ t.length then does (.tldw p d a m) (BitVec.ofNat 64 (getLE t (4 * k) 4)) else s.Excepts (.tldw p d a m) p i c 5 0)) ∧
    (i.role ≠ roleEngine → ∀ ins ∈ [Instr.hprobe p d a b, .tstep p d a b true, .tstep p d a b false, .astep p d a, .aspec p d a, .asave p d a, .ares p a, .mset p a b true,
      .mset p a b false, .mclr p a b true, .mclr p a b false], s.Excepts ins p i c 7 0) ∧
    (i.role = roleEngine →
      (e.voc = none → s.Excepts (.hprobe p d a b) p i c 5 0 ∧ ∀ long, s.Excepts (.tstep p d a b long) p i c 5 0) ∧
      (∀ v, e.voc = some v →
        (v.buckets = [] → s.Excepts (.hprobe p d a b) p i c 5 0) ∧
        (v.buckets ≠ [] → does (.hprobe p d a b) (match lookupRank v.buckets (c.rd a).toNat (c.rd b).toNat with
          | some r => BitVec.ofNat 64 (getN v.results r * 4294967296 + r)
          | none => K.ones)) ∧
        (∀ long, let t := if long && v.hasLm then v.lmTrie else v.maskTrie
          (t.length ≤ (c.rd a).toNat → s.Excepts (.tstep p d a b long) p i c 5 0) ∧
          ((c.rd a).toNat < t.length → does (.tstep p d a b long) (match Trie.child t (c.rd a).toNat (BitVec.ofNat 8 (c.rd b).toNat) with
            | some j => BitVec.ofNat 64 (j + b2n (Trie.terminal (getN t j)) * 16777216 + Trie.token (getN t j) * 4294967296)
            | none => K.ones)))) ∧
      (let w := (stepByte e.aut.img c.work (BitVec.ofNat 8 (c.rd a).toNat)).set
       ∃ t, exec (.astep p d a) s = .next t ∧ (t.turret p).core = (({ c with work := w } : Core).wr d (BitVec.ofNat 64 w.length)).advance ∧
        (t.turret p).inv = some { i with budget := i.budget - 1 }) ∧
      (let w := stepSpecial e.aut.img c.work (c.rd a).toNat
       s.Does (.aspec p d a) p (({ c with work := w } : Core).wr d (BitVec.ofNat 64 w.length)).advance i) ∧
      (let n := roundUp (32 + 2 * cellCount c.work) 32
       if localOk i.role (c.rd a).toNat n = true then s.Does (.asave p d a) p
        ((c.store (c.rd a).toNat ((List.range n).map (Config.savedSetByte c.work))).wr d (BitVec.ofNat 64 n)).advance i
       else s.Excepts (.asave p d a) p i c 3 0) ∧
      (let w := Config.savedSet c.mem (c.rd a).toNat
       if localOk i.role (c.rd a).toNat (roundUp (32 + 2 * cellCount w) 32) = true then s.Does (.ares p a) p { c with work := w }.advance i
       else s.Excepts (.ares p a) p i c 3 0) ∧
      (let n := (c.rd b).toNat
       let x := (c.rd a).toNat + n / 8
       let old := getN (c.load x 1) 0
       if localOk i.role x 1 = true then s.Does (.mset p a b false) p (c.store x [old ||| 1#8 <<< (n % 8)]).advance i ∧
        s.Does (.mclr p a b false) p (c.store x [old &&& ~~~(1#8 <<< (n % 8))]).advance i
       else s.Excepts (.mset p a b false) p i c 3 0 ∧ s.Excepts (.mclr p a b false) p i c 3 0) ∧
      (let n := (c.rd b).toNat
       let cup := fun f : CupEntry → CupEntry => { s with cup := { s.cup with entries := modAt s.cup.entries (Config.cupolaEntry (c.rd a)) f } }
       (∃ t, exec (.mset p a b true) s = .next t ∧ Retired (if n < 262144 then cup fun e => { e with a := e.a ||| 1 <<< n } else s) t p c.advance i) ∧
       (∃ t, exec (.mclr p a b true) s = .next t ∧ Retired (if n < 262144 then cup fun e => { e with a := bitDiff e.a (1 <<< n) } else s) t p c.advance i)))

/-- Byte vectors and output (07 Table 7.4, R280). A vector moves between its register and local memory; VIN reads the input, past whose end it reads 0; VCLS maps each lane; VCMPEQ and VFIND give lanes; VUTF decodes lanes after the carried bytes of CS. EMIT and EMITV
add to the pieces: a CUT that goes back or leaves the run raises EMIT_ORDER, bytes above the limit raise EXPANSION, and a TOKEN is an engine's. -/
def Obligations.KnalenVectorsAndOutput : Prop :=
  ∀ (s : State) (p : Nat) (i : Invocation) (c : Core) (d a b : Nat) (m : BitVec 18), s.Runs p i c → c.pc + 1 < i.codeCount →
    let x := (c.rd a + m.signExtend 64).toNat
    let does := fun (ins : Instr) (x : DWord) => s.Does ins p (c.wr d x).advance i
    (localOk i.role x 32 = true → s.Does (.vld p d a m) p (c.vwr d (c.load x 32)).advance i ∧ s.Does (.vst p d a m) p (c.store x (c.vrd d)).advance i) ∧
    (localOk i.role x 32 = false → s.Excepts (.vld p d a m) p i c 3 0 ∧ s.Excepts (.vst p d a m) p i c 3 0) ∧
    s.Does (.vin p d a m) p (c.vwr d (slice i.input x 32)).advance i ∧
    (if localOk i.role (c.rd b).toNat 256 = true then
      s.Does (.vcls p d a b) p (c.vwr d ((c.vrd a).map fun l => sget 0 c.mem ((c.rd b).toNat + l.toNat))).advance i
     else s.Excepts (.vcls p d a b) p i c 3 0) ∧
    does (.vcmpeq p d a b) (BitVec.ofNat 64 (bitmapOf ((List.range 32).filter fun k => getN (c.vrd a) k == BitVec.ofNat 8 (c.rd b).toNat))) ∧
    does (.vfind p d a b) (BitVec.ofNat 64 (((List.range 32).find? fun k => (c.rd b).toNat.testBit ((getN (c.vrd a) k).toNat % 64)).getD 32)) ∧
    (∀ wcs, let carry := K.csBytes c.cs
      let bs := carry ++ (c.vrd a).take (min (c.rd b).toNat 32)
      let r := K.vutfGo carry.length bs.length bs 0 0 0
      s.Does (.vutf p d a b wcs) p ((if wcs = true then { c with cs := K.csOf r.2.2 } else c).wr d (BitVec.ofNat 64 (r.1 + r.2.1 * 4294967296))).advance i) ∧
    (let y := (c.rd a).toNat
     if i.lastCut ≤ y ∧ i.runBase ≤ y ∧ y ≤ i.runBase + i.runLen then
      s.Does (.emit p a 0) p c.advance { i with lastCut := y, pieces := i.pieces ++ [(y, [])] } else s.Excepts (.emit p a 0) p i c 10 0) ∧
    (∀ ps o bs, i.pieces = ps ++ [(o, bs)] ∨ (i.pieces = [] ∧ ps = [] ∧ o = i.lastCut ∧ bs = []) →
      ∀ ins out, (ins, out) ∈ [(Instr.emit p a 1, [BitVec.ofNat 8 (c.rd a).toNat]), (.emitv p a b, (c.vrd a).take (min (c.rd b).toNat 32))] →
      if i.bytesOut + out.length ≤ i.bytesMax then s.Does ins p c.advance { i with bytesOut := i.bytesOut + out.length, pieces := ps ++ [(o, bs ++ out)] }
      else s.Excepts ins p i c 9 0) ∧
    (if i.role = roleEngine then s.Does (.emit p a 2) p c.advance { i with tokens := i.tokens ++ [(c.rd a).toNat % 4294967296] }
      else s.Excepts (.emit p a 2) p i c 7 0)

/-- Control, steals and posts (07 R268, R273, R274, R292 to R295, Table 7.5). A branch at index i goes to i + 1 + off; a target at or past CODE_COUNT, or going on past the last instruction, raises PC_RANGE. END ends the invocation; TRAP raises its exception; BAR orders. STEAL takes the unit that the
board offers, or gives all ones; POST adds a unit to the turret's lane, and waits while it is full; both raise ROLE_FAULT in a pre-split program. -/
def Obligations.KnalenControl : Prop :=
  (∀ (pc : Nat) (off : BitVec 18), pc < 4096 → 0 ≤ (pc : Int) + 1 + off.toInt → (branchTarget pc off : Int) = pc + 1 + off.toInt) ∧
  ∀ (s : State) (p : Nat) (i : Invocation) (c : Core) (d a b : Nat) (off : BitVec 18), s.Runs p i c →
    let on := c.pc + 1 < i.codeCount
    let goes := fun (ins : Instr) (c : Core) (n : Nat) => (n < i.codeCount → s.Does ins p { c with pc := n } i)
    let n := branchTarget c.pc off
    (∀ ins taken, (ins, taken) ∈ [(Instr.beq p a b off, c.rd a == c.rd b), (.bne p a b off, c.rd a != c.rd b), (.blt p a b off, decide ((c.rd a).toInt < (c.rd b).toInt))] →
      (taken = true → goes ins c n ∧ (i.codeCount ≤ n → s.Excepts ins p i c 2 0)) ∧ (taken = false → on → s.Does ins p c.advance i)) ∧
    goes (.j p off) c n ∧ goes (.jal p d off) (c.wr d (BitVec.ofNat 64 (c.pc + 1))) n ∧ goes (.jr p a) c (c.rd a).toNat ∧
    (i.codeCount ≤ n → s.Excepts (.j p off) p i c 2 0 ∧ s.Excepts (.jal p d off) p i c 2 0) ∧ (i.codeCount ≤ (c.rd a).toNat → s.Excepts (.jr p a) p i c 2 0) ∧
    (on → s.Does (.bar p) p c.advance i) ∧ (¬ on → s.Excepts (.bar p) p i c 2 0) ∧
    (∀ k : BitVec 8, s.Excepts (.trap p k) p i c 12 k.toNat) ∧
    ((s.turret p).suspended = [] → ∃ t, exec (.fin p) s = .next t ∧ t.sansFab = { s with tur := { s.tur with ts := modAt s.tur.ts p fun (u : Turret) =>
      { u with inv := none, core := c.ended, instr := wrap32 (u.instr + 1), taken := if 3 ≤ i.cls then none else u.taken } } }.sansFab) ∧
    (i.role = roleEngine → on →
      (pickSteal s p = none → s.Does (.steal p d) p (c.wr d K.ones).advance i) ∧
      (∀ k, pickSteal s p = some k → ∃ t, exec (.steal p d) s = .next t ∧ (t.turret p).taken = some k.unit ∧
        (∃ more, (t.turret k.lane).lane = (s.turret k.lane).lane.erase k.unit ++ more) ∧
        (t.turret p).core = ((c.store (descriptorAt s p) (descriptorBytes k.unit)).wr d (BitVec.ofNat 64 (descriptorAt s p))).advance) ∧
      ((s.turret p).lane.length < 64 → ∃ t, exec (.post p a) s = .next t ∧ Retired { s with tur := { s.tur with
        ts := modAt s.tur.ts p fun (u : Turret) => { u with lane := u.lane ++ [Config.descriptorUnit c.mem (c.rd a).toNat] } } } t p c.advance i)) ∧
    (i.role ≠ roleEngine → s.Excepts (.steal p d) p i c 7 0 ∧ s.Excepts (.post p a) p i c 7 0) ∧
    (i.role = roleEngine → 64 ≤ (s.turret p).lane.length → ∃ t, exec (.post p a) s = .next t ∧ t.sansFab = s.sansFab)

/-! ## The machine -/

/-- A step runs the command at the front of the queue, with the rest of the queue; on an empty queue one CK_AON cycle passes (the model's choice, log entry 3). -/
def Obligations.StepRunsTheFront : Prop :=
  (∀ (c : Instr) (rest : List Instr) (s : State), s.pending = c :: rest → step s = exec c { s with pending := rest }) ∧
  (∀ s : State, s.pending = [] → step s = .next { s with lan := { s.lan with aonTime := (s.lan.aonTime + 1) % 18446744073709551616 } })

/-- Every command keeps the configuration and the queue of commands (00 R3): a step only takes the command at the front. -/
def Obligations.ConfigurationAndQueueKept : Prop :=
  ∀ (i : Instr) (s t : State), exec i s = .next t → t.variant = s.variant ∧ t.pending = s.pending

/-- The canonical form of the stores and of every turret's local memory: rising addresses, no entry equal to what an unlisted address reads as. -/
def Claims.Canonical (s : State) : Prop :=
  scanon {} s.mem.words = true ∧ scanon 0xC0 s.mem.tags = true ∧
    ∀ u ∈ s.tur.ts, ∀ m ∈ u.memories, scanon 0 m = true

/-- Every step keeps the canonical form of the stores and of local memory (12 R430, 07 R265). -/
def Obligations.StepKeepsCanonical : Prop := ∀ (s t : State), Claims.Canonical s → step s = .next t → Claims.Canonical t

/-- What reset leaves (13 R473, R479, R481, 12 R449, 02 Table 2.2, 10 R386, 14 R531): a power-on start at step 0, isolated; no stream is open, no ring enabled, no key held, every store word zero and every line
free and block-owned; the configuration and the empty queue are the model's choice (log entry 2).

Reset has the canonical form. -/
def Obligations.ResetState : Prop :=
  (State.reset.pending = [] ∧ State.reset.lan.blk = .starting ∧ State.reset.lan.kind = 1 ∧ State.reset.lan.step = 0 ∧ State.reset.lan.iso = true ∧ State.reset.ctx.streams = [] ∧
  (∀ n, (State.reset.ring n).enable = false ∧ (State.reset.cqr n).enable = false) ∧ (∀ o, State.reset.key? o = none) ∧
  (∀ m u r w, State.reset.rawWord m u r w = {} ∧ State.reset.lineTag m u r = 0xC0) ∧ (∀ o, (State.reset.owner o).epoch = 0) ∧
  State.reset.lan.starts = 1 ∧ (getN State.reset.lan.log 0).code = 0xF002) ∧
  (Claims.Canonical State.reset)

/-- Code words of 07 Table 7.3 and Table 7.4, from their fields: MOVI g7, 0x4000; VIN v0, g4; VFIND g5, v1, g6; BEQ g10, g0, -9; EMIT g12, CUT. -/
def Obligations.KnalenWords : Prop :=
  decodeKnalen 3 (0x0C <<< 26 ||| 7 <<< 22 ||| 0x4000) = some (.movi 3 7 0x4000) ∧
  decodeKnalen 3 (0x2A <<< 26 ||| 0 <<< 22 ||| 4 <<< 18) = some (.vin 3 0 4 0) ∧
  decodeKnalen 3 (0x2D <<< 26 ||| 5 <<< 22 ||| 1 <<< 18 ||| 6 <<< 14) = some (.vfind 3 5 1 6) ∧
  decodeKnalen 3 (0x38 <<< 26 ||| 10 <<< 22 ||| 0 <<< 18 ||| 0x3FFF7) = some (.beq 3 10 0 0x3FFF7) ∧
  decodeKnalen 3 (0x30 <<< 26 ||| 12 <<< 18 ||| 0) = some (.emit 3 12 0) ∧ decodeKnalen 3 0 = none

/-- Decode and encode agree (07 R267, Table 7.3, Table 7.4): the code word of a well-formed Knalen instruction decodes to it, with every operand it carries. -/
def Obligations.KnalenDecodeEncode : Prop :=
  ∀ (i : Instr) (p : Nat) (w : Word), i.wf = true → encodeKnalen i = some (p, w) → decodeKnalen p w = some i
end

