-- ==== Sys2Proof/Laws/Sparse.lean ====
section
/-! SUPPORT. Sparse arrays in canonical form (`scanon`): what a read finds after a write, and that writes keep the form. They serve the
store words, the line tags and the local memories. -/

namespace Sys2Proof.Machine

variable {α : Type} [DecidableEq α] {z : α}

/-- The canonical form: addresses rise strictly, and no entry is the default. -/
theorem scanon_iff (l : List (Nat × α)) : scanon z l = true ↔ l.Pairwise (fun a b => a.1 < b.1) ∧ ∀ e ∈ l, e.2 ≠ z := by
  induction l with
  | nil => simp [scanon]
  | cons e r ih =>
    cases r with
    | nil => simp [scanon]
    | cons f r =>
      simp only [scanon, Bool.and_eq_true, decide_eq_true_eq, ih, List.pairwise_cons, List.mem_cons, forall_eq_or_imp]
      constructor
      · rintro ⟨⟨a, b⟩, ⟨c, d⟩, m, n⟩
        exact ⟨⟨⟨b, fun x h => Nat.lt_trans b (c x h)⟩, c, d⟩, a, m, n⟩
      · rintro ⟨⟨⟨b, -⟩, c, d⟩, a, m, n⟩
        exact ⟨⟨a, b⟩, ⟨c, d⟩, m, n⟩

/-- The entries after a write. -/
theorem mem_sput {l : List (Nat × α)} (h : l.Pairwise fun a b => a.1 < b.1) (a : Nat) (x : α) (e : Nat × α) :
    e ∈ sput z l a x ↔ (e ∈ l ∧ e.1 ≠ a) ∨ (e = (a, x) ∧ x ≠ z) := by
  induction l with
  | nil => by_cases k : x = z <;> simp [sput, k]
  | cons f r ih =>
    obtain ⟨h1, h2⟩ := List.pairwise_cons.mp h
    have low : ∀ e ∈ f :: r, f.1 ≤ e.1 := fun e m => by
      rcases List.mem_cons.mp m with rfl | m
      · exact Nat.le_refl _
      · exact Nat.le_of_lt (h1 e m)
    unfold sput
    split
    · rename_i k
      have ne : ∀ e ∈ f :: r, e.1 ≠ a := fun e m => by have := low e m; omega
      split
      · rename_i q
        simp only [q, ne_eq, not_true_eq_false, and_false, or_false]
        exact ⟨fun m => ⟨m, ne e m⟩, fun m => m.1⟩
      · rename_i q
        rw [List.mem_cons]
        exact ⟨fun m => m.elim (fun m => .inr ⟨m, q⟩) fun m => .inl ⟨m, ne e m⟩, fun m => m.elim (fun m => .inr m.1) fun m => .inl m.1⟩
    · split
      · rename_i k q
        have ne : ∀ e ∈ r, e.1 ≠ a := fun e m => by have := h1 e m; omega
        split
        · rename_i w
          simp only [w, ne_eq, not_true_eq_false, and_false, or_false, List.mem_cons]
          exact ⟨fun m => ⟨.inr m, ne e m⟩, fun ⟨m, n⟩ => m.elim (fun m => absurd (m ▸ q.symm : e.1 = a) n) id⟩
        · rename_i w
          rw [List.mem_cons, List.mem_cons]
          exact ⟨fun m => m.elim (fun m => .inr ⟨m, w⟩) fun m => .inl ⟨.inr m, ne e m⟩,
            fun m => m.elim (fun ⟨m, n⟩ => m.elim (fun m => absurd (m ▸ q.symm : e.1 = a) n) .inr) fun m => .inl m.1⟩
      · rename_i k q
        rw [List.mem_cons, ih h2, List.mem_cons]
        constructor
        · rintro (rfl | ⟨m, n⟩ | m)
          · exact .inl ⟨.inl rfl, fun c => q c.symm⟩
          · exact .inl ⟨.inr m, n⟩
          · exact .inr m
        · rintro (⟨rfl | m, n⟩ | m)
          · exact .inl rfl
          · exact .inr (.inl ⟨m, n⟩)
          · exact .inr (.inr m)

/-- A write keeps the canonical form. -/
theorem scanon_sput {l : List (Nat × α)} (h : scanon z l = true) (a : Nat) (x : α) : scanon z (sput z l a x) = true := by
  rw [scanon_iff] at h ⊢
  refine ⟨?_, fun e m => ?_⟩
  · obtain ⟨h, -⟩ := h
    induction l with
    | nil => unfold sput; split <;> simp
    | cons f r ih =>
      obtain ⟨h1, h2⟩ := List.pairwise_cons.mp h
      unfold sput
      split
      · rename_i k
        split
        · exact h
        · exact List.pairwise_cons.mpr ⟨fun e m => by
            rcases List.mem_cons.mp m with rfl | m
            · exact k
            · exact Nat.lt_trans k (h1 e m), h⟩
      · split
        · rename_i k q
          split
          · exact h2
          · exact List.pairwise_cons.mpr ⟨fun e m => by have := h1 e m; simp only; omega, h2⟩
        · rename_i k q
          refine List.pairwise_cons.mpr ⟨fun e m => ?_, ih h2⟩
          rcases (mem_sput h2 a x e).mp m with ⟨m, -⟩ | ⟨rfl, -⟩
          · exact h1 e m
          · simp only; omega
  · rcases (mem_sput h.1 a x e).mp m with ⟨m, -⟩ | ⟨rfl, n⟩
    · exact h.2 e m
    · exact n

omit [DecidableEq α] in
/-- A read of a listed address. -/
theorem sget_mem {l : List (Nat × α)} (h : l.Pairwise fun a b => a.1 < b.1) {a : Nat} {x : α} (m : (a, x) ∈ l) : sget z l a = x := by
  induction l with
  | nil => simp at m
  | cons f r ih =>
    obtain ⟨h1, h2⟩ := List.pairwise_cons.mp h
    unfold sget
    rcases List.mem_cons.mp m with m | m
    · subst m; simp
    · have := h1 _ m
      simp only at this
      rw [if_neg (by omega), if_neg (by omega)]
      exact ih h2 m

omit [DecidableEq α] in
/-- A read of an address that is not listed. -/
theorem sget_not_mem {l : List (Nat × α)} {a : Nat} (m : ∀ e ∈ l, e.1 ≠ a) : sget z l a = z := by
  induction l with
  | nil => rfl
  | cons f r ih =>
    unfold sget
    rw [if_neg (m f (List.mem_cons_self ..))]
    split
    · rfl
    · exact ih fun e k => m e (List.mem_cons_of_mem _ k)

/-- A write reads back. -/
theorem sget_sput_same {l : List (Nat × α)} (h : scanon z l = true) (a : Nat) (x : α) : sget z (sput z l a x) a = x := by
  have p := ((scanon_iff _).mp (scanon_sput h a x)).1
  have k := ((scanon_iff _).mp h).1
  by_cases q : x = z
  · rw [q]
    refine sget_not_mem fun e m => ?_
    rcases (mem_sput k a z e).mp m with ⟨-, m⟩ | ⟨-, m⟩
    · exact m
    · exact absurd rfl m
  · exact sget_mem p ((mem_sput k a x _).mpr (.inr ⟨rfl, q⟩))

/-- A write leaves every other address alone. -/
theorem sget_sput_ne {l : List (Nat × α)} (h : scanon z l = true) {a b : Nat} (n : b ≠ a) (x : α) :
    sget z (sput z l a x) b = sget z l b := by
  have p := ((scanon_iff _).mp (scanon_sput h a x)).1
  have k := ((scanon_iff _).mp h).1
  by_cases q : ∃ v, (b, v) ∈ l
  · obtain ⟨v, m⟩ := q
    rw [sget_mem k m, sget_mem p ((mem_sput k a x _).mpr (.inl ⟨m, n⟩))]
  · have r : ∀ e ∈ l, e.1 ≠ b := fun e m c => q ⟨e.2, by rw [← c]; exact m⟩
    rw [sget_not_mem r]
    refine sget_not_mem fun e m c => ?_
    rcases (mem_sput k a x e).mp m with ⟨m, -⟩ | ⟨rfl, -⟩
    · exact r e m c
    · exact n c.symm

/-- A write of several keeps the canonical form. -/
theorem scanon_sputs (xs : List α) : ∀ {l : List (Nat × α)} (a : Nat), scanon z l = true → scanon z (sputs z l a xs) = true := by
  induction xs with
  | nil => intro l a h; exact h
  | cons x r ih => intro l a h; exact ih (a + 1) (scanon_sput h a x)

/-- A write of several leaves every address outside them alone. -/
theorem sget_sputs_outside (xs : List α) : ∀ {l : List (Nat × α)} (a b : Nat), scanon z l = true → b < a ∨ a + xs.length ≤ b →
    sget z (sputs z l a xs) b = sget z l b := by
  induction xs with
  | nil => intro l a b _ _; rfl
  | cons x r ih =>
    intro l a b h k
    rw [List.length_cons] at k
    exact (ih (a + 1) b (scanon_sput h a x) (by omega)).trans (sget_sput_ne h (by omega) x)

/-- What several writes leave at their addresses. -/
theorem sget_sputs_at (xs : List α) : ∀ {l : List (Nat × α)} (a i : Nat) (h : i < xs.length), scanon z l = true →
    sget z (sputs z l a xs) (a + i) = xs[i] := by
  induction xs with
  | nil => intro l a i h; simp at h
  | cons x r ih =>
    intro l a i h c
    cases i with
    | zero => exact (sget_sputs_outside r (a + 1) a (scanon_sput c a x) (by omega)).trans (sget_sput_same c a x)
    | succ i =>
      have := ih (l := sput z l a x) (a + 1) i (by simpa using h) (scanon_sput c a x)
      rw [show a + (i + 1) = a + 1 + i by omega]
      simpa [sputs] using this

/-- Several writes read back. -/
theorem sgets_sputs {l : List (Nat × α)} (h : scanon z l = true) (a : Nat) (xs : List α) : sgets z (sputs z l a xs) a xs.length = xs := by
  apply List.ext_getElem
  · simp [sgets]
  · intro n h1 h2
    simp only [sgets, List.getElem_map, List.getElem_range]
    exact sget_sputs_at xs a n h2 h

/-- Changing values and leaving out what became the default keeps the canonical form. -/
theorem scanon_map_filter {l : List (Nat × α)} (h : scanon z l = true) (f : Nat × α → Nat × α) (k : ∀ e, (f e).1 = e.1) :
    scanon z ((l.map f).filter fun e => decide (e.2 ≠ z)) = true := by
  rw [scanon_iff] at h ⊢
  refine ⟨?_, fun e m => by simpa using (List.mem_filter.mp m).2⟩
  apply List.Pairwise.filter
  rw [List.pairwise_map]
  exact h.1.imp fun {a b} q => by rw [k, k]; exact q

/-- Leaving entries out keeps the canonical form. -/
theorem scanon_filter {l : List (Nat × α)} (h : scanon z l = true) (p : Nat × α → Bool) : scanon z (l.filter p) = true := by
  rw [scanon_iff] at h ⊢
  exact ⟨h.1.filter p, fun e m => h.2 e (List.mem_filter.mp m).1⟩

/-- Two canonical listings, one below an address and one from it on, make a canonical one. -/
theorem scanon_append {l r : List (Nat × α)} {n : Nat} (h : scanon z l = true) (k : scanon z r = true) (a : ∀ e ∈ l, e.1 < n)
    (b : ∀ e ∈ r, n ≤ e.1) : scanon z (l ++ r) = true := by
  rw [scanon_iff] at h k ⊢
  refine ⟨List.pairwise_append.mpr ⟨h.1, k.1, fun x hx y hy => Nat.lt_of_lt_of_le (a x hx) (b y hy)⟩, fun e m => ?_⟩
  exact (List.mem_append.mp m).elim (h.2 e) (k.2 e)

end Sys2Proof.Machine
end

