-- ==== Sys2Proof/Laws/Memory.lean ====
section
/-! SUPPORT. Local memories in canonical form (07 R265): what a turret keeps of them as it enters a program, ends work, suspends it
and resumes it. -/

namespace Sys2Proof.Machine

/-- Every local memory that a turret holds is in canonical form. -/
def Turret.Canon (t : Turret) : Prop := ∀ m ∈ t.memories, scanon 0 m = true

theorem Turret.Canon.core {t : Turret} (h : t.Canon) : scanon 0 t.core.mem = true := h _ (List.mem_cons_self ..)

/-- A turret that keeps its core and what it has suspended keeps its memories. -/
theorem Turret.Canon.of_eq {t u : Turret} (h : t.Canon) (c : u.core = t.core) (k : u.suspended = t.suspended) : u.Canon := by
  unfold Turret.Canon Turret.memories at h ⊢
  rw [c, k]; exact h

/-- A new core over canonical memory. -/
theorem Turret.Canon.of_core {t u : Turret} (h : t.Canon) (c : scanon 0 u.core.mem = true) (k : u.suspended = t.suspended) : u.Canon := by
  intro m e
  rcases List.mem_cons.mp e with rfl | e
  · exact c
  · exact h m (List.mem_cons_of_mem _ (by rw [← k]; exact e))

theorem windowMem_scanon (code : List Word) {mem : List (Nat × Byte)} (h : scanon 0 mem = true) : scanon 0 (windowMem code mem) = true := by
  unfold windowMem
  dsimp only
  generalize hb : (code.flatMap fun w => leBytes 4 w.toNat).take 0x4000 = bs
  have len : bs.length ≤ 0x4000 := by rw [← hb]; exact List.length_take_le ..
  refine scanon_append (n := 0x4000) ?_ (scanon_filter h _) (fun e m => ?_) fun e m => of_decide_eq_true (List.mem_filter.mp m).2
  · rw [scanon_iff]
    refine ⟨?_, fun e m => by simpa using (List.mem_filter.mp m).2⟩
    apply List.Pairwise.filter
    rw [List.pairwise_map]
    exact List.pairwise_lt_range
  · obtain ⟨n, hn, rfl⟩ := List.mem_map.mp (List.mem_filter.mp m).1
    exact Nat.lt_of_lt_of_le (List.mem_range.mp hn) len

theorem Core.entered_scanon {c : Core} (h : scanon 0 c.mem = true) : scanon 0 c.entered.mem = true := h

theorem Core.ended_scanon {c : Core} (h : scanon 0 c.mem = true) : scanon 0 c.ended.mem = true := scanon_filter h _

theorem Core.resumed_scanon {c d : Core} (h : scanon 0 c.mem = true) (k : scanon 0 d.mem = true) : scanon 0 (c.resumed d).mem = true :=
  scanon_append (n := 0x4000) (scanon_filter k _) (scanon_filter h _) (fun _ m => of_decide_eq_true (List.mem_filter.mp m).2)
    fun _ m => of_decide_eq_true (List.mem_filter.mp m).2

theorem Core.store_scanon {c : Core} (h : scanon 0 c.mem = true) (a : Nat) (bs : List Byte) : scanon 0 (c.store a bs).mem = true :=
  scanon_sputs bs a h

theorem Turret.suspends_canon {t : Turret} (h : t.Canon) (i : Invocation) : (t.suspends i).Canon := by
  intro m e
  simp only [Turret.memories, Turret.suspends, List.map_append, List.map_cons, List.map_nil, List.mem_cons, List.mem_append, List.not_mem_nil,
    or_false] at e
  rcases e with rfl | e | rfl
  · exact h.core
  · exact h _ (List.mem_cons_of_mem _ e)
  · exact h.core

theorem Turret.resumes_canon {t : Turret} (h : t.Canon) : t.resumes.Canon := by
  unfold Turret.resumes
  split
  · rename_i w e
    have hw : w ∈ t.suspended := List.mem_of_getLast? e
    intro m k
    rcases List.mem_cons.mp k with rfl | k
    · exact Core.resumed_scanon (h _ (List.mem_cons_of_mem _ (List.mem_map_of_mem hw))) h.core
    · obtain ⟨v, hv, rfl⟩ := List.mem_map.mp k
      exact h _ (List.mem_cons_of_mem _ (List.mem_map_of_mem ((List.dropLast_sublist _).subset hv)))
  · exact h

theorem Turret.enters_canon {t : Turret} (h : t.Canon) (p : Program) : (t.enters p).Canon := by
  unfold Turret.enters
  split
  · exact h
  · exact h.of_core (windowMem_scanon _ h.core) rfl

theorem Turret.local_canon (t : Turret) : ({ t with core := {}, suspended := [] } : Turret).Canon := by
  intro m e
  simp only [Turret.memories, List.map_nil, List.mem_cons, List.not_mem_nil, or_false] at e
  rw [e]; rfl

end Sys2Proof.Machine
end

