-- ==== Sys2Proof/Laws/State.lean ====
section
/-! SUPPORT. What the change of one unit of State leaves: its own field changed, every other field as it was. -/

namespace Sys2Proof.Machine

/-! ### State.onLan -/

section
variable (s : State) (f : Lan → Lan)
@[simp] theorem State.onLan_variant : (s.onLan f).variant = s.variant := rfl
@[simp] theorem State.onLan_pending : (s.onLan f).pending = s.pending := rfl
@[simp] theorem State.onLan_fresh : (s.onLan f).fresh = s.fresh := rfl
@[simp] theorem State.onLan_lan : (s.onLan f).lan = f s.lan := rfl
@[simp] theorem State.onLan_rng : (s.onLan f).rng = s.rng := rfl
@[simp] theorem State.onLan_voc : (s.onLan f).voc = s.voc := rfl
@[simp] theorem State.onLan_aut : (s.onLan f).aut = s.aut := rfl
@[simp] theorem State.onLan_cup : (s.onLan f).cup = s.cup := rfl
@[simp] theorem State.onLan_ctx : (s.onLan f).ctx = s.ctx := rfl
@[simp] theorem State.onLan_sel : (s.onLan f).sel = s.sel := rfl
@[simp] theorem State.onLan_fin : (s.onLan f).fin = s.fin := rfl
@[simp] theorem State.onLan_stp : (s.onLan f).stp = s.stp := rfl
@[simp] theorem State.onLan_pkr : (s.onLan f).pkr = s.pkr := rfl
@[simp] theorem State.onLan_eqs : (s.onLan f).eqs = s.eqs := rfl
@[simp] theorem State.onLan_job : (s.onLan f).job = s.job := rfl
@[simp] theorem State.onLan_tur : (s.onLan f).tur = s.tur := rfl
@[simp] theorem State.onLan_mem : (s.onLan f).mem = s.mem := rfl
@[simp] theorem State.onLan_cry : (s.onLan f).cry = s.cry := rfl
@[simp] theorem State.onLan_bel : (s.onLan f).bel = s.bel := rfl
@[simp] theorem State.onLan_snp : (s.onLan f).snp = s.snp := rfl
@[simp] theorem State.onLan_fab : (s.onLan f).fab = s.fab := rfl
@[simp] theorem State.onLan_csp : (s.onLan f).csp = s.csp := rfl
end

/-! ### State.onRng -/

section
variable (s : State) (f : Rng → Rng)
@[simp] theorem State.onRng_variant : (s.onRng f).variant = s.variant := rfl
@[simp] theorem State.onRng_pending : (s.onRng f).pending = s.pending := rfl
@[simp] theorem State.onRng_fresh : (s.onRng f).fresh = s.fresh := rfl
@[simp] theorem State.onRng_lan : (s.onRng f).lan = s.lan := rfl
@[simp] theorem State.onRng_rng : (s.onRng f).rng = f s.rng := rfl
@[simp] theorem State.onRng_voc : (s.onRng f).voc = s.voc := rfl
@[simp] theorem State.onRng_aut : (s.onRng f).aut = s.aut := rfl
@[simp] theorem State.onRng_cup : (s.onRng f).cup = s.cup := rfl
@[simp] theorem State.onRng_ctx : (s.onRng f).ctx = s.ctx := rfl
@[simp] theorem State.onRng_sel : (s.onRng f).sel = s.sel := rfl
@[simp] theorem State.onRng_fin : (s.onRng f).fin = s.fin := rfl
@[simp] theorem State.onRng_stp : (s.onRng f).stp = s.stp := rfl
@[simp] theorem State.onRng_pkr : (s.onRng f).pkr = s.pkr := rfl
@[simp] theorem State.onRng_eqs : (s.onRng f).eqs = s.eqs := rfl
@[simp] theorem State.onRng_job : (s.onRng f).job = s.job := rfl
@[simp] theorem State.onRng_tur : (s.onRng f).tur = s.tur := rfl
@[simp] theorem State.onRng_mem : (s.onRng f).mem = s.mem := rfl
@[simp] theorem State.onRng_cry : (s.onRng f).cry = s.cry := rfl
@[simp] theorem State.onRng_bel : (s.onRng f).bel = s.bel := rfl
@[simp] theorem State.onRng_snp : (s.onRng f).snp = s.snp := rfl
@[simp] theorem State.onRng_fab : (s.onRng f).fab = s.fab := rfl
@[simp] theorem State.onRng_csp : (s.onRng f).csp = s.csp := rfl
end

/-! ### State.onVoc -/

section
variable (s : State) (f : Voc → Voc)
@[simp] theorem State.onVoc_variant : (s.onVoc f).variant = s.variant := rfl
@[simp] theorem State.onVoc_pending : (s.onVoc f).pending = s.pending := rfl
@[simp] theorem State.onVoc_fresh : (s.onVoc f).fresh = s.fresh := rfl
@[simp] theorem State.onVoc_lan : (s.onVoc f).lan = s.lan := rfl
@[simp] theorem State.onVoc_rng : (s.onVoc f).rng = s.rng := rfl
@[simp] theorem State.onVoc_voc : (s.onVoc f).voc = f s.voc := rfl
@[simp] theorem State.onVoc_aut : (s.onVoc f).aut = s.aut := rfl
@[simp] theorem State.onVoc_cup : (s.onVoc f).cup = s.cup := rfl
@[simp] theorem State.onVoc_ctx : (s.onVoc f).ctx = s.ctx := rfl
@[simp] theorem State.onVoc_sel : (s.onVoc f).sel = s.sel := rfl
@[simp] theorem State.onVoc_fin : (s.onVoc f).fin = s.fin := rfl
@[simp] theorem State.onVoc_stp : (s.onVoc f).stp = s.stp := rfl
@[simp] theorem State.onVoc_pkr : (s.onVoc f).pkr = s.pkr := rfl
@[simp] theorem State.onVoc_eqs : (s.onVoc f).eqs = s.eqs := rfl
@[simp] theorem State.onVoc_job : (s.onVoc f).job = s.job := rfl
@[simp] theorem State.onVoc_tur : (s.onVoc f).tur = s.tur := rfl
@[simp] theorem State.onVoc_mem : (s.onVoc f).mem = s.mem := rfl
@[simp] theorem State.onVoc_cry : (s.onVoc f).cry = s.cry := rfl
@[simp] theorem State.onVoc_bel : (s.onVoc f).bel = s.bel := rfl
@[simp] theorem State.onVoc_snp : (s.onVoc f).snp = s.snp := rfl
@[simp] theorem State.onVoc_fab : (s.onVoc f).fab = s.fab := rfl
@[simp] theorem State.onVoc_csp : (s.onVoc f).csp = s.csp := rfl
end

/-! ### State.onAut -/

section
variable (s : State) (f : Aut → Aut)
@[simp] theorem State.onAut_variant : (s.onAut f).variant = s.variant := rfl
@[simp] theorem State.onAut_pending : (s.onAut f).pending = s.pending := rfl
@[simp] theorem State.onAut_fresh : (s.onAut f).fresh = s.fresh := rfl
@[simp] theorem State.onAut_lan : (s.onAut f).lan = s.lan := rfl
@[simp] theorem State.onAut_rng : (s.onAut f).rng = s.rng := rfl
@[simp] theorem State.onAut_voc : (s.onAut f).voc = s.voc := rfl
@[simp] theorem State.onAut_aut : (s.onAut f).aut = f s.aut := rfl
@[simp] theorem State.onAut_cup : (s.onAut f).cup = s.cup := rfl
@[simp] theorem State.onAut_ctx : (s.onAut f).ctx = s.ctx := rfl
@[simp] theorem State.onAut_sel : (s.onAut f).sel = s.sel := rfl
@[simp] theorem State.onAut_fin : (s.onAut f).fin = s.fin := rfl
@[simp] theorem State.onAut_stp : (s.onAut f).stp = s.stp := rfl
@[simp] theorem State.onAut_pkr : (s.onAut f).pkr = s.pkr := rfl
@[simp] theorem State.onAut_eqs : (s.onAut f).eqs = s.eqs := rfl
@[simp] theorem State.onAut_job : (s.onAut f).job = s.job := rfl
@[simp] theorem State.onAut_tur : (s.onAut f).tur = s.tur := rfl
@[simp] theorem State.onAut_mem : (s.onAut f).mem = s.mem := rfl
@[simp] theorem State.onAut_cry : (s.onAut f).cry = s.cry := rfl
@[simp] theorem State.onAut_bel : (s.onAut f).bel = s.bel := rfl
@[simp] theorem State.onAut_snp : (s.onAut f).snp = s.snp := rfl
@[simp] theorem State.onAut_fab : (s.onAut f).fab = s.fab := rfl
@[simp] theorem State.onAut_csp : (s.onAut f).csp = s.csp := rfl
end

/-! ### State.onCup -/

section
variable (s : State) (f : Cup → Cup)
@[simp] theorem State.onCup_variant : (s.onCup f).variant = s.variant := rfl
@[simp] theorem State.onCup_pending : (s.onCup f).pending = s.pending := rfl
@[simp] theorem State.onCup_fresh : (s.onCup f).fresh = s.fresh := rfl
@[simp] theorem State.onCup_lan : (s.onCup f).lan = s.lan := rfl
@[simp] theorem State.onCup_rng : (s.onCup f).rng = s.rng := rfl
@[simp] theorem State.onCup_voc : (s.onCup f).voc = s.voc := rfl
@[simp] theorem State.onCup_aut : (s.onCup f).aut = s.aut := rfl
@[simp] theorem State.onCup_cup : (s.onCup f).cup = f s.cup := rfl
@[simp] theorem State.onCup_ctx : (s.onCup f).ctx = s.ctx := rfl
@[simp] theorem State.onCup_sel : (s.onCup f).sel = s.sel := rfl
@[simp] theorem State.onCup_fin : (s.onCup f).fin = s.fin := rfl
@[simp] theorem State.onCup_stp : (s.onCup f).stp = s.stp := rfl
@[simp] theorem State.onCup_pkr : (s.onCup f).pkr = s.pkr := rfl
@[simp] theorem State.onCup_eqs : (s.onCup f).eqs = s.eqs := rfl
@[simp] theorem State.onCup_job : (s.onCup f).job = s.job := rfl
@[simp] theorem State.onCup_tur : (s.onCup f).tur = s.tur := rfl
@[simp] theorem State.onCup_mem : (s.onCup f).mem = s.mem := rfl
@[simp] theorem State.onCup_cry : (s.onCup f).cry = s.cry := rfl
@[simp] theorem State.onCup_bel : (s.onCup f).bel = s.bel := rfl
@[simp] theorem State.onCup_snp : (s.onCup f).snp = s.snp := rfl
@[simp] theorem State.onCup_fab : (s.onCup f).fab = s.fab := rfl
@[simp] theorem State.onCup_csp : (s.onCup f).csp = s.csp := rfl
end

/-! ### State.onCtx -/

section
variable (s : State) (f : Ctx → Ctx)
@[simp] theorem State.onCtx_variant : (s.onCtx f).variant = s.variant := rfl
@[simp] theorem State.onCtx_pending : (s.onCtx f).pending = s.pending := rfl
@[simp] theorem State.onCtx_fresh : (s.onCtx f).fresh = s.fresh := rfl
@[simp] theorem State.onCtx_lan : (s.onCtx f).lan = s.lan := rfl
@[simp] theorem State.onCtx_rng : (s.onCtx f).rng = s.rng := rfl
@[simp] theorem State.onCtx_voc : (s.onCtx f).voc = s.voc := rfl
@[simp] theorem State.onCtx_aut : (s.onCtx f).aut = s.aut := rfl
@[simp] theorem State.onCtx_cup : (s.onCtx f).cup = s.cup := rfl
@[simp] theorem State.onCtx_ctx : (s.onCtx f).ctx = f s.ctx := rfl
@[simp] theorem State.onCtx_sel : (s.onCtx f).sel = s.sel := rfl
@[simp] theorem State.onCtx_fin : (s.onCtx f).fin = s.fin := rfl
@[simp] theorem State.onCtx_stp : (s.onCtx f).stp = s.stp := rfl
@[simp] theorem State.onCtx_pkr : (s.onCtx f).pkr = s.pkr := rfl
@[simp] theorem State.onCtx_eqs : (s.onCtx f).eqs = s.eqs := rfl
@[simp] theorem State.onCtx_job : (s.onCtx f).job = s.job := rfl
@[simp] theorem State.onCtx_tur : (s.onCtx f).tur = s.tur := rfl
@[simp] theorem State.onCtx_mem : (s.onCtx f).mem = s.mem := rfl
@[simp] theorem State.onCtx_cry : (s.onCtx f).cry = s.cry := rfl
@[simp] theorem State.onCtx_bel : (s.onCtx f).bel = s.bel := rfl
@[simp] theorem State.onCtx_snp : (s.onCtx f).snp = s.snp := rfl
@[simp] theorem State.onCtx_fab : (s.onCtx f).fab = s.fab := rfl
@[simp] theorem State.onCtx_csp : (s.onCtx f).csp = s.csp := rfl
end

/-! ### State.onSel -/

section
variable (s : State) (f : Sel → Sel)
@[simp] theorem State.onSel_variant : (s.onSel f).variant = s.variant := rfl
@[simp] theorem State.onSel_pending : (s.onSel f).pending = s.pending := rfl
@[simp] theorem State.onSel_fresh : (s.onSel f).fresh = s.fresh := rfl
@[simp] theorem State.onSel_lan : (s.onSel f).lan = s.lan := rfl
@[simp] theorem State.onSel_rng : (s.onSel f).rng = s.rng := rfl
@[simp] theorem State.onSel_voc : (s.onSel f).voc = s.voc := rfl
@[simp] theorem State.onSel_aut : (s.onSel f).aut = s.aut := rfl
@[simp] theorem State.onSel_cup : (s.onSel f).cup = s.cup := rfl
@[simp] theorem State.onSel_ctx : (s.onSel f).ctx = s.ctx := rfl
@[simp] theorem State.onSel_sel : (s.onSel f).sel = f s.sel := rfl
@[simp] theorem State.onSel_fin : (s.onSel f).fin = s.fin := rfl
@[simp] theorem State.onSel_stp : (s.onSel f).stp = s.stp := rfl
@[simp] theorem State.onSel_pkr : (s.onSel f).pkr = s.pkr := rfl
@[simp] theorem State.onSel_eqs : (s.onSel f).eqs = s.eqs := rfl
@[simp] theorem State.onSel_job : (s.onSel f).job = s.job := rfl
@[simp] theorem State.onSel_tur : (s.onSel f).tur = s.tur := rfl
@[simp] theorem State.onSel_mem : (s.onSel f).mem = s.mem := rfl
@[simp] theorem State.onSel_cry : (s.onSel f).cry = s.cry := rfl
@[simp] theorem State.onSel_bel : (s.onSel f).bel = s.bel := rfl
@[simp] theorem State.onSel_snp : (s.onSel f).snp = s.snp := rfl
@[simp] theorem State.onSel_fab : (s.onSel f).fab = s.fab := rfl
@[simp] theorem State.onSel_csp : (s.onSel f).csp = s.csp := rfl
end

/-! ### State.onFin -/

section
variable (s : State) (f : Fin → Fin)
@[simp] theorem State.onFin_variant : (s.onFin f).variant = s.variant := rfl
@[simp] theorem State.onFin_pending : (s.onFin f).pending = s.pending := rfl
@[simp] theorem State.onFin_fresh : (s.onFin f).fresh = s.fresh := rfl
@[simp] theorem State.onFin_lan : (s.onFin f).lan = s.lan := rfl
@[simp] theorem State.onFin_rng : (s.onFin f).rng = s.rng := rfl
@[simp] theorem State.onFin_voc : (s.onFin f).voc = s.voc := rfl
@[simp] theorem State.onFin_aut : (s.onFin f).aut = s.aut := rfl
@[simp] theorem State.onFin_cup : (s.onFin f).cup = s.cup := rfl
@[simp] theorem State.onFin_ctx : (s.onFin f).ctx = s.ctx := rfl
@[simp] theorem State.onFin_sel : (s.onFin f).sel = s.sel := rfl
@[simp] theorem State.onFin_fin : (s.onFin f).fin = f s.fin := rfl
@[simp] theorem State.onFin_stp : (s.onFin f).stp = s.stp := rfl
@[simp] theorem State.onFin_pkr : (s.onFin f).pkr = s.pkr := rfl
@[simp] theorem State.onFin_eqs : (s.onFin f).eqs = s.eqs := rfl
@[simp] theorem State.onFin_job : (s.onFin f).job = s.job := rfl
@[simp] theorem State.onFin_tur : (s.onFin f).tur = s.tur := rfl
@[simp] theorem State.onFin_mem : (s.onFin f).mem = s.mem := rfl
@[simp] theorem State.onFin_cry : (s.onFin f).cry = s.cry := rfl
@[simp] theorem State.onFin_bel : (s.onFin f).bel = s.bel := rfl
@[simp] theorem State.onFin_snp : (s.onFin f).snp = s.snp := rfl
@[simp] theorem State.onFin_fab : (s.onFin f).fab = s.fab := rfl
@[simp] theorem State.onFin_csp : (s.onFin f).csp = s.csp := rfl
end

/-! ### State.onStp -/

section
variable (s : State) (f : Stp → Stp)
@[simp] theorem State.onStp_variant : (s.onStp f).variant = s.variant := rfl
@[simp] theorem State.onStp_pending : (s.onStp f).pending = s.pending := rfl
@[simp] theorem State.onStp_fresh : (s.onStp f).fresh = s.fresh := rfl
@[simp] theorem State.onStp_lan : (s.onStp f).lan = s.lan := rfl
@[simp] theorem State.onStp_rng : (s.onStp f).rng = s.rng := rfl
@[simp] theorem State.onStp_voc : (s.onStp f).voc = s.voc := rfl
@[simp] theorem State.onStp_aut : (s.onStp f).aut = s.aut := rfl
@[simp] theorem State.onStp_cup : (s.onStp f).cup = s.cup := rfl
@[simp] theorem State.onStp_ctx : (s.onStp f).ctx = s.ctx := rfl
@[simp] theorem State.onStp_sel : (s.onStp f).sel = s.sel := rfl
@[simp] theorem State.onStp_fin : (s.onStp f).fin = s.fin := rfl
@[simp] theorem State.onStp_stp : (s.onStp f).stp = f s.stp := rfl
@[simp] theorem State.onStp_pkr : (s.onStp f).pkr = s.pkr := rfl
@[simp] theorem State.onStp_eqs : (s.onStp f).eqs = s.eqs := rfl
@[simp] theorem State.onStp_job : (s.onStp f).job = s.job := rfl
@[simp] theorem State.onStp_tur : (s.onStp f).tur = s.tur := rfl
@[simp] theorem State.onStp_mem : (s.onStp f).mem = s.mem := rfl
@[simp] theorem State.onStp_cry : (s.onStp f).cry = s.cry := rfl
@[simp] theorem State.onStp_bel : (s.onStp f).bel = s.bel := rfl
@[simp] theorem State.onStp_snp : (s.onStp f).snp = s.snp := rfl
@[simp] theorem State.onStp_fab : (s.onStp f).fab = s.fab := rfl
@[simp] theorem State.onStp_csp : (s.onStp f).csp = s.csp := rfl
end

/-! ### State.onPkr -/

section
variable (s : State) (f : Pkr → Pkr)
@[simp] theorem State.onPkr_variant : (s.onPkr f).variant = s.variant := rfl
@[simp] theorem State.onPkr_pending : (s.onPkr f).pending = s.pending := rfl
@[simp] theorem State.onPkr_fresh : (s.onPkr f).fresh = s.fresh := rfl
@[simp] theorem State.onPkr_lan : (s.onPkr f).lan = s.lan := rfl
@[simp] theorem State.onPkr_rng : (s.onPkr f).rng = s.rng := rfl
@[simp] theorem State.onPkr_voc : (s.onPkr f).voc = s.voc := rfl
@[simp] theorem State.onPkr_aut : (s.onPkr f).aut = s.aut := rfl
@[simp] theorem State.onPkr_cup : (s.onPkr f).cup = s.cup := rfl
@[simp] theorem State.onPkr_ctx : (s.onPkr f).ctx = s.ctx := rfl
@[simp] theorem State.onPkr_sel : (s.onPkr f).sel = s.sel := rfl
@[simp] theorem State.onPkr_fin : (s.onPkr f).fin = s.fin := rfl
@[simp] theorem State.onPkr_stp : (s.onPkr f).stp = s.stp := rfl
@[simp] theorem State.onPkr_pkr : (s.onPkr f).pkr = f s.pkr := rfl
@[simp] theorem State.onPkr_eqs : (s.onPkr f).eqs = s.eqs := rfl
@[simp] theorem State.onPkr_job : (s.onPkr f).job = s.job := rfl
@[simp] theorem State.onPkr_tur : (s.onPkr f).tur = s.tur := rfl
@[simp] theorem State.onPkr_mem : (s.onPkr f).mem = s.mem := rfl
@[simp] theorem State.onPkr_cry : (s.onPkr f).cry = s.cry := rfl
@[simp] theorem State.onPkr_bel : (s.onPkr f).bel = s.bel := rfl
@[simp] theorem State.onPkr_snp : (s.onPkr f).snp = s.snp := rfl
@[simp] theorem State.onPkr_fab : (s.onPkr f).fab = s.fab := rfl
@[simp] theorem State.onPkr_csp : (s.onPkr f).csp = s.csp := rfl
end

/-! ### State.onEqs -/

section
variable (s : State) (f : Eqs → Eqs)
@[simp] theorem State.onEqs_variant : (s.onEqs f).variant = s.variant := rfl
@[simp] theorem State.onEqs_pending : (s.onEqs f).pending = s.pending := rfl
@[simp] theorem State.onEqs_fresh : (s.onEqs f).fresh = s.fresh := rfl
@[simp] theorem State.onEqs_lan : (s.onEqs f).lan = s.lan := rfl
@[simp] theorem State.onEqs_rng : (s.onEqs f).rng = s.rng := rfl
@[simp] theorem State.onEqs_voc : (s.onEqs f).voc = s.voc := rfl
@[simp] theorem State.onEqs_aut : (s.onEqs f).aut = s.aut := rfl
@[simp] theorem State.onEqs_cup : (s.onEqs f).cup = s.cup := rfl
@[simp] theorem State.onEqs_ctx : (s.onEqs f).ctx = s.ctx := rfl
@[simp] theorem State.onEqs_sel : (s.onEqs f).sel = s.sel := rfl
@[simp] theorem State.onEqs_fin : (s.onEqs f).fin = s.fin := rfl
@[simp] theorem State.onEqs_stp : (s.onEqs f).stp = s.stp := rfl
@[simp] theorem State.onEqs_pkr : (s.onEqs f).pkr = s.pkr := rfl
@[simp] theorem State.onEqs_eqs : (s.onEqs f).eqs = f s.eqs := rfl
@[simp] theorem State.onEqs_job : (s.onEqs f).job = s.job := rfl
@[simp] theorem State.onEqs_tur : (s.onEqs f).tur = s.tur := rfl
@[simp] theorem State.onEqs_mem : (s.onEqs f).mem = s.mem := rfl
@[simp] theorem State.onEqs_cry : (s.onEqs f).cry = s.cry := rfl
@[simp] theorem State.onEqs_bel : (s.onEqs f).bel = s.bel := rfl
@[simp] theorem State.onEqs_snp : (s.onEqs f).snp = s.snp := rfl
@[simp] theorem State.onEqs_fab : (s.onEqs f).fab = s.fab := rfl
@[simp] theorem State.onEqs_csp : (s.onEqs f).csp = s.csp := rfl
end

/-! ### State.onJob -/

section
variable (s : State) (f : Jobs → Jobs)
@[simp] theorem State.onJob_variant : (s.onJob f).variant = s.variant := rfl
@[simp] theorem State.onJob_pending : (s.onJob f).pending = s.pending := rfl
@[simp] theorem State.onJob_fresh : (s.onJob f).fresh = s.fresh := rfl
@[simp] theorem State.onJob_lan : (s.onJob f).lan = s.lan := rfl
@[simp] theorem State.onJob_rng : (s.onJob f).rng = s.rng := rfl
@[simp] theorem State.onJob_voc : (s.onJob f).voc = s.voc := rfl
@[simp] theorem State.onJob_aut : (s.onJob f).aut = s.aut := rfl
@[simp] theorem State.onJob_cup : (s.onJob f).cup = s.cup := rfl
@[simp] theorem State.onJob_ctx : (s.onJob f).ctx = s.ctx := rfl
@[simp] theorem State.onJob_sel : (s.onJob f).sel = s.sel := rfl
@[simp] theorem State.onJob_fin : (s.onJob f).fin = s.fin := rfl
@[simp] theorem State.onJob_stp : (s.onJob f).stp = s.stp := rfl
@[simp] theorem State.onJob_pkr : (s.onJob f).pkr = s.pkr := rfl
@[simp] theorem State.onJob_eqs : (s.onJob f).eqs = s.eqs := rfl
@[simp] theorem State.onJob_job : (s.onJob f).job = f s.job := rfl
@[simp] theorem State.onJob_tur : (s.onJob f).tur = s.tur := rfl
@[simp] theorem State.onJob_mem : (s.onJob f).mem = s.mem := rfl
@[simp] theorem State.onJob_cry : (s.onJob f).cry = s.cry := rfl
@[simp] theorem State.onJob_bel : (s.onJob f).bel = s.bel := rfl
@[simp] theorem State.onJob_snp : (s.onJob f).snp = s.snp := rfl
@[simp] theorem State.onJob_fab : (s.onJob f).fab = s.fab := rfl
@[simp] theorem State.onJob_csp : (s.onJob f).csp = s.csp := rfl
end

/-! ### State.onTur -/

section
variable (s : State) (f : Tur → Tur)
@[simp] theorem State.onTur_variant : (s.onTur f).variant = s.variant := rfl
@[simp] theorem State.onTur_pending : (s.onTur f).pending = s.pending := rfl
@[simp] theorem State.onTur_fresh : (s.onTur f).fresh = s.fresh := rfl
@[simp] theorem State.onTur_lan : (s.onTur f).lan = s.lan := rfl
@[simp] theorem State.onTur_rng : (s.onTur f).rng = s.rng := rfl
@[simp] theorem State.onTur_voc : (s.onTur f).voc = s.voc := rfl
@[simp] theorem State.onTur_aut : (s.onTur f).aut = s.aut := rfl
@[simp] theorem State.onTur_cup : (s.onTur f).cup = s.cup := rfl
@[simp] theorem State.onTur_ctx : (s.onTur f).ctx = s.ctx := rfl
@[simp] theorem State.onTur_sel : (s.onTur f).sel = s.sel := rfl
@[simp] theorem State.onTur_fin : (s.onTur f).fin = s.fin := rfl
@[simp] theorem State.onTur_stp : (s.onTur f).stp = s.stp := rfl
@[simp] theorem State.onTur_pkr : (s.onTur f).pkr = s.pkr := rfl
@[simp] theorem State.onTur_eqs : (s.onTur f).eqs = s.eqs := rfl
@[simp] theorem State.onTur_job : (s.onTur f).job = s.job := rfl
@[simp] theorem State.onTur_tur : (s.onTur f).tur = f s.tur := rfl
@[simp] theorem State.onTur_mem : (s.onTur f).mem = s.mem := rfl
@[simp] theorem State.onTur_cry : (s.onTur f).cry = s.cry := rfl
@[simp] theorem State.onTur_bel : (s.onTur f).bel = s.bel := rfl
@[simp] theorem State.onTur_snp : (s.onTur f).snp = s.snp := rfl
@[simp] theorem State.onTur_fab : (s.onTur f).fab = s.fab := rfl
@[simp] theorem State.onTur_csp : (s.onTur f).csp = s.csp := rfl
end

/-! ### State.onMem -/

section
variable (s : State) (f : Mem → Mem)
@[simp] theorem State.onMem_variant : (s.onMem f).variant = s.variant := rfl
@[simp] theorem State.onMem_pending : (s.onMem f).pending = s.pending := rfl
@[simp] theorem State.onMem_fresh : (s.onMem f).fresh = s.fresh := rfl
@[simp] theorem State.onMem_lan : (s.onMem f).lan = s.lan := rfl
@[simp] theorem State.onMem_rng : (s.onMem f).rng = s.rng := rfl
@[simp] theorem State.onMem_voc : (s.onMem f).voc = s.voc := rfl
@[simp] theorem State.onMem_aut : (s.onMem f).aut = s.aut := rfl
@[simp] theorem State.onMem_cup : (s.onMem f).cup = s.cup := rfl
@[simp] theorem State.onMem_ctx : (s.onMem f).ctx = s.ctx := rfl
@[simp] theorem State.onMem_sel : (s.onMem f).sel = s.sel := rfl
@[simp] theorem State.onMem_fin : (s.onMem f).fin = s.fin := rfl
@[simp] theorem State.onMem_stp : (s.onMem f).stp = s.stp := rfl
@[simp] theorem State.onMem_pkr : (s.onMem f).pkr = s.pkr := rfl
@[simp] theorem State.onMem_eqs : (s.onMem f).eqs = s.eqs := rfl
@[simp] theorem State.onMem_job : (s.onMem f).job = s.job := rfl
@[simp] theorem State.onMem_tur : (s.onMem f).tur = s.tur := rfl
@[simp] theorem State.onMem_mem : (s.onMem f).mem = f s.mem := rfl
@[simp] theorem State.onMem_cry : (s.onMem f).cry = s.cry := rfl
@[simp] theorem State.onMem_bel : (s.onMem f).bel = s.bel := rfl
@[simp] theorem State.onMem_snp : (s.onMem f).snp = s.snp := rfl
@[simp] theorem State.onMem_fab : (s.onMem f).fab = s.fab := rfl
@[simp] theorem State.onMem_csp : (s.onMem f).csp = s.csp := rfl
end

/-! ### State.onCry -/

section
variable (s : State) (f : Cry → Cry)
@[simp] theorem State.onCry_variant : (s.onCry f).variant = s.variant := rfl
@[simp] theorem State.onCry_pending : (s.onCry f).pending = s.pending := rfl
@[simp] theorem State.onCry_fresh : (s.onCry f).fresh = s.fresh := rfl
@[simp] theorem State.onCry_lan : (s.onCry f).lan = s.lan := rfl
@[simp] theorem State.onCry_rng : (s.onCry f).rng = s.rng := rfl
@[simp] theorem State.onCry_voc : (s.onCry f).voc = s.voc := rfl
@[simp] theorem State.onCry_aut : (s.onCry f).aut = s.aut := rfl
@[simp] theorem State.onCry_cup : (s.onCry f).cup = s.cup := rfl
@[simp] theorem State.onCry_ctx : (s.onCry f).ctx = s.ctx := rfl
@[simp] theorem State.onCry_sel : (s.onCry f).sel = s.sel := rfl
@[simp] theorem State.onCry_fin : (s.onCry f).fin = s.fin := rfl
@[simp] theorem State.onCry_stp : (s.onCry f).stp = s.stp := rfl
@[simp] theorem State.onCry_pkr : (s.onCry f).pkr = s.pkr := rfl
@[simp] theorem State.onCry_eqs : (s.onCry f).eqs = s.eqs := rfl
@[simp] theorem State.onCry_job : (s.onCry f).job = s.job := rfl
@[simp] theorem State.onCry_tur : (s.onCry f).tur = s.tur := rfl
@[simp] theorem State.onCry_mem : (s.onCry f).mem = s.mem := rfl
@[simp] theorem State.onCry_cry : (s.onCry f).cry = f s.cry := rfl
@[simp] theorem State.onCry_bel : (s.onCry f).bel = s.bel := rfl
@[simp] theorem State.onCry_snp : (s.onCry f).snp = s.snp := rfl
@[simp] theorem State.onCry_fab : (s.onCry f).fab = s.fab := rfl
@[simp] theorem State.onCry_csp : (s.onCry f).csp = s.csp := rfl
end

/-! ### State.onBel -/

section
variable (s : State) (f : Bel → Bel)
@[simp] theorem State.onBel_variant : (s.onBel f).variant = s.variant := rfl
@[simp] theorem State.onBel_pending : (s.onBel f).pending = s.pending := rfl
@[simp] theorem State.onBel_fresh : (s.onBel f).fresh = s.fresh := rfl
@[simp] theorem State.onBel_lan : (s.onBel f).lan = s.lan := rfl
@[simp] theorem State.onBel_rng : (s.onBel f).rng = s.rng := rfl
@[simp] theorem State.onBel_voc : (s.onBel f).voc = s.voc := rfl
@[simp] theorem State.onBel_aut : (s.onBel f).aut = s.aut := rfl
@[simp] theorem State.onBel_cup : (s.onBel f).cup = s.cup := rfl
@[simp] theorem State.onBel_ctx : (s.onBel f).ctx = s.ctx := rfl
@[simp] theorem State.onBel_sel : (s.onBel f).sel = s.sel := rfl
@[simp] theorem State.onBel_fin : (s.onBel f).fin = s.fin := rfl
@[simp] theorem State.onBel_stp : (s.onBel f).stp = s.stp := rfl
@[simp] theorem State.onBel_pkr : (s.onBel f).pkr = s.pkr := rfl
@[simp] theorem State.onBel_eqs : (s.onBel f).eqs = s.eqs := rfl
@[simp] theorem State.onBel_job : (s.onBel f).job = s.job := rfl
@[simp] theorem State.onBel_tur : (s.onBel f).tur = s.tur := rfl
@[simp] theorem State.onBel_mem : (s.onBel f).mem = s.mem := rfl
@[simp] theorem State.onBel_cry : (s.onBel f).cry = s.cry := rfl
@[simp] theorem State.onBel_bel : (s.onBel f).bel = f s.bel := rfl
@[simp] theorem State.onBel_snp : (s.onBel f).snp = s.snp := rfl
@[simp] theorem State.onBel_fab : (s.onBel f).fab = s.fab := rfl
@[simp] theorem State.onBel_csp : (s.onBel f).csp = s.csp := rfl
end

/-! ### State.onSnp -/

section
variable (s : State) (f : Snp → Snp)
@[simp] theorem State.onSnp_variant : (s.onSnp f).variant = s.variant := rfl
@[simp] theorem State.onSnp_pending : (s.onSnp f).pending = s.pending := rfl
@[simp] theorem State.onSnp_fresh : (s.onSnp f).fresh = s.fresh := rfl
@[simp] theorem State.onSnp_lan : (s.onSnp f).lan = s.lan := rfl
@[simp] theorem State.onSnp_rng : (s.onSnp f).rng = s.rng := rfl
@[simp] theorem State.onSnp_voc : (s.onSnp f).voc = s.voc := rfl
@[simp] theorem State.onSnp_aut : (s.onSnp f).aut = s.aut := rfl
@[simp] theorem State.onSnp_cup : (s.onSnp f).cup = s.cup := rfl
@[simp] theorem State.onSnp_ctx : (s.onSnp f).ctx = s.ctx := rfl
@[simp] theorem State.onSnp_sel : (s.onSnp f).sel = s.sel := rfl
@[simp] theorem State.onSnp_fin : (s.onSnp f).fin = s.fin := rfl
@[simp] theorem State.onSnp_stp : (s.onSnp f).stp = s.stp := rfl
@[simp] theorem State.onSnp_pkr : (s.onSnp f).pkr = s.pkr := rfl
@[simp] theorem State.onSnp_eqs : (s.onSnp f).eqs = s.eqs := rfl
@[simp] theorem State.onSnp_job : (s.onSnp f).job = s.job := rfl
@[simp] theorem State.onSnp_tur : (s.onSnp f).tur = s.tur := rfl
@[simp] theorem State.onSnp_mem : (s.onSnp f).mem = s.mem := rfl
@[simp] theorem State.onSnp_cry : (s.onSnp f).cry = s.cry := rfl
@[simp] theorem State.onSnp_bel : (s.onSnp f).bel = s.bel := rfl
@[simp] theorem State.onSnp_snp : (s.onSnp f).snp = f s.snp := rfl
@[simp] theorem State.onSnp_fab : (s.onSnp f).fab = s.fab := rfl
@[simp] theorem State.onSnp_csp : (s.onSnp f).csp = s.csp := rfl
end

/-! ### State.onFab -/

section
variable (s : State) (f : Fab → Fab)
@[simp] theorem State.onFab_variant : (s.onFab f).variant = s.variant := rfl
@[simp] theorem State.onFab_pending : (s.onFab f).pending = s.pending := rfl
@[simp] theorem State.onFab_fresh : (s.onFab f).fresh = s.fresh := rfl
@[simp] theorem State.onFab_lan : (s.onFab f).lan = s.lan := rfl
@[simp] theorem State.onFab_rng : (s.onFab f).rng = s.rng := rfl
@[simp] theorem State.onFab_voc : (s.onFab f).voc = s.voc := rfl
@[simp] theorem State.onFab_aut : (s.onFab f).aut = s.aut := rfl
@[simp] theorem State.onFab_cup : (s.onFab f).cup = s.cup := rfl
@[simp] theorem State.onFab_ctx : (s.onFab f).ctx = s.ctx := rfl
@[simp] theorem State.onFab_sel : (s.onFab f).sel = s.sel := rfl
@[simp] theorem State.onFab_fin : (s.onFab f).fin = s.fin := rfl
@[simp] theorem State.onFab_stp : (s.onFab f).stp = s.stp := rfl
@[simp] theorem State.onFab_pkr : (s.onFab f).pkr = s.pkr := rfl
@[simp] theorem State.onFab_eqs : (s.onFab f).eqs = s.eqs := rfl
@[simp] theorem State.onFab_job : (s.onFab f).job = s.job := rfl
@[simp] theorem State.onFab_tur : (s.onFab f).tur = s.tur := rfl
@[simp] theorem State.onFab_mem : (s.onFab f).mem = s.mem := rfl
@[simp] theorem State.onFab_cry : (s.onFab f).cry = s.cry := rfl
@[simp] theorem State.onFab_bel : (s.onFab f).bel = s.bel := rfl
@[simp] theorem State.onFab_snp : (s.onFab f).snp = s.snp := rfl
@[simp] theorem State.onFab_fab : (s.onFab f).fab = f s.fab := rfl
@[simp] theorem State.onFab_csp : (s.onFab f).csp = s.csp := rfl
end

/-! ### State.onRing: it changes `rng` alone -/

section
variable (s : State) (n : Nat) (f : CmdRing → CmdRing)
@[simp] theorem State.onRing_variant : (s.onRing n f).variant = s.variant := rfl
@[simp] theorem State.onRing_pending : (s.onRing n f).pending = s.pending := rfl
@[simp] theorem State.onRing_fresh : (s.onRing n f).fresh = s.fresh := rfl
@[simp] theorem State.onRing_lan : (s.onRing n f).lan = s.lan := rfl
@[simp] theorem State.onRing_voc : (s.onRing n f).voc = s.voc := rfl
@[simp] theorem State.onRing_aut : (s.onRing n f).aut = s.aut := rfl
@[simp] theorem State.onRing_cup : (s.onRing n f).cup = s.cup := rfl
@[simp] theorem State.onRing_ctx : (s.onRing n f).ctx = s.ctx := rfl
@[simp] theorem State.onRing_sel : (s.onRing n f).sel = s.sel := rfl
@[simp] theorem State.onRing_fin : (s.onRing n f).fin = s.fin := rfl
@[simp] theorem State.onRing_stp : (s.onRing n f).stp = s.stp := rfl
@[simp] theorem State.onRing_pkr : (s.onRing n f).pkr = s.pkr := rfl
@[simp] theorem State.onRing_eqs : (s.onRing n f).eqs = s.eqs := rfl
@[simp] theorem State.onRing_job : (s.onRing n f).job = s.job := rfl
@[simp] theorem State.onRing_tur : (s.onRing n f).tur = s.tur := rfl
@[simp] theorem State.onRing_mem : (s.onRing n f).mem = s.mem := rfl
@[simp] theorem State.onRing_cry : (s.onRing n f).cry = s.cry := rfl
@[simp] theorem State.onRing_bel : (s.onRing n f).bel = s.bel := rfl
@[simp] theorem State.onRing_snp : (s.onRing n f).snp = s.snp := rfl
@[simp] theorem State.onRing_fab : (s.onRing n f).fab = s.fab := rfl
@[simp] theorem State.onRing_csp : (s.onRing n f).csp = s.csp := rfl
end

/-! ### State.onCq: it changes `rng` alone -/

section
variable (s : State) (n : Nat) (f : CplRing → CplRing)
@[simp] theorem State.onCq_variant : (s.onCq n f).variant = s.variant := rfl
@[simp] theorem State.onCq_pending : (s.onCq n f).pending = s.pending := rfl
@[simp] theorem State.onCq_fresh : (s.onCq n f).fresh = s.fresh := rfl
@[simp] theorem State.onCq_lan : (s.onCq n f).lan = s.lan := rfl
@[simp] theorem State.onCq_voc : (s.onCq n f).voc = s.voc := rfl
@[simp] theorem State.onCq_aut : (s.onCq n f).aut = s.aut := rfl
@[simp] theorem State.onCq_cup : (s.onCq n f).cup = s.cup := rfl
@[simp] theorem State.onCq_ctx : (s.onCq n f).ctx = s.ctx := rfl
@[simp] theorem State.onCq_sel : (s.onCq n f).sel = s.sel := rfl
@[simp] theorem State.onCq_fin : (s.onCq n f).fin = s.fin := rfl
@[simp] theorem State.onCq_stp : (s.onCq n f).stp = s.stp := rfl
@[simp] theorem State.onCq_pkr : (s.onCq n f).pkr = s.pkr := rfl
@[simp] theorem State.onCq_eqs : (s.onCq n f).eqs = s.eqs := rfl
@[simp] theorem State.onCq_job : (s.onCq n f).job = s.job := rfl
@[simp] theorem State.onCq_tur : (s.onCq n f).tur = s.tur := rfl
@[simp] theorem State.onCq_mem : (s.onCq n f).mem = s.mem := rfl
@[simp] theorem State.onCq_cry : (s.onCq n f).cry = s.cry := rfl
@[simp] theorem State.onCq_bel : (s.onCq n f).bel = s.bel := rfl
@[simp] theorem State.onCq_snp : (s.onCq n f).snp = s.snp := rfl
@[simp] theorem State.onCq_fab : (s.onCq n f).fab = s.fab := rfl
@[simp] theorem State.onCq_csp : (s.onCq n f).csp = s.csp := rfl
end

/-! ### State.onTurret: it changes `tur` alone -/

section
variable (s : State) (n : Nat) (f : Turret → Turret)
@[simp] theorem State.onTurret_variant : (s.onTurret n f).variant = s.variant := rfl
@[simp] theorem State.onTurret_pending : (s.onTurret n f).pending = s.pending := rfl
@[simp] theorem State.onTurret_fresh : (s.onTurret n f).fresh = s.fresh := rfl
@[simp] theorem State.onTurret_lan : (s.onTurret n f).lan = s.lan := rfl
@[simp] theorem State.onTurret_rng : (s.onTurret n f).rng = s.rng := rfl
@[simp] theorem State.onTurret_voc : (s.onTurret n f).voc = s.voc := rfl
@[simp] theorem State.onTurret_aut : (s.onTurret n f).aut = s.aut := rfl
@[simp] theorem State.onTurret_cup : (s.onTurret n f).cup = s.cup := rfl
@[simp] theorem State.onTurret_ctx : (s.onTurret n f).ctx = s.ctx := rfl
@[simp] theorem State.onTurret_sel : (s.onTurret n f).sel = s.sel := rfl
@[simp] theorem State.onTurret_fin : (s.onTurret n f).fin = s.fin := rfl
@[simp] theorem State.onTurret_stp : (s.onTurret n f).stp = s.stp := rfl
@[simp] theorem State.onTurret_pkr : (s.onTurret n f).pkr = s.pkr := rfl
@[simp] theorem State.onTurret_eqs : (s.onTurret n f).eqs = s.eqs := rfl
@[simp] theorem State.onTurret_job : (s.onTurret n f).job = s.job := rfl
@[simp] theorem State.onTurret_mem : (s.onTurret n f).mem = s.mem := rfl
@[simp] theorem State.onTurret_cry : (s.onTurret n f).cry = s.cry := rfl
@[simp] theorem State.onTurret_bel : (s.onTurret n f).bel = s.bel := rfl
@[simp] theorem State.onTurret_snp : (s.onTurret n f).snp = s.snp := rfl
@[simp] theorem State.onTurret_fab : (s.onTurret n f).fab = s.fab := rfl
@[simp] theorem State.onTurret_csp : (s.onTurret n f).csp = s.csp := rfl
end

/-! ### State.onQueue: it changes `eqs` alone -/

section
variable (s : State) (n : Nat) (f : EqQueue → EqQueue)
@[simp] theorem State.onQueue_variant : (s.onQueue n f).variant = s.variant := rfl
@[simp] theorem State.onQueue_pending : (s.onQueue n f).pending = s.pending := rfl
@[simp] theorem State.onQueue_fresh : (s.onQueue n f).fresh = s.fresh := rfl
@[simp] theorem State.onQueue_lan : (s.onQueue n f).lan = s.lan := rfl
@[simp] theorem State.onQueue_rng : (s.onQueue n f).rng = s.rng := rfl
@[simp] theorem State.onQueue_voc : (s.onQueue n f).voc = s.voc := rfl
@[simp] theorem State.onQueue_aut : (s.onQueue n f).aut = s.aut := rfl
@[simp] theorem State.onQueue_cup : (s.onQueue n f).cup = s.cup := rfl
@[simp] theorem State.onQueue_ctx : (s.onQueue n f).ctx = s.ctx := rfl
@[simp] theorem State.onQueue_sel : (s.onQueue n f).sel = s.sel := rfl
@[simp] theorem State.onQueue_fin : (s.onQueue n f).fin = s.fin := rfl
@[simp] theorem State.onQueue_stp : (s.onQueue n f).stp = s.stp := rfl
@[simp] theorem State.onQueue_pkr : (s.onQueue n f).pkr = s.pkr := rfl
@[simp] theorem State.onQueue_job : (s.onQueue n f).job = s.job := rfl
@[simp] theorem State.onQueue_tur : (s.onQueue n f).tur = s.tur := rfl
@[simp] theorem State.onQueue_mem : (s.onQueue n f).mem = s.mem := rfl
@[simp] theorem State.onQueue_cry : (s.onQueue n f).cry = s.cry := rfl
@[simp] theorem State.onQueue_bel : (s.onQueue n f).bel = s.bel := rfl
@[simp] theorem State.onQueue_snp : (s.onQueue n f).snp = s.snp := rfl
@[simp] theorem State.onQueue_fab : (s.onQueue n f).fab = s.fab := rfl
@[simp] theorem State.onQueue_csp : (s.onQueue n f).csp = s.csp := rfl
end

/-! ### State.onOwnPkr: it changes `pkr` alone -/

section
variable (s : State) (n : Nat) (f : OwnerPkr → OwnerPkr)
@[simp] theorem State.onOwnPkr_variant : (s.onOwnPkr n f).variant = s.variant := rfl
@[simp] theorem State.onOwnPkr_pending : (s.onOwnPkr n f).pending = s.pending := rfl
@[simp] theorem State.onOwnPkr_fresh : (s.onOwnPkr n f).fresh = s.fresh := rfl
@[simp] theorem State.onOwnPkr_lan : (s.onOwnPkr n f).lan = s.lan := rfl
@[simp] theorem State.onOwnPkr_rng : (s.onOwnPkr n f).rng = s.rng := rfl
@[simp] theorem State.onOwnPkr_voc : (s.onOwnPkr n f).voc = s.voc := rfl
@[simp] theorem State.onOwnPkr_aut : (s.onOwnPkr n f).aut = s.aut := rfl
@[simp] theorem State.onOwnPkr_cup : (s.onOwnPkr n f).cup = s.cup := rfl
@[simp] theorem State.onOwnPkr_ctx : (s.onOwnPkr n f).ctx = s.ctx := rfl
@[simp] theorem State.onOwnPkr_sel : (s.onOwnPkr n f).sel = s.sel := rfl
@[simp] theorem State.onOwnPkr_fin : (s.onOwnPkr n f).fin = s.fin := rfl
@[simp] theorem State.onOwnPkr_stp : (s.onOwnPkr n f).stp = s.stp := rfl
@[simp] theorem State.onOwnPkr_eqs : (s.onOwnPkr n f).eqs = s.eqs := rfl
@[simp] theorem State.onOwnPkr_job : (s.onOwnPkr n f).job = s.job := rfl
@[simp] theorem State.onOwnPkr_tur : (s.onOwnPkr n f).tur = s.tur := rfl
@[simp] theorem State.onOwnPkr_mem : (s.onOwnPkr n f).mem = s.mem := rfl
@[simp] theorem State.onOwnPkr_cry : (s.onOwnPkr n f).cry = s.cry := rfl
@[simp] theorem State.onOwnPkr_bel : (s.onOwnPkr n f).bel = s.bel := rfl
@[simp] theorem State.onOwnPkr_snp : (s.onOwnPkr n f).snp = s.snp := rfl
@[simp] theorem State.onOwnPkr_fab : (s.onOwnPkr n f).fab = s.fab := rfl
@[simp] theorem State.onOwnPkr_csp : (s.onOwnPkr n f).csp = s.csp := rfl
end

/-! ### State.onOwner: it changes `ctx` alone -/

section
variable (s : State) (n : Nat) (f : OwnerEpoch → OwnerEpoch)
@[simp] theorem State.onOwner_variant : (s.onOwner n f).variant = s.variant := rfl
@[simp] theorem State.onOwner_pending : (s.onOwner n f).pending = s.pending := rfl
@[simp] theorem State.onOwner_fresh : (s.onOwner n f).fresh = s.fresh := rfl
@[simp] theorem State.onOwner_lan : (s.onOwner n f).lan = s.lan := rfl
@[simp] theorem State.onOwner_rng : (s.onOwner n f).rng = s.rng := rfl
@[simp] theorem State.onOwner_voc : (s.onOwner n f).voc = s.voc := rfl
@[simp] theorem State.onOwner_aut : (s.onOwner n f).aut = s.aut := rfl
@[simp] theorem State.onOwner_cup : (s.onOwner n f).cup = s.cup := rfl
@[simp] theorem State.onOwner_sel : (s.onOwner n f).sel = s.sel := rfl
@[simp] theorem State.onOwner_fin : (s.onOwner n f).fin = s.fin := rfl
@[simp] theorem State.onOwner_stp : (s.onOwner n f).stp = s.stp := rfl
@[simp] theorem State.onOwner_pkr : (s.onOwner n f).pkr = s.pkr := rfl
@[simp] theorem State.onOwner_eqs : (s.onOwner n f).eqs = s.eqs := rfl
@[simp] theorem State.onOwner_job : (s.onOwner n f).job = s.job := rfl
@[simp] theorem State.onOwner_tur : (s.onOwner n f).tur = s.tur := rfl
@[simp] theorem State.onOwner_mem : (s.onOwner n f).mem = s.mem := rfl
@[simp] theorem State.onOwner_cry : (s.onOwner n f).cry = s.cry := rfl
@[simp] theorem State.onOwner_bel : (s.onOwner n f).bel = s.bel := rfl
@[simp] theorem State.onOwner_snp : (s.onOwner n f).snp = s.snp := rfl
@[simp] theorem State.onOwner_fab : (s.onOwner n f).fab = s.fab := rfl
@[simp] theorem State.onOwner_csp : (s.onOwner n f).csp = s.csp := rfl
end

/-! ### State.onPort: it changes `sel` alone -/

section
variable (s : State) (n : Nat) (f : Selector → Selector)
@[simp] theorem State.onPort_variant : (s.onPort n f).variant = s.variant := rfl
@[simp] theorem State.onPort_pending : (s.onPort n f).pending = s.pending := rfl
@[simp] theorem State.onPort_fresh : (s.onPort n f).fresh = s.fresh := rfl
@[simp] theorem State.onPort_lan : (s.onPort n f).lan = s.lan := rfl
@[simp] theorem State.onPort_rng : (s.onPort n f).rng = s.rng := rfl
@[simp] theorem State.onPort_voc : (s.onPort n f).voc = s.voc := rfl
@[simp] theorem State.onPort_aut : (s.onPort n f).aut = s.aut := rfl
@[simp] theorem State.onPort_cup : (s.onPort n f).cup = s.cup := rfl
@[simp] theorem State.onPort_ctx : (s.onPort n f).ctx = s.ctx := rfl
@[simp] theorem State.onPort_fin : (s.onPort n f).fin = s.fin := rfl
@[simp] theorem State.onPort_stp : (s.onPort n f).stp = s.stp := rfl
@[simp] theorem State.onPort_pkr : (s.onPort n f).pkr = s.pkr := rfl
@[simp] theorem State.onPort_eqs : (s.onPort n f).eqs = s.eqs := rfl
@[simp] theorem State.onPort_job : (s.onPort n f).job = s.job := rfl
@[simp] theorem State.onPort_tur : (s.onPort n f).tur = s.tur := rfl
@[simp] theorem State.onPort_mem : (s.onPort n f).mem = s.mem := rfl
@[simp] theorem State.onPort_cry : (s.onPort n f).cry = s.cry := rfl
@[simp] theorem State.onPort_bel : (s.onPort n f).bel = s.bel := rfl
@[simp] theorem State.onPort_snp : (s.onPort n f).snp = s.snp := rfl
@[simp] theorem State.onPort_fab : (s.onPort n f).fab = s.fab := rfl
@[simp] theorem State.onPort_csp : (s.onPort n f).csp = s.csp := rfl
end

/-! ### State.onAutomaton: it changes `aut` alone -/

section
variable (s : State) (n : Nat) (f : Automaton → Automaton)
@[simp] theorem State.onAutomaton_variant : (s.onAutomaton n f).variant = s.variant := rfl
@[simp] theorem State.onAutomaton_pending : (s.onAutomaton n f).pending = s.pending := rfl
@[simp] theorem State.onAutomaton_fresh : (s.onAutomaton n f).fresh = s.fresh := rfl
@[simp] theorem State.onAutomaton_lan : (s.onAutomaton n f).lan = s.lan := rfl
@[simp] theorem State.onAutomaton_rng : (s.onAutomaton n f).rng = s.rng := rfl
@[simp] theorem State.onAutomaton_voc : (s.onAutomaton n f).voc = s.voc := rfl
@[simp] theorem State.onAutomaton_cup : (s.onAutomaton n f).cup = s.cup := rfl
@[simp] theorem State.onAutomaton_ctx : (s.onAutomaton n f).ctx = s.ctx := rfl
@[simp] theorem State.onAutomaton_sel : (s.onAutomaton n f).sel = s.sel := rfl
@[simp] theorem State.onAutomaton_fin : (s.onAutomaton n f).fin = s.fin := rfl
@[simp] theorem State.onAutomaton_stp : (s.onAutomaton n f).stp = s.stp := rfl
@[simp] theorem State.onAutomaton_pkr : (s.onAutomaton n f).pkr = s.pkr := rfl
@[simp] theorem State.onAutomaton_eqs : (s.onAutomaton n f).eqs = s.eqs := rfl
@[simp] theorem State.onAutomaton_job : (s.onAutomaton n f).job = s.job := rfl
@[simp] theorem State.onAutomaton_tur : (s.onAutomaton n f).tur = s.tur := rfl
@[simp] theorem State.onAutomaton_mem : (s.onAutomaton n f).mem = s.mem := rfl
@[simp] theorem State.onAutomaton_cry : (s.onAutomaton n f).cry = s.cry := rfl
@[simp] theorem State.onAutomaton_bel : (s.onAutomaton n f).bel = s.bel := rfl
@[simp] theorem State.onAutomaton_snp : (s.onAutomaton n f).snp = s.snp := rfl
@[simp] theorem State.onAutomaton_fab : (s.onAutomaton n f).fab = s.fab := rfl
@[simp] theorem State.onAutomaton_csp : (s.onAutomaton n f).csp = s.csp := rfl
end

/-! ### State.onSlot: it changes `voc` alone -/

section
variable (s : State) (n : Nat) (f : Slot → Slot)
@[simp] theorem State.onSlot_variant : (s.onSlot n f).variant = s.variant := rfl
@[simp] theorem State.onSlot_pending : (s.onSlot n f).pending = s.pending := rfl
@[simp] theorem State.onSlot_fresh : (s.onSlot n f).fresh = s.fresh := rfl
@[simp] theorem State.onSlot_lan : (s.onSlot n f).lan = s.lan := rfl
@[simp] theorem State.onSlot_rng : (s.onSlot n f).rng = s.rng := rfl
@[simp] theorem State.onSlot_aut : (s.onSlot n f).aut = s.aut := rfl
@[simp] theorem State.onSlot_cup : (s.onSlot n f).cup = s.cup := rfl
@[simp] theorem State.onSlot_ctx : (s.onSlot n f).ctx = s.ctx := rfl
@[simp] theorem State.onSlot_sel : (s.onSlot n f).sel = s.sel := rfl
@[simp] theorem State.onSlot_fin : (s.onSlot n f).fin = s.fin := rfl
@[simp] theorem State.onSlot_stp : (s.onSlot n f).stp = s.stp := rfl
@[simp] theorem State.onSlot_pkr : (s.onSlot n f).pkr = s.pkr := rfl
@[simp] theorem State.onSlot_eqs : (s.onSlot n f).eqs = s.eqs := rfl
@[simp] theorem State.onSlot_job : (s.onSlot n f).job = s.job := rfl
@[simp] theorem State.onSlot_tur : (s.onSlot n f).tur = s.tur := rfl
@[simp] theorem State.onSlot_mem : (s.onSlot n f).mem = s.mem := rfl
@[simp] theorem State.onSlot_cry : (s.onSlot n f).cry = s.cry := rfl
@[simp] theorem State.onSlot_bel : (s.onSlot n f).bel = s.bel := rfl
@[simp] theorem State.onSlot_snp : (s.onSlot n f).snp = s.snp := rfl
@[simp] theorem State.onSlot_fab : (s.onSlot n f).fab = s.fab := rfl
@[simp] theorem State.onSlot_csp : (s.onSlot n f).csp = s.csp := rfl
end

/-! ### State.onStream: it changes `ctx` alone -/

section
variable (s : State) (n : Nat) (f : Stream → Stream)
@[simp] theorem State.onStream_variant : (s.onStream n f).variant = s.variant := rfl
@[simp] theorem State.onStream_pending : (s.onStream n f).pending = s.pending := rfl
@[simp] theorem State.onStream_fresh : (s.onStream n f).fresh = s.fresh := rfl
@[simp] theorem State.onStream_lan : (s.onStream n f).lan = s.lan := rfl
@[simp] theorem State.onStream_rng : (s.onStream n f).rng = s.rng := rfl
@[simp] theorem State.onStream_voc : (s.onStream n f).voc = s.voc := rfl
@[simp] theorem State.onStream_aut : (s.onStream n f).aut = s.aut := rfl
@[simp] theorem State.onStream_cup : (s.onStream n f).cup = s.cup := rfl
@[simp] theorem State.onStream_sel : (s.onStream n f).sel = s.sel := rfl
@[simp] theorem State.onStream_fin : (s.onStream n f).fin = s.fin := rfl
@[simp] theorem State.onStream_stp : (s.onStream n f).stp = s.stp := rfl
@[simp] theorem State.onStream_pkr : (s.onStream n f).pkr = s.pkr := rfl
@[simp] theorem State.onStream_eqs : (s.onStream n f).eqs = s.eqs := rfl
@[simp] theorem State.onStream_job : (s.onStream n f).job = s.job := rfl
@[simp] theorem State.onStream_tur : (s.onStream n f).tur = s.tur := rfl
@[simp] theorem State.onStream_mem : (s.onStream n f).mem = s.mem := rfl
@[simp] theorem State.onStream_cry : (s.onStream n f).cry = s.cry := rfl
@[simp] theorem State.onStream_bel : (s.onStream n f).bel = s.bel := rfl
@[simp] theorem State.onStream_snp : (s.onStream n f).snp = s.snp := rfl
@[simp] theorem State.onStream_fab : (s.onStream n f).fab = s.fab := rfl
@[simp] theorem State.onStream_csp : (s.onStream n f).csp = s.csp := rfl
end

/-! ### State.onCmd: it changes `rng` alone -/

section
variable (s : State) (n : Nat) (f : Cmd → Cmd)
@[simp] theorem State.onCmd_variant : (s.onCmd n f).variant = s.variant := rfl
@[simp] theorem State.onCmd_pending : (s.onCmd n f).pending = s.pending := rfl
@[simp] theorem State.onCmd_fresh : (s.onCmd n f).fresh = s.fresh := rfl
@[simp] theorem State.onCmd_lan : (s.onCmd n f).lan = s.lan := rfl
@[simp] theorem State.onCmd_voc : (s.onCmd n f).voc = s.voc := rfl
@[simp] theorem State.onCmd_aut : (s.onCmd n f).aut = s.aut := rfl
@[simp] theorem State.onCmd_cup : (s.onCmd n f).cup = s.cup := rfl
@[simp] theorem State.onCmd_ctx : (s.onCmd n f).ctx = s.ctx := rfl
@[simp] theorem State.onCmd_sel : (s.onCmd n f).sel = s.sel := rfl
@[simp] theorem State.onCmd_fin : (s.onCmd n f).fin = s.fin := rfl
@[simp] theorem State.onCmd_stp : (s.onCmd n f).stp = s.stp := rfl
@[simp] theorem State.onCmd_pkr : (s.onCmd n f).pkr = s.pkr := rfl
@[simp] theorem State.onCmd_eqs : (s.onCmd n f).eqs = s.eqs := rfl
@[simp] theorem State.onCmd_job : (s.onCmd n f).job = s.job := rfl
@[simp] theorem State.onCmd_tur : (s.onCmd n f).tur = s.tur := rfl
@[simp] theorem State.onCmd_mem : (s.onCmd n f).mem = s.mem := rfl
@[simp] theorem State.onCmd_cry : (s.onCmd n f).cry = s.cry := rfl
@[simp] theorem State.onCmd_bel : (s.onCmd n f).bel = s.bel := rfl
@[simp] theorem State.onCmd_snp : (s.onCmd n f).snp = s.snp := rfl
@[simp] theorem State.onCmd_fab : (s.onCmd n f).fab = s.fab := rfl
@[simp] theorem State.onCmd_csp : (s.onCmd n f).csp = s.csp := rfl
end

/-! ### State.onJobOf: it changes `job` alone -/

section
variable (s : State) (n : Nat) (f : Job → Job)
@[simp] theorem State.onJobOf_variant : (s.onJobOf n f).variant = s.variant := rfl
@[simp] theorem State.onJobOf_pending : (s.onJobOf n f).pending = s.pending := rfl
@[simp] theorem State.onJobOf_fresh : (s.onJobOf n f).fresh = s.fresh := rfl
@[simp] theorem State.onJobOf_lan : (s.onJobOf n f).lan = s.lan := rfl
@[simp] theorem State.onJobOf_rng : (s.onJobOf n f).rng = s.rng := rfl
@[simp] theorem State.onJobOf_voc : (s.onJobOf n f).voc = s.voc := rfl
@[simp] theorem State.onJobOf_aut : (s.onJobOf n f).aut = s.aut := rfl
@[simp] theorem State.onJobOf_cup : (s.onJobOf n f).cup = s.cup := rfl
@[simp] theorem State.onJobOf_ctx : (s.onJobOf n f).ctx = s.ctx := rfl
@[simp] theorem State.onJobOf_sel : (s.onJobOf n f).sel = s.sel := rfl
@[simp] theorem State.onJobOf_fin : (s.onJobOf n f).fin = s.fin := rfl
@[simp] theorem State.onJobOf_stp : (s.onJobOf n f).stp = s.stp := rfl
@[simp] theorem State.onJobOf_pkr : (s.onJobOf n f).pkr = s.pkr := rfl
@[simp] theorem State.onJobOf_eqs : (s.onJobOf n f).eqs = s.eqs := rfl
@[simp] theorem State.onJobOf_tur : (s.onJobOf n f).tur = s.tur := rfl
@[simp] theorem State.onJobOf_mem : (s.onJobOf n f).mem = s.mem := rfl
@[simp] theorem State.onJobOf_cry : (s.onJobOf n f).cry = s.cry := rfl
@[simp] theorem State.onJobOf_bel : (s.onJobOf n f).bel = s.bel := rfl
@[simp] theorem State.onJobOf_snp : (s.onJobOf n f).snp = s.snp := rfl
@[simp] theorem State.onJobOf_fab : (s.onJobOf n f).fab = s.fab := rfl
@[simp] theorem State.onJobOf_csp : (s.onJobOf n f).csp = s.csp := rfl
end

/-! ### State.onTree: it changes `stp` alone -/

section
variable (s : State) (n : Nat) (f : Tree → Tree)
@[simp] theorem State.onTree_variant : (s.onTree n f).variant = s.variant := rfl
@[simp] theorem State.onTree_pending : (s.onTree n f).pending = s.pending := rfl
@[simp] theorem State.onTree_fresh : (s.onTree n f).fresh = s.fresh := rfl
@[simp] theorem State.onTree_lan : (s.onTree n f).lan = s.lan := rfl
@[simp] theorem State.onTree_rng : (s.onTree n f).rng = s.rng := rfl
@[simp] theorem State.onTree_voc : (s.onTree n f).voc = s.voc := rfl
@[simp] theorem State.onTree_aut : (s.onTree n f).aut = s.aut := rfl
@[simp] theorem State.onTree_cup : (s.onTree n f).cup = s.cup := rfl
@[simp] theorem State.onTree_ctx : (s.onTree n f).ctx = s.ctx := rfl
@[simp] theorem State.onTree_sel : (s.onTree n f).sel = s.sel := rfl
@[simp] theorem State.onTree_fin : (s.onTree n f).fin = s.fin := rfl
@[simp] theorem State.onTree_pkr : (s.onTree n f).pkr = s.pkr := rfl
@[simp] theorem State.onTree_eqs : (s.onTree n f).eqs = s.eqs := rfl
@[simp] theorem State.onTree_job : (s.onTree n f).job = s.job := rfl
@[simp] theorem State.onTree_tur : (s.onTree n f).tur = s.tur := rfl
@[simp] theorem State.onTree_mem : (s.onTree n f).mem = s.mem := rfl
@[simp] theorem State.onTree_cry : (s.onTree n f).cry = s.cry := rfl
@[simp] theorem State.onTree_bel : (s.onTree n f).bel = s.bel := rfl
@[simp] theorem State.onTree_snp : (s.onTree n f).snp = s.snp := rfl
@[simp] theorem State.onTree_fab : (s.onTree n f).fab = s.fab := rfl
@[simp] theorem State.onTree_csp : (s.onTree n f).csp = s.csp := rfl
end

/-! ### State.onUnit: it changes `fin` alone -/

section
variable (s : State) (n m k : Nat) (f : SelUnit → SelUnit)
@[simp] theorem State.onUnit_variant : (s.onUnit n m k f).variant = s.variant := rfl
@[simp] theorem State.onUnit_pending : (s.onUnit n m k f).pending = s.pending := rfl
@[simp] theorem State.onUnit_fresh : (s.onUnit n m k f).fresh = s.fresh := rfl
@[simp] theorem State.onUnit_lan : (s.onUnit n m k f).lan = s.lan := rfl
@[simp] theorem State.onUnit_rng : (s.onUnit n m k f).rng = s.rng := rfl
@[simp] theorem State.onUnit_voc : (s.onUnit n m k f).voc = s.voc := rfl
@[simp] theorem State.onUnit_aut : (s.onUnit n m k f).aut = s.aut := rfl
@[simp] theorem State.onUnit_cup : (s.onUnit n m k f).cup = s.cup := rfl
@[simp] theorem State.onUnit_ctx : (s.onUnit n m k f).ctx = s.ctx := rfl
@[simp] theorem State.onUnit_sel : (s.onUnit n m k f).sel = s.sel := rfl
@[simp] theorem State.onUnit_stp : (s.onUnit n m k f).stp = s.stp := rfl
@[simp] theorem State.onUnit_pkr : (s.onUnit n m k f).pkr = s.pkr := rfl
@[simp] theorem State.onUnit_eqs : (s.onUnit n m k f).eqs = s.eqs := rfl
@[simp] theorem State.onUnit_job : (s.onUnit n m k f).job = s.job := rfl
@[simp] theorem State.onUnit_tur : (s.onUnit n m k f).tur = s.tur := rfl
@[simp] theorem State.onUnit_mem : (s.onUnit n m k f).mem = s.mem := rfl
@[simp] theorem State.onUnit_cry : (s.onUnit n m k f).cry = s.cry := rfl
@[simp] theorem State.onUnit_bel : (s.onUnit n m k f).bel = s.bel := rfl
@[simp] theorem State.onUnit_snp : (s.onUnit n m k f).snp = s.snp := rfl
@[simp] theorem State.onUnit_fab : (s.onUnit n m k f).fab = s.fab := rfl
@[simp] theorem State.onUnit_csp : (s.onUnit n m k f).csp = s.csp := rfl
end

/-! ### State.putStream: it changes `ctx` alone -/

section
variable (s : State) (x : Stream)
@[simp] theorem State.putStream_variant : (s.putStream x).variant = s.variant := rfl
@[simp] theorem State.putStream_pending : (s.putStream x).pending = s.pending := rfl
@[simp] theorem State.putStream_fresh : (s.putStream x).fresh = s.fresh := rfl
@[simp] theorem State.putStream_lan : (s.putStream x).lan = s.lan := rfl
@[simp] theorem State.putStream_rng : (s.putStream x).rng = s.rng := rfl
@[simp] theorem State.putStream_voc : (s.putStream x).voc = s.voc := rfl
@[simp] theorem State.putStream_aut : (s.putStream x).aut = s.aut := rfl
@[simp] theorem State.putStream_cup : (s.putStream x).cup = s.cup := rfl
@[simp] theorem State.putStream_sel : (s.putStream x).sel = s.sel := rfl
@[simp] theorem State.putStream_fin : (s.putStream x).fin = s.fin := rfl
@[simp] theorem State.putStream_stp : (s.putStream x).stp = s.stp := rfl
@[simp] theorem State.putStream_pkr : (s.putStream x).pkr = s.pkr := rfl
@[simp] theorem State.putStream_eqs : (s.putStream x).eqs = s.eqs := rfl
@[simp] theorem State.putStream_job : (s.putStream x).job = s.job := rfl
@[simp] theorem State.putStream_tur : (s.putStream x).tur = s.tur := rfl
@[simp] theorem State.putStream_mem : (s.putStream x).mem = s.mem := rfl
@[simp] theorem State.putStream_cry : (s.putStream x).cry = s.cry := rfl
@[simp] theorem State.putStream_bel : (s.putStream x).bel = s.bel := rfl
@[simp] theorem State.putStream_snp : (s.putStream x).snp = s.snp := rfl
@[simp] theorem State.putStream_fab : (s.putStream x).fab = s.fab := rfl
@[simp] theorem State.putStream_csp : (s.putStream x).csp = s.csp := rfl
end

/-! ### State.dropStream: it changes `ctx` alone -/

section
variable (s : State) (n : Nat)
@[simp] theorem State.dropStream_variant : (s.dropStream n).variant = s.variant := rfl
@[simp] theorem State.dropStream_pending : (s.dropStream n).pending = s.pending := rfl
@[simp] theorem State.dropStream_fresh : (s.dropStream n).fresh = s.fresh := rfl
@[simp] theorem State.dropStream_lan : (s.dropStream n).lan = s.lan := rfl
@[simp] theorem State.dropStream_rng : (s.dropStream n).rng = s.rng := rfl
@[simp] theorem State.dropStream_voc : (s.dropStream n).voc = s.voc := rfl
@[simp] theorem State.dropStream_aut : (s.dropStream n).aut = s.aut := rfl
@[simp] theorem State.dropStream_cup : (s.dropStream n).cup = s.cup := rfl
@[simp] theorem State.dropStream_sel : (s.dropStream n).sel = s.sel := rfl
@[simp] theorem State.dropStream_fin : (s.dropStream n).fin = s.fin := rfl
@[simp] theorem State.dropStream_stp : (s.dropStream n).stp = s.stp := rfl
@[simp] theorem State.dropStream_pkr : (s.dropStream n).pkr = s.pkr := rfl
@[simp] theorem State.dropStream_eqs : (s.dropStream n).eqs = s.eqs := rfl
@[simp] theorem State.dropStream_job : (s.dropStream n).job = s.job := rfl
@[simp] theorem State.dropStream_tur : (s.dropStream n).tur = s.tur := rfl
@[simp] theorem State.dropStream_mem : (s.dropStream n).mem = s.mem := rfl
@[simp] theorem State.dropStream_cry : (s.dropStream n).cry = s.cry := rfl
@[simp] theorem State.dropStream_bel : (s.dropStream n).bel = s.bel := rfl
@[simp] theorem State.dropStream_snp : (s.dropStream n).snp = s.snp := rfl
@[simp] theorem State.dropStream_fab : (s.dropStream n).fab = s.fab := rfl
@[simp] theorem State.dropStream_csp : (s.dropStream n).csp = s.csp := rfl
end

/-! ### State.onOwnRing: it changes `pkr` alone -/

section
variable (s : State) (n : Nat) (b : Bool) (f : OwnRing → OwnRing)
@[simp] theorem State.onOwnRing_variant : (s.onOwnRing n b f).variant = s.variant := by
  unfold State.onOwnRing; rfl
@[simp] theorem State.onOwnRing_pending : (s.onOwnRing n b f).pending = s.pending := by
  unfold State.onOwnRing; rfl
@[simp] theorem State.onOwnRing_fresh : (s.onOwnRing n b f).fresh = s.fresh := by
  unfold State.onOwnRing; rfl
@[simp] theorem State.onOwnRing_lan : (s.onOwnRing n b f).lan = s.lan := by
  unfold State.onOwnRing; rfl
@[simp] theorem State.onOwnRing_rng : (s.onOwnRing n b f).rng = s.rng := by
  unfold State.onOwnRing; rfl
@[simp] theorem State.onOwnRing_voc : (s.onOwnRing n b f).voc = s.voc := by
  unfold State.onOwnRing; rfl
@[simp] theorem State.onOwnRing_aut : (s.onOwnRing n b f).aut = s.aut := by
  unfold State.onOwnRing; rfl
@[simp] theorem State.onOwnRing_cup : (s.onOwnRing n b f).cup = s.cup := by
  unfold State.onOwnRing; rfl
@[simp] theorem State.onOwnRing_ctx : (s.onOwnRing n b f).ctx = s.ctx := by
  unfold State.onOwnRing; rfl
@[simp] theorem State.onOwnRing_sel : (s.onOwnRing n b f).sel = s.sel := by
  unfold State.onOwnRing; rfl
@[simp] theorem State.onOwnRing_fin : (s.onOwnRing n b f).fin = s.fin := by
  unfold State.onOwnRing; rfl
@[simp] theorem State.onOwnRing_stp : (s.onOwnRing n b f).stp = s.stp := by
  unfold State.onOwnRing; rfl
@[simp] theorem State.onOwnRing_eqs : (s.onOwnRing n b f).eqs = s.eqs := by
  unfold State.onOwnRing; rfl
@[simp] theorem State.onOwnRing_job : (s.onOwnRing n b f).job = s.job := by
  unfold State.onOwnRing; rfl
@[simp] theorem State.onOwnRing_tur : (s.onOwnRing n b f).tur = s.tur := by
  unfold State.onOwnRing; rfl
@[simp] theorem State.onOwnRing_mem : (s.onOwnRing n b f).mem = s.mem := by
  unfold State.onOwnRing; rfl
@[simp] theorem State.onOwnRing_cry : (s.onOwnRing n b f).cry = s.cry := by
  unfold State.onOwnRing; rfl
@[simp] theorem State.onOwnRing_bel : (s.onOwnRing n b f).bel = s.bel := by
  unfold State.onOwnRing; rfl
@[simp] theorem State.onOwnRing_snp : (s.onOwnRing n b f).snp = s.snp := by
  unfold State.onOwnRing; rfl
@[simp] theorem State.onOwnRing_fab : (s.onOwnRing n b f).fab = s.fab := by
  unfold State.onOwnRing; rfl
@[simp] theorem State.onOwnRing_csp : (s.onOwnRing n b f).csp = s.csp := by
  unfold State.onOwnRing; rfl
end

/-! ### The stack areas of a stream (10 R380): staging writes the inactive one, and the switch alone changes the set -/

section
variable (x : Stream) (cs : ConfSet)
@[simp] theorem Stream.stageSet_set : (x.stageSet cs).set = x.set := by unfold Stream.stageSet Stream.set; split <;> simp [*]
@[simp] theorem Stream.putSet_set : (x.putSet cs).set = cs := by
  unfold Stream.putSet Stream.switchArea Stream.stageSet Stream.set; split <;> simp [*]
@[simp] theorem Stream.switchArea_id : x.switchArea.id = x.id := rfl
@[simp] theorem Stream.stageSet_id : (x.stageSet cs).id = x.id := by unfold Stream.stageSet; split <;> rfl
@[simp] theorem Stream.switchArea_st : x.switchArea.st = x.st := rfl
@[simp] theorem Stream.stageSet_st : (x.stageSet cs).st = x.st := by unfold Stream.stageSet; split <;> rfl
@[simp] theorem Stream.switchArea_prior : x.switchArea.prior = x.prior := rfl
@[simp] theorem Stream.stageSet_prior : (x.stageSet cs).prior = x.prior := by unfold Stream.stageSet; split <;> rfl
@[simp] theorem Stream.switchArea_cause : x.switchArea.cause = x.cause := rfl
@[simp] theorem Stream.stageSet_cause : (x.stageSet cs).cause = x.cause := by unfold Stream.stageSet; split <;> rfl
@[simp] theorem Stream.switchArea_lost : x.switchArea.lost = x.lost := rfl
@[simp] theorem Stream.stageSet_lost : (x.stageSet cs).lost = x.lost := by unfold Stream.stageSet; split <;> rfl
@[simp] theorem Stream.switchArea_owner : x.switchArea.owner = x.owner := rfl
@[simp] theorem Stream.stageSet_owner : (x.stageSet cs).owner = x.owner := by unfold Stream.stageSet; split <;> rfl
@[simp] theorem Stream.switchArea_slot : x.switchArea.slot = x.slot := rfl
@[simp] theorem Stream.stageSet_slot : (x.stageSet cs).slot = x.slot := by unfold Stream.stageSet; split <;> rfl
@[simp] theorem Stream.switchArea_aut : x.switchArea.aut = x.aut := rfl
@[simp] theorem Stream.stageSet_aut : (x.stageSet cs).aut = x.aut := by unfold Stream.stageSet; split <;> rfl
@[simp] theorem Stream.switchArea_stop : x.switchArea.stop = x.stop := rfl
@[simp] theorem Stream.stageSet_stop : (x.stageSet cs).stop = x.stop := by unfold Stream.stageSet; split <;> rfl
@[simp] theorem Stream.switchArea_queue : x.switchArea.queue = x.queue := rfl
@[simp] theorem Stream.stageSet_queue : (x.stageSet cs).queue = x.queue := by unfold Stream.stageSet; split <;> rfl
@[simp] theorem Stream.switchArea_home : x.switchArea.home = x.home := rfl
@[simp] theorem Stream.stageSet_home : (x.stageSet cs).home = x.home := by unfold Stream.stageSet; split <;> rfl
@[simp] theorem Stream.switchArea_record : x.switchArea.record = x.record := rfl
@[simp] theorem Stream.stageSet_record : (x.stageSet cs).record = x.record := by unfold Stream.stageSet; split <;> rfl
@[simp] theorem Stream.switchArea_seed : x.switchArea.seed = x.seed := rfl
@[simp] theorem Stream.stageSet_seed : (x.stageSet cs).seed = x.seed := by unfold Stream.stageSet; split <;> rfl
@[simp] theorem Stream.switchArea_epoch : x.switchArea.epoch = x.epoch := rfl
@[simp] theorem Stream.stageSet_epoch : (x.stageSet cs).epoch = x.epoch := by unfold Stream.stageSet; split <;> rfl
@[simp] theorem Stream.switchArea_pendEpoch : x.switchArea.pendEpoch = x.pendEpoch := rfl
@[simp] theorem Stream.stageSet_pendEpoch : (x.stageSet cs).pendEpoch = x.pendEpoch := by unfold Stream.stageSet; split <;> rfl
@[simp] theorem Stream.switchArea_endReason : x.switchArea.endReason = x.endReason := rfl
@[simp] theorem Stream.stageSet_endReason : (x.stageSet cs).endReason = x.endReason := by unfold Stream.stageSet; split <;> rfl
@[simp] theorem Stream.switchArea_temp : x.switchArea.temp = x.temp := rfl
@[simp] theorem Stream.stageSet_temp : (x.stageSet cs).temp = x.temp := by unfold Stream.stageSet; split <;> rfl
@[simp] theorem Stream.switchArea_topK : x.switchArea.topK = x.topK := rfl
@[simp] theorem Stream.stageSet_topK : (x.stageSet cs).topK = x.topK := by unfold Stream.stageSet; split <;> rfl
@[simp] theorem Stream.switchArea_topP : x.switchArea.topP = x.topP := rfl
@[simp] theorem Stream.stageSet_topP : (x.stageSet cs).topP = x.topP := by unfold Stream.stageSet; split <;> rfl
@[simp] theorem Stream.switchArea_minP : x.switchArea.minP = x.minP := rfl
@[simp] theorem Stream.stageSet_minP : (x.stageSet cs).minP = x.minP := by unfold Stream.stageSet; split <;> rfl
@[simp] theorem Stream.switchArea_recip : x.switchArea.recip = x.recip := rfl
@[simp] theorem Stream.stageSet_recip : (x.stageSet cs).recip = x.recip := by unfold Stream.stageSet; split <;> rfl
@[simp] theorem Stream.switchArea_lnMinP : x.switchArea.lnMinP = x.lnMinP := rfl
@[simp] theorem Stream.stageSet_lnMinP : (x.stageSet cs).lnMinP = x.lnMinP := by unfold Stream.stageSet; split <;> rfl
@[simp] theorem Stream.switchArea_maxNew : x.switchArea.maxNew = x.maxNew := rfl
@[simp] theorem Stream.stageSet_maxNew : (x.stageSet cs).maxNew = x.maxNew := by unfold Stream.stageSet; split <;> rfl
@[simp] theorem Stream.switchArea_deadPolicy : x.switchArea.deadPolicy = x.deadPolicy := rfl
@[simp] theorem Stream.stageSet_deadPolicy : (x.stageSet cs).deadPolicy = x.deadPolicy := by unfold Stream.stageSet; split <;> rfl
@[simp] theorem Stream.switchArea_utf8Raw : x.switchArea.utf8Raw = x.utf8Raw := rfl
@[simp] theorem Stream.stageSet_utf8Raw : (x.stageSet cs).utf8Raw = x.utf8Raw := by unfold Stream.stageSet; split <;> rfl
@[simp] theorem Stream.switchArea_bias : x.switchArea.bias = x.bias := rfl
@[simp] theorem Stream.stageSet_bias : (x.stageSet cs).bias = x.bias := by unfold Stream.stageSet; split <;> rfl
@[simp] theorem Stream.switchArea_next : x.switchArea.next = x.next := rfl
@[simp] theorem Stream.stageSet_next : (x.stageSet cs).next = x.next := by unfold Stream.stageSet; split <;> rfl
@[simp] theorem Stream.switchArea_gen : x.switchArea.gen = x.gen := rfl
@[simp] theorem Stream.stageSet_gen : (x.stageSet cs).gen = x.gen := by unfold Stream.stageSet; split <;> rfl
@[simp] theorem Stream.switchArea_armed : x.switchArea.armed = x.armed := rfl
@[simp] theorem Stream.stageSet_armed : (x.stageSet cs).armed = x.armed := by unfold Stream.stageSet; split <;> rfl
@[simp] theorem Stream.switchArea_armSpent : x.switchArea.armSpent = x.armSpent := rfl
@[simp] theorem Stream.stageSet_armSpent : (x.stageSet cs).armSpent = x.armSpent := by unfold Stream.stageSet; split <;> rfl
@[simp] theorem Stream.switchArea_armedAt : x.switchArea.armedAt = x.armedAt := rfl
@[simp] theorem Stream.stageSet_armedAt : (x.stageSet cs).armedAt = x.armedAt := by unfold Stream.stageSet; split <;> rfl
@[simp] theorem Stream.switchArea_rebuild : x.switchArea.rebuild = x.rebuild := rfl
@[simp] theorem Stream.stageSet_rebuild : (x.stageSet cs).rebuild = x.rebuild := by unfold Stream.stageSet; split <;> rfl
@[simp] theorem Stream.switchArea_token : x.switchArea.token = x.token := rfl
@[simp] theorem Stream.stageSet_token : (x.stageSet cs).token = x.token := by unfold Stream.stageSet; split <;> rfl
@[simp] theorem Stream.switchArea_area1 : x.switchArea.area1 = !x.area1 := rfl
@[simp] theorem Stream.stageSet_area1 : (x.stageSet cs).area1 = x.area1 := by unfold Stream.stageSet; split <;> rfl
@[simp] theorem Stream.switchArea_desc : x.switchArea.desc = x.desc := rfl
@[simp] theorem Stream.stageSet_desc : (x.stageSet cs).desc = x.desc := by unfold Stream.stageSet; split <;> rfl
@[simp] theorem Stream.switchArea_text : x.switchArea.text = x.text := rfl
@[simp] theorem Stream.stageSet_text : (x.stageSet cs).text = x.text := by unfold Stream.stageSet; split <;> rfl
@[simp] theorem Stream.switchArea_svc : x.switchArea.svc = x.svc := rfl
@[simp] theorem Stream.stageSet_svc : (x.stageSet cs).svc = x.svc := by unfold Stream.stageSet; split <;> rfl
@[simp] theorem Stream.switchArea_forcedEos : x.switchArea.forcedEos = x.forcedEos := rfl
@[simp] theorem Stream.stageSet_forcedEos : (x.stageSet cs).forcedEos = x.forcedEos := by unfold Stream.stageSet; split <;> rfl
@[simp] theorem Stream.switchArea_pagesResv : x.switchArea.pagesResv = x.pagesResv := rfl
@[simp] theorem Stream.stageSet_pagesResv : (x.stageSet cs).pagesResv = x.pagesResv := by unfold Stream.stageSet; split <;> rfl
@[simp] theorem Stream.switchArea_held : x.switchArea.held = x.held := rfl
@[simp] theorem Stream.stageSet_held : (x.stageSet cs).held = x.held := by unfold Stream.stageSet; split <;> rfl
@[simp] theorem Stream.switchArea_waitQueue : x.switchArea.waitQueue = x.waitQueue := rfl
@[simp] theorem Stream.stageSet_waitQueue : (x.stageSet cs).waitQueue = x.waitQueue := by unfold Stream.stageSet; split <;> rfl
@[simp] theorem Stream.switchArea_waitRing : x.switchArea.waitRing = x.waitRing := rfl
@[simp] theorem Stream.stageSet_waitRing : (x.stageSet cs).waitRing = x.waitRing := by unfold Stream.stageSet; split <;> rfl
@[simp] theorem Stream.switchArea_waitCkpt : x.switchArea.waitCkpt = x.waitCkpt := rfl
@[simp] theorem Stream.stageSet_waitCkpt : (x.stageSet cs).waitCkpt = x.waitCkpt := by unfold Stream.stageSet; split <;> rfl
@[simp] theorem Stream.switchArea_waitCup : x.switchArea.waitCup = x.waitCup := rfl
@[simp] theorem Stream.stageSet_waitCup : (x.stageSet cs).waitCup = x.waitCup := by unfold Stream.stageSet; split <;> rfl
@[simp] theorem Stream.switchArea_waitPages : x.switchArea.waitPages = x.waitPages := rfl
@[simp] theorem Stream.stageSet_waitPages : (x.stageSet cs).waitPages = x.waitPages := by unfold Stream.stageSet; split <;> rfl
@[simp] theorem Stream.switchArea_recorded : x.switchArea.recorded = x.recorded := rfl
@[simp] theorem Stream.stageSet_recorded : (x.stageSet cs).recorded = x.recorded := by unfold Stream.stageSet; split <;> rfl
@[simp] theorem Stream.switchArea_spillSaid : x.switchArea.spillSaid = x.spillSaid := rfl
@[simp] theorem Stream.stageSet_spillSaid : (x.stageSet cs).spillSaid = x.spillSaid := by unfold Stream.stageSet; split <;> rfl
@[simp] theorem Stream.switchArea_queueSaid : x.switchArea.queueSaid = x.queueSaid := rfl
@[simp] theorem Stream.stageSet_queueSaid : (x.stageSet cs).queueSaid = x.queueSaid := by unfold Stream.stageSet; split <;> rfl
@[simp] theorem Stream.switchArea_idleSaid : x.switchArea.idleSaid = x.idleSaid := rfl
@[simp] theorem Stream.stageSet_idleSaid : (x.stageSet cs).idleSaid = x.idleSaid := by unfold Stream.stageSet; split <;> rfl
@[simp] theorem Stream.switchArea_resultOn : x.switchArea.resultOn = x.resultOn := rfl
@[simp] theorem Stream.stageSet_resultOn : (x.stageSet cs).resultOn = x.resultOn := by unfold Stream.stageSet; split <;> rfl
@[simp] theorem Stream.switchArea_resultTop : x.switchArea.resultTop = x.resultTop := rfl
@[simp] theorem Stream.stageSet_resultTop : (x.stageSet cs).resultTop = x.resultTop := by unfold Stream.stageSet; split <;> rfl
@[simp] theorem Stream.switchArea_ckptSerial : x.switchArea.ckptSerial = x.ckptSerial := rfl
@[simp] theorem Stream.stageSet_ckptSerial : (x.stageSet cs).ckptSerial = x.ckptSerial := by unfold Stream.stageSet; split <;> rfl
@[simp] theorem Stream.switchArea_ckptDone : x.switchArea.ckptDone = x.ckptDone := rfl
@[simp] theorem Stream.stageSet_ckptDone : (x.stageSet cs).ckptDone = x.ckptDone := by unfold Stream.stageSet; split <;> rfl
@[simp] theorem Stream.switchArea_ckptSeq : x.switchArea.ckptSeq = x.ckptSeq := rfl
@[simp] theorem Stream.stageSet_ckptSeq : (x.stageSet cs).ckptSeq = x.ckptSeq := by unfold Stream.stageSet; split <;> rfl
@[simp] theorem Stream.switchArea_ckptSteps : x.switchArea.ckptSteps = x.ckptSteps := rfl
@[simp] theorem Stream.stageSet_ckptSteps : (x.stageSet cs).ckptSteps = x.ckptSteps := by unfold Stream.stageSet; split <;> rfl
@[simp] theorem Stream.switchArea_ckptDue : x.switchArea.ckptDue = x.ckptDue := rfl
@[simp] theorem Stream.stageSet_ckptDue : (x.stageSet cs).ckptDue = x.ckptDue := by unfold Stream.stageSet; split <;> rfl
@[simp] theorem Stream.switchArea_ckptPend : x.switchArea.ckptPend = x.ckptPend := rfl
@[simp] theorem Stream.stageSet_ckptPend : (x.stageSet cs).ckptPend = x.ckptPend := by unfold Stream.stageSet; split <;> rfl
@[simp] theorem Stream.switchArea_kept : x.switchArea.kept = x.kept := rfl
@[simp] theorem Stream.stageSet_kept : (x.stageSet cs).kept = x.kept := by unfold Stream.stageSet; split <;> rfl
@[simp] theorem Stream.switchArea_restoring : x.switchArea.restoring = x.restoring := rfl
@[simp] theorem Stream.stageSet_restoring : (x.stageSet cs).restoring = x.restoring := by unfold Stream.stageSet; split <;> rfl
@[simp] theorem Stream.switchArea_closing : x.switchArea.closing = x.closing := rfl
@[simp] theorem Stream.stageSet_closing : (x.stageSet cs).closing = x.closing := by unfold Stream.stageSet; split <;> rfl
@[simp] theorem Stream.switchArea_inner : x.switchArea.inner = x.inner := rfl
@[simp] theorem Stream.stageSet_inner : (x.stageSet cs).inner = x.inner := by unfold Stream.stageSet; split <;> rfl
@[simp] theorem Stream.switchArea_susTag : x.switchArea.susTag = x.susTag := rfl
@[simp] theorem Stream.stageSet_susTag : (x.stageSet cs).susTag = x.susTag := by unfold Stream.stageSet; split <;> rfl
@[simp] theorem Stream.switchArea_zeroing : x.switchArea.zeroing = x.zeroing := rfl
@[simp] theorem Stream.stageSet_zeroing : (x.stageSet cs).zeroing = x.zeroing := by unfold Stream.stageSet; split <;> rfl
@[simp] theorem Stream.switchArea_endDue : x.switchArea.endDue = x.endDue := rfl
@[simp] theorem Stream.stageSet_endDue : (x.stageSet cs).endDue = x.endDue := by unfold Stream.stageSet; split <;> rfl
@[simp] theorem Stream.switchArea_endOut : x.switchArea.endOut = x.endOut := rfl
@[simp] theorem Stream.stageSet_endOut : (x.stageSet cs).endOut = x.endOut := by unfold Stream.stageSet; split <;> rfl
@[simp] theorem Stream.switchArea_ckptFrom : x.switchArea.ckptFrom = x.ckptFrom := rfl
@[simp] theorem Stream.stageSet_ckptFrom : (x.stageSet cs).ckptFrom = x.ckptFrom := by unfold Stream.stageSet; split <;> rfl
@[simp] theorem Stream.switchArea_spill : x.switchArea.spill = x.spill := rfl
@[simp] theorem Stream.stageSet_spill : (x.stageSet cs).spill = x.spill := by unfold Stream.stageSet; split <;> rfl
end

end Sys2Proof.Machine
end

