-- ==== Sys2Proof/Laws/Forward.lean ====
section
/-! SUPPORT. What most meanings leave alone: `Fwd s t` says that t has the Lantern, the stores, the queue and the configuration of s,
local memories in canonical form if those of s are, and every posted completion of s. One lemma per operation; a meaning made of such operations inherits it. -/

namespace Sys2Proof.Machine

/-- What an operation of the fabric-side units leaves alone. -/
structure Fwd (s t : State) : Prop where
  pending : t.pending = s.pending
  variant : t.variant = s.variant
  lan : t.lan = s.lan
  mem : t.mem = s.mem
  mems : (∀ u ∈ s.tur.ts, u.Canon) → ∀ u ∈ t.tur.ts, u.Canon
  comps : ∀ e ∈ s.rng.comps, e ∈ t.rng.comps

theorem Fwd.refl (s : State) : Fwd s s := ⟨rfl, rfl, rfl, rfl, id, fun _ h => h⟩

theorem Fwd.trans {a b c : State} (h : Fwd a b) (k : Fwd b c) : Fwd a c :=
  ⟨k.pending.trans h.pending, k.variant.trans h.variant, k.lan.trans h.lan, k.mem.trans h.mem, fun e => k.mems (h.mems e),
    fun e he => k.comps e (h.comps e he)⟩

/-- A later state with the same Lantern, stores, turrets, queue and rings keeps the relation. -/
theorem Fwd.of_eq {a b c : State} (h : Fwd a b) (p : c.pending = b.pending) (v : c.variant = b.variant) (l : c.lan = b.lan)
    (m : c.mem = b.mem) (t : c.tur = b.tur) (r : c.rng = b.rng) : Fwd a c :=
  ⟨p.trans h.pending, v.trans h.variant, l.trans h.lan, m.trans h.mem, by rw [t]; exact h.mems,
    fun e he => by rw [r]; exact h.comps e he⟩

variable {s0 s : State}

theorem State.onVoc_fwd {f : Voc → Voc} (h : Fwd s0 s) : Fwd s0 (s.onVoc f) := h.of_eq rfl rfl rfl rfl rfl rfl
theorem State.onAut_fwd {f : Aut → Aut} (h : Fwd s0 s) : Fwd s0 (s.onAut f) := h.of_eq rfl rfl rfl rfl rfl rfl
theorem State.onCup_fwd {f : Cup → Cup} (h : Fwd s0 s) : Fwd s0 (s.onCup f) := h.of_eq rfl rfl rfl rfl rfl rfl
theorem State.onCtx_fwd {f : Ctx → Ctx} (h : Fwd s0 s) : Fwd s0 (s.onCtx f) := h.of_eq rfl rfl rfl rfl rfl rfl
theorem State.onSel_fwd {f : Sel → Sel} (h : Fwd s0 s) : Fwd s0 (s.onSel f) := h.of_eq rfl rfl rfl rfl rfl rfl
theorem State.onFin_fwd {f : Fin → Fin} (h : Fwd s0 s) : Fwd s0 (s.onFin f) := h.of_eq rfl rfl rfl rfl rfl rfl
theorem State.onStp_fwd {f : Stp → Stp} (h : Fwd s0 s) : Fwd s0 (s.onStp f) := h.of_eq rfl rfl rfl rfl rfl rfl
theorem State.onPkr_fwd {f : Pkr → Pkr} (h : Fwd s0 s) : Fwd s0 (s.onPkr f) := h.of_eq rfl rfl rfl rfl rfl rfl
theorem State.onEqs_fwd {f : Eqs → Eqs} (h : Fwd s0 s) : Fwd s0 (s.onEqs f) := h.of_eq rfl rfl rfl rfl rfl rfl
theorem State.onJob_fwd {f : Jobs → Jobs} (h : Fwd s0 s) : Fwd s0 (s.onJob f) := h.of_eq rfl rfl rfl rfl rfl rfl
theorem State.onCry_fwd {f : Cry → Cry} (h : Fwd s0 s) : Fwd s0 (s.onCry f) := h.of_eq rfl rfl rfl rfl rfl rfl
theorem State.onBel_fwd {f : Bel → Bel} (h : Fwd s0 s) : Fwd s0 (s.onBel f) := h.of_eq rfl rfl rfl rfl rfl rfl
theorem State.onSnp_fwd {f : Snp → Snp} (h : Fwd s0 s) : Fwd s0 (s.onSnp f) := h.of_eq rfl rfl rfl rfl rfl rfl
theorem State.onFab_fwd {f : Fab → Fab} (h : Fwd s0 s) : Fwd s0 (s.onFab f) := h.of_eq rfl rfl rfl rfl rfl rfl
theorem State.onQueue_fwd {n : Nat} {f : EqQueue → EqQueue} (h : Fwd s0 s) : Fwd s0 (s.onQueue n f) :=
  h.of_eq rfl rfl rfl rfl rfl rfl
theorem State.onOwnPkr_fwd {n : Nat} {f : OwnerPkr → OwnerPkr} (h : Fwd s0 s) : Fwd s0 (s.onOwnPkr n f) :=
  h.of_eq rfl rfl rfl rfl rfl rfl
theorem State.onOwner_fwd {n : Nat} {f : OwnerEpoch → OwnerEpoch} (h : Fwd s0 s) : Fwd s0 (s.onOwner n f) :=
  h.of_eq rfl rfl rfl rfl rfl rfl
theorem State.onPort_fwd {n : Nat} {f : Selector → Selector} (h : Fwd s0 s) : Fwd s0 (s.onPort n f) :=
  h.of_eq rfl rfl rfl rfl rfl rfl
theorem State.onAutomaton_fwd {n : Nat} {f : Automaton → Automaton} (h : Fwd s0 s) : Fwd s0 (s.onAutomaton n f) :=
  h.of_eq rfl rfl rfl rfl rfl rfl
theorem State.onSlot_fwd {n : Nat} {f : Slot → Slot} (h : Fwd s0 s) : Fwd s0 (s.onSlot n f) :=
  h.of_eq rfl rfl rfl rfl rfl rfl
theorem State.onStream_fwd {n : Nat} {f : Stream → Stream} (h : Fwd s0 s) : Fwd s0 (s.onStream n f) :=
  h.of_eq rfl rfl rfl rfl rfl rfl
theorem State.putStream_fwd {x : Stream} (h : Fwd s0 s) : Fwd s0 (s.putStream x) := h.of_eq rfl rfl rfl rfl rfl rfl
theorem State.dropStream_fwd {n : Nat} (h : Fwd s0 s) : Fwd s0 (s.dropStream n) := h.of_eq rfl rfl rfl rfl rfl rfl
theorem State.onJobOf_fwd {n : Nat} {f : Job → Job} (h : Fwd s0 s) : Fwd s0 (s.onJobOf n f) :=
  h.of_eq rfl rfl rfl rfl rfl rfl
theorem State.onUnit_fwd {a b n : Nat} {f : SelUnit → SelUnit} (h : Fwd s0 s) : Fwd s0 (s.onUnit a b n f) :=
  h.of_eq rfl rfl rfl rfl rfl rfl
theorem State.onTree_fwd {n : Nat} {f : Tree → Tree} (h : Fwd s0 s) : Fwd s0 (s.onTree n f) :=
  h.of_eq rfl rfl rfl rfl rfl rfl
theorem State.onOwnRing_fwd {n : Nat} {b : Bool} {f : OwnRing → OwnRing} (h : Fwd s0 s) : Fwd s0 (s.onOwnRing n b f) :=
  State.onOwnPkr_fwd h

/-- A change of the rings that keeps the posted completions. -/
theorem State.onRng_fwd {f : Rng → Rng} (h : Fwd s0 s) (k : ∀ e ∈ s.rng.comps, e ∈ (f s.rng).comps) : Fwd s0 (s.onRng f) :=
  ⟨h.pending, h.variant, h.lan, h.mem, h.mems, fun e he => k e (h.comps e he)⟩
theorem State.onCmd_fwd {n : Nat} {f : Cmd → Cmd} (h : Fwd s0 s) : Fwd s0 (s.onCmd n f) := State.onRng_fwd h fun _ he => he
theorem State.onRing_fwd {n : Nat} {f : CmdRing → CmdRing} (h : Fwd s0 s) : Fwd s0 (s.onRing n f) :=
  State.onRng_fwd h fun _ he => he
theorem State.onCq_fwd {n : Nat} {f : CplRing → CplRing} (h : Fwd s0 s) : Fwd s0 (s.onCq n f) :=
  State.onRng_fwd h fun _ he => he

theorem modAt_mem {α : Type} {f : α → α} {l : List α} {i : Nat} {x : α} (h : x ∈ modAt l i f) : x ∈ l ∨ ∃ y ∈ l, x = f y := by
  unfold modAt at h
  rw [List.mem_iff_getElem?] at h
  obtain ⟨n, e⟩ := h
  rw [List.getElem?_modify] at e
  cases k : l[n]? with
  | none => rw [k] at e; simp at e
  | some y =>
    rw [k] at e
    have m := List.mem_of_getElem? k
    by_cases c : i = n
    · exact .inr ⟨y, m, by simpa [c] using e.symm⟩
    · exact .inl (by simp [c] at e; exact e ▸ m)

theorem getN_mem {α : Type} [Inhabited α] {l : List α} {i : Nat} (h : i < l.length) : getN l i ∈ l := by
  simp [getN, h]

/-- A change of the turrets that keeps local memories in canonical form. -/
theorem State.onTur_fwd {f : Tur → Tur} (h : Fwd s0 s) (k : (∀ u ∈ s.tur.ts, u.Canon) → ∀ u ∈ (f s.tur).ts, u.Canon) :
    Fwd s0 (s.onTur f) :=
  ⟨h.pending, h.variant, h.lan, h.mem, fun e => k (h.mems e), h.comps⟩

/-- A change of a turret that keeps its local memories in canonical form. -/
theorem State.onTurret_fwd {p : Nat} {f : Turret → Turret} (h : Fwd s0 s) (k : ∀ t, t.Canon → (f t).Canon) : Fwd s0 (s.onTurret p f) :=
  State.onTur_fwd h fun e u hu => by
    rcases modAt_mem hu with w | ⟨y, w, rfl⟩
    · exact e u w
    · exact k y (e y w)

/-- A change of a turret that leaves its core and what it has suspended. -/
theorem State.onTurret_same_fwd {p : Nat} {f : Turret → Turret} (h : Fwd s0 s) (k : ∀ t, (f t).core = t.core)
    (l : ∀ t, (f t).suspended = t.suspended) : Fwd s0 (s.onTurret p f) :=
  State.onTurret_fwd h fun t c => c.of_eq (k t) (l t)

/-- A fold of operations that keep the relation. -/
theorem foldl_fwd {α : Type} {l : List α} {g : State → α → State} (k : ∀ s x, Fwd s0 s → Fwd s0 (g s x)) (h : Fwd s0 s) :
    Fwd s0 (l.foldl g s) := by
  induction l generalizing s with
  | nil => exact h
  | cons x r ih => exact ih (k s x h)

theorem fetchLine_fwd {who : Req} {line : Nat} (hf : Fwd s0 s) : Fwd s0 (fetchLine s who line) := by
  unfold fetchLine
  try dsimp only
  repeat' first | with_reducible exact hf | with_reducible apply State.onFab_fwd | split

theorem fetchBytes_fwd {who : Req} {addr len : Nat} (hf : Fwd s0 s) : Fwd s0 (fetchBytes s who addr len) := by
  unfold fetchBytes
  try dsimp only
  repeat'
    first
      | with_reducible exact hf | with_reducible assumption | with_reducible apply foldl_fwd
      | with_reducible apply fetchLine_fwd | intro _

theorem dropLines_fwd {who : Req} (hf : Fwd s0 s) : Fwd s0 (dropLines s who) := by
  unfold dropLines
  try dsimp only
  repeat' first | with_reducible exact hf | with_reducible apply State.onFab_fwd

theorem writeBytes_fwd {who : Req} {addr : Nat} {bs : List Byte} (hf : Fwd s0 s) : Fwd s0 (writeBytes s who addr bs) := by
  unfold writeBytes
  try dsimp only
  repeat' first | with_reducible exact hf | with_reducible apply State.onFab_fwd

theorem writeEnabled_fwd {who : Req} {line : Nat} {bs : List Byte} {en : Nat → Bool} (hf : Fwd s0 s) : Fwd s0 (writeEnabled
    s who line bs en) := by
  unfold writeEnabled
  try dsimp only
  repeat' first | with_reducible exact hf | with_reducible apply State.onFab_fwd | split

theorem issueWrite_fwd {r : FabReq} (hf : Fwd s0 s) : Fwd s0 (issueWrite s r) := by
  unfold issueWrite
  try dsimp only
  repeat' first | with_reducible exact hf | with_reducible apply State.onFab_fwd | split

theorem pumpWrites_fwd (hf : Fwd s0 s) : Fwd s0 (pumpWrites s) := by
  unfold pumpWrites
  try dsimp only
  repeat'
    first
      | with_reducible exact hf | with_reducible assumption | with_reducible apply foldl_fwd
      | with_reducible apply State.onFab_fwd | with_reducible apply issueWrite_fwd | intro _

theorem sendMessages_fwd {before : Bel} (hf : Fwd s0 s) : Fwd s0 (sendMessages before s) := by
  unfold sendMessages
  try dsimp only
  repeat'
    first
      | with_reducible exact hf | with_reducible assumption | with_reducible apply foldl_fwd
      | with_reducible apply writeBytes_fwd | split | intro _

theorem raiseFrom_fwd {requester code stream step detail : Nat} (hf : Fwd s0 s) : Fwd s0 (raiseFrom s requester code stream
    step detail) := by
  unfold raiseFrom
  try dsimp only
  repeat' first | with_reducible exact hf | with_reducible apply sendMessages_fwd | exact hf.of_eq rfl rfl rfl rfl rfl rfl

theorem raiseBy_fwd {u : Src} {code stream step detail : Nat} (hf : Fwd s0 s) : Fwd s0 (raiseBy s u code stream step
    detail) := by
  unfold raiseBy
  repeat' first | with_reducible exact hf | with_reducible apply raiseFrom_fwd

theorem dropCmd_fwd {t : Nat} (hf : Fwd s0 s) : Fwd s0 (dropCmd s t) := by
  unfold dropCmd
  try dsimp only
  repeat'
    first
      | with_reducible exact hf | with_reducible assumption | with_reducible apply State.onRng_fwd
      | with_reducible apply dropLines_fwd | intro _ | exact List.mem_append_left _ ‹_›

theorem complete_fwd {c : Cmd} {status : Nat} {step : Nat} {d0 : Nat} {d1 : Nat} (hf : Fwd s0 s) : Fwd s0 (complete s c
    status step d0 d1) := by
  unfold complete
  try dsimp only
  repeat'
    first
      | with_reducible exact hf | with_reducible assumption | with_reducible apply State.onRng_fwd
      | with_reducible apply dropCmd_fwd | intro _ | exact List.mem_append_left _ ‹_›

theorem reject_fwd {c : Cmd} {st : Status} {step : Nat} (hf : Fwd s0 s) : Fwd s0 (reject s c st step) := by
  unfold reject
  repeat' first | with_reducible exact hf | with_reducible apply complete_fwd

theorem completeTicket_fwd {t : Nat} {st : Status} {step : Nat} {d0 : Nat} {d1 : Nat} (hf : Fwd s0 s) : Fwd s0
    (completeTicket s t st step d0 d1) := by
  unfold completeTicket
  repeat' first | with_reducible exact hf | with_reducible apply complete_fwd | split

theorem executing_fwd {t : Nat} (hf : Fwd s0 s) : Fwd s0 (executing s t) := by
  unfold executing
  try dsimp only
  repeat' first | with_reducible exact hf | with_reducible apply State.onCmd_fwd

theorem awaitBytes_fwd {c : Cmd} {addr len : Nat} (hf : Fwd s0 s) : Fwd s0 (awaitBytes s c addr len) := by
  unfold awaitBytes
  repeat' first | with_reducible exact hf | with_reducible apply executing_fwd | with_reducible apply fetchBytes_fwd

theorem ungate_fwd {p : Nat} (hf : Fwd s0 s) : Fwd s0 (ungate s p) := by
  unfold ungate
  try dsimp only
  repeat' first | with_reducible exact hf | with_reducible apply State.onTurret_same_fwd | intro _ | rfl

theorem ungateCluster_fwd {k : Nat} (hf : Fwd s0 s) : Fwd s0 (ungateCluster s k) := by
  refine State.onTur_fwd hf fun e u hu => ?_
  obtain ⟨p, hp, rfl⟩ := List.mem_map.mp hu
  have m := e _ (getN_mem (List.mem_range.mp hp))
  dsimp only
  split
  · exact m.of_eq rfl rfl
  · exact m

theorem raiseHome_fwd {x : Stream} {code step detail : Nat} (hf : Fwd s0 s) : Fwd s0 (raiseHome s x code step detail) := by
  unfold raiseHome
  repeat' first | with_reducible exact hf | with_reducible apply raiseFrom_fwd

theorem queueWait_fwd {x : Stream} {rs : List (List Byte)} (hf : Fwd s0 s) : Fwd s0 (queueWait s x rs) := by
  unfold queueWait
  try dsimp only
  repeat'
    first
      | with_reducible exact hf | with_reducible apply State.onQueue_fwd | with_reducible apply State.onStream_fwd
      | with_reducible apply raiseHome_fwd | split

theorem reserve_fwd {x : Stream} {rs : List (List Byte)} (hf : Fwd s0 s) : Fwd s0 (reserve s x rs) := by
  unfold reserve
  try dsimp only
  repeat'
    first
      | with_reducible exact hf | with_reducible apply State.onQueue_fwd | with_reducible apply State.onStream_fwd | split

theorem releaseResv_fwd {x : Stream} (hf : Fwd s0 s) : Fwd s0 (releaseResv s x) := by
  unfold releaseResv
  try dsimp only
  repeat' first | with_reducible exact hf | with_reducible apply State.onQueue_fwd

theorem endWait_fwd {x : Stream} (hf : Fwd s0 s) : Fwd s0 (endWait s x) := by
  unfold endWait
  try dsimp only
  repeat'
    first
      | with_reducible exact hf | with_reducible apply State.onQueue_fwd | with_reducible apply State.onStream_fwd | split

theorem publish_fwd {x : Stream} {rs : List (List Byte)} (hf : Fwd s0 s) : Fwd s0 (publish s x rs) := by
  unfold publish
  try dsimp only
  repeat'
    first
      | with_reducible exact hf | with_reducible apply State.onEqs_fwd | with_reducible apply State.onQueue_fwd
      | with_reducible apply State.onStream_fwd | with_reducible apply endWait_fwd | with_reducible apply raiseHome_fwd | split

theorem emitToken_fwd {stream step token flags : Nat} (hf : Fwd s0 s) : Fwd s0 (emitToken s stream step token flags) := by
  unfold emitToken
  try dsimp only
  repeat' first | with_reducible exact hf | with_reducible apply State.onFin_fwd | split

theorem countEntries_fwd {replay : Bool} {es : List Staged} (hf : Fwd s0 s) : Fwd s0 (countEntries s replay es) := by
  unfold countEntries
  try dsimp only
  repeat' first | with_reducible exact hf | with_reducible apply State.onPkr_fwd | split

theorem writeSecret_fwd {who : Req} {key : List Byte} {addr domain owner : Nat} {line : List Byte} (hf : Fwd s0 s) : Fwd s0
    (writeSecret s who key addr domain owner line) := by
  unfold writeSecret
  try dsimp only
  repeat' first | with_reducible exact hf | with_reducible apply State.onCry_fwd | with_reducible apply writeBytes_fwd

theorem writeRingLine_fwd {o : Nat} {replay : Bool} {line tries : Nat} (hf : Fwd s0 s) : Fwd s0 (writeRingLine s o replay
    line tries) := by
  unfold writeRingLine
  try dsimp only
  repeat'
    first
      | with_reducible exact hf | with_reducible assumption | with_reducible apply foldl_fwd
      | with_reducible apply State.onCry_fwd | with_reducible apply State.onOwnRing_fwd | with_reducible apply writeEnabled_fwd
      | split | intro _

theorem writeLines_fwd {o : Nat} {replay part : Bool} (hf : Fwd s0 s) : Fwd s0 (writeLines s o replay part) := by
  unfold writeLines
  try dsimp only
  repeat'
    first
      | with_reducible exact hf | with_reducible assumption | with_reducible apply foldl_fwd
      | with_reducible apply writeRingLine_fwd | intro _

theorem stage_fwd {o : Nat} {replay : Bool} {es : List Staged} (hf : Fwd s0 s) : Fwd s0 (stage s o replay es) := by
  unfold stage
  try dsimp only
  repeat' first | with_reducible exact hf | with_reducible apply State.onOwnRing_fwd | with_reducible apply writeLines_fwd

theorem writeStream_fwd {x : Stream} (hf : Fwd s0 s) : Fwd s0 (writeStream s x) := by
  unfold writeStream
  repeat' first | with_reducible exact hf | with_reducible apply writeLines_fwd

theorem dropWait_fwd {t id : Nat} (hf : Fwd s0 s) : Fwd s0 (dropWait s t id) := by
  unfold dropWait
  try dsimp only
  repeat' first | with_reducible exact hf | with_reducible apply State.onCmd_fwd

theorem ckptOver_fwd {id bytes : Nat} (hf : Fwd s0 s) : Fwd s0 (ckptOver s id bytes) := by
  unfold ckptOver
  try dsimp only
  repeat'
    first
      | with_reducible exact hf | with_reducible assumption | with_reducible apply foldl_fwd
      | with_reducible apply State.onCmd_fwd | with_reducible apply complete_fwd | split | intro _

theorem takeCkpt_fwd {x : Stream} (hf : Fwd s0 s) : Fwd s0 (takeCkpt s x) := by
  unfold takeCkpt
  try dsimp only
  repeat'
    first
      | with_reducible exact hf | with_reducible assumption | with_reducible apply foldl_fwd
      | with_reducible apply State.onOwnPkr_fwd | with_reducible apply State.onStream_fwd | with_reducible apply ckptOver_fwd
      | with_reducible apply writeSecret_fwd | with_reducible apply writeStream_fwd | split | intro _

theorem ckptAck_fwd {id serial : Nat} {err : Bool} (hf : Fwd s0 s) : Fwd s0 (ckptAck s id serial err) := by
  unfold ckptAck
  try dsimp only
  repeat'
    first
      | with_reducible exact hf | with_reducible apply State.onOwnPkr_fwd | with_reducible apply State.onStream_fwd
      | with_reducible apply ckptOver_fwd | with_reducible apply raiseBy_fwd | split

theorem clearUnits_fwd {t : Nat} (hf : Fwd s0 s) : Fwd s0 (clearUnits s t) := by
  refine State.onTur_fwd hf fun e u hu => ?_
  obtain ⟨v, hv, rfl⟩ := List.mem_map.mp hu
  exact (e v hv).of_eq rfl rfl

theorem jobEnd_fwd {t : Nat} (hf : Fwd s0 s) : Fwd s0 (jobEnd s t) := by
  unfold jobEnd
  try dsimp only
  repeat'
    first
      | with_reducible exact hf | with_reducible apply State.onCup_fwd | with_reducible apply State.onJob_fwd
      | with_reducible apply State.onPkr_fwd | with_reducible apply clearUnits_fwd | with_reducible apply completeTicket_fwd
      | split

theorem jobAck_fwd {t item : Nat} {err : Bool} (hf : Fwd s0 s) : Fwd s0 (jobAck s t item err) := by
  unfold jobAck
  try dsimp only
  repeat' first | with_reducible exact hf | with_reducible apply State.onJobOf_fwd | with_reducible apply jobEnd_fwd | split

theorem revokeEnd_fwd {t : Nat} (hf : Fwd s0 s) : Fwd s0 (revokeEnd s t) := by
  unfold revokeEnd
  repeat' first | with_reducible exact hf | with_reducible apply complete_fwd | split

theorem endRevokes_fwd {o : Nat} (hf : Fwd s0 s) : Fwd s0 (endRevokes s o) := by
  unfold endRevokes
  try dsimp only
  repeat'
    first
      | with_reducible exact hf | with_reducible assumption | with_reducible apply foldl_fwd
      | with_reducible apply revokeEnd_fwd | intro _

theorem ackEffect_fwd {r : FabReq} {err : Bool} (hf : Fwd s0 s) : Fwd s0 (ackEffect s r err) := by
  unfold ackEffect
  try dsimp only
  repeat'
    first
      | with_reducible exact hf | with_reducible apply State.onCmd_fwd | with_reducible apply State.onCtx_fwd
      | with_reducible apply State.onFab_fwd | with_reducible apply State.onOwnRing_fwd | with_reducible apply State.onPkr_fwd
      | with_reducible apply ckptAck_fwd | with_reducible apply countEntries_fwd | with_reducible apply endRevokes_fwd
      | with_reducible apply jobAck_fwd | with_reducible apply raiseBy_fwd | with_reducible apply revokeEnd_fwd
      | with_reducible apply writeRingLine_fwd | split

theorem fenceOut_fwd : ∀ {n : Nat} {s : State}, Fwd s0 s → Fwd s0 (fenceOut n s)
  | 0, _, h => h
  | n + 1, s, h => by
    unfold fenceOut
    split
    · exact h
    · exact fenceOut_fwd (ackEffect_fwd (State.onFab_fwd h))

theorem settle_fwd (hf : Fwd s0 s) : Fwd s0 (settle s) := by
  unfold settle
  repeat' first | with_reducible exact hf | with_reducible apply fenceOut_fwd | with_reducible apply pumpWrites_fwd | split

theorem takeOff_fwd {p : UnitRef → Bool} (hf : Fwd s0 s) : Fwd s0 (takeOff s p) := by
  refine State.onTur_fwd hf fun e u hu => ?_
  obtain ⟨v, hv, rfl⟩ := List.mem_map.mp hu
  exact (e v hv).of_eq rfl rfl

theorem postUnits_fwd {t : Nat} (hf : Fwd s0 s) : Fwd s0 (postUnits s t) := by
  unfold postUnits
  try dsimp only
  repeat'
    first
      | with_reducible exact hf | with_reducible assumption | with_reducible apply foldl_fwd
      | with_reducible apply State.onJobOf_fwd | with_reducible apply State.onTurret_same_fwd
      | with_reducible apply ungateCluster_fwd | split | intro _ | rfl

theorem postFill_fwd {e : CupEntry} {kind : Nat} (hf : Fwd s0 s) : Fwd s0 (postFill s e kind) := by
  unfold postFill
  try dsimp only
  repeat'
    first
      | with_reducible exact hf | with_reducible apply State.onCup_fwd | with_reducible apply State.onTurret_same_fwd
      | with_reducible apply ungateCluster_fwd | split | intro _ | rfl

theorem repost_fwd {p : Nat} (hf : Fwd s0 s) : Fwd s0 (repost s p) := by
  unfold repost
  try dsimp only
  repeat'
    first
      | with_reducible exact hf | with_reducible assumption | with_reducible apply foldl_fwd | with_reducible apply postFill_fwd
      | with_reducible apply postUnits_fwd | split | intro _

theorem dropJob_fwd {t : Nat} (hf : Fwd s0 s) : Fwd s0 (dropJob s t) := by
  unfold dropJob
  try dsimp only
  repeat'
    first
      | with_reducible exact hf | with_reducible apply State.onCup_fwd | with_reducible apply State.onJob_fwd
      | with_reducible apply takeOff_fwd

theorem cupRoom_fwd {n : Nat} : ∀ {k : Nat} {s t : State}, cupRoom n k s = some t → Fwd s0 s → Fwd s0 t
  | 0, s, t, e, h => by
    unfold cupRoom at e
    split at e
    · cases e; exact h
    · cases e
  | k + 1, s, t, e, h => by
    unfold cupRoom at e
    split at e
    · cases e; exact h
    · dsimp only at e
      split at e
      · cases e
      · exact cupRoom_fwd e (State.onCup_fwd h)

theorem makeRoom_fwd {n : Nat} {t : State} (e : makeRoom s n = some t) (h : Fwd s0 s) : Fwd s0 t := cupRoom_fwd e h

theorem addEntry_fwd {e : CupEntry} (hf : Fwd s0 s) : Fwd s0 (addEntry s e) := by
  unfold addEntry
  try dsimp only
  repeat' first | with_reducible exact hf | with_reducible apply State.onCup_fwd

theorem startFill_fwd {k : CupKey} {b : Bool} {o : Option Nat} {p : Nat} {r : State × Stepped} (e : startFill s k b o p = some r)
    (h : Fwd s0 s) : Fwd s0 r.1 := by
  unfold startFill at e
  obtain ⟨u, hu, rfl⟩ := Option.map_eq_some_iff.mp e
  exact postFill_fwd (State.onCup_fwd (addEntry_fwd (makeRoom_fwd hu h)))

theorem lookupKey_fwd {k : CupKey} {p : Nat} {r : State × Bool × List (CupKey × Stepped)} (e : lookupKey s k p = some r)
    (h : Fwd s0 s) : Fwd s0 r.1 := by
  unfold lookupKey at e
  split at e
  · split at e <;> cases e
    · dsimp only; exact State.onCup_fwd h
    · dsimp only; exact State.onCup_fwd h
  · obtain ⟨u, hu, rfl⟩ := Option.map_eq_some_iff.mp e
    exact startFill_fwd hu (State.onCup_fwd h)

theorem lookupKeys_fwd {p : Nat} : ∀ {ks : List CupKey} {s : State} {ok : Bool}, Fwd s0 s → Fwd s0 (lookupKeys p ks s ok).1
  | [], _, _, h => h
  | k :: ks, s, ok, h => by
    unfold lookupKeys
    split
    · exact h
    · exact lookupKeys_fwd (lookupKey_fwd ‹_› h)

theorem pinKeys_fwd {ks : List CupKey} {id step : Nat} (hf : Fwd s0 s) : Fwd s0 (pinKeys s ks id step) := by
  unfold pinKeys
  try dsimp only
  repeat' first | with_reducible exact hf | with_reducible apply State.onCup_fwd | split

theorem unpin_fwd {id step : Nat} (hf : Fwd s0 s) : Fwd s0 (unpin s id step) := by
  unfold unpin
  try dsimp only
  repeat' first | with_reducible exact hf | with_reducible apply State.onCup_fwd

theorem privateEntry_fwd {v m : Nat} {a : Nat × Nat × Nat} {t : State} (e : privateEntry s v m a = some t) (h : Fwd s0 s) : Fwd s0 t := by
  unfold privateEntry at e
  obtain ⟨u, hu, rfl⟩ := Option.map_eq_some_iff.mp e
  exact addEntry_fwd (makeRoom_fwd hu h)

theorem areaPressure_fwd {t : Nat} (hf : Fwd s0 s) : Fwd s0 (areaPressure s t) := by
  unfold areaPressure
  try dsimp only
  repeat'
    first
      | with_reducible exact hf | with_reducible apply State.onCup_fwd | with_reducible apply State.onJobOf_fwd
      | with_reducible apply raiseFrom_fwd | split

theorem grantArea_fwd {k : Nat} (hf : Fwd s0 s) : Fwd s0 (grantArea s k) := by
  unfold grantArea
  try dsimp only
  repeat'
    first
      | with_reducible exact hf | with_reducible apply State.onCup_fwd | with_reducible apply State.onJobOf_fwd
      | with_reducible apply areaPressure_fwd | with_reducible refine makeRoom_fwd ‹_› ?_ | split

theorem askArea_fwd {j : Job} (hf : Fwd s0 s) : Fwd s0 (askArea s j) := by
  unfold askArea
  try dsimp only
  repeat' first | with_reducible exact hf | with_reducible apply State.onCup_fwd | with_reducible apply grantArea_fwd | split

theorem openUnit_fwd {id step node : Nat} (hf : Fwd s0 s) : Fwd s0 (openUnit s id step node) := by
  unfold openUnit
  try dsimp only
  repeat' first | with_reducible exact hf | with_reducible apply State.onFin_fwd

theorem dropUnits_fwd {id step : Nat} (hf : Fwd s0 s) : Fwd s0 (dropUnits s id step) := by
  unfold dropUnits
  try dsimp only
  repeat' first | with_reducible exact hf | with_reducible apply State.onFin_fwd | with_reducible apply unpin_fwd

theorem dropAllUnits_fwd {id : Nat} (hf : Fwd s0 s) : Fwd s0 (dropAllUnits s id) := by
  unfold dropAllUnits
  try dsimp only
  repeat' first | with_reducible exact hf | with_reducible apply State.onCup_fwd | with_reducible apply State.onFin_fwd

theorem endRound_fwd {t : Tree} (hf : Fwd s0 s) : Fwd s0 (endRound s t) := by
  unfold endRound
  try dsimp only
  repeat'
    first
      | with_reducible exact hf | with_reducible apply State.onStp_fwd | with_reducible apply State.onStream_fwd
      | with_reducible apply dropUnits_fwd

theorem fetchSpill_fwd {id : Nat} {l : Nat} (hf : Fwd s0 s) : Fwd s0 (fetchSpill id s l) := by
  unfold fetchSpill
  try dsimp only
  repeat' first | with_reducible exact hf | with_reducible apply State.onFab_fwd | with_reducible apply fetchLine_fwd | split

theorem askSpill_fwd {x : Stream} {qs : List Nat} (hf : Fwd s0 s) : Fwd s0 (askSpill s x qs) := by
  unfold askSpill
  try dsimp only
  repeat'
    first
      | with_reducible exact hf | with_reducible assumption | with_reducible apply foldl_fwd
      | with_reducible apply State.onStream_fwd | with_reducible apply fetchSpill_fwd | intro _

theorem dropSpill_fwd {id : Nat} (hf : Fwd s0 s) : Fwd s0 (dropSpill s id) := by
  unfold dropSpill
  try dsimp only
  repeat' first | with_reducible exact hf | with_reducible apply State.onStream_fwd | with_reducible apply dropLines_fwd

theorem takeSpill_fwd {id : Nat} (hf : Fwd s0 s) : Fwd s0 (takeSpill s id) := by
  unfold takeSpill
  try dsimp only
  repeat' first | with_reducible exact hf | with_reducible apply State.onCry_fwd | with_reducible apply dropSpill_fwd | split

theorem countReads_fwd {r : Stepped} (hf : Fwd s0 s) : Fwd s0 (countReads s r) := by
  unfold countReads
  try dsimp only
  repeat' first | with_reducible exact hf | with_reducible apply State.onAut_fwd

theorem stepEvents_fwd {x : Stream} {n : Nat} {r : Stepped} {step : Nat} (hf : Fwd s0 s) : Fwd s0 (stepEvents s x n r step)
    := by
  unfold stepEvents
  try dsimp only
  repeat'
    first
      | with_reducible exact hf | with_reducible assumption | with_reducible apply foldl_fwd
      | with_reducible apply State.onAut_fwd | with_reducible apply State.onStream_fwd | with_reducible apply countReads_fwd
      | with_reducible apply raiseHome_fwd | split | intro _

theorem emitEnd_fwd {x : Stream} {step : Nat} (hf : Fwd s0 s) : Fwd s0 (emitEnd s x step) := by
  unfold emitEnd
  repeat' first | with_reducible exact hf | with_reducible apply emitToken_fwd

theorem markEnd_fwd {x : Stream} {reason step : Nat} (hf : Fwd s0 s) : Fwd s0 (markEnd s x reason step) := by
  unfold markEnd
  try dsimp only
  repeat' first | with_reducible exact hf | with_reducible apply State.onStream_fwd | with_reducible apply emitEnd_fwd | split

theorem endAtBoundary_fwd {x : Stream} {r : Nat} {t : State} (e : endAtBoundary s x r = some t) (h : Fwd s0 s) : Fwd s0 t := by
  unfold endAtBoundary at e
  dsimp only at e
  split at e
  · cases e; exact markEnd_fwd (publish_fwd h)
  · cases e

theorem freeStream_fwd {x : Stream} (hf : Fwd s0 s) : Fwd s0 (freeStream s x) := by
  unfold freeStream
  try dsimp only
  repeat'
    first
      | with_reducible exact hf | with_reducible apply State.dropStream_fwd | with_reducible apply State.onFin_fwd
      | with_reducible apply State.onStp_fwd | with_reducible apply dropAllUnits_fwd | with_reducible apply dropLines_fwd
      | with_reducible apply endRound_fwd | with_reducible apply releaseResv_fwd | with_reducible apply writeStream_fwd | split

theorem closeStream_fwd {x : Stream} {c : Cmd} {b : Bool} {t : State} (e : closeStream s x c b = some t) (h : Fwd s0 s) :
    Fwd s0 t := by
  unfold closeStream at e
  dsimp only at e
  split at e
  · cases e; exact complete_fwd (freeStream_fwd (publish_fwd h))
  · cases e

theorem setEpoch_fwd {x : Stream} {e ticket : Nat} (hf : Fwd s0 s) : Fwd s0 (setEpoch s x e ticket) := by
  unfold setEpoch
  try dsimp only
  repeat' first | with_reducible exact hf | with_reducible apply State.onStream_fwd | split

theorem takeEpoch_fwd {x : Stream} (hf : Fwd s0 s) : Fwd s0 (takeEpoch s x) := by
  unfold takeEpoch
  try dsimp only
  repeat' first | with_reducible exact hf | with_reducible apply State.onStream_fwd | split

theorem effectParams_fwd {x : Stream} {c : Cmd} {t : State} (e : effectParams s x c = .ok t) (h : Fwd s0 s) : Fwd s0 t := by
  unfold effectParams at e
  dsimp only at e
  split at e
  · cases e
  · cases e
    apply complete_fwd
    repeat' first | exact h | apply markEnd_fwd | apply State.onStream_fwd | apply publish_fwd | split

theorem programFaults_fwd {p stream tag ring prog : Nat} {fs : List Tok.Fault3} (hf : Fwd s0 s) : Fwd s0 (programFaults s p
    stream tag ring prog fs) := by
  unfold programFaults
  try dsimp only
  repeat'
    first
      | with_reducible exact hf | with_reducible assumption | with_reducible apply foldl_fwd
      | with_reducible apply State.onTurret_same_fwd | with_reducible apply raiseFrom_fwd | intro _ | rfl

theorem enterProgram_fwd {p : Nat} {q : Tok.Prog} (hf : Fwd s0 s) : Fwd s0 (enterProgram s p q) := by
  cases q with
  | rom n => exact hf
  | loaded q => exact State.onTurret_fwd hf fun t c => Turret.enters_canon c q

theorem programRan_fwd {p stream tag ring : Nat} {prog : Tok.Prog} {fs : List Tok.Fault3} {retired : Nat} (hf : Fwd s0 s) :
    Fwd s0 (programRan s p stream tag ring prog fs retired) := by
  unfold programRan
  try dsimp only
  repeat'
    first
      | with_reducible exact hf | with_reducible apply State.onTurret_same_fwd | with_reducible apply enterProgram_fwd
      | with_reducible apply programFaults_fwd | split | intro _ | rfl

theorem promptRan_fwd {x : Stream} {c : Cmd} {r : Prompted} (hf : Fwd s0 s) : Fwd s0 (promptRan s x c r) := by
  unfold promptRan
  repeat' first | with_reducible exact hf | with_reducible apply programRan_fwd

theorem countRevoked_fwd {x : Stream} {n : Nat} (hf : Fwd s0 s) : Fwd s0 (countRevoked s x n) := by
  unfold countRevoked
  try dsimp only
  repeat'
    first
      | with_reducible exact hf | with_reducible assumption | with_reducible apply State.onPkr_fwd
      | with_reducible apply State.onRng_fwd | with_reducible apply executing_fwd | split | intro _
      | exact List.mem_append_left _ ‹_›

theorem ringWait_fwd {x : Stream} (hf : Fwd s0 s) : Fwd s0 (ringWait s x) := by
  unfold ringWait
  try dsimp only
  repeat'
    first
      | with_reducible exact hf | with_reducible apply State.onPkr_fwd | with_reducible apply State.onStream_fwd
      | with_reducible apply raiseHome_fwd | split

theorem commitPrompt_fwd {x : Stream} {c : Cmd} {ts : List Nat} {n : Nat} {t : State} (e : commitPrompt s x c ts n = .ok t)
    (h : Fwd s0 s) : Fwd s0 t := by
  have k : Fwd s0 (if x.ckptDue then takeCkpt s x else s) := by
    split
    · exact takeCkpt_fwd h
    · exact h
  unfold commitPrompt at e
  extract_lets g r v at e
  split at e
  · cases e
  · split at e
    · cases e
    · split at e
      · cases e
      · split at e
        · cases e
        · cases e
          exact complete_fwd (dropJob_fwd (countRevoked_fwd (stage_fwd (State.onStream_fwd (stepEvents_fwd
            (takeSpill_fwd (publish_fwd k)))))))

theorem effectPrompt_fwd {x : Stream} {c : Cmd} {t : State} (e : effectPrompt s x c = .ok t) (h : Fwd s0 s) : Fwd s0 t := by
  unfold effectPrompt at e
  dsimp only at e
  repeat' split at e
  all_goals try cases e
  all_goals try exact reject_fwd h
  all_goals try exact reject_fwd (dropJob_fwd (promptRan_fwd h))
  revert e
  generalize w : commitPrompt s x c _ _ = q
  intro e
  cases q with
  | error => cases e
  | ok u => cases e; exact promptRan_fwd (commitPrompt_fwd w h)

theorem effectArm_fwd {x : Stream} {c : Cmd} (hf : Fwd s0 s) : Fwd s0 (effectArm s x c) := by
  unfold effectArm
  try dsimp only
  repeat'
    first
      | with_reducible exact hf | with_reducible apply State.onStream_fwd | with_reducible apply complete_fwd
      | with_reducible apply reject_fwd | split

theorem suspendStream_fwd {x : Stream} {cause : SuspCause} (hf : Fwd s0 s) : Fwd s0 (suspendStream s x cause) := by
  unfold suspendStream
  try dsimp only
  repeat'
    first
      | with_reducible exact hf | with_reducible apply State.onStream_fwd | with_reducible apply writeStream_fwd | split

theorem reached_fwd {c : Cmd} {id : Nat} (hf : Fwd s0 s) : Fwd s0 (reached s c id) := by
  unfold reached
  try dsimp only
  repeat'
    first
      | with_reducible exact hf | with_reducible apply complete_fwd | with_reducible apply dropWait_fwd
      | with_reducible apply revokeEnd_fwd | split

theorem leaveRecorded_fwd {x : Stream} (hf : Fwd s0 s) : Fwd s0 (leaveRecorded s x) := by
  unfold leaveRecorded
  try dsimp only
  repeat'
    first
      | with_reducible exact hf | with_reducible assumption | with_reducible apply foldl_fwd
      | with_reducible apply State.onCmd_fwd | with_reducible apply reached_fwd | split | intro _

theorem takeEffect_fwd {x : Stream} {c : Cmd} {t : State} (e : takeEffect s x c = .ok t) (h : Fwd s0 s) : Fwd s0 t := by
  unfold takeEffect at e
  dsimp only at e
  split at e
  · exact effectParams_fwd e h
  · exact effectPrompt_fwd e h
  · cases e; exact effectArm_fwd h
  · split at e
    · cases e; exact leaveRecorded_fwd (closeStream_fwd ‹_› h)
    · cases e
  · split at e <;> cases e
    · exact reached_fwd (setEpoch_fwd h)
    · exact complete_fwd (setEpoch_fwd h)
  · cases e; exact reached_fwd (setEpoch_fwd h)
  · cases e; exact takeCkpt_fwd (State.onStream_fwd h)
  · split at e <;> cases e
    · exact reached_fwd (suspendStream_fwd h)
    · exact complete_fwd (suspendStream_fwd h)
  · cases e

theorem beginHold_fwd {x : Stream} {c : Cmd} {w : Hold} (h : Fwd s0 s) : Fwd s0 (beginHold s x c w) := by
  unfold beginHold
  split
  · exact fetchBytes_fwd h
  · exact queueWait_fwd h
  · exact ringWait_fwd (reserve_fwd h)
  · split
    · exact takeCkpt_fwd h
    · exact h
  · exact askSpill_fwd h
  · exact postUnits_fwd (State.onJob_fwd (ungate_fwd h))
  · split
    · exact askArea_fwd h
    · exact h
  · split
    · exact h
    · exact State.onStp_fwd h
  · exact h

/-- A way to attach a DRAFT that keeps the relation. -/
def Attach.Keeps (d : Attach) : Prop := ∀ {s0 s : State} {x : Stream} {c : Cmd} {t : State}, d s x c = .ok t → Fwd s0 s → Fwd s0 t

theorem applySegment_fwd {d : Attach} (kd : d.Keeps) : ∀ {n : Nat} {s : State} {id : Nat} {b : Bool} {t : State},
    applySegment d n s id b = .ok t → Fwd s0 s → Fwd s0 t
  | 0, _, _, _, _, e, h => by cases e; exact h
  | n + 1, s, id, b, t, e, h => by
    unfold applySegment at e
    split at e
    · cases e; exact h
    · split at e
      · cases e; exact h
      · split at e
        · cases e; exact h
        · split at e
          · exact applySegment_fwd kd e (State.onStream_fwd h)
          · split at e
            · cases e; exact h
            · split at e
              · cases e
              · rename_i w
                refine applySegment_fwd kd e (State.onStream_fwd ?_)
                split at w
                · exact kd w h
                · exact takeEffect_fwd w h

theorem inTurn_fwd {x : Stream} (hf : Fwd s0 s) : Fwd s0 (inTurn s x) := by
  unfold inTurn
  try dsimp only
  repeat'
    first
      | with_reducible exact hf | with_reducible apply State.onQueue_fwd | with_reducible apply State.onStream_fwd | split

theorem outTurn_fwd {b : State} {x : Stream} (h : Fwd s0 s) : Fwd s0 (outTurn b s x) := by
  unfold outTurn
  split
  · exact State.onQueue_fwd h
  · exact h

theorem applyRecorded_fwd {d : Attach} (kd : d.Keeps) : ∀ {n : Nat} {s : State} {id : Nat}, Fwd s0 s → Fwd s0 (applyRecorded d n s id)
  | 0, _, _, h => h
  | n + 1, s, id, h => by
    unfold applyRecorded
    split
    · exact h
    · split
      · exact h
      · split
        · exact applyRecorded_fwd kd (outTurn_fwd (applySegment_fwd kd ‹_› (inTurn_fwd h)))
        · split
          · exact beginHold_fwd h
          · exact h

theorem failStep_fwd {x : Stream} (hf : Fwd s0 s) : Fwd s0 (failStep s x) := by
  unfold failStep
  try dsimp only
  repeat'
    first
      | with_reducible exact hf | with_reducible apply State.onStream_fwd | with_reducible apply dropAllUnits_fwd
      | with_reducible apply dropSpill_fwd | with_reducible apply emitToken_fwd

theorem waitSpace_fwd {x : Stream} {root : Bool} (hf : Fwd s0 s) : Fwd s0 (waitSpace s x root) := by
  unfold waitSpace
  try dsimp only
  repeat'
    first
      | with_reducible exact hf | with_reducible apply State.onCup_fwd | with_reducible apply State.onStream_fwd
      | with_reducible apply raiseHome_fwd | split

theorem fillEvents_fwd {x : Stream} {fs : List (CupKey × Stepped)} (hf : Fwd s0 s) : Fwd s0 (fillEvents s x fs) := by
  unfold fillEvents
  try dsimp only
  repeat'
    first
      | with_reducible exact hf | with_reducible assumption | with_reducible apply foldl_fwd | with_reducible apply askSpill_fwd
      | with_reducible apply countReads_fwd | with_reducible apply stepEvents_fwd | split | intro _

theorem lookService_fwd {x : Stream} {ks : List CupKey} (h : Fwd s0 s) : Fwd s0 (lookService s x ks).1 := by
  have k : Fwd s0 (fillEvents (lookupKeys (s.physOf x.home) ks s true).1 x (lookupKeys (s.physOf x.home) ks s true).2.2.2) :=
    fillEvents_fwd (lookupKeys_fwd h)
  unfold lookService
  dsimp only
  split
  · exact waitSpace_fwd k
  · exact State.onStream_fwd k

theorem formSets_fwd {x : Stream} (hf : Fwd s0 s) : Fwd s0 (formSets s x) := by
  unfold formSets
  try dsimp only
  repeat'
    first
      | with_reducible exact hf | with_reducible assumption | with_reducible apply foldl_fwd
      | with_reducible apply State.onTree_fwd | with_reducible apply State.onUnit_fwd | with_reducible apply askSpill_fwd
      | with_reducible apply countReads_fwd | split | intro _

theorem faultedStep_fwd {x : Stream} (hf : Fwd s0 s) : Fwd s0 (faultedStep s x) := by
  unfold faultedStep
  try dsimp only
  repeat'
    first
      | with_reducible exact hf | with_reducible apply State.onStream_fwd | with_reducible apply dropAllUnits_fwd
      | with_reducible apply dropSpill_fwd | with_reducible apply endRound_fwd | split

theorem beginBuild_fwd {x : Stream} (h : Fwd s0 s) : Fwd s0 (beginBuild s x) := by
  have k : ∀ {u : State}, Fwd s0 u → Fwd s0 (lookService ((formSets (ungate u (u.physOf x.home)) x).onStream x.id fun y =>
      { y with st := .running, svc := .build }) x
      (serviceKeys (formSets (ungate u (u.physOf x.home)) x) x)).1 := fun e => lookService_fwd (State.onStream_fwd (formSets_fwd (ungate_fwd e)))
  unfold beginBuild
  dsimp only
  split
  · exact faultedStep_fwd h
  · split
    · split
      · refine failStep_fwd ?_
        split
        · exact endRound_fwd h
        · exact h
      · exact k h
    · split
      · exact State.onStream_fwd h
      · exact k (openUnit_fwd h)

theorem resultControl_fwd {id : Nat} (hf : Fwd s0 s) : Fwd s0 (resultControl s id) := by
  unfold resultControl
  try dsimp only
  repeat' first | with_reducible exact hf | with_reducible apply State.onStream_fwd

theorem serve_fwd {id : Nat} (hf : Fwd s0 s) : Fwd s0 (serve s id) := by
  unfold serve
  try dsimp only
  repeat'
    first
      | with_reducible exact hf | with_reducible apply State.onStream_fwd | with_reducible apply beginBuild_fwd
      | with_reducible apply resultControl_fwd | with_reducible apply takeCkpt_fwd | with_reducible apply takeEpoch_fwd | split

theorem boundaryWith_fwd {d : Attach} (kd : d.Keeps) {id : Nat} (h : Fwd s0 s) : Fwd s0 (boundaryWith d s id) := by
  unfold boundaryWith
  dsimp only
  split
  · exact h
  · split
    · exact h
    · refine serve_fwd (applyRecorded_fwd kd ?_)
      split
      · refine State.onStream_fwd ?_
        split
        · exact h
        · exact suspendStream_fwd h
      · exact h

theorem boundary_fwd {id : Nat} (h : Fwd s0 s) : Fwd s0 (boundary s id) := boundaryWith_fwd (fun e _ => by cases e) h

theorem recordFor_fwd {c : Cmd} {id : Nat} (hf : Fwd s0 s) : Fwd s0 (recordFor s c id) := by
  unfold recordFor
  try dsimp only
  repeat'
    first
      | with_reducible exact hf | with_reducible apply State.onCmd_fwd | with_reducible apply State.onStream_fwd
      | with_reducible apply boundary_fwd | split

theorem freePages_fwd {x : Stream} {node : Nat} (hf : Fwd s0 s) : Fwd s0 (freePages s x node) := by
  unfold freePages
  try dsimp only
  repeat' first | with_reducible exact hf | with_reducible apply State.onStream_fwd | split

theorem failUnit_fwd {u : SelUnit} {reason : Nat} (hf : Fwd s0 s) : Fwd s0 (failUnit s u reason) := by
  unfold failUnit
  try dsimp only
  repeat'
    first
      | with_reducible exact hf | with_reducible apply State.onFin_fwd | with_reducible apply State.onUnit_fwd
      | with_reducible apply boundary_fwd | with_reducible apply endRound_fwd | with_reducible apply failStep_fwd
      | with_reducible apply freePages_fwd | with_reducible apply raiseBy_fwd | split

theorem failNamed_fwd {id step node reason : Nat} (hf : Fwd s0 s) : Fwd s0 (failNamed s id step node reason) := by
  unfold failNamed
  repeat' first | with_reducible exact hf | with_reducible apply failUnit_fwd | split

theorem duplicateEvents_fwd {u : SelUnit} (hf : Fwd s0 s) : Fwd s0 (duplicateEvents s u) := by
  unfold duplicateEvents
  try dsimp only
  repeat'
    first
      | with_reducible exact hf | with_reducible assumption | with_reducible apply foldl_fwd
      | with_reducible apply State.onFin_fwd | with_reducible apply raiseBy_fwd | intro _

theorem mirrorEvents_fwd {u : SelUnit} (hf : Fwd s0 s) : Fwd s0 (mirrorEvents s u) := by
  unfold mirrorEvents
  try dsimp only
  repeat'
    first
      | with_reducible exact hf | with_reducible assumption | with_reducible apply foldl_fwd
      | with_reducible apply State.onFin_fwd | with_reducible apply raiseBy_fwd | split | intro _

theorem openNext_fwd {x : Stream} (hf : Fwd s0 s) : Fwd s0 (openNext s x) := by
  unfold openNext
  repeat' first | with_reducible exact hf | with_reducible apply openUnit_fwd | split

theorem tryEnd_fwd {id : Nat} (hf : Fwd s0 s) : Fwd s0 (tryEnd s id) := by
  unfold tryEnd
  try dsimp only
  repeat'
    first
      | with_reducible exact hf | with_reducible apply State.onStream_fwd | with_reducible apply boundary_fwd
      | with_reducible refine endAtBoundary_fwd ‹_› ?_ | with_reducible apply queueWait_fwd | split

theorem endFor_fwd {x : Stream} {reason : Nat} (hf : Fwd s0 s) : Fwd s0 (endFor s x reason) := by
  unfold endFor
  try dsimp only
  repeat'
    first
      | with_reducible exact hf | with_reducible apply State.onStream_fwd | with_reducible apply dropUnits_fwd
      | with_reducible apply emitEnd_fwd | with_reducible apply tryEnd_fwd

theorem closeUnit_fwd {x : Stream} {u : SelUnit} (hf : Fwd s0 s) : Fwd s0 (closeUnit s x u) := by
  unfold closeUnit
  try dsimp only
  repeat'
    first
      | with_reducible exact hf | with_reducible apply State.onFin_fwd | with_reducible apply State.onStream_fwd
      | with_reducible apply State.onUnit_fwd | with_reducible apply duplicateEvents_fwd | with_reducible apply endFor_fwd
      | with_reducible apply failUnit_fwd | with_reducible apply freePages_fwd | with_reducible apply mirrorEvents_fwd
      | with_reducible apply openNext_fwd | with_reducible apply raiseBy_fwd | with_reducible apply unpin_fwd | split

theorem tryClose_fwd {id step node : Nat} (hf : Fwd s0 s) : Fwd s0 (tryClose s id step node) := by
  unfold tryClose
  repeat' first | with_reducible exact hf | with_reducible apply closeUnit_fwd | split

theorem portFault_fwd {port bit : Nat} {named : Option (Nat × Nat × Nat)} (hf : Fwd s0 s) : Fwd s0 (portFault s port bit
    named) := by
  unfold portFault
  try dsimp only
  repeat' first | with_reducible exact hf | with_reducible apply State.onPort_fwd | with_reducible apply raiseBy_fwd | split

theorem dropShard_fwd {port left : Nat} (hf : Fwd s0 s) : Fwd s0 (dropShard s port left) := by
  unfold dropShard
  try dsimp only
  repeat' first | with_reducible exact hf | with_reducible apply State.onPort_fwd

theorem acceptShard_fwd {port : Nat} {h : Header} {x : Stream} {u : SelUnit} (hf : Fwd s0 s) : Fwd s0 (acceptShard s port h
    x u) := by
  unfold acceptShard
  try dsimp only
  repeat'
    first
      | with_reducible exact hf | with_reducible apply State.onPort_fwd | with_reducible apply State.onUnit_fwd
      | with_reducible apply dropShard_fwd | with_reducible apply failUnit_fwd | with_reducible apply tryClose_fwd | split

theorem strayShard_fwd {port : Nat} {h : Header} (hf : Fwd s0 s) : Fwd s0 (strayShard s port h) := by
  unfold strayShard
  try dsimp only
  repeat'
    first
      | with_reducible exact hf | with_reducible apply State.onPort_fwd | with_reducible apply dropShard_fwd
      | with_reducible apply raiseBy_fwd

theorem placeHeader_fwd {port : Nat} {h : Header} (hf : Fwd s0 s) : Fwd s0 (placeHeader s port h) := by
  unfold placeHeader
  try dsimp only
  repeat'
    first
      | with_reducible exact hf | with_reducible apply State.onPort_fwd | with_reducible apply acceptShard_fwd
      | with_reducible apply dropShard_fwd | with_reducible apply failNamed_fwd | with_reducible apply failUnit_fwd
      | with_reducible apply openNext_fwd | with_reducible apply portFault_fwd | with_reducible apply strayShard_fwd | split

theorem shortFault_fwd {port : Nat} (hf : Fwd s0 s) : Fwd s0 (shortFault s port) := by
  unfold shortFault
  repeat'
    first
      | with_reducible exact hf | with_reducible apply dropShard_fwd | with_reducible apply failNamed_fwd
      | with_reducible apply portFault_fwd | split

theorem headerBeat_fwd {port : Nat} {b : List Byte} (hf : Fwd s0 s) : Fwd s0 (headerBeat s port b) := by
  unfold headerBeat
  try dsimp only
  repeat'
    first
      | with_reducible exact hf | with_reducible apply dropShard_fwd | with_reducible apply failNamed_fwd
      | with_reducible apply placeHeader_fwd | with_reducible apply portFault_fwd | with_reducible apply shortFault_fwd | split

theorem takeValues_fwd {port : Nat} {c : Nat × Nat × Nat} {vs : List Word} (hf : Fwd s0 s) : Fwd s0 (takeValues s port c
    vs) := by
  unfold takeValues
  try dsimp only
  repeat'
    first
      | with_reducible exact hf | with_reducible apply State.onPort_fwd | with_reducible apply State.onUnit_fwd
      | with_reducible apply tryClose_fwd | split

theorem dataBeat_fwd {port vcnt : Nat} {b : List Byte} (hf : Fwd s0 s) : Fwd s0 (dataBeat s port vcnt b) := by
  unfold dataBeat
  try dsimp only
  repeat'
    first
      | with_reducible exact hf | with_reducible apply State.onPort_fwd | with_reducible apply failNamed_fwd
      | with_reducible apply portFault_fwd | with_reducible apply takeValues_fwd | split

theorem attachTree_fwd {t : Tree} (hf : Fwd s0 s) : Fwd s0 (attachTree s t) := by
  unfold attachTree
  try dsimp only
  repeat'
    first
      | with_reducible exact hf | with_reducible assumption | with_reducible apply foldl_fwd
      | with_reducible apply State.onStp_fwd | with_reducible apply openUnit_fwd | split | intro _

theorem effectDraft_keeps : effectDraft.Keeps := by
  intro s0 s x c t e h
  unfold effectDraft at e
  dsimp only at e
  repeat' split at e
  all_goals try cases e
  all_goals try exact reject_fwd h
  exact complete_fwd (State.onStream_fwd (attachTree_fwd h))

theorem confirm_fwd {x : Stream} {r : Result} (hf : Fwd s0 s) : Fwd s0 (confirm s x r) := by
  unfold confirm
  try dsimp only
  repeat'
    first
      | with_reducible exact hf | with_reducible apply State.onStream_fwd | with_reducible apply State.onTree_fwd
      | with_reducible apply emitToken_fwd | with_reducible apply ungate_fwd

theorem walkOver_fwd {id : Nat} (hf : Fwd s0 s) : Fwd s0 (walkOver s id) := by
  unfold walkOver
  try dsimp only
  repeat'
    first
      | with_reducible exact hf | with_reducible apply State.onStream_fwd | with_reducible apply State.onTree_fwd
      | with_reducible apply endRound_fwd | with_reducible apply openNext_fwd | with_reducible apply tryEnd_fwd | split

theorem acceptChild_fwd {x : Stream} {t : Tree} {u : SelUnit} {n : Nat} (hf : Fwd s0 s) : Fwd s0 (acceptChild s x t u n) := by
  unfold acceptChild
  try dsimp only
  repeat'
    first
      | with_reducible exact hf | with_reducible apply State.onTree_fwd | with_reducible apply confirm_fwd
      | with_reducible apply walkOver_fwd | split

theorem confirmLast_fwd {x : Stream} {r : Result} (hf : Fwd s0 s) : Fwd s0 (confirmLast s x r) := by
  unfold confirmLast
  repeat' first | with_reducible exact hf | with_reducible apply confirm_fwd | with_reducible apply walkOver_fwd

theorem walkPosition_fwd {x : Stream} {t : Tree} {u : SelUnit} (hf : Fwd s0 s) : Fwd s0 (walkPosition s x t u) := by
  unfold walkPosition
  try dsimp only
  repeat'
    first
      | with_reducible exact hf | with_reducible apply State.onFin_fwd | with_reducible apply State.onStream_fwd
      | with_reducible apply acceptChild_fwd | with_reducible apply confirmLast_fwd | with_reducible apply emitEnd_fwd
      | with_reducible apply raiseBy_fwd | with_reducible apply walkOver_fwd | split

theorem stageMask_fwd {x : Stream} {p : Position} (hf : Fwd s0 s) : Fwd s0 (stageMask s x p) := by
  unfold stageMask
  try dsimp only
  repeat'
    first
      | with_reducible exact hf | with_reducible assumption | with_reducible apply foldl_fwd
      | with_reducible apply State.onPort_fwd | with_reducible apply State.onUnit_fwd | split | intro _

theorem stageNone_fwd {x : Stream} {node : Nat} (hf : Fwd s0 s) : Fwd s0 (stageNone s x node) := by
  unfold stageNone
  try dsimp only
  repeat' first | with_reducible exact hf | with_reducible apply State.onUnit_fwd

theorem privateEntries_fwd {x : Stream} : ∀ {ps : List Position} {s t : State}, privateEntries s x ps = .ok t → Fwd s0 s → Fwd s0 t
  | [], _, _, e, h => by
    unfold privateEntries at e
    cases e; exact h
  | p :: ps, s, t, e, h => by
    unfold privateEntries at e
    split at e
    · exact privateEntries_fwd e h
    · split at e
      · cases e
      · exact privateEntries_fwd e (privateEntry_fwd ‹_› h)

theorem raiseMask_fwd {x : Stream} (hf : Fwd s0 s) : Fwd s0 (raiseMask s x) := by
  unfold raiseMask
  try dsimp only
  repeat'
    first
      | with_reducible exact hf | with_reducible apply State.onFin_fwd | with_reducible apply State.onStream_fwd | split

theorem raiseService_fwd {x : Stream} {ps : List Position} (hf : Fwd s0 s) : Fwd s0 (raiseService s x ps) := by
  unfold raiseService
  try dsimp only
  repeat'
    first
      | with_reducible exact hf | with_reducible assumption | with_reducible apply foldl_fwd
      | with_reducible apply State.onStream_fwd | with_reducible apply pinKeys_fwd | with_reducible apply raiseMask_fwd
      | with_reducible apply stageMask_fwd | with_reducible apply tryClose_fwd | intro _

theorem reserveService_fwd {x : Stream} {ps : List Position} {live : Nat} (hf : Fwd s0 s) : Fwd s0 (reserveService s x ps
    live) := by
  unfold reserveService
  try dsimp only
  repeat'
    first
      | with_reducible exact hf | with_reducible assumption | with_reducible apply foldl_fwd
      | with_reducible apply State.onFin_fwd | with_reducible apply State.onStream_fwd | with_reducible apply countReads_fwd
      | with_reducible refine privateEntries_fwd ‹_› ?_ | with_reducible apply raiseService_fwd
      | with_reducible apply stepEvents_fwd | with_reducible apply takeSpill_fwd | with_reducible apply waitSpace_fwd | split
      | intro _

theorem stageService_fwd {x : Stream} {root : Built} (hf : Fwd s0 s) : Fwd s0 (stageService s x root) := by
  unfold stageService
  try dsimp only
  repeat'
    first
      | with_reducible exact hf | with_reducible assumption | with_reducible apply foldl_fwd
      | with_reducible apply State.onTree_fwd | with_reducible apply reserveService_fwd | with_reducible apply stageNone_fwd
      | intro _

theorem restAfter_fwd {x : Stream} (hf : Fwd s0 s) : Fwd s0 (restAfter s x) := by
  unfold restAfter
  try dsimp only
  repeat'
    first
      | with_reducible exact hf | with_reducible apply State.onStream_fwd | with_reducible apply boundary_fwd
      | with_reducible apply dropUnits_fwd | with_reducible apply takeSpill_fwd

theorem deadEnd_fwd {x : Stream} {b : Built} (hf : Fwd s0 s) : Fwd s0 (deadEnd s x b) := by
  unfold deadEnd
  try dsimp only
  repeat'
    first
      | with_reducible exact hf | with_reducible apply State.onAut_fwd | with_reducible apply State.onStream_fwd
      | with_reducible apply boundary_fwd | with_reducible apply dropUnits_fwd | with_reducible apply endFor_fwd
      | with_reducible apply endRound_fwd | with_reducible apply raiseHome_fwd | with_reducible apply restAfter_fwd
      | with_reducible apply stageService_fwd | with_reducible apply stepEvents_fwd | with_reducible apply takeSpill_fwd | split

theorem finishBuild_fwd {x : Stream} (hf : Fwd s0 s) : Fwd s0 (finishBuild s x) := by
  unfold finishBuild
  try dsimp only
  repeat'
    first
      | with_reducible exact hf | with_reducible apply askSpill_fwd | with_reducible apply deadEnd_fwd
      | with_reducible apply lookService_fwd | with_reducible apply restAfter_fwd | with_reducible apply stageService_fwd
      | with_reducible apply stepEvents_fwd | split

theorem takeSpace_fwd {x : Stream} (hf : Fwd s0 s) : Fwd s0 (takeSpace s x) := by
  unfold takeSpace
  try dsimp only
  repeat'
    first
      | with_reducible exact hf | with_reducible apply State.onStream_fwd | with_reducible apply lookService_fwd
      | with_reducible refine privateEntries_fwd ‹_› ?_ | split

theorem afterCommit_fwd {id : Nat} {rest : List Result} {reason : Nat} (hf : Fwd s0 s) : Fwd s0 (afterCommit s id rest
    reason) := by
  unfold afterCommit
  try dsimp only
  repeat'
    first
      | with_reducible exact hf | with_reducible apply State.onStp_fwd | with_reducible apply State.onStream_fwd
      | with_reducible apply dropAllUnits_fwd | with_reducible apply endRound_fwd | with_reducible apply markEnd_fwd
      | with_reducible apply resultControl_fwd | with_reducible apply tryEnd_fwd | split

theorem commitHeld_fwd {x : Stream} {r : Result} {rest : List Result} (hf : Fwd s0 s) : Fwd s0 (commitHeld s x r rest) := by
  unfold commitHeld
  try dsimp only
  repeat'
    first
      | with_reducible exact hf | with_reducible apply State.onStream_fwd | with_reducible apply afterCommit_fwd
      | with_reducible apply askSpill_fwd | with_reducible apply countRevoked_fwd | with_reducible apply publish_fwd
      | with_reducible apply queueWait_fwd | with_reducible apply reserve_fwd | with_reducible apply ringWait_fwd
      | with_reducible apply stage_fwd | with_reducible apply stepEvents_fwd | with_reducible apply takeCkpt_fwd
      | with_reducible apply takeSpill_fwd | split

theorem served_fwd {data : Word} (hf : Fwd s0 s) : Fwd s0 (served s data) := by
  unfold served
  try dsimp only
  repeat' first | with_reducible exact hf | exact hf.of_eq rfl rfl rfl rfl rfl rfl

theorem refusedAccess_fwd (hf : Fwd s0 s) : Fwd s0 (refusedAccess s) := by
  unfold refusedAccess
  try dsimp only
  repeat' first | with_reducible exact hf | exact hf.of_eq rfl rfl rfl rfl rfl rfl

theorem fabricWrite_fwd {f : State → State} (k : ∀ s, Fwd s0 s → Fwd s0 (f s)) (h : Fwd s0 s) : Fwd s0 (fabricWrite s f) := by
  unfold fabricWrite
  split
  · exact served_fwd (k _ h)
  · exact refusedAccess_fwd h

theorem entryError_fwd {n : Nat} (hf : Fwd s0 s) : Fwd s0 (entryError s n) := by
  unfold entryError
  try dsimp only
  repeat'
    first
      | with_reducible exact hf | with_reducible apply State.onRing_fwd | with_reducible apply dropLines_fwd
      | with_reducible apply raiseBy_fwd

theorem fetchEntry_fwd {n : Nat} (hf : Fwd s0 s) : Fwd s0 (fetchEntry s n) := by
  unfold fetchEntry
  try dsimp only
  repeat' first | with_reducible exact hf | with_reducible apply entryError_fwd | with_reducible apply fetchLine_fwd | split

theorem takeEntry_fwd {n : Nat} {line : List Byte} (hf : Fwd s0 s) : Fwd s0 (takeEntry s n line) := by
  unfold takeEntry
  try dsimp only
  repeat'
    first
      | with_reducible exact hf | with_reducible assumption | with_reducible apply State.onRing_fwd
      | with_reducible apply State.onRng_fwd | with_reducible apply dropLines_fwd | intro _ | exact List.mem_append_left _ ‹_›

theorem writeCtail_fwd {n : Nat} {v : Word} (hf : Fwd s0 s) : Fwd s0 (writeCtail s n v) := by
  unfold writeCtail
  try dsimp only
  repeat'
    first
      | with_reducible exact hf | with_reducible apply State.onRing_fwd | with_reducible apply fetchEntry_fwd
      | with_reducible apply raiseBy_fwd | split

theorem writeCctl_fwd {n : Nat} {v : Word} (hf : Fwd s0 s) : Fwd s0 (writeCctl s n v) := by
  unfold writeCctl
  try dsimp only
  repeat'
    first
      | with_reducible exact hf | with_reducible apply State.onRing_fwd | with_reducible apply dropLines_fwd
      | with_reducible apply fetchEntry_fwd | split

theorem writeQctl_fwd {m : Nat} {v : Word} (hf : Fwd s0 s) : Fwd s0 (writeQctl s m v) := by
  unfold writeQctl
  try dsimp only
  repeat' first | with_reducible exact hf | with_reducible apply State.onCq_fwd | split

theorem writeQhead_fwd {m : Nat} {v : Word} (hf : Fwd s0 s) : Fwd s0 (writeQhead s m v) := by
  unfold writeQhead
  try dsimp only
  repeat' first | with_reducible exact hf | with_reducible apply State.onCq_fwd

theorem turnAfter_fwd {n left : Nat} (hf : Fwd s0 s) : Fwd s0 (turnAfter s n left) := by
  unfold turnAfter
  try dsimp only
  repeat'
    first
      | with_reducible exact hf | with_reducible assumption | with_reducible apply State.onRng_fwd | split | intro _
      | exact List.mem_append_left _ ‹_›

theorem dispatchOne_fwd {c : Cmd} (hf : Fwd s0 s) : Fwd s0 (dispatchOne s c) := by
  unfold dispatchOne
  try dsimp only
  repeat'
    first
      | with_reducible exact hf | with_reducible assumption | with_reducible apply State.onCmd_fwd
      | with_reducible apply State.onRng_fwd | with_reducible apply reject_fwd | split | intro _
      | exact List.mem_append_left _ ‹_›

theorem runCmd_fwd {tk op : Nat} {f : State → Cmd → State} (k : ∀ c, Fwd s0 (f s c)) (h : Fwd s0 s) :
    Fwd s0 (runCmd s tk op f) := by
  unfold runCmd
  repeat' first | exact h | exact k _ | exact tryEnd_fwd h | split

theorem runFence_fwd {c : Cmd} (hf : Fwd s0 s) : Fwd s0 (runFence s c) := by
  unfold runFence
  try dsimp only
  repeat'
    first
      | with_reducible exact hf | with_reducible apply State.onCmd_fwd | with_reducible apply complete_fwd
      | with_reducible apply executing_fwd | with_reducible apply writeLines_fwd | split

theorem Cmd.stageAt_fwd {c : Cmd} {n : Nat} (hf : Fwd s0 s) : Fwd s0 (Cmd.stageAt s c n) := by
  unfold Cmd.stageAt
  try dsimp only
  repeat' first | with_reducible exact hf | with_reducible apply State.onCmd_fwd | with_reducible apply executing_fwd

theorem withBytes_fwd {c : Cmd} {a n : Nat} {e : State → State} {f : List Byte → State} (ke : Fwd s0 (e s))
    (kf : ∀ bs, Fwd s0 (f bs)) (h : Fwd s0 s) : Fwd s0 (withBytes s c a n e f) := by
  unfold withBytes
  split
  · exact awaitBytes_fwd h
  · exact ke
  · exact kf _

theorem loadOn_fwd {c : Cmd} {n : Nat} {e : State → State} {f g : State → Cmd → List Byte → State}
    (ke : ∀ s, Fwd s0 s → Fwd s0 (e s)) (kf : ∀ s c bs, Fwd s0 s → Fwd s0 (f s c bs))
    (kg : ∀ s c bs, Fwd s0 s → Fwd s0 (g s c bs)) (h : Fwd s0 s) : Fwd s0 (loadOn s c n e f g) := by
  unfold loadOn
  extract_lets t
  have k : Fwd s0 t := by
    dsimp only [t]
    split
    · exact withBytes_fwd (ke _ h) (fun _ => kf _ _ _ h) h
    · exact h
  split
  · exact k
  · split
    · exact k
    · exact withBytes_fwd (ke _ k) (fun _ => kg _ _ _ k) k

theorem vocFail_fwd {c : Cmd} {st : Status} (hf : Fwd s0 s) : Fwd s0 (vocFail s c st) := by
  unfold vocFail
  try dsimp only
  repeat' first | with_reducible exact hf | with_reducible apply State.onSlot_fwd | with_reducible apply reject_fwd

theorem vocHeader_fwd {c : Cmd} {h : List Byte} (hf : Fwd s0 s) : Fwd s0 (vocHeader s c h) := by
  unfold vocHeader
  try dsimp only
  repeat'
    first
      | with_reducible exact hf | with_reducible apply Cmd.stageAt_fwd | with_reducible apply State.onSlot_fwd
      | with_reducible apply vocFail_fwd | split

theorem vocFirst_fwd {c : Cmd} {h : List Byte} (hf : Fwd s0 s) : Fwd s0 (vocFirst s c h) := by
  unfold vocFirst
  try dsimp only
  repeat'
    first
      | with_reducible exact hf | with_reducible apply vocFail_fwd | with_reducible apply vocHeader_fwd
      | with_reducible apply withBytes_fwd | split | intro _ | dsimp only

theorem vocImage_fwd {c : Cmd} {img : List Byte} (hf : Fwd s0 s) : Fwd s0 (vocImage s c img) := by
  unfold vocImage
  try dsimp only
  repeat'
    first
      | with_reducible exact hf | with_reducible apply State.onSlot_fwd | with_reducible apply complete_fwd
      | with_reducible apply vocFail_fwd | split

theorem runLoadVocab_fwd {c : Cmd} (h : Fwd s0 s) : Fwd s0 (runLoadVocab s c) := by
  unfold runLoadVocab
  dsimp only
  have k : ∀ {t n}, Fwd s0 t → Fwd s0 (loadOn t c n (fun s => vocFail s c .fabricError) vocFirst vocImage) := fun ht =>
    loadOn_fwd (fun _ => vocFail_fwd) (fun _ _ _ => vocFirst_fwd) (fun _ _ _ => vocImage_fwd) ht
  repeat'
    first
      | with_reducible exact reject_fwd h | exact h
      | exact State.onSlot_fwd h | exact State.onAutomaton_fwd h | exact State.onAut_fwd h
      | exact State.onProgram_fwd h | exact State.onStop_fwd h | refine k ?_ | split

theorem runDropVocab_fwd {c : Cmd} (hf : Fwd s0 s) : Fwd s0 (runDropVocab s c) := by
  unfold runDropVocab
  try dsimp only
  repeat'
    first
      | with_reducible exact hf | with_reducible apply State.onSlot_fwd | with_reducible apply complete_fwd
      | with_reducible apply executing_fwd | with_reducible apply reject_fwd | split

theorem dropCupOf_fwd {n : Nat} (hf : Fwd s0 s) : Fwd s0 (dropCupOf s n) := by
  unfold dropCupOf
  try dsimp only
  repeat' first | with_reducible exact hf | with_reducible apply State.onCup_fwd | with_reducible apply takeOff_fwd

theorem autFail_fwd {c : Cmd} {st : Status} (hf : Fwd s0 s) : Fwd s0 (autFail s c st) := by
  unfold autFail
  repeat'
    first
      | with_reducible exact hf | with_reducible apply State.onAutomaton_fwd | with_reducible apply dropCupOf_fwd
      | with_reducible apply reject_fwd

theorem autReserve_fwd {c : Cmd} {h : List Byte} {tOn k : Nat} {spilled : Bool} (hf : Fwd s0 s) : Fwd s0 (autReserve s c h
    tOn k spilled) := by
  unfold autReserve
  try dsimp only
  repeat' first | with_reducible exact hf | with_reducible apply Cmd.stageAt_fwd | with_reducible apply State.onAutomaton_fwd

theorem autSpill_fwd {c : Cmd} {h : List Byte} (hf : Fwd s0 s) : Fwd s0 (autSpill s c h) := by
  unfold autSpill
  refine withBytes_fwd (autFail_fwd hf) (fun s0 => ?_) hf
  dsimp only
  repeat' first | with_reducible exact autFail_fwd hf | with_reducible exact autReserve_fwd hf | split

theorem autHeader_fwd {c : Cmd} {h : List Byte} (hf : Fwd s0 s) : Fwd s0 (autHeader s c h) := by
  unfold autHeader
  try dsimp only
  repeat'
    first
      | with_reducible exact hf | with_reducible apply autFail_fwd | with_reducible apply autReserve_fwd
      | with_reducible apply autSpill_fwd | split

theorem autLoaded_fwd {c : Cmd} (hf : Fwd s0 s) : Fwd s0 (autLoaded s c) := by
  unfold autLoaded
  try dsimp only
  repeat'
    first
      | with_reducible exact hf | with_reducible apply State.onAutomaton_fwd | with_reducible apply complete_fwd | split

theorem eagerOver_fwd {c : Cmd} (hf : Fwd s0 s) : Fwd s0 (eagerOver s c) := by
  unfold eagerOver
  try dsimp only
  repeat'
    first
      | with_reducible exact hf | with_reducible apply Cmd.stageAt_fwd | with_reducible apply State.onCup_fwd
      | with_reducible apply autLoaded_fwd | split

theorem eagerFill_fwd {c : Cmd} {k : CupKey} (h : Fwd s0 s) : Fwd s0 (eagerFill s c k) := by
  unfold eagerFill
  split
  · exact countReads_fwd (startFill_fwd ‹_› h)
  · exact State.onAut_fwd h

theorem eagerFills_fwd {c : Cmd} (hf : Fwd s0 s) : Fwd s0 (eagerFills s c) := by
  unfold eagerFills
  try dsimp only
  repeat'
    first
      | with_reducible exact hf | with_reducible assumption | with_reducible apply foldl_fwd
      | with_reducible apply eagerFill_fwd | with_reducible apply eagerOver_fwd | split | intro _

theorem writeSpill_fwd {c : Cmd} {key bs : List Byte} (hf : Fwd s0 s) : Fwd s0 (writeSpill s c key bs) := by
  unfold writeSpill
  try dsimp only
  repeat'
    first
      | with_reducible exact hf | with_reducible assumption | with_reducible apply foldl_fwd
      | with_reducible apply writeSecret_fwd | intro _

theorem autImage_fwd {c : Cmd} {img : List Byte} (hf : Fwd s0 s) : Fwd s0 (autImage s c img) := by
  unfold autImage
  try dsimp only
  repeat'
    first
      | with_reducible exact hf | with_reducible apply Cmd.stageAt_fwd | with_reducible apply State.onAutomaton_fwd
      | with_reducible apply autFail_fwd | with_reducible apply eagerFills_fwd | with_reducible apply writeSpill_fwd | split

theorem spillOver_fwd {c : Cmd} (hf : Fwd s0 s) : Fwd s0 (spillOver s c) := by
  unfold spillOver
  repeat' first | with_reducible exact hf | with_reducible apply autFail_fwd | with_reducible apply eagerFills_fwd | split

theorem runLoadAut_fwd {c : Cmd} (h : Fwd s0 s) : Fwd s0 (runLoadAut s c) := by
  unfold runLoadAut
  dsimp only
  have k : ∀ {t n}, Fwd s0 t → Fwd s0 (loadOn t c n (fun s => autFail s c .fabricError) autHeader autImage) := fun ht =>
    loadOn_fwd (fun _ => autFail_fwd) (fun _ _ _ => autHeader_fwd) (fun _ _ _ => autImage_fwd) ht
  repeat'
    first
      | with_reducible exact reject_fwd h | exact eagerOver_fwd h | exact spillOver_fwd h | exact h
      | exact State.onSlot_fwd h | exact State.onAutomaton_fwd h | exact State.onAut_fwd h
      | exact State.onProgram_fwd h | exact State.onStop_fwd h | refine k ?_ | split

theorem runDropAut_fwd {c : Cmd} (hf : Fwd s0 s) : Fwd s0 (runDropAut s c) := by
  unfold runDropAut
  try dsimp only
  repeat'
    first
      | with_reducible exact hf | with_reducible apply State.onAutomaton_fwd | with_reducible apply complete_fwd
      | with_reducible apply dropCupOf_fwd | with_reducible apply executing_fwd | with_reducible apply reject_fwd | split

theorem fillDone_fwd {k : CupKey} (hf : Fwd s0 s) : Fwd s0 (fillDone s k) := by
  unfold fillDone
  try dsimp only
  repeat'
    first
      | with_reducible exact hf | with_reducible apply State.onCup_fwd | with_reducible apply eagerOver_fwd
      | with_reducible apply repost_fwd | with_reducible apply takeOff_fwd | split

theorem State.onProgram_fwd {n : Nat} {f : Program → Program} (hf : Fwd s0 s) : Fwd s0 (State.onProgram s n f) := by
  unfold State.onProgram
  try dsimp only
  repeat' first | with_reducible exact hf | with_reducible apply State.onAut_fwd

theorem progFail_fwd {c : Cmd} {st : Status} (hf : Fwd s0 s) : Fwd s0 (progFail s c st) := by
  unfold progFail
  try dsimp only
  repeat'
    first
      | with_reducible exact hf | with_reducible apply State.onAut_fwd | with_reducible apply State.onProgram_fwd
      | with_reducible apply reject_fwd | split

theorem progHeader_fwd {c : Cmd} {h : List Byte} (hf : Fwd s0 s) : Fwd s0 (progHeader s c h) := by
  unfold progHeader
  try dsimp only
  repeat'
    first
      | with_reducible exact hf | with_reducible apply Cmd.stageAt_fwd | with_reducible apply State.onProgram_fwd
      | with_reducible apply progFail_fwd | split

theorem progImage_fwd {c : Cmd} {img : List Byte} (hf : Fwd s0 s) : Fwd s0 (progImage s c img) := by
  unfold progImage
  try dsimp only
  repeat'
    first
      | with_reducible exact hf | with_reducible apply Cmd.stageAt_fwd | with_reducible apply State.onProgram_fwd
      | with_reducible apply complete_fwd | with_reducible apply progFail_fwd | split

theorem progUnload_fwd {c : Cmd} (hf : Fwd s0 s) : Fwd s0 (progUnload s c) := by
  unfold progUnload
  try dsimp only
  repeat'
    first
      | with_reducible exact hf | with_reducible apply State.onAut_fwd | with_reducible apply State.onProgram_fwd
      | with_reducible apply complete_fwd | with_reducible apply executing_fwd | split

theorem runLoadProgram_fwd {c : Cmd} (h : Fwd s0 s) : Fwd s0 (runLoadProgram s c) := by
  unfold runLoadProgram
  dsimp only
  have k : ∀ {t n}, Fwd s0 t → Fwd s0 (loadOn t c n (fun s => progFail s c .fabricError) progHeader progImage) := fun ht =>
    loadOn_fwd (fun _ => progFail_fwd) (fun _ _ _ => progHeader_fwd) (fun _ _ _ => progImage_fwd) ht
  repeat'
    first
      | with_reducible exact reject_fwd h | exact progUnload_fwd h | exact h
      | exact State.onSlot_fwd h | exact State.onAutomaton_fwd h | exact State.onAut_fwd h
      | exact State.onProgram_fwd h | exact State.onStop_fwd h | refine k ?_ | split

theorem State.onStop_fwd {o n : Nat} {f : StopSet → StopSet} (hf : Fwd s0 s) : Fwd s0 (State.onStop s o n f) := by
  unfold State.onStop
  try dsimp only
  repeat' first | with_reducible exact hf | with_reducible apply State.onAut_fwd

theorem removeStop_fwd {o n : Nat} (hf : Fwd s0 s) : Fwd s0 (removeStop s o n) := by
  unfold removeStop
  try dsimp only
  repeat' first | with_reducible exact hf | with_reducible apply State.onAut_fwd

theorem stopFail_fwd {c : Cmd} {st : Status} (hf : Fwd s0 s) : Fwd s0 (stopFail s c st) := by
  unfold stopFail
  try dsimp only
  repeat'
    first
      | with_reducible exact hf | with_reducible apply State.onStop_fwd | with_reducible apply reject_fwd
      | with_reducible apply removeStop_fwd | split

theorem stopHeader_fwd {c : Cmd} {h : List Byte} (hf : Fwd s0 s) : Fwd s0 (stopHeader s c h) := by
  unfold stopHeader
  try dsimp only
  repeat'
    first
      | with_reducible exact hf | with_reducible apply Cmd.stageAt_fwd | with_reducible apply State.onStop_fwd
      | with_reducible apply stopFail_fwd | split

theorem stopImageRead_fwd {c : Cmd} {img : List Byte} (hf : Fwd s0 s) : Fwd s0 (stopImageRead s c img) := by
  unfold stopImageRead
  try dsimp only
  repeat'
    first
      | with_reducible exact hf | with_reducible apply Cmd.stageAt_fwd | with_reducible apply State.onStop_fwd
      | with_reducible apply complete_fwd | with_reducible apply stopFail_fwd | split

theorem stopUnload_fwd {c : Cmd} (hf : Fwd s0 s) : Fwd s0 (stopUnload s c) := by
  unfold stopUnload
  try dsimp only
  repeat'
    first
      | with_reducible exact hf | with_reducible apply State.onStop_fwd | with_reducible apply complete_fwd
      | with_reducible apply executing_fwd | with_reducible apply removeStop_fwd | split

theorem runLoadStop_fwd {c : Cmd} (h : Fwd s0 s) : Fwd s0 (runLoadStop s c) := by
  unfold runLoadStop
  dsimp only
  have k : ∀ {t n}, Fwd s0 t → Fwd s0 (loadOn t c n (fun s => stopFail s c .fabricError) stopHeader stopImageRead) := fun ht =>
    loadOn_fwd (fun _ => stopFail_fwd) (fun _ _ _ => stopHeader_fwd) (fun _ _ _ => stopImageRead_fwd) ht
  repeat'
    first
      | with_reducible exact reject_fwd h | exact stopUnload_fwd h | exact h
      | exact State.onSlot_fwd h | exact State.onAutomaton_fwd h | exact State.onAut_fwd h
      | exact State.onProgram_fwd h | exact State.onStop_fwd h | refine k ?_ | split

theorem runOpen_fwd {c : Cmd} (hf : Fwd s0 s) : Fwd s0 (runOpen s c) := by
  unfold runOpen
  try dsimp only
  repeat'
    first
      | with_reducible exact hf | with_reducible apply State.putStream_fwd | with_reducible apply boundary_fwd
      | with_reducible apply complete_fwd | with_reducible apply reject_fwd | split

theorem withStream_fwd {c : Cmd} {f : Stream → State} (k : ∀ x, Fwd s0 (f x)) (h : Fwd s0 s) : Fwd s0 (withStream s c f) := by
  unfold withStream
  repeat' first | with_reducible exact reject_fwd h | exact k _ | split

theorem recordWide_fwd {c : Cmd} {ids : List Nat} (hf : Fwd s0 s) : Fwd s0 (recordWide s c ids) := by
  unfold recordWide
  try dsimp only
  repeat'
    first
      | with_reducible exact hf | with_reducible assumption | with_reducible apply foldl_fwd
      | with_reducible apply State.onCmd_fwd | with_reducible apply complete_fwd | with_reducible apply recordFor_fwd | split
      | intro _

theorem runParams_fwd {c : Cmd} (hf : Fwd s0 s) : Fwd s0 (runParams s c) := by
  unfold runParams
  try dsimp only
  repeat'
    first
      | with_reducible exact hf | with_reducible apply awaitBytes_fwd | with_reducible apply recordFor_fwd
      | with_reducible apply reject_fwd | with_reducible apply withStream_fwd | split | intro _ | dsimp only

theorem runPrompt_fwd {c : Cmd} (hf : Fwd s0 s) : Fwd s0 (runPrompt s c) := by
  unfold runPrompt
  try dsimp only
  repeat'
    first
      | with_reducible exact hf | with_reducible apply fetchBytes_fwd | with_reducible apply recordFor_fwd
      | with_reducible apply withStream_fwd | intro _ | dsimp only

theorem runArm_fwd {c : Cmd} (hf : Fwd s0 s) : Fwd s0 (runArm s c) := by
  unfold runArm
  try dsimp only
  repeat'
    first
      | with_reducible exact hf | with_reducible apply recordFor_fwd | with_reducible apply withStream_fwd | intro _
      | dsimp only

theorem runDraft_fwd {c : Cmd} (hf : Fwd s0 s) : Fwd s0 (runDraft s c) := by
  unfold runDraft
  try dsimp only
  repeat'
    first
      | with_reducible exact hf | with_reducible apply fetchBytes_fwd | with_reducible apply recordFor_fwd
      | with_reducible apply withStream_fwd | intro _ | dsimp only

theorem abortRecorded_fwd {id t : Nat} (hf : Fwd s0 s) : Fwd s0 (abortRecorded s id t) := by
  unfold abortRecorded
  try dsimp only
  repeat'
    first
      | with_reducible exact hf | with_reducible apply State.onCmd_fwd | with_reducible apply dropJob_fwd
      | with_reducible apply reached_fwd | with_reducible apply reject_fwd | split

theorem haltStream_fwd {x : Stream} (hf : Fwd s0 s) : Fwd s0 (haltStream s x) := by
  unfold haltStream
  try dsimp only
  repeat'
    first
      | with_reducible exact hf | with_reducible assumption | with_reducible apply foldl_fwd
      | with_reducible apply State.onFin_fwd | with_reducible apply State.onStp_fwd | with_reducible apply State.onStream_fwd
      | with_reducible apply abortRecorded_fwd | with_reducible apply dropAllUnits_fwd | with_reducible apply dropSpill_fwd
      | with_reducible apply emitToken_fwd | with_reducible apply endRound_fwd | with_reducible apply releaseResv_fwd | split
      | intro _

theorem runClose_fwd {c : Cmd} (hf : Fwd s0 s) : Fwd s0 (runClose s c) := by
  unfold runClose
  try dsimp only
  repeat'
    first
      | with_reducible exact hf | with_reducible apply State.onStream_fwd | with_reducible apply haltStream_fwd
      | with_reducible apply recordFor_fwd | with_reducible apply withStream_fwd | split | intro _ | dsimp only

theorem runEpochSet_fwd {c : Cmd} (hf : Fwd s0 s) : Fwd s0 (runEpochSet s c) := by
  unfold runEpochSet
  try dsimp only
  repeat'
    first
      | with_reducible exact hf | with_reducible assumption | with_reducible apply foldl_fwd
      | with_reducible apply State.onOwner_fwd | with_reducible apply State.onStream_fwd | with_reducible apply recordFor_fwd
      | with_reducible apply recordWide_fwd | with_reducible apply reject_fwd | with_reducible apply withStream_fwd | split
      | intro _ | dsimp only

theorem markStaged_fwd {t o e : Nat} (hf : Fwd s0 s) : Fwd s0 (markStaged s t o e) := by
  unfold markStaged
  try dsimp only
  repeat'
    first
      | with_reducible exact hf | with_reducible assumption | with_reducible apply foldl_fwd
      | with_reducible apply State.onCmd_fwd | with_reducible apply State.onOwnRing_fwd | with_reducible apply State.onPkr_fwd
      | with_reducible apply writeRingLine_fwd | intro _

theorem markLine_fwd {t o e l : Nat} {key line : List Byte} (hf : Fwd s0 s) : Fwd s0 (markLine s t o e l key line) := by
  unfold markLine
  try dsimp only
  repeat' first | with_reducible exact hf | with_reducible apply State.onCry_fwd | with_reducible apply writeSecret_fwd | split

theorem markRing_fwd {c : Cmd} (hf : Fwd s0 s) : Fwd s0 (markRing s c) := by
  unfold markRing
  try dsimp only
  repeat'
    first
      | with_reducible exact hf | with_reducible assumption | with_reducible apply foldl_fwd
      | with_reducible apply State.onCmd_fwd | with_reducible apply fetchBytes_fwd | with_reducible apply markLine_fwd
      | with_reducible apply revokeEnd_fwd | split | intro _

theorem revokeBegin_fwd {c : Cmd} (hf : Fwd s0 s) : Fwd s0 (revokeBegin s c) := by
  unfold revokeBegin
  try dsimp only
  repeat'
    first
      | with_reducible exact hf | with_reducible assumption | with_reducible apply foldl_fwd
      | with_reducible apply State.onCmd_fwd | with_reducible apply State.onOwner_fwd | with_reducible apply State.onStream_fwd
      | with_reducible apply boundary_fwd | with_reducible apply executing_fwd | with_reducible apply markRing_fwd
      | with_reducible apply markStaged_fwd | split | intro _

theorem runRevoke_fwd {c : Cmd} (hf : Fwd s0 s) : Fwd s0 (runRevoke s c) := by
  unfold runRevoke
  try dsimp only
  repeat'
    first
      | with_reducible exact hf | with_reducible apply executing_fwd | with_reducible apply markRing_fwd
      | with_reducible apply reject_fwd | with_reducible apply revokeBegin_fwd | split

theorem recordCkpt_fwd {c : Cmd} {ids : List Nat} (hf : Fwd s0 s) : Fwd s0 (recordCkpt s c ids) := by
  unfold recordCkpt
  try dsimp only
  repeat'
    first
      | with_reducible exact hf | with_reducible assumption | with_reducible apply foldl_fwd
      | with_reducible apply State.onCmd_fwd | with_reducible apply complete_fwd | with_reducible apply recordFor_fwd
      | with_reducible apply reject_fwd | split | intro _

theorem runCheckpoint_fwd {c : Cmd} (hf : Fwd s0 s) : Fwd s0 (runCheckpoint s c) := by
  unfold runCheckpoint
  try dsimp only
  repeat'
    first
      | with_reducible exact hf | with_reducible apply recordCkpt_fwd | with_reducible apply withStream_fwd | split | intro _
      | dsimp only

theorem runSuspend_fwd {c : Cmd} (hf : Fwd s0 s) : Fwd s0 (runSuspend s c) := by
  unfold runSuspend
  try dsimp only
  repeat'
    first
      | with_reducible exact hf | with_reducible apply recordFor_fwd | with_reducible apply recordWide_fwd
      | with_reducible apply withStream_fwd | split | intro _ | dsimp only

theorem resumeStream_fwd {id : Nat} (hf : Fwd s0 s) : Fwd s0 (resumeStream s id) := by
  unfold resumeStream
  try dsimp only
  repeat' first | with_reducible exact hf | with_reducible apply State.onStream_fwd | with_reducible apply boundary_fwd | split

theorem runResume_fwd {c : Cmd} (hf : Fwd s0 s) : Fwd s0 (runResume s c) := by
  unfold runResume
  try dsimp only
  repeat'
    first
      | with_reducible exact hf | with_reducible assumption | with_reducible apply foldl_fwd | with_reducible apply complete_fwd
      | with_reducible apply reject_fwd | with_reducible apply resumeStream_fwd | with_reducible apply withStream_fwd | split
      | intro _ | dsimp only

theorem runReattach_fwd {c : Cmd} (hf : Fwd s0 s) : Fwd s0 (runReattach s c) := by
  unfold runReattach
  repeat'
    first
      | with_reducible exact hf | with_reducible apply State.onStream_fwd | with_reducible apply boundary_fwd
      | with_reducible apply complete_fwd | with_reducible apply reject_fwd | split

theorem runFlush_fwd {c : Cmd} (hf : Fwd s0 s) : Fwd s0 (runFlush s c) := by
  unfold runFlush
  try dsimp only
  repeat'
    first
      | with_reducible exact hf | with_reducible assumption | with_reducible apply foldl_fwd
      | with_reducible apply State.onQueue_fwd | with_reducible apply complete_fwd | with_reducible apply reject_fwd | split
      | intro _

theorem runSnapshot_fwd {c : Cmd} (hf : Fwd s0 s) : Fwd s0 (runSnapshot s c) := by
  unfold runSnapshot
  try dsimp only
  repeat' first | with_reducible exact hf | with_reducible apply State.onCmd_fwd | with_reducible apply State.onSnp_fwd | split

theorem runOwnerKey_fwd {c : Cmd} (hf : Fwd s0 s) : Fwd s0 (runOwnerKey s c) := by
  unfold runOwnerKey
  try dsimp only
  repeat'
    first
      | with_reducible exact hf | with_reducible apply State.onCry_fwd | with_reducible apply awaitBytes_fwd
      | with_reducible apply executing_fwd | with_reducible apply reject_fwd | split

theorem releaseItems_fwd {o : Nat} (hf : Fwd s0 s) : Fwd s0 (releaseItems s o) := by
  unfold releaseItems
  try dsimp only
  repeat'
    first
      | with_reducible exact hf | with_reducible assumption | with_reducible apply foldl_fwd
      | with_reducible apply State.onAut_fwd | with_reducible apply State.onAutomaton_fwd | with_reducible apply State.onEqs_fwd
      | with_reducible apply dropCupOf_fwd | with_reducible apply freeStream_fwd | with_reducible apply haltStream_fwd
      | with_reducible apply publish_fwd | split | intro _

theorem sawDuk_fwd {valid : Bool} (hf : Fwd s0 s) : Fwd s0 (sawDuk valid s) := by
  unfold sawDuk
  try dsimp only
  repeat' first | with_reducible exact hf | with_reducible apply State.onCry_fwd

theorem runJob_fwd {tk op : Nat} {f g : State → Cmd → State} (k : ∀ c, Fwd s0 (f s c)) (k' : ∀ c, Fwd s0 (g s c))
    (h : Fwd s0 s) : Fwd s0 (runJob s tk op f g) := by
  unfold runJob
  repeat' first | exact h | exact k _ | exact k' _ | split

theorem placeJob_fwd {c : Cmd} {input : Nat} {names : Job} (hf : Fwd s0 s) : Fwd s0 (placeJob s c input names) := by
  unfold placeJob
  try dsimp only
  repeat'
    first
      | with_reducible exact hf | with_reducible apply State.onCmd_fwd | with_reducible apply State.onJob_fwd
      | with_reducible apply ungate_fwd

theorem stageUnits_fwd {t : Nat} (hf : Fwd s0 s) : Fwd s0 (stageUnits s t) := by
  unfold stageUnits
  try dsimp only
  repeat'
    first
      | with_reducible exact hf | with_reducible assumption | with_reducible apply foldl_fwd
      | with_reducible apply State.onJobOf_fwd | split | intro _

theorem resumeUnit_fwd {t n : Nat} (hf : Fwd s0 s) : Fwd s0 (resumeUnit s t n) := by
  unfold resumeUnit
  try dsimp only
  repeat' first | with_reducible exact hf | with_reducible apply State.onJobOf_fwd | split

theorem writeUnit_fwd {j : Job} {u : JobUnit} (h : Fwd s0 s) : Fwd s0 (writeUnit s j u) := by
  have k : ∀ (l : List (Nat × List Byte)) (q : State × Nat), Fwd s0 q.1 →
      Fwd s0 (l.foldl (fun (a : State × Nat) (p : Nat × List Byte) =>
        (writeBytes a.1 (.jobLine j.ticket p.1) a.2 p.2, a.2 + p.2.length)) q).1 := by
    intro l
    induction l with
    | nil => exact fun _ h => h
    | cons p r ih => exact fun q h => ih _ (writeBytes_fwd h)
  unfold writeUnit
  exact jobEnd_fwd (postUnits_fwd (stageUnits_fwd (takeOff_fwd (State.onJobOf_fwd (State.onCup_fwd (k _ _ h))))))

theorem unitOutput_fwd {t : Nat} (hf : Fwd s0 s) : Fwd s0 (unitOutput s t) := by
  unfold unitOutput
  try dsimp only
  repeat' first | with_reducible exact hf | with_reducible apply askArea_fwd | with_reducible apply writeUnit_fwd | split

theorem jobReady_fwd {t : Nat} {f : Job → Job} (hf : Fwd s0 s) : Fwd s0 (jobReady s t f) := by
  unfold jobReady
  try dsimp only
  repeat'
    first
      | with_reducible exact hf | with_reducible apply State.onJobOf_fwd | with_reducible apply jobEnd_fwd
      | with_reducible apply postUnits_fwd | with_reducible apply stageUnits_fwd

theorem fetchSegs_fwd {who : Req} {xs : List (Nat × Nat)} (hf : Fwd s0 s) : Fwd s0 (fetchSegs s who xs) := by
  unfold fetchSegs
  try dsimp only
  repeat'
    first
      | with_reducible exact hf | with_reducible assumption | with_reducible apply foldl_fwd
      | with_reducible apply fetchBytes_fwd | intro _

theorem tokenizeRead_fwd {c : Cmd} (hf : Fwd s0 s) : Fwd s0 (tokenizeRead s c) := by
  unfold tokenizeRead
  try dsimp only
  repeat'
    first
      | with_reducible exact hf | with_reducible apply dropJob_fwd | with_reducible apply enterProgram_fwd
      | with_reducible apply fetchSegs_fwd | with_reducible apply jobReady_fwd | with_reducible apply programRan_fwd
      | with_reducible apply reject_fwd | split

theorem tokenizeStart_fwd {c : Cmd} (hf : Fwd s0 s) : Fwd s0 (tokenizeStart s c) := by
  unfold tokenizeStart
  try dsimp only
  repeat'
    first
      | with_reducible exact hf | with_reducible apply awaitBytes_fwd | with_reducible apply complete_fwd
      | with_reducible apply placeJob_fwd | with_reducible apply reject_fwd | with_reducible apply tokenizeRead_fwd | split

theorem detokRead_fwd {c : Cmd} (hf : Fwd s0 s) : Fwd s0 (detokRead s c) := by
  unfold detokRead
  try dsimp only
  repeat'
    first
      | with_reducible exact hf | with_reducible apply dropJob_fwd | with_reducible apply fetchBytes_fwd
      | with_reducible apply jobReady_fwd | with_reducible apply reject_fwd | split

theorem detokStart_fwd {c : Cmd} (hf : Fwd s0 s) : Fwd s0 (detokStart s c) := by
  unfold detokStart
  repeat'
    first
      | with_reducible exact hf | with_reducible apply complete_fwd | with_reducible apply detokRead_fwd
      | with_reducible apply placeJob_fwd | with_reducible apply reject_fwd | split

theorem countDecrypted_fwd {c : Cmd} (hf : Fwd s0 s) : Fwd s0 (countDecrypted s c) := by
  unfold countDecrypted
  try dsimp only
  repeat' first | with_reducible exact hf | with_reducible apply State.onCry_fwd

theorem runReplay_fwd {c : Cmd} (hf : Fwd s0 s) : Fwd s0 (runReplay s c) := by
  unfold runReplay
  try dsimp only
  repeat'
    first
      | with_reducible exact hf | with_reducible apply awaitBytes_fwd | with_reducible apply countDecrypted_fwd
      | with_reducible apply dropJob_fwd | with_reducible apply fetchBytes_fwd | with_reducible apply jobReady_fwd
      | with_reducible apply placeJob_fwd | with_reducible apply reject_fwd | split

theorem writePack_fwd {c : Cmd} {d : PackDesc} {recs : List (List (List Byte))} (hf : Fwd s0 s) : Fwd s0 (writePack s c d
    recs) := by
  unfold writePack
  try dsimp only
  repeat'
    first
      | with_reducible exact hf | with_reducible assumption | with_reducible apply foldl_fwd
      | with_reducible apply State.onCmd_fwd | with_reducible apply State.onJob_fwd | with_reducible apply writeBytes_fwd
      | intro _

theorem packFail_fwd {c : Cmd} {st : Status} {seq : Nat} (hf : Fwd s0 s) : Fwd s0 (packFail s c st seq) := by
  unfold packFail
  repeat' first | with_reducible exact hf | with_reducible apply complete_fwd

theorem runPack_fwd {c : Cmd} (hf : Fwd s0 s) : Fwd s0 (runPack s c) := by
  unfold runPack
  try dsimp only
  repeat'
    first
      | with_reducible exact hf | with_reducible apply awaitBytes_fwd | with_reducible apply countDecrypted_fwd
      | with_reducible apply packFail_fwd | with_reducible apply writePack_fwd | split

theorem deliver_fwd {r : FabReq} {line : Option (List Byte)} (hf : Fwd s0 s) : Fwd s0 (deliver s r line) := by
  unfold deliver
  try dsimp only
  repeat' first | with_reducible exact hf | with_reducible apply State.onFab_fwd | with_reducible apply entryError_fwd | split

theorem unknownTag_fwd {port : Nat} (hf : Fwd s0 s) : Fwd s0 (unknownTag s port) := by
  unfold unknownTag
  repeat' first | with_reducible exact hf | with_reducible apply raiseBy_fwd

theorem fetchReturn_fwd {port tag : Nat} {err : Bool} {line : List Byte} (hf : Fwd s0 s) : Fwd s0 (fetchReturn s port tag
    err line) := by
  unfold fetchReturn
  try dsimp only
  repeat'
    first
      | with_reducible exact hf | with_reducible apply State.onFab_fwd | with_reducible apply deliver_fwd
      | with_reducible apply unknownTag_fwd | split

theorem storeAck_fwd {port tag : Nat} {err : Bool} (hf : Fwd s0 s) : Fwd s0 (storeAck s port tag err) := by
  unfold storeAck
  try dsimp only
  repeat'
    first
      | with_reducible exact hf | with_reducible apply State.onFab_fwd | with_reducible apply ackEffect_fwd
      | with_reducible apply unknownTag_fwd | split

theorem portErrors_fwd {port : Nat} (hf : Fwd s0 s) : Fwd s0 (portErrors s port) := by
  unfold portErrors
  try dsimp only
  repeat'
    first
      | with_reducible exact hf | with_reducible assumption | with_reducible apply foldl_fwd
      | with_reducible apply State.onFab_fwd | with_reducible apply ackEffect_fwd | with_reducible apply deliver_fwd | intro _

theorem answerAll_fwd (hf : Fwd s0 s) : Fwd s0 (answerAll s) := by
  unfold answerAll
  repeat'
    first
      | with_reducible exact hf | with_reducible assumption | with_reducible apply foldl_fwd
      | with_reducible apply portErrors_fwd | intro _

theorem drainError_fwd {port tag : Nat} (hf : Fwd s0 s) : Fwd s0 (drainError s port tag) := by
  unfold drainError
  try dsimp only
  repeat' first | with_reducible exact hf | with_reducible apply State.onEqs_fwd | with_reducible apply State.onFab_fwd

theorem drainRead_fwd {port ofs tag : Nat} (hf : Fwd s0 s) : Fwd s0 (drainRead s port ofs tag) := by
  unfold drainRead
  try dsimp only
  repeat'
    first
      | with_reducible exact hf | with_reducible apply State.onEqs_fwd | with_reducible apply State.onFab_fwd
      | with_reducible apply State.onQueue_fwd | with_reducible apply drainError_fwd | split

theorem eqDataRead_fwd {q : Nat} (hf : Fwd s0 s) : Fwd s0 (eqDataRead s q) := by
  unfold eqDataRead
  try dsimp only
  repeat'
    first
      | with_reducible exact hf | with_reducible apply State.onEqs_fwd | with_reducible apply State.onQueue_fwd
      | with_reducible apply refusedAccess_fwd | with_reducible apply served_fwd | split

theorem markerReturn_fwd (hf : Fwd s0 s) : Fwd s0 (markerReturn s) := by
  unfold markerReturn
  try dsimp only
  repeat'
    first
      | with_reducible exact hf | with_reducible apply State.onSnp_fwd | with_reducible apply completeTicket_fwd | split

theorem moveHomes_fwd {n : Nat} (hf : Fwd s0 s) : Fwd s0 (moveHomes s n) := by
  unfold moveHomes
  try dsimp only
  repeat'
    first
      | with_reducible exact hf | with_reducible assumption | with_reducible apply foldl_fwd
      | with_reducible apply State.onStream_fwd | split | intro _

theorem unpost_fwd {us : List UnitRef} (hf : Fwd s0 s) : Fwd s0 (unpost s us) := by
  unfold unpost
  try dsimp only
  repeat'
    first
      | with_reducible exact hf | with_reducible assumption | with_reducible apply foldl_fwd
      | with_reducible apply State.onCup_fwd | with_reducible apply State.onJobOf_fwd | split | intro _

theorem discardUnit_fwd {u : UnitRef} (hf : Fwd s0 s) : Fwd s0 (discardUnit s u) := by
  unfold discardUnit
  try dsimp only
  repeat' first | with_reducible exact hf | with_reducible apply State.onJobOf_fwd | split

theorem passWork_fwd {p q : Nat} (hf : Fwd s0 s) : Fwd s0 (passWork s p q) := by
  unfold passWork
  try dsimp only
  repeat'
    first
      | with_reducible exact hf | with_reducible assumption | with_reducible apply foldl_fwd
      | with_reducible apply State.onCup_fwd | with_reducible apply State.onJob_fwd
      | with_reducible apply State.onTurret_same_fwd | with_reducible apply discardUnit_fwd | with_reducible apply dropJob_fwd
      | with_reducible apply stageUnits_fwd | with_reducible apply unpost_fwd | split | intro _ | rfl

theorem astepEvents_fwd {p a : Nat} {e : KEnv} {c : Core} (hf : Fwd s0 s) : Fwd s0 (astepEvents p a e c s) := by
  unfold astepEvents
  try dsimp only
  repeat' first | with_reducible exact hf | with_reducible apply countReads_fwd | with_reducible apply stepEvents_fwd | split

theorem bitCupola_fwd {set : Bool} {a b : Nat} {c : Core} (hf : Fwd s0 s) : Fwd s0 (bitCupola set a b c s) := by
  unfold bitCupola
  try dsimp only
  repeat' first | with_reducible exact hf | with_reducible apply State.onCup_fwd | split

theorem gateIdle_fwd {p : Nat} (hf : Fwd s0 s) : Fwd s0 (gateIdle s p) := by
  unfold gateIdle
  try dsimp only
  repeat' first | with_reducible exact hf | with_reducible apply State.onTurret_same_fwd | split | intro _ | rfl

theorem loseStream_fwd {x : Stream} {detail : Nat} (hf : Fwd s0 s) : Fwd s0 (loseStream s x detail) := by
  unfold loseStream
  try dsimp only
  repeat'
    first
      | with_reducible exact hf | with_reducible assumption | with_reducible apply foldl_fwd
      | with_reducible apply State.onCmd_fwd | with_reducible apply State.onCtx_fwd | with_reducible apply State.onStp_fwd
      | with_reducible apply State.onStream_fwd | with_reducible apply dropAllUnits_fwd | with_reducible apply dropLines_fwd
      | with_reducible apply dropSpill_fwd | with_reducible apply endRound_fwd | with_reducible apply raiseBy_fwd
      | with_reducible apply reached_fwd | with_reducible apply reject_fwd | with_reducible apply releaseResv_fwd
      | with_reducible apply tryEnd_fwd | split | intro _

theorem faultItem_fwd {kind id owner : Nat} (hf : Fwd s0 s) : Fwd s0 (faultItem s kind id owner) := by
  unfold faultItem
  try dsimp only
  repeat'
    first
      | with_reducible exact hf | with_reducible apply State.onAutomaton_fwd | with_reducible apply State.onProgram_fwd
      | with_reducible apply State.onSlot_fwd | with_reducible apply State.onStop_fwd | split

theorem failJobs_fwd {kind id owner : Nat} (hf : Fwd s0 s) : Fwd s0 (failJobs s kind id owner) := by
  unfold failJobs
  try dsimp only
  repeat'
    first
      | with_reducible exact hf | with_reducible assumption | with_reducible apply foldl_fwd
      | with_reducible apply State.onJobOf_fwd | with_reducible apply jobEnd_fwd | intro _

theorem writeCstat_fwd {n : Nat} {v : Word} (hf : Fwd s0 s) : Fwd s0 (writeCstat s n v) := by
  unfold writeCstat
  try dsimp only
  repeat' first | with_reducible exact hf | with_reducible apply State.onRing_fwd

theorem writeCbase_fwd {n : Nat} {high : Bool} {v : Word} (hf : Fwd s0 s) : Fwd s0 (writeCbase s n high v) := by
  unfold writeCbase
  try dsimp only
  repeat' first | with_reducible exact hf | with_reducible apply State.onRing_fwd | split

theorem writeQbase_fwd {m : Nat} {high : Bool} {v : Word} (hf : Fwd s0 s) : Fwd s0 (writeQbase s m high v) := by
  unfold writeQbase
  try dsimp only
  repeat' first | with_reducible exact hf | with_reducible apply State.onCq_fwd | split

theorem ringRegWrite_fwd {o : Nat} {v : Word} (hf : Fwd s0 s) : Fwd s0 (ringRegWrite s o v) := by
  unfold ringRegWrite
  try dsimp only
  repeat'
    first
      | with_reducible exact hf | with_reducible apply writeCbase_fwd | with_reducible apply writeCctl_fwd
      | with_reducible apply writeCstat_fwd | with_reducible apply writeCtail_fwd | with_reducible apply writeQbase_fwd
      | with_reducible apply writeQctl_fwd | with_reducible apply writeQhead_fwd | split

theorem selRegWrite_fwd {p k : Nat} {v : Word} (hf : Fwd s0 s) : Fwd s0 (selRegWrite s p k v) := by
  unfold selRegWrite
  try dsimp only
  repeat' first | with_reducible exact hf | with_reducible apply State.onPort_fwd | split

theorem finRegWrite_fwd {o : Nat} {v : Word} (hf : Fwd s0 s) : Fwd s0 (finRegWrite s o v) := by
  unfold finRegWrite
  try dsimp only
  repeat' first | with_reducible exact hf | with_reducible apply State.onFin_fwd | split

theorem writeQuery_fwd {v : Word} (hf : Fwd s0 s) : Fwd s0 (writeQuery s v) := by
  unfold writeQuery
  try dsimp only
  repeat' first | with_reducible exact hf | with_reducible apply State.onCtx_fwd

theorem writeEnum_fwd {v : Word} (hf : Fwd s0 s) : Fwd s0 (writeEnum s v) := by
  unfold writeEnum
  try dsimp only
  repeat' first | with_reducible exact hf | with_reducible apply State.onCtx_fwd | with_reducible apply writeBytes_fwd | split

theorem enumOver_fwd (hf : Fwd s0 s) : Fwd s0 (enumOver s) := by
  unfold enumOver
  try dsimp only
  repeat' first | with_reducible exact hf | with_reducible apply State.onCtx_fwd | split

theorem ctxRegWrite_fwd {o : Nat} {v : Word} (hf : Fwd s0 s) : Fwd s0 (ctxRegWrite s o v) := by
  unfold ctxRegWrite
  try dsimp only
  repeat'
    first
      | with_reducible exact hf | with_reducible apply State.onCtx_fwd | with_reducible apply writeEnum_fwd
      | with_reducible apply writeQuery_fwd | split

theorem writeRecHead_fwd {v : Word} (hf : Fwd s0 s) : Fwd s0 (writeRecHead s v) := by
  unfold writeRecHead
  try dsimp only
  repeat' first | with_reducible exact hf | with_reducible apply State.onOwnPkr_fwd | split

theorem writeArea_fwd {i : Nat} {v : Word} (hf : Fwd s0 s) : Fwd s0 (writeArea s i v) := by
  unfold writeArea
  try dsimp only
  repeat' first | with_reducible exact hf | with_reducible apply State.onOwnPkr_fwd | split

theorem pkrRegWrite_fwd {o : Nat} {v : Word} (hf : Fwd s0 s) : Fwd s0 (pkrRegWrite s o v) := by
  unfold pkrRegWrite
  try dsimp only
  repeat'
    first
      | with_reducible exact hf | with_reducible apply State.onPkr_fwd | with_reducible apply writeArea_fwd
      | with_reducible apply writeRecHead_fwd | split

theorem writeEqCtl_fwd {n : Nat} {v : Word} (hf : Fwd s0 s) : Fwd s0 (writeEqCtl s n v) := by
  unfold writeEqCtl
  try dsimp only
  repeat' first | with_reducible exact hf | with_reducible apply State.onQueue_fwd | split

theorem eqRegWrite_fwd {o : Nat} {v : Word} (hf : Fwd s0 s) : Fwd s0 (eqRegWrite s o v) := by
  unfold eqRegWrite
  try dsimp only
  repeat' first | with_reducible exact hf | with_reducible apply State.onQueue_fwd | with_reducible apply writeEqCtl_fwd | split

theorem belRegWrite_fwd {o : Nat} {v : Word} (hf : Fwd s0 s) : Fwd s0 (belRegWrite s o v) := by
  unfold belRegWrite
  try dsimp only
  repeat' first | with_reducible exact hf | with_reducible apply State.onBel_fwd | split

theorem clearSel_fwd {p k : Nat} (hf : Fwd s0 s) : Fwd s0 (clearSel s p k) := by
  unfold clearSel
  try dsimp only
  repeat' first | with_reducible exact hf | with_reducible apply State.onPort_fwd | split

theorem clearFin_fwd {o : Nat} (hf : Fwd s0 s) : Fwd s0 (clearFin s o) := by
  unfold clearFin
  try dsimp only
  repeat' first | with_reducible exact hf | with_reducible apply State.onFin_fwd | split

theorem clearStp_fwd {o : Nat} (hf : Fwd s0 s) : Fwd s0 (clearStp s o) := by
  unfold clearStp
  try dsimp only
  repeat' first | with_reducible exact hf | with_reducible apply State.onStp_fwd | split

theorem clearCtx_fwd {o : Nat} (hf : Fwd s0 s) : Fwd s0 (clearCtx s o) := by
  unfold clearCtx
  try dsimp only
  repeat' first | with_reducible exact hf | with_reducible apply State.onCtx_fwd | split

theorem clearPkr_fwd {o : Nat} (hf : Fwd s0 s) : Fwd s0 (clearPkr s o) := by
  unfold clearPkr
  try dsimp only
  repeat'
    first
      | with_reducible exact hf | with_reducible apply State.onOwnPkr_fwd | with_reducible apply State.onPkr_fwd | split

theorem clearEqs_fwd {o : Nat} (hf : Fwd s0 s) : Fwd s0 (clearEqs s o) := by
  unfold clearEqs
  try dsimp only
  repeat'
    first
      | with_reducible exact hf | with_reducible apply State.onEqs_fwd | with_reducible apply State.onQueue_fwd | split

theorem clearCry_fwd {o : Nat} (hf : Fwd s0 s) : Fwd s0 (clearCry s o) := by
  unfold clearCry
  try dsimp only
  repeat' first | with_reducible exact hf | with_reducible apply State.onCry_fwd | split

theorem clearBel_fwd {o : Nat} (hf : Fwd s0 s) : Fwd s0 (clearBel s o) := by
  unfold clearBel
  try dsimp only
  repeat' first | with_reducible exact hf | with_reducible apply State.onBel_fwd | split

theorem logDataRead_fwd {w : Nat} (hf : Fwd s0 s) : Fwd s0 (logDataRead s w) := by
  unfold logDataRead
  try dsimp only
  repeat'
    first
      | with_reducible exact hf | with_reducible apply State.onBel_fwd | with_reducible apply refusedAccess_fwd
      | with_reducible apply served_fwd | split

theorem atPort_fwd {p : Nat} {f : State → State} (k : ∀ s, Fwd s0 s → Fwd s0 (f s)) (h : Fwd s0 s) : Fwd s0 (atPort s p f) := by
  unfold atPort
  repeat' first | exact h | exact k _ h | exact State.onPort_fwd h | split

theorem peerTimeout_fwd {x : Stream} {u : SelUnit} (hf : Fwd s0 s) : Fwd s0 (peerTimeout s x u) := by
  unfold peerTimeout
  try dsimp only
  repeat' first | with_reducible exact hf | with_reducible apply raiseBy_fwd | split

theorem suspendWork_fwd {n : Nat} (hf : Fwd s0 s) : Fwd s0 (suspendWork s n) := by
  refine State.onTurret_fwd (ungate_fwd hf) fun t c => ?_
  split
  · split
    · exact c
    · exact (Turret.suspends_canon c _).of_eq rfl rfl
  · exact c

theorem emitResult_fwd {x : Stream} {u : SelUnit} {r : Result} (hf : Fwd s0 s) : Fwd s0 (emitResult s x u r) := by
  unfold emitResult
  try dsimp only
  repeat'
    first
      | with_reducible exact hf | with_reducible apply State.onStream_fwd | with_reducible apply dropUnits_fwd
      | with_reducible apply emitToken_fwd | with_reducible apply suspendWork_fwd

theorem sendNotices_fwd {u : SelUnit} {r : Result} (hf : Fwd s0 s) : Fwd s0 (sendNotices s u r) := by
  unfold sendNotices
  try dsimp only
  repeat' first | with_reducible exact hf | with_reducible apply State.onFin_fwd

theorem peerFault_fwd {source : Nat} (hf : Fwd s0 s) : Fwd s0 (peerFault s source) := by
  unfold peerFault
  repeat' first | with_reducible exact hf | with_reducible apply raiseBy_fwd

theorem takeNotice_fwd {m : List Byte} (hf : Fwd s0 s) : Fwd s0 (takeNotice s m) := by
  unfold takeNotice
  try dsimp only
  repeat' first | with_reducible exact hf | with_reducible apply emitResult_fwd | split

theorem takeList_fwd {source : Nat} {m : List Byte} (hf : Fwd s0 s) : Fwd s0 (takeList s source m) := by
  unfold takeList
  try dsimp only
  repeat'
    first
      | with_reducible exact hf | with_reducible apply State.onUnit_fwd | with_reducible apply failUnit_fwd
      | with_reducible apply raiseBy_fwd | with_reducible apply tryClose_fwd | split

end Sys2Proof.Machine
end

