-- ==== Sys2Proof/Laws/Settle.lean ====
section
/-! SUPPORT. What the end of a meaning does while the block is not fenced: queued writes may be issued and nothing else
changes; so `finish` answers its second state, the fabric ports aside. -/

namespace Sys2Proof.Machine

theorem issueWrite_sansFab (s : State) (r : FabReq) : (issueWrite s r).sansFab = s.sansFab := by
  unfold issueWrite
  split <;> rfl

theorem issueWrite_lines (s : State) (r : FabReq) : (issueWrite s r).fab.lines = s.fab.lines := by
  unfold issueWrite
  split <;> rfl

theorem issueWrite_fetches (s : State) (r : FabReq) : (issueWrite s r).fab.fetches = s.fab.fetches := by
  unfold issueWrite
  split <;> rfl

theorem foldl_keeps {α β γ : Type} (f : α → β → α) (g : α → γ) (h : ∀ a b, g (f a b) = g a) (l : List β) (a : α) :
    g (l.foldl f a) = g a := by
  induction l generalizing a with
  | nil => rfl
  | cons x r ih => exact (ih _).trans (h a x)

theorem pumpWrites_sansFab (s : State) : (pumpWrites s).sansFab = s.sansFab :=
  (foldl_keeps issueWrite State.sansFab issueWrite_sansFab _ _).trans rfl

theorem pumpWrites_lines (s : State) : (pumpWrites s).fab.lines = s.fab.lines :=
  (foldl_keeps issueWrite (fun s => s.fab.lines) issueWrite_lines _ _).trans rfl

theorem pumpWrites_fetches (s : State) : (pumpWrites s).fab.fetches = s.fab.fetches :=
  (foldl_keeps issueWrite (fun s => s.fab.fetches) issueWrite_fetches _ _).trans rfl

/-- Two states that agree but for the fabric ports agree in every other field. -/
theorem sansFab_ext {a b : State} (h : a.sansFab = b.sansFab) :
    a.variant = b.variant ∧ a.pending = b.pending ∧ a.fresh = b.fresh ∧ a.lan = b.lan ∧ a.rng = b.rng ∧ a.voc = b.voc ∧
    a.aut = b.aut ∧ a.cup = b.cup ∧ a.ctx = b.ctx ∧ a.sel = b.sel ∧ a.fin = b.fin ∧ a.stp = b.stp ∧ a.pkr = b.pkr ∧
    a.eqs = b.eqs ∧ a.job = b.job ∧ a.tur = b.tur ∧ a.mem = b.mem ∧ a.cry = b.cry ∧ a.bel = b.bel ∧ a.snp = b.snp ∧
    a.csp = b.csp ∧ a.fab.drains = b.fab.drains := by
  cases a; cases b
  simp only [State.sansFab, State.mk.injEq, Fab.mk.injEq] at h
  simp_all

/-- The end of a meaning, while the block is not fenced. -/
theorem finish_next (s t : State) (h : t.lan.fenced = false) : ∃ u, finish s t = .next u ∧
    u.sansFab = { t with pending := s.pending, variant := s.variant }.sansFab ∧
    u.fab.lines = t.fab.lines ∧ u.fab.fetches = t.fab.fetches := by
  refine ⟨_, rfl, ?_, ?_, ?_⟩
  · have k := sansFab_ext (pumpWrites_sansFab t)
    simp only [settle, h, State.sansFab]
    obtain ⟨-, -, h3, h4, h5, h6, h7, h8, h9, h10, h11, h12, h13, h14, h15, h16, h17, h18, h19, h20, h21, h22⟩ := k
    simp_all
  · simp [settle, h, pumpWrites_lines]
  · simp [settle, h, pumpWrites_fetches]

end Sys2Proof.Machine
end

