-- ==== Sys2Proof/Laws/Access.lean ====
section
/-! SUPPORT. Accesses of the fabric side: what a read request, a write request, a register access and an event change. -/

namespace Sys2Proof.Machine

/-- The end of a meaning that keeps the queue and the configuration, while the block is not fenced. -/
theorem finish_keep (s t : State) (h : t.lan.fenced = false) (p : t.pending = s.pending) (v : t.variant = s.variant) :
    ∃ u, finish s t = .next u ∧ u.sansFab = t.sansFab ∧ u.fab.lines = t.fab.lines ∧ u.fab.fetches = t.fab.fetches := by
  obtain ⟨u, a, b, c, d⟩ := finish_next s t h
  exact ⟨u, a, by rw [b, ← p, ← v], c, d⟩

/-- The end of a meaning whose result is the state E, the fabric ports aside. -/
theorem finish_fab {s t E : State} (e : t.sansFab = E.sansFab) (h : E.lan.fenced = false) (p : E.pending = s.pending)
    (v : E.variant = s.variant) : ∃ u, finish s t = .next u ∧ u.sansFab = E.sansFab ∧ u.fab.lines = t.fab.lines ∧
      u.fab.fetches = t.fab.fetches := by
  obtain ⟨a, b, -, c, -⟩ := sansFab_ext e
  obtain ⟨u, k, m, n⟩ := finish_keep s t (by rw [c]; exact h) (b.trans p) (a.trans v)
  exact ⟨u, k, m.trans e, n⟩

/-- The end of a meaning whose result is the state E, the fabric ports and the Belfry aside, that raised one event. -/
theorem finish_bel {s t E : State} {u : Src} {code stream step detail : Nat} (e : t.sansBel = E.sansBel)
    (r : Raised s t u code stream step detail) (h : E.lan.fenced = false) (p : E.pending = s.pending)
    (v : E.variant = s.variant) : ∃ w, finish s t = .next w ∧ w.sansBel = E.sansBel ∧ Raised s w u code stream step detail := by
  have a : t.variant = E.variant := show t.sansBel.variant = E.sansBel.variant by rw [e]
  have b : t.pending = E.pending := show t.sansBel.pending = E.sansBel.pending by rw [e]
  have c : t.lan = E.lan := show t.sansBel.lan = E.sansBel.lan by rw [e]
  obtain ⟨w, k, m, -⟩ := finish_keep s t (by rw [c]; exact h) (b.trans p) (a.trans v)
  have l : w.bel = t.bel := show w.sansFab.bel = t.sansFab.bel by rw [m]
  refine ⟨w, k, (congrArg (fun s : State => { s with bel := {} }) m).trans e, ?_⟩
  unfold Raised RaisedFrom at r ⊢
  rw [l]
  exact r

/-! ## Reads -/

theorem fetchLine_sansFab (s : State) (who : Req) (line : Nat) : (fetchLine s who line).sansFab = s.sansFab := by
  unfold fetchLine
  dsimp only
  repeat' split
  all_goals rfl

theorem fetchLine_lines (s : State) (who : Req) (line : Nat) (h : s.lan.fenced = false) :
    (fetchLine s who line).fab.lines = s.fab.lines := by
  unfold fetchLine
  simp only [h]
  repeat' split
  all_goals first | rfl | contradiction

theorem fetchBytes_sansFab (s : State) (who : Req) (addr len : Nat) : (fetchBytes s who addr len).sansFab = s.sansFab :=
  foldl_keeps _ State.sansFab (fun _ _ => fetchLine_sansFab _ _ _) _ _

theorem lineOf_of_lines {s t : State} (h : t.fab.lines = s.fab.lines) (who : Req) (line : Nat) :
    lineOf t who line = lineOf s who line := by
  unfold lineOf
  rw [h]

/-- A request for a line that may be read now leaves it held or asked for. -/
theorem fetchLine_asked (s : State) (who : Req) (line : Nat) (h : s.lan.fenced = false) (k : s.LineFree line) :
    (fetchLine s who line).Asked who line := by
  obtain ⟨k1, k2, k3⟩ := k
  unfold fetchLine
  dsimp only
  split
  · rename_i c
    rcases Bool.or_eq_true _ _ ▸ c with c | c
    · exact .inl c
    · obtain ⟨r, m, e⟩ := List.any_eq_true.mp c
      exact .inr ⟨r, m, by simpa using e⟩
  · have a : s.fab.stores.any (fun r => r.line == line) = false := by
      rw [List.any_eq_false]; intro r m; simpa using k1 r (List.mem_append_left _ m)
    have b : s.fab.waiting.any (fun r => r.line == line) = false := by
      rw [List.any_eq_false]; intro r m; simpa using k1 r (List.mem_append_right _ m)
    simp only [h, a, b, k2, k3]
    exact .inr ⟨_, List.mem_append_right _ (List.mem_singleton.mpr rfl), rfl, rfl⟩

/-- A ring that holds no entry read answered with an error asks for its next entry, and nothing else changes. -/
theorem fetchEntry_sansFab (s : State) (n : Nat) (h : s.lan.fenced = false) (k : ∀ l, lineOf s (.entry n) l ≠ some none) :
    (fetchEntry s n).sansFab = s.sansFab := by
  unfold fetchEntry
  dsimp only
  split
  · rfl
  · split
    · rename_i e
      rw [lineOf_of_lines (fetchLine_lines _ _ _ h)] at e
      exact absurd e (k _)
    · exact fetchLine_sansFab _ _ _

/-! ## Events -/

theorem insertBy_mem {α : Type} (key : α → Nat) (x : α) (l : List α) : x ∈ insertBy key x l := by
  induction l with
  | nil => simp [insertBy]
  | cons y r ih =>
    unfold insertBy
    split
    · simp
    · split
      · simp
      · exact List.mem_cons_of_mem _ ih

theorem writeBytes_sansFab (s : State) (who : Req) (addr : Nat) (bs : List Byte) :
    (writeBytes s who addr bs).sansFab = s.sansFab := rfl

theorem sendMessages_sansFab (b : Bel) (s : State) : (sendMessages b s).sansFab = s.sansFab := by
  unfold sendMessages
  refine foldl_keeps _ State.sansFab (fun _ _ => ?_) _ _
  split <;> rfl

theorem sansFab_sansBel {a b : State} (h : a.sansFab = b.sansFab) : a.sansBel = b.sansBel := by
  have k := congrArg (fun s : State => { s with bel := {} }) h
  exact k

theorem raiseFrom_sansBel (s : State) (r code stream step detail : Nat) :
    (raiseFrom s r code stream step detail).sansBel = s.sansBel := by
  unfold raiseFrom
  exact (sansFab_sansBel (sendMessages_sansFab _ _)).trans rfl

theorem raiseBy_sansBel (s : State) (u : Src) (code stream step detail : Nat) :
    (raiseBy s u code stream step detail).sansBel = s.sansBel := raiseFrom_sansBel _ _ _ _ _ _

/-- One event is in the log, its group pending, the count higher by one. -/
theorem raiseFrom_raised (s : State) (r code stream step detail : Nat) :
    RaisedFrom s (raiseFrom s r code stream step detail) r code stream step detail := by
  unfold raiseFrom
  dsimp only
  obtain ⟨-, -, -, -, -, -, -, -, -, -, -, -, -, -, -, -, -, -, b, -⟩ := sansFab_ext (sendMessages_sansFab s.bel { s with bel := { s.bel with
    log := insertBy Prod.fst (s.bel.wr, { code := code, stream := stream, step := step, requester := r, time := s.lan.aonTime, detail := detail }) s.bel.log
    wr := (s.bel.wr + 1) % 1024
    count := wrap32 (s.bel.count + 1)
    lost := wrap32 (s.bel.lost + b2n ((s.bel.log.find? (·.1 == s.bel.wr)).any fun x => !x.2.isRead))
    pending := s.bel.pending ||| 1 <<< (code / 256) } })
  refine ⟨⟨{ code := code, stream := stream, step := step, requester := r, time := s.lan.aonTime, detail := detail },
    ?_, rfl, rfl, rfl, rfl, rfl, rfl, rfl⟩, ?_, ?_, ?_⟩
  · rw [b]; exact insertBy_mem _ _ _
  all_goals rw [b]

theorem raiseBy_raised (s : State) (u : Src) (code stream step detail : Nat) :
    Raised s (raiseBy s u code stream step detail) u code stream step detail := raiseFrom_raised _ _ _ _ _ _

end Sys2Proof.Machine
end

