-- ==== Sys2Proof/Laws/Commands.lean ====
section
/-! SUPPORT. A row that runs a command: which function of the command it is, and what completing the command at its end leaves. -/

namespace Sys2Proof.Machine

theorem accepted_facts {s : State} {k op : Nat} {c : Cmd} (h : s.Accepted k op c) :
    s.stepping = true ∧ s.lan.fenced = false ∧ s.cmd? k = some c ∧ c.ticket = k ∧ c.opcode = op ∧ c.phase = .dispatched := by
  obtain ⟨a, b, d, e⟩ := h
  simp only [State.carrying, Bool.and_eq_true, Bool.not_eq_true'] at a
  have t := List.find?_some b
  simp only [beq_iff_eq] at t
  exact ⟨a.1, a.2, b, t, d, e⟩

theorem executing_facts {s : State} {k op : Nat} {c : Cmd} (h : s.Executing k op c) :
    s.stepping = true ∧ s.lan.fenced = false ∧ s.cmd? k = some c ∧ c.ticket = k ∧ c.opcode = op ∧ c.phase = .executing := by
  obtain ⟨a, b, d, e⟩ := h
  simp only [State.carrying, Bool.and_eq_true, Bool.not_eq_true'] at a
  have t := List.find?_some b
  simp only [beq_iff_eq] at t
  exact ⟨a.1, a.2, b, t, d, e⟩

/-- A dispatched command is given to its unit. -/
theorem runCmd_accepted {s : State} {k op : Nat} {c : Cmd} (h : s.Accepted k op c) (f : State → Cmd → State) :
    runCmd s k op f = f s c := by
  obtain ⟨a, -, b, -, d, e⟩ := accepted_facts h
  simp [runCmd, a, b, d, e]

/-- So is one that executes. -/
theorem runCmd_executing {s : State} {k op : Nat} {c : Cmd} (h : s.Executing k op c) (f : State → Cmd → State) :
    runCmd s k op f = f s c := by
  obtain ⟨a, -, b, -, d, e⟩ := executing_facts h
  simp [runCmd, a, b, d, e]

/-- The completion that `complete` posts. -/
theorem complete_posts (s : State) (c : Cmd) (status step d0 d1 : Nat) : ∃ e : Comp, e.IsFor c status step d0 d1 ∧
    (complete s c status step d0 d1).sansFab = { s with rng := { s.rng with
      comps := s.rng.comps ++ [e], cmds := s.rng.cmds.filter (·.ticket != c.ticket) } }.sansFab :=
  ⟨{ ticket := c.ticket, ring := c.ring, cq := c.cq, irq := (getN c.ent 1).toNat.testBit 0, tag := getLE c.ent 4 4
     status := status, opcode := (getN c.ent 0).toNat, stream := getLE c.ent 8 2 % 16384
     hasStream := opHasStream (getN c.ent 0).toNat (getN c.ent 16).toNat, step := step, d0 := d0, d1 := d1 },
    by simp [Comp.IsFor, Cmd.irq, Cmd.bit, Cmd.b, Cmd.tag, Cmd.le, Cmd.opcode], rfl⟩

/-- A meaning that ends by completing c on the state B, whose Ring Unit differs from the first state's at most in the command c. -/
theorem finish_complete {s B : State} {c : Cmd} {status step d0 d1 : Nat} (h : B.lan.fenced = false)
    (p : B.pending = s.pending) (v : B.variant = s.variant)
    (r1 : B.rng.cmds.filter (·.ticket != c.ticket) = s.rng.cmds.filter (·.ticket != c.ticket))
    (r2 : { B.rng with cmds := s.rng.cmds } = s.rng) :
    ∃ t, finish s (complete B c status step d0 d1) = .next t ∧ Completed s t c status step d0 d1 ∧
      { t with rng := s.rng }.sansFab = { B with rng := s.rng }.sansFab := by
  obtain ⟨e, ef, ee⟩ := complete_posts B c status step d0 d1
  obtain ⟨u, a, b, -⟩ := finish_fab (s := s) ee h p v
  refine ⟨u, a, ⟨e, ef, ?_⟩, ?_⟩
  · have k := (sansFab_ext b).2.2.2.2.1
    rw [k, ← r1]
    generalize B.rng = R at *
    rw [← r2]
  · exact congrArg (fun x : State => { x with rng := s.rng }) b

/-- A change of the command c is gone once c has left. -/
theorem filter_modWhere (l : List Cmd) (k : Nat) (f : Cmd → Cmd) (hf : ∀ c, (f c).ticket = c.ticket) :
    (modWhere l (·.ticket == k) f).filter (·.ticket != k) = l.filter (·.ticket != k) := by
  unfold modWhere
  induction l with
  | nil => rfl
  | cons x r ih =>
    simp only [List.map_cons, List.filter_cons]
    rw [ih]
    by_cases e : x.ticket = k <;> simp [e, hf]

/-- Two changes of one element of a list are one change. -/
theorem modAt_modAt {α : Type} (l : List α) (n : Nat) (f g : α → α) : modAt (modAt l n f) n g = modAt l n fun x => g (f x) := by
  unfold modAt
  apply List.ext_getElem?
  intro i
  simp only [List.getElem?_modify]
  cases l[i]? with
  | none => rfl
  | some x => by_cases e : n = i <;> simp [e]

end Sys2Proof.Machine
end

