-- ==== Sys2Proof/Laws/Turrets.lean ====
section
/-! SUPPORT. What an instruction row of a turret does: the state after one that completes, and after one that raises an exception. -/

namespace Sys2Proof.Machine

theorem turret_onTurret (s : State) (p : Nat) (f : Turret → Turret) (h : p < s.tur.ts.length) : (s.onTurret p f).turret p = f (s.turret p) := by
  simp [State.onTurret, State.onTur, State.turret, getN, modAt, h]

theorem turret_onTurret_ne (s : State) (p q : Nat) (f : Turret → Turret) (h : q ≠ p) : (s.onTurret p f).turret q = s.turret q := by
  simp [State.onTurret, State.onTur, State.turret, getN, modAt, Ne.symm h]

theorem onTurret_length (s : State) (p : Nat) (f : Turret → Turret) : (s.onTurret p f).tur.ts.length = s.tur.ts.length := by
  simp [State.onTurret, State.onTur, modAt]

theorem turretRuns_facts {s : State} {p : Nat} (h : turretRuns s p = true) :
    p < s.tur.ts.length ∧ (s.turret p).quarantined = false := by
  simp only [turretRuns, Bool.and_eq_true, decide_eq_true_eq, Bool.not_eq_true'] at h
  exact ⟨h.1.1.1.2, h.1.2⟩

/-- A turret with work that goes on begins no other. -/
theorem beginWork_runs {s : State} {p : Nat} {i : Invocation} {c : Core} (h : s.Runs p i c) : beginWork s p = s := by
  obtain ⟨-, -, e, -, w, u, -⟩ := h
  unfold beginWork
  simp only [e]
  rw [if_neg]
  unfold outranked
  intro o
  simp only [Bool.and_eq_true, Bool.or_eq_true, decide_eq_true_eq] at o
  obtain ⟨o1, o2 | ⟨⟨o3, o4⟩, -⟩⟩ := o
  · rcases w with w | w
    · omega
    · rw [w] at o2; cases o2
  · rw [u o3] at o4; cases o4

/-- An instruction that completes: what it does outside the turret, then its effect on the core and the invocation. -/
theorem kRunWith_does {s : State} {p : Nat} {i j : Invocation} {c d : Core} {f : KEnv → Invocation → Core → KOut} {g : KEnv → Core → State → State}
    (h : s.Runs p i c) (k : f (kEnv s i) i c = .go d j) (w : Fwd s (g (kEnv s i) c s)) :
    ∃ t, finish s (kRunWith s p f g) = .next t ∧ Retired (g (kEnv s i) c s) t p d j := by
  have b := beginWork_runs h
  obtain ⟨n, r, e, m, -, u, q⟩ := h
  have z : ¬ (i.role ≠ roleEngine ∧ i.budget = 0) := fun ⟨a, b⟩ => q.elim a (fun q => q b)
  have y : ¬ (3 ≤ i.cls ∧ unitHeld s p = true) := fun ⟨a, b⟩ => by rw [u a] at b; cases b
  have v : kRunWith s p f g = (g (kEnv s i) c s).onTurret p fun t =>
      { t with core := d, inv := some { j with budget := j.budget - 1 }, instr := wrap32 (t.instr + 1) } := by
    unfold kRunWith
    simp only [r, b, e, m, k, z, y, Bool.not_true, Bool.false_eq_true, if_false]
  rw [v]
  obtain ⟨t, a, o, -⟩ := finish_fab (s := s) (E := (g (kEnv s i) c s).onTurret p fun t =>
    { t with core := d, inv := some { j with budget := j.budget - 1 }, instr := wrap32 (t.instr + 1) }) rfl
    (show (g (kEnv s i) c s).lan.fenced = false by rw [w.lan]; exact n) w.pending w.variant
  exact ⟨t, a, o⟩

/-- An instruction that completes inside its turret. -/
theorem kRun_does {s : State} {p : Nat} {i j : Invocation} {c d : Core} {f : KEnv → Invocation → Core → KOut} (h : s.Runs p i c)
    (k : f (kEnv s i) i c = .go d j) : ∃ t, finish s (kRun s p f) = .next t ∧ Retired s t p d j :=
  kRunWith_does h k (Fwd.refl s)

/-! ## Exceptions -/

/-- A turret without its lane and the unit it holds. -/
def Turret.bare (t : Turret) : Turret := { t with lane := [], taken := none }

/-- Two states whose turret p agrees but for its lane and the unit it holds, with the same Belfry and Lantern. -/
structure SameAt (p : Nat) (a b : State) : Prop where
  turret : (b.turret p).bare = (a.turret p).bare
  len : b.tur.ts.length = a.tur.ts.length
  bel : b.bel = a.bel
  lan : b.lan = a.lan
  pending : b.pending = a.pending
  variant : b.variant = a.variant

theorem SameAt.refl (p : Nat) (a : State) : SameAt p a a := ⟨rfl, rfl, rfl, rfl, rfl, rfl⟩

theorem SameAt.trans {p : Nat} {a b c : State} (h : SameAt p a b) (k : SameAt p b c) : SameAt p a c :=
  ⟨k.turret.trans h.turret, k.len.trans h.len, k.bel.trans h.bel, k.lan.trans h.lan, k.pending.trans h.pending, k.variant.trans h.variant⟩

theorem SameAt.of_eq {p : Nat} {a b : State} (t : b.tur = a.tur) (e : b.bel = a.bel) (l : b.lan = a.lan) (q : b.pending = a.pending)
    (v : b.variant = a.variant) : SameAt p a b := ⟨by simp only [State.turret, t], by rw [t], e, l, q, v⟩

theorem SameAt.foldl {p : Nat} {α : Type} {g : State → α → State} (k : ∀ s x, SameAt p s (g s x)) (l : List α) (s : State) :
    SameAt p s (l.foldl g s) := by
  induction l generalizing s with
  | nil => exact SameAt.refl p s
  | cons x r ih => exact (k s x).trans (ih (g s x))

/-- A change of one turret, which is not p or keeps all but the lane and the unit. -/
theorem SameAt.onTurret {p q : Nat} {f : Turret → Turret} (s : State) (k : q ≠ p ∨ ∀ t, (f t).bare = t.bare) : SameAt p s (s.onTurret q f) := by
  refine ⟨?_, onTurret_length s q f, rfl, rfl, rfl, rfl⟩
  by_cases e : q = p
  · subst e
    rcases k with k | k
    · exact absurd rfl k
    · by_cases h : q < s.tur.ts.length
      · rw [turret_onTurret s q f h, k]
      · simp [State.onTurret, State.onTur, State.turret, getN, modAt, h]
  · rw [turret_onTurret_ne s q p f (Ne.symm e)]

theorem takeOff_same (p : Nat) (s : State) (f : UnitRef → Bool) : SameAt p s (takeOff s f) := by
  refine ⟨?_, by simp [takeOff, State.onTur], rfl, rfl, rfl, rfl⟩
  by_cases h : p < s.tur.ts.length
  · simp [takeOff, State.onTur, State.turret, getN, Turret.bare, h]
  · simp [takeOff, State.onTur, State.turret, getN, h]

theorem dropJob_same (p : Nat) (s : State) (t : Nat) : SameAt p s (dropJob s t) :=
  (takeOff_same p s (UnitRef.ofJob t)).trans (.of_eq rfl rfl rfl rfl rfl)

theorem stageUnits_same (p : Nat) (s : State) (t : Nat) : SameAt p s (stageUnits s t) := by
  unfold stageUnits
  split
  · exact .refl p s
  · exact .foldl (fun s x => by dsimp only; split <;> exact .of_eq rfl rfl rfl rfl rfl) _ s

theorem unpost_same (p : Nat) (s : State) (us : List UnitRef) : SameAt p s (unpost s us) :=
  .foldl (fun s x => by split <;> exact .of_eq rfl rfl rfl rfl rfl) us s

theorem discardUnit_same (p : Nat) (s : State) (u : UnitRef) : SameAt p s (discardUnit s u) := by
  unfold discardUnit
  split <;> exact .of_eq rfl rfl rfl rfl rfl

theorem moveHomes_same (p : Nat) (s : State) (n : Nat) : SameAt p s (moveHomes s n) :=
  .foldl (fun s x => by split <;> exact .of_eq rfl rfl rfl rfl rfl) _ s

/-- Work passes from turret p to another: p keeps all but its lane and the unit it holds (14 R511). -/
theorem passWork_same {p q : Nat} (s : State) (n : q ≠ p) : SameAt p s (passWork s p q) := by
  unfold passWork
  extract_lets w0 t mine room w1 w2 w3 w4
  have h0 : SameAt p s w0 := .foldl (g := fun s (j : Job) => dropJob s j.ticket) (fun s x => dropJob_same p s x.ticket) _ s
  clear_value w0
  have h1 : SameAt p w0 w1 := .of_eq rfl rfl rfl rfl rfl
  clear_value w1
  have h2 : SameAt p w1 w2 := .of_eq rfl rfl rfl rfl rfl
  clear_value w2
  have h3 : SameAt p w2 w3 := (SameAt.onTurret (q := p) (f := fun u => { u with lane := [], taken := none }) w2 (.inr fun _ => rfl)).trans
    (SameAt.onTurret _ (.inl n))
  clear_value w3
  have h4 : SameAt p w3 w4 := (unpost_same p _ _).trans (.foldl (g := discardUnit) (discardUnit_same p) _ _)
  clear_value w4
  exact h0.trans (h1.trans (h2.trans (h3.trans (h4.trans (.foldl (g := fun s (u : UnitRef) => stageUnits s u.ticket)
    (fun s x => stageUnits_same p s x.ticket) _ _)))))

/-- What a turret fault leaves at its turret (14 R510, 13 R472). -/
theorem turretFault_at {s : State} {p prog pc code : Nat} (h : p < s.tur.ts.length) (q : (s.turret p).quarantined = false) :
    let t := turretFault s p prog pc code
    (t.turret p).bare = { usable := (s.turret p).usable, spare := (s.turret p).spare, quarantined := true, gated := true
                          fault := if code < 0xFE then code + 256 * prog + 65536 * (pc % 4096) else 0 } ∧
      t.lan = { s.lan with domReset := insertBy id p s.lan.domReset } ∧ t.pending = s.pending ∧ t.variant = s.variant ∧
      RaisedFrom s t p 0x0401 0 0 (p + 65536 * prog + 16777216 * (pc % 4096) + 1099511627776 * code) := by
  have nle : ¬ s.tur.ts.length ≤ p := Nat.not_le.mpr h
  have raised := raiseFrom_raised s p 0x0401 0 0 (p + 65536 * prog + 16777216 * (pc % 4096) + 1099511627776 * code)
  have keep : (raiseFrom s p 0x0401 0 0 (p + 65536 * prog + 16777216 * (pc % 4096) + 1099511627776 * code)).sansBel = s.sansBel :=
    raiseFrom_sansBel ..
  dsimp only
  unfold turretFault
  generalize raiseFrom s p 0x0401 0 0 (p + 65536 * prog + 16777216 * (pc % 4096) + 1099511627776 * code) = u at raised keep
  have ut : u.tur = s.tur := show u.sansBel.tur = s.sansBel.tur by rw [keep]
  have ul : u.lan = s.lan := show u.sansBel.lan = s.sansBel.lan by rw [keep]
  have up : u.pending = s.pending := show u.sansBel.pending = s.sansBel.pending by rw [keep]
  have uv : u.variant = s.variant := show u.sansBel.variant = s.sansBel.variant by rw [keep]
  simp only [q, nle, decide_false, Bool.or_self, Bool.false_eq_true, if_false]
  -- the turret after the fault, before its work passes on
  have vlen : p < (turretReset u p).tur.ts.length := by
    simp only [turretReset, holdDomain, State.onLan, State.onMem, onTurret_length, ut]; exact h
  have rt : (turretReset u p).turret p = (s.turret p).local := by
    show (u.onTurret p Turret.local).turret p = _
    rw [turret_onTurret _ _ _ (by rw [ut]; exact h)]
    simp only [State.turret, ut]
  generalize hv : (turretReset u p).onTurret p (fun t => { t with
      quarantined := true, gated := true, activeNo := none
      fault := if code < 0xFE then code + 256 * prog + 65536 * (pc % 4096) else 0 }) = v
  have vt : (v.turret p).bare = { usable := (s.turret p).usable, spare := (s.turret p).spare, quarantined := true, gated := true
                                  fault := if code < 0xFE then code + 256 * prog + 65536 * (pc % 4096) else 0 } := by
    rw [← hv, turret_onTurret _ _ _ vlen, rt]; rfl
  have vl : v.lan = { s.lan with domReset := insertBy id p s.lan.domReset } := by rw [← hv, ← ul]; rfl
  have vb : v.bel = u.bel := by rw [← hv]; rfl
  have vp : v.pending = s.pending := by rw [← hv, ← up]; rfl
  have vv : v.variant = s.variant := by rw [← hv, ← uv]; rfl
  have done : ∀ w, SameAt p v w → (w.turret p).bare = { usable := (s.turret p).usable, spare := (s.turret p).spare, quarantined := true
                                                        gated := true
                                                        fault := if code < 0xFE then code + 256 * prog + 65536 * (pc % 4096) else 0 } ∧
      w.lan = { s.lan with domReset := insertBy id p s.lan.domReset } ∧ w.pending = s.pending ∧ w.variant = s.variant ∧
      RaisedFrom s w p 0x0401 0 0 (p + 65536 * prog + 16777216 * (pc % 4096) + 1099511627776 * code) := by
    intro w k
    refine ⟨k.turret.trans vt, k.lan.trans vl, k.pending.trans vp, k.variant.trans vv, ?_⟩
    unfold RaisedFrom at raised ⊢
    rw [k.bel, vb]; exact raised
  split
  · exact done v (.refl p v)
  · rename_i n _
    split
    · rename_i r sp
      have rp : r ≠ p := by
        rintro rfl
        have := List.find?_some sp
        have vq : (v.turret r).quarantined = true := congrArg Turret.quarantined vt
        simp [vq] at this
      exact done _ (.trans (SameAt.onTurret v (.inl rp)) (passWork_same _ rp))
    · have mh := moveHomes_same p v n
      split
      · rename_i r lo
        have rp : r ≠ p := by
          rintro rfl
          have := List.find?_some lo
          have vq : ((moveHomes v n).turret r).quarantined = true := (congrArg Turret.quarantined mh.turret).trans (congrArg Turret.quarantined vt)
          simp [vq] at this
        exact done _ (mh.trans (passWork_same _ rp))
      · exact done _ mh

/-- The end of an invocation leaves the fault registers. -/
theorem endWork_at (s : State) (p : Nat) (i : Invocation) (h : p < s.tur.ts.length) :
    let t := endWork s p i
    (t.turret p).quarantined = (s.turret p).quarantined ∧ (t.turret p).fault = (s.turret p).fault ∧
      (t.turret p).faultCount = (s.turret p).faultCount ∧ t.bel = s.bel ∧ t.lan = s.lan ∧ t.pending = s.pending ∧ t.variant = s.variant := by
  dsimp only
  unfold endWork
  dsimp only
  generalize hv : s.onTurret p _ = v
  have vt := turret_onTurret s p (fun t => { t with
    inv := none, core := t.core.ended, taken := if 3 ≤ i.cls then none else t.taken }) h
  rw [hv] at vt
  have len : p < v.tur.ts.length := by rw [← hv, onTurret_length]; exact h
  have o : v.bel = s.bel ∧ v.lan = s.lan ∧ v.pending = s.pending ∧ v.variant = s.variant := by rw [← hv]; exact ⟨rfl, rfl, rfl, rfl⟩
  have e : ∀ u : Turret, u.resumes.quarantined = u.quarantined ∧ u.resumes.fault = u.fault ∧ u.resumes.faultCount = u.faultCount := by
    intro u
    unfold Turret.resumes
    split <;> exact ⟨rfl, rfl, rfl⟩
  split
  · rw [turret_onTurret _ _ _ len]
    obtain ⟨e1, e2, e3⟩ := e (v.turret p)
    exact ⟨e1.trans (by rw [vt]), e2.trans (by rw [vt]), e3.trans (by rw [vt]), o⟩
  · rw [vt]
    exact ⟨rfl, rfl, rfl, o⟩

/-- An exception of an instruction. -/
theorem kRun_excepts {s : State} {p : Nat} {i : Invocation} {c : Core} {f : KEnv → Invocation → Core → KOut} {g : KEnv → Core → State → State}
    {code tr : Nat} (h : s.Runs p i c) (lt : code < 0xFE) (k : f (kEnv s i) i c = .exc code tr) :
    ∃ t, finish s (kRunWith s p f g) = .next t ∧ (t.turret p).fault = code + 256 * i.prog + 65536 * (c.pc % 4096) ∧
    (i.role = roleEngine → (t.turret p).quarantined = true ∧
      RaisedFrom s t p 0x0401 0 0 (p + 65536 * i.prog + 16777216 * (c.pc % 4096) + 1099511627776 * code)) ∧
    (i.role ≠ roleEngine → (t.turret p).quarantined = false ∧ (t.turret p).faultCount = satAdd (s.turret p).faultCount 1 4294967295 ∧
      RaisedFrom s t p 0x0402 0 i.tag (code + 256 * i.prog + 65536 * c.pc + 268435456 * tr + 68719476736 * i.ring)) := by
  have b := beginWork_runs h
  obtain ⟨n, r, e, m, -, y, q⟩ := h
  obtain ⟨len, quar⟩ := turretRuns_facts r
  have z : ¬ (i.role ≠ roleEngine ∧ i.budget = 0) := fun ⟨a, b⟩ => q.elim a (fun q => q b)
  have y : ¬ (3 ≤ i.cls ∧ unitHeld s p = true) := fun ⟨a, b⟩ => by rw [y a] at b; cases b
  have v : kRunWith s p f g = kFault s p i code tr := by
    unfold kRunWith
    simp only [r, b, e, m, k, z, y, Bool.not_true, Bool.false_eq_true, if_false]
  rw [v]
  unfold kFault
  dsimp only
  rw [m]
  split
  · rename_i eng
    obtain ⟨a1, a6, a7, a8, a9⟩ := turretFault_at (prog := i.prog) (pc := c.pc) (code := code) len quar
    rw [if_pos lt] at a1
    have a3 := congrArg Turret.fault a1
    replace a1 := congrArg Turret.quarantined a1
    obtain ⟨t, o, w, -⟩ := finish_keep s (turretFault s p i.prog c.pc code) (by rw [a6]; exact n) a7 a8
    obtain ⟨w1, w2⟩ : t.tur = (turretFault s p i.prog c.pc code).tur ∧ t.bel = (turretFault s p i.prog c.pc code).bel :=
      ⟨show t.sansFab.tur = _ by rw [w]; rfl, show t.sansFab.bel = _ by rw [w]; rfl⟩
    refine ⟨t, o, ?_, fun _ => ⟨?_, ?_⟩, fun c => absurd eng c⟩
    · simp only [State.turret, w1]; exact a3
    · simp only [State.turret, w1]; exact a1
    · unfold RaisedFrom at a9 ⊢
      rw [w2]; exact a9
  · rename_i eng
    generalize hf : programFaults s p 0 i.tag i.ring i.prog [(code, tr, c.pc)] = u
    have hu : u = raiseFrom (s.onTurret p fun t => { t with
        fault := code + 256 * i.prog + 65536 * (c.pc % 4096), faultCount := satAdd t.faultCount 1 4294967295 }) p 0x0402 0 i.tag
        (code + 256 * i.prog + 65536 * c.pc + 268435456 * tr + 68719476736 * i.ring) := by
      rw [← hf]; simp only [programFaults, List.foldl_cons, List.foldl_nil]
    generalize hw : (s.onTurret p fun t => { t with
        fault := code + 256 * i.prog + 65536 * (c.pc % 4096), faultCount := satAdd t.faultCount 1 4294967295 }) = w at hu
    have wt := turret_onTurret s p (fun t => { t with
        fault := code + 256 * i.prog + 65536 * (c.pc % 4096), faultCount := satAdd t.faultCount 1 4294967295 }) len
    rw [hw] at wt
    have keep : u.sansBel = w.sansBel := by rw [hu]; exact raiseFrom_sansBel ..
    have ra := raiseFrom_raised w p 0x0402 0 i.tag (code + 256 * i.prog + 65536 * c.pc + 268435456 * tr + 68719476736 * i.ring)
    rw [← hu] at ra
    have ut : u.tur = w.tur := show u.sansBel.tur = w.sansBel.tur by rw [keep]
    have ul : u.lan = s.lan := show u.sansBel.lan = s.lan by rw [keep, ← hw]; rfl
    have up : u.pending = s.pending := show u.sansBel.pending = s.pending by rw [keep, ← hw]; rfl
    have uv : u.variant = s.variant := show u.sansBel.variant = s.variant by rw [keep, ← hw]; rfl
    obtain ⟨a1, a2, a3, a4, a5, a6, a7⟩ := endWork_at u p i (by rw [ut, ← hw, onTurret_length]; exact len)
    obtain ⟨t, o, y, -⟩ := finish_keep s (endWork u p i) (by rw [a5, ul]; exact n) (a6.trans up) (a7.trans uv)
    obtain ⟨y1, y2⟩ : t.tur = (endWork u p i).tur ∧ t.bel = (endWork u p i).bel :=
      ⟨show t.sansFab.tur = _ by rw [y]; rfl, show t.sansFab.bel = _ by rw [y]; rfl⟩
    have tt : t.turret p = (endWork u p i).turret p := by simp only [State.turret, y1]
    have uw : u.turret p = w.turret p := by simp only [State.turret, ut]
    refine ⟨t, o, ?_, fun c => absurd c eng, fun _ => ⟨?_, ?_, ?_⟩⟩
    · rw [tt, a2, uw, wt]
    · rw [tt, a1, uw, wt]; exact quar
    · rw [tt, a3, uw, wt]
    · have sb : w.bel = s.bel := by rw [← hw]; rfl
      have sl : w.lan = s.lan := by rw [← hw]; rfl
      unfold RaisedFrom at ra ⊢
      rw [y2, a4]
      rw [sb, sl] at ra
      exact ra

end Sys2Proof.Machine
end

