-- ==== Sys2Proof/Tests/Slice0.lean ====
section
/-! SUPPORT. Tests: well-formedness, code words, the manual's own figures, and for every statement a small state and operands
that meet its hypotheses, clause by clause, at a boundary where a clause has a range. -/

namespace Sys2Proof.Tests

open Sys2Proof Sys2Proof.Machine

set_option Elab.async false

/-! ## Small states -/

/-- Reset, then READY. -/
def ready : State := { State.reset with lan := { State.reset.lan with blk := .ready, act := .idle, iso := false } }

/-- An entry of an opcode with fields (byte, value). -/
def entry (op : Nat) (fs : List (Nat × Nat)) : List Byte := leBytes 64 (op + (fs.map fun f => f.2 * 256 ^ f.1).sum)

/-- Command 1. -/
def cmd (op : Nat) (fs : List (Nat × Nat) := []) (phase : CmdPhase := .dispatched) : Cmd :=
  { ticket := 1, ent := entry op fs, phase := phase }

/-- READY with one command in flight. -/
def given (c : Cmd) (s : State := ready) : State := { s with rng := { s.rng with cmds := [c] } }

/-- Stream 5 of owner 0. -/
def five : Stream := { id := 5, st := .idle }

/-- With one open stream. -/
def having (x : Stream) (s : State := ready) : State := { s with ctx := { s.ctx with streams := [x] } }

/-- A requester holds a line of memory. -/
def holding (who : Req) (line : Nat) (bs : List Byte) (s : State := ready) : State :=
  { s with fab := { s.fab with lines := s.fab.lines ++ [(who, line, some (slice bs 0 128))] } }

/-- With a key of owner 0. -/
def keyed (s : State := ready) : State := { s with lan := { s.lan with keys := setAt s.lan.keys 0 (some {}) } }

theorem no_line (s : State) (h : s.fab.lines = []) (who : Req) (l : Nat) : lineOf s who l ≠ some none := by simp [lineOf, h]

/-- What answers a next state. -/
def nextOf (o : Host.Outcome State Fault Refusal) : State :=
  match o with
  | .next t => t
  | _ => {  State.reset with pending := [.nop 0] }

/-! ## Well-formedness: an ill-formed term for each check -/

theorem test_wf_ring : (Instr.ringCtailDoorbell 64 0).wf = false ∧ (Instr.ringCtailDoorbell 63 0).wf = true := by decide
theorem test_wf_stream : (Instr.maskRdy 16384).wf = false ∧ (Instr.maskRdy 16383).wf = true := by decide
theorem test_wf_word : (Instr.stepIssued 0 4294967296).wf = false := by decide
theorem test_wf_syms : (Instr.cupolaFillDone 0 0 (List.replicate 9 1) false).wf = false := by decide
theorem test_wf_beat : (Instr.logitHeaderBeat 32 (List.replicate 128 0)).wf = false ∧ (Instr.logitHeaderBeat 0 []).wf = false := by decide
theorem test_wf_peer : (Instr.peerPartialList 0 4 []).wf = false ∧ (Instr.peerPartialList 0 1 [0]).wf = false := by decide
theorem test_wf_notice : (Instr.tokenNotice 0 []).wf = false ∧ (Instr.tokenNotice 256 (List.replicate 64 0)).wf = false := by decide
theorem test_wf_line : (Instr.fabricFetchReturn 0 0 false []).wf = false ∧ (Instr.fabricStoreAck 4 0 false).wf = false := by decide
theorem test_wf_aperture : (Instr.drainRead 0 1048576 0).wf = false := by decide
theorem test_wf_cluster : (Instr.longPieceAreaGrant 16).wf = false := by decide
theorem test_wf_macro : (Instr.storeAccessGrant 9 0 []).wf = false ∧ (Instr.storeAccessGrant 0 512 []).wf = false := by decide
theorem test_wf_store_req : (Instr.storeAccessGrant 6 0 [{ requester := 0, owner := none, work := .restore, op := .read, line := 512 }]).wf = false ∧
    (Instr.storeAccessGrant 6 0 [{ requester := 0, owner := none, work := .restore, op := .write 16 0xFF 0, line := 0 }]).wf = false := by decide
theorem test_wf_offset : (Instr.rcCounterRead 2).wf = false ∧ (Instr.registerWrite 1048576 0).wf = false := by decide
theorem test_wf_domain : (Instr.domainResetRelease 512).wf = false ∧ (Instr.localResetTurret 512).wf = false := by decide
theorem test_wf_key : (Instr.dukKeyValid []).wf = false := by decide
theorem test_wf_data_word : (Instr.belLogDataRead 8).wf = false := by decide
theorem test_wf_lantern : (Instr.n2Lantern 1024).wf = false := by decide
theorem test_wf_registers : (Instr.add 272 0 0 0).wf = false ∧ (Instr.add 0 16 0 0).wf = false ∧ (Instr.vld 0 8 0 0).wf = false := by decide
theorem test_wf_immediates : (Instr.shli 0 1 1 64).wf = false ∧ (Instr.movh 0 1 0x10000).wf = false ∧ (Instr.peek 0 1 512).wf = false ∧
    (Instr.emit 0 1 4).wf = false := by decide

/-! ## Code words (07 Table 7.3, Table 7.4), written out from their fields -/

theorem test_word_movi : decodeKnalen 3 0x31C04000 = some (.movi 3 7 0x4000) := by decide
theorem test_word_vin : decodeKnalen 3 0xA8100000 = some (.vin 3 0 4 0) := by decide
theorem test_word_vfind : decodeKnalen 3 0xB5458000 = some (.vfind 3 5 1 6) := by decide
theorem test_word_beq : decodeKnalen 3 0xE283FFF7 = some (.beq 3 10 0 0x3FFF7) := by decide
theorem test_word_emit : decodeKnalen 3 0xC0300000 = some (.emit 3 12 0) := by decide
theorem test_word_illegal : decodeKnalen 3 0 = none ∧ decodeKnalen 3 0xB5C58000 = some (.vfind 3 7 1 6) ∧ decodeKnalen 3 0xB5660000 = none := by decide
theorem test_word_round_trip : (encodeKnalen (.beq 3 10 0 0x3FFF7)).map Prod.snd = some 0xE283FFF7 := by decide

/-- The table gives no bits, so no word spells a command and the queue stays. -/
theorem test_no_word : decodeTableWord 32 0 = none ∧ (State.reset.withFetchWord 32 0).pending = [] := by decide

/-! ## Rings -/

def ringOn : State := { ready with rng := { ready.rng with
  c := modAt ready.rng.c 63 fun r => { r with enable := true, fmtB := true, sizeLog := 6, cq := 63, tail := 5 }
  q := modAt ready.rng.q 63 fun q => { q with enable := true, fmtB := true, sizeLog := 6, phase := true } } }

theorem test_serving : ready.Serving := ⟨by decide, by decide⟩

theorem test_wit_tail : ringOn.Serving ∧ 63 < 64 ∧ 2 ^ (ringOn.ring 63).sizeLog ≤ (64 : Word).toNat % 65536 :=
  ⟨⟨by decide, by decide⟩, by decide +kernel⟩
theorem test_tail_range : ((nextOf (exec (.ringCtailDoorbell 63 64) ringOn)).ring 63).tailRange = true ∧
    ((nextOf (exec (.ringCtailDoorbell 63 63) ringOn)).ring 63).tail = 63 := by decide +kernel
theorem test_wit_enabled : ringOn.Serving ∧ (ringOn.ring 63).enable = true ∧ (ringOn.cqr 63).enable = true ∧ (1 : Word).bit 0 = true ∧
    (0 : Word).bit 0 = false := ⟨⟨by decide, by decide⟩, by decide +kernel⟩

/-- CQ 63, FORMAT B, SIZE_LOG2 6 and 5. -/
theorem test_wit_ring_enable : ringOn.Serving ∧ (ringOn.ring 0).enable = false ∧ (∀ l, lineOf ringOn (.entry 0) l ≠ some none) ∧
    (0x3F000603 : Word).bit 0 = true ∧ ((0x3F000603 : Word).field 12 8 = 6 ∧ (ringOn.cqr ((0x3F000603 : Word).field 29 24)).enable = true ∧
    (ringOn.cqr ((0x3F000603 : Word).field 29 24)).fmtB = (0x3F000603 : Word).bit 1 ∧ (ringOn.ring 0).fetchErr = false) ∧
    (0x3F000503 : Word).field 12 8 < 6 :=
  ⟨⟨by decide, by decide⟩, by decide +kernel, no_line _ rfl _, by decide +kernel⟩
theorem test_ring_enable : ((nextOf (exec (.cmdRingEnable 0 0x3F000603) ringOn)).ring 0).enable = true ∧
    ((nextOf (exec (.cmdRingEnable 0 0x3F000503) ringOn)).ring 0).enRefused = true := by decide +kernel
theorem test_wit_cq_enable : (ringOn.cqr 0).enable = false ∧ (0x1001 : Word).field 12 8 = 16 ∧ (0x1101 : Word).field 12 8 = 17 ∧
    (∃ r ∈ ringOn.rng.c, r.enable = true ∧ r.cq = 63) ∧
    ({ ringOn with rng := { ringOn.rng with c := [] } } : State).rng.cmds = [] := by decide +kernel

theorem test_wit_doorbell : ringOn.Serving ∧ (63 : Word).toNat % 65536 < 2 ^ (ringOn.ring 63).sizeLog ∧
    (∀ l, lineOf ringOn (.entry 63) l ≠ some none) ∧ 63 < ringOn.rng.c.length ∧ (ringOn.ring 63).stopped = false ∧
    (ringOn.ring 63).head ≠ 63 ∧ inFlight ringOn 63 < 256 ∧ ringOn.LineFree ((ringOn.ring 63).entryAddr / 128) :=
  ⟨⟨by decide, by decide⟩, by decide +kernel, no_line _ rfl _, by decide +kernel, by decide +kernel, by decide +kernel,
   by decide +kernel, by unfold State.LineFree; decide +kernel⟩

def fetched : State := holding (.entry 63) 0 (entry 0 []) ringOn
theorem test_wit_fetch : (ringOn.ring 63).head ≠ (ringOn.ring 63).tail ∧ inFlight fetched 63 < 256 ∧
    lineOf fetched (.entry 63) ((fetched.ring 63).entryAddr / 128) = some (some (slice (entry 0 []) 0 128)) := by decide +kernel
theorem test_wit_fetch_error : lineOf ({ ringOn with fab := { lines := [(.entry 63, 0, none)] } } : State) (.entry 63) 0 = some none := by
  decide +kernel
theorem test_wit_fetch_full : 256 ≤ inFlight ({ ringOn with rng := { ringOn.rng with
    cmds := List.replicate 256 { ring := 63 } } } : State) 63 := by decide +kernel

def finished : State := { ringOn with rng := { ringOn.rng with comps := [{ ticket := 9, ring := 63, cq := 63, irq := true, status := 0x2001 }] } }
def fullRing : State := { finished with rng := { finished.rng with q := modAt finished.rng.q 63 fun q => { q with widx := 63 } } }
theorem test_wit_completion : finished.carrying = true ∧ (nextComp finished 63).isSome = true ∧ (finished.cqr 63).hasRoom = true ∧
    (finished.cqr 63).base % 4096 = 0 ∧ (∀ l, lineOf finished (.entry 63) l ≠ some none) ∧ fullRing.carrying = true ∧
    63 < fullRing.rng.q.length ∧ (nextComp fullRing 63).isSome = true ∧ (fullRing.cqr 63).hasRoom = false ∧ (fullRing.cqr 63).full = false :=
  ⟨by decide +kernel, by decide +kernel, by decide +kernel, by decide +kernel, no_line _ rfl _, by decide +kernel⟩
theorem test_completion : ((nextOf (exec (.completionWrite 63) finished)).cqr 63).widx = 1 ∧
    ((nextOf (exec (.completionWrite 63) fullRing)).cqr 63).full = true := by decide +kernel

def three (phase : CmdPhase) (op : Nat) : State := given { cmd op [] phase with ring := 63, cq := 63, n0 := 0 } ringOn
theorem test_wit_dispatch : (three .fetched 0).carrying = true ∧ (three .fetched 0).rng.rrRing < 64 ∧
    (ringPick (three .fetched 0) 63).isSome = true ∧ (∀ j < 63, ringPick (three .fetched 0) j = none) ∧
    headerStatus (three .fetched 0) (cmd 0 [] .fetched) = none ∧
    (headerStatus (three .fetched 0x7F) (cmd 0x7F [] .fetched)).isSome = true ∧ (∀ n < 64, ringPick ringOn n = none) := by decide +kernel
theorem test_wit_stall : ringOn.Serving ∧ (ringOn.ring 63).head ≠ (ringOn.ring 63).tail ∧ ringOn.lan.ringWdog.v ≠ 0 ∧ (ringOn.ring 63).stallSaid = false ∧
    ((nextOf (exec (.ringStall 63) ringOn)).ring 63).stallSaid = true := ⟨⟨by decide, by decide⟩, by decide +kernel⟩

/-! ## Published figures -/

/-- FIPS 197, C.3. -/
theorem test_aes_256 : Aes.encBlock (Aes.roundKeys ((List.range 32).map (BitVec.ofNat 8))) ((List.range 16).map fun i => BitVec.ofNat 8 (17 * i)) =
    [0x8e, 0xa2, 0xb7, 0xca, 0x51, 0x67, 0x45, 0xbf, 0xea, 0xfc, 0x49, 0x90, 0x4b, 0x49, 0x60, 0x89] := by decide +kernel
/-- The published vector of Philox 4x32-10 for counter 0 and key 0. -/
theorem test_philox : F32.philox 0 0 0 0 = 0x6627e8d5 := by decide +kernel
/-- FIPS 180-4: constant i is the fractional part of the cube root of the i-th prime, in units of 2^-32. -/
theorem test_sha_constants :
    let primes := (List.range 312).filter fun n => 2 ≤ n && (List.range n).all fun d => d < 2 || n % d != 0
    primes.length = 64 ∧ ∀ e ∈ primes.zip Sha.k, ∃ q ∈ List.range 7,
      let root := q * 2 ^ 32 + e.2.toNat
      root ^ 3 ≤ e.1 * 2 ^ 96 ∧ e.1 * 2 ^ 96 < (root + 1) ^ 3 := by decide +kernel
/-- FIPS 180-4: the digest of "abc" begins ba7816bf. -/
theorem test_sha_256 : (sha256 [0x61, 0x62, 0x63]).take 4 = [0xba, 0x78, 0x16, 0xbf] := by decide +kernel
/-- RFC 3720: CRC-32C of "123456789". -/
theorem test_crc_32c : crc32c [0x31, 0x32, 0x33, 0x34, 0x35, 0x36, 0x37, 0x38, 0x39] = 0xE3069283 := by decide +kernel

/-! ## Images -/

/-- An image of n bytes with a digest and fields (byte, value); the digests were computed by another implementation. -/
def image (n digest : Nat) (fs : List (Nat × Nat)) : List Byte :=
  leBytes n (((16, digest) :: fs).map fun f => f.2 * 256 ^ f.1).sum

/-- A vocabulary of version 1 with the tokens "a" and "b". -/
def vocImage : List Byte := image 512 0xb950c165fbcfa289b57edb768c708b8d5842f4a5e41e60eb4a0e6bf4641ba478
  [(0, 0x4356594E), (4, 1), (6, 256), (8, 512), (48, 2), (52, 0xFFFFFFFF), (108, 1),
  (112, 256), (116, 128), (120, 3), (128, 384), (132, 128), (136, 2), (260, 1), (264, 2), (384, 0x6261)]

/-- An automaton of one accepting state that loops on "a". -/
def autImage : List Byte := image 512 0x8be6100c915ca6faf6db5b9805a335a470239d37f7e02b2c0f268c123c2d382a
  [(0, 0x5541594E), (4, 1), (6, 256), (8, 512), (50, 1), (52, 1), (60, 1), (68, 2),
  (112, 256), (116, 128), (120, 1), (128, 384), (132, 128), (136, 1), (260, 1), (262, 1), (264, 0xFFFFFFFF), (384, 0x461)]

/-- A pre-split program: FIN. -/
def progImage1 : List Byte := image 384 0xeec4f57f3c12f833f96a1213c8ee330a4aed23f9a29efd3f8efde4a15b9029ec
  [(0, 0x504B594E), (4, 1), (6, 256), (8, 384), (48, 1), (52, 1), (112, 256), (116, 128), (120, 1),
  (256, 0xD4000000)]

/-- The stop set of one string "a". -/
def stopImage1 : List Byte := image 960 0xb9e8046106bd11853fff8e718a0b094c2365c24c3df8cbea8214854ee4a1a4f4
  [(0, 0x5453594E), (4, 1), (6, 64), (8, 960), (12, 1), (13, 2), (48, 1), (64, 0x61), (673, 1), (896, 1)]

theorem test_voc_image : vocHeaderOk vocImage 512 = true := by decide +kernel
theorem test_aut_image : autHeaderOk autImage 512 = true ∧ autBodyOk autImage (parseVoc vocImage) = true := by decide +kernel
theorem test_prog_image : progHeaderOk progImage1 384 = true ∧ progBodyOk progImage1 = true := by decide +kernel
theorem test_stop_image : stopHeaderOk stopImage1 960 = true ∧ stopCanonical stopImage1 = true := by decide +kernel

/-- The command 1 executes and holds n bytes at byte 0 of memory. -/
def loading (op n0 : Nat) (img : List Byte) (fs : List (Nat × Nat)) (s : State := ready) : State :=
  (linesOf 0 img.length).foldl (fun s l => holding (.command 1) l (img.drop (128 * l)) s)
    (given { cmd op ((32, img.length) :: fs) .executing with n0 := n0 } s)

/-- Whether the hypotheses "executes, its image read with the right digest" hold. -/
def Loads (s : State) (op : Nat) (img : List Byte) : Prop :=
  s.carrying = true ∧ (s.cmd? 1).map Cmd.opcode = some op ∧ (s.cmd? 1).map Cmd.phase = some .executing ∧
    readBytes s (.command 1) 0 img.length = .got img ∧ computedDigest img = imgDigest img

/-! ## Commands of the block -/

theorem test_wit_nop : (given (cmd 0)).Accepted 1 0x00 (cmd 0) ∧ (given (cmd 1)).Accepted 1 0x01 (cmd 1) ∧ (cmd 1).bit 16 0 = false := by
  unfold State.Accepted; decide +kernel
theorem test_wit_fence : (given (cmd 1 [(16, 1)] .executing)).Executing 1 0x01 (cmd 1 [(16, 1)] .executing) ∧ (cmd 1 [(16, 1)]).bit 16 0 = true ∧
    (cmd 1 [(16, 1)] .executing).n0 ≤ (ready.ownPkr 0).recRing.wseq ∧ (ready.ownPkr 0).recRing.wseq < 1 := by
  unfold State.Executing; decide +kernel

def staged : State := { ready with
  lan := { ready.lan with g1Written := true }
  eqs := { ready.eqs with qs := modAt ready.eqs.qs 63 fun q => { q with stgWritten := true, highStg := 16384, lowStg := 16383 } } }
theorem test_wit_commit_config : (given (cmd 2) staged).Accepted 1 0x02 (cmd 2) ∧
    (∀ g < 6, (((cmd 2).le 16 4 == 0 || ((cmd 2).le 16 4).testBit g) && groupWritten (given (cmd 2) staged) g) = true →
      groupOk (given (cmd 2) staged) g = true) ∧
    ((((cmd 2).le 16 4 == 0 || ((cmd 2).le 16 4).testBit 2) && groupWritten (given (cmd 2) staged) 2) = false) ∧ groupWritten staged 0 = true := by
  unfold State.Accepted; decide +kernel
theorem test_commit_config : ((nextOf (exec (.commitConfig 1) (given (cmd 2) staged))).rng.comps.map fun e => (e.status, e.d0)) = [(0, 3)] := by
  decide +kernel
def badStaged : State := { ready with eqs := { ready.eqs with qs := modAt ready.eqs.qs 0 fun q => { q with stgWritten := true, lowStg := 12288 } } }
theorem test_wit_commit_bad : groupWritten (given (cmd 2) badStaged) 0 = true ∧ groupOk (given (cmd 2) badStaged) 0 = false ∧
    ((nextOf (exec (.commitConfig 1) (given (cmd 2) badStaged))).rng.comps.map fun e => (e.status, e.d0)) = [(0x2018, 1)] := by decide +kernel
def areasStaged : State := { ready with pkr := { ready.pkr with owners := modAt ready.pkr.owners 63 fun p => { p with
  stg := [0x10000, 0, 16, 0x100000, 0, 16, 0x200000, 0, 16], stgWritten := true } } }
theorem test_wit_areas : (given (cmd 2 [(16, 4)]) areasStaged).Accepted 1 0x02 (cmd 2 [(16, 4)]) ∧ (cmd 2 [(16, 4)]).le 16 4 = 4 ∧
    groupOk (given (cmd 2 [(16, 4)]) areasStaged) 2 = true ∧ 63 < areasStaged.pkr.owners.length ∧ (areasStaged.ownPkr 63).stgWritten = true ∧
    (∀ x ∈ areasStaged.ctx.streams, (areasStaged.ownPkr x.owner).stgWritten = false) := by unfold State.Accepted; decide +kernel

/-- Slot 0 holds the vocabulary image. -/
def slotted (s : State := ready) : State :=
  { s with voc := { s.voc with slots := modAt s.voc.slots 0 fun _ => { st := .loaded, img := parseVoc vocImage, entries := 2 } } }

theorem test_wit_load_vocab : (given (cmd 0x10) slotted).Accepted 1 0x10 (cmd 0x10) ∧ ((given (cmd 0x10) slotted).slot (cmd 0x10).slot16).st ≠ .empty := by
  unfold State.Accepted; decide +kernel
theorem test_wit_vocab_image : Loads (loading 0x10 1 vocImage []) 0x10 vocImage ∧ vocBodyOk vocImage = true := by
  unfold Loads; decide +kernel
theorem test_wit_vocab_digest : readBytes (loading 0x10 1 [7] []) (.command 1) 0 1 = .got [7] ∧ computedDigest [7] ≠ imgDigest [7] := by decide +kernel
theorem test_wit_vocab_body : Loads (loading 0x10 1 autImage []) 0x10 autImage ∧ vocBodyOk autImage = false := by unfold Loads; decide +kernel
theorem test_wit_drop_vocab : (given (cmd 0x11) slotted).Accepted 1 0x11 (cmd 0x11) ∧ ((given (cmd 0x11) slotted).slot (cmd 0x11).slot16).st = .loaded ∧
    (∀ y ∈ slotted.ctx.streams, y.slot ≠ 0) ∧ (∀ a ∈ slotted.aut.auts, a.st = .empty) ∧ (∃ y ∈ (having five slotted).ctx.streams, y.slot = 0) ∧
    (∀ j ∈ (given (cmd 0x11) slotted).job.js, 0 ∉ j.slots) := by unfold State.Accepted; decide +kernel

/-- Automaton 0 is the one of the image. -/
def masked (s : State := slotted) : State := { s with aut := { s.aut with auts := modAt s.aut.auts 0 fun _ => {
  st := .loaded, img := parseAut autImage 2, slot := 0 } } }

theorem test_wit_load_automaton : Loads (loading 0x12 1 autImage [] slotted) 0x12 autImage ∧ 0 < slotted.aut.auts.length ∧
    autBodyOk autImage (slotted.slot 0).img = true ∧ (slotted.automaton 0).spilled = false ∧ (∀ e ∈ slotted.cup.entries, e.fillFor = none) := by
  unfold Loads; decide +kernel
theorem test_wit_eager_spill : (given { cmd 0x12 [] .executing with n0 := 3 } slotted).Executing 1 0x12 { cmd 0x12 [] .executing with n0 := 3 } ∧
    (given { cmd 0x12 [] .executing with n0 := 2 } slotted).Executing 1 0x12 { cmd 0x12 [] .executing with n0 := 2 } ∧
    writesOut slotted (.spillLine 1) = false ∧ (∀ e ∈ slotted.cup.entries, e.fillFor = some 1 → e.filling = false) := by
  unfold State.Executing; decide +kernel
theorem test_wit_drop_automaton : (given (cmd 0x13) masked).Accepted 1 0x13 (cmd 0x13) ∧ (masked.automaton 0).st = .loaded ∧
    (masked.automaton 0).shared = false ∧ (masked.automaton 0).owner = (cmd 0x13).owner ∧ (∀ x ∈ masked.ctx.streams, x.aut ≠ some 0) ∧
    (∀ j ∈ masked.job.js, 0 ∉ j.auts) ∧ (∃ x ∈ (having { five with aut := some 0 } masked).ctx.streams, x.aut = some 0) := by unfold State.Accepted; decide +kernel

theorem test_wit_load_program : Loads (loading 0x14 1 progImage1 [(16, 32)]) 0x14 progImage1 ∧ progBodyOk progImage1 = true ∧
    (∀ j ∈ (loading 0x14 1 progImage1 [(16, 32)]).job.js, j.prog ≠ some 32) := by
  unfold Loads; decide +kernel
theorem test_wit_program_digest : (loading 0x14 1 [7] []).carrying = true ∧ readBytes (loading 0x14 1 [7] []) (.command 1) 0 1 = .got [7] ∧
    (given (cmd 0x14 [] .executing)).Executing 1 0x14 (cmd 0x14 [] .executing) ∧ (cmd 0x14).len32 = 0 := by unfold State.Executing; decide +kernel
theorem test_wit_load_stopset : Loads (loading 0x15 1 stopImage1 []) 0x15 stopImage1 ∧ stopCanonical stopImage1 = true ∧
    (∀ j ∈ (loading 0x15 1 stopImage1 []).job.js, j.stop ≠ some (0, 0)) := by unfold Loads; decide +kernel
/-- A replacement of a stop set that a stream is bound to by now. -/
def boundLoad : State := having { five with stop := some 0 } (loading 0x15 1 stopImage1 [(17, 1)])
theorem test_wit_stopset_bound : Loads boundLoad 0x15 stopImage1 ∧ (boundLoad.cmd? 1).map (fun c => (c.bit 17 0, c.b 16, c.owner)) = some (true, 0, 0) ∧
    (∃ x ∈ boundLoad.ctx.streams, x.owner = 0 ∧ x.stop = some 0) ∧ (∀ j ∈ boundLoad.job.js, j.stop ≠ some (0, 0)) := by unfold Loads; decide +kernel
theorem test_wit_stopset_unload : (given (cmd 0x15 [] .executing)).Executing 1 0x15 (cmd 0x15 [] .executing) ∧ (cmd 0x15).len32 = 0 ∧
    readBytes (loading 0x15 1 [7] []) (.command 1) 0 1 = .got [7] := by unfold State.Executing; decide +kernel

/-- Key data 0 to 63, and 64 bytes of 0, each wrapped under a key of 32 bytes of 0 by another implementation of SP 800-38F. -/
def goodBlob : List Byte := leBytes 72 (0xbd037a171db70156ed26ecc56cc5a4831fb5d6abd5c7edd91e531cef0e0493d00863a263 * 2 ^ 288 +
  0xbce032ed5edd3f1f78a1c7d76c876f6e7ef381281970807a1e4865a5a355ce60c957c339)
def equalBlob : List Byte := leBytes 72 (0xd51999c3a36040af77420d603222853a6649512bd691ac18e273a53ecbc75155f85739b0 * 2 ^ 288 +
  0x7fd4f084070da497d0033fa5436f6e0e50702fed4c76fa26334cb46ebe9f5840553b8ed3)
def unwrapping (blob : List Byte) : State :=
  let s := holding (.command 1) 0 blob (given (cmd 0x18 [] .executing))
  { s with cry := { s.cry with unwrap := some 1 } }

theorem test_key_unwrap : kwUnwrap (List.replicate 32 0) goodBlob = (List.replicate 8 0xA6, (List.range 64).map (BitVec.ofNat 8)) := by decide +kernel
theorem test_wit_key_good : (unwrapping goodBlob).carrying = true ∧ (unwrapping goodBlob).cry.unwrap = some 1 ∧
    (unwrapping goodBlob).cmd? 1 = some (cmd 0x18 [] .executing) ∧ readBytes (unwrapping goodBlob) (.command 1) 0 72 = .got goodBlob := by decide +kernel
theorem test_wit_key_equal : (kwUnwrap (List.replicate 32 0) equalBlob).1 = List.replicate 8 0xA6 ∧
    ((kwUnwrap (List.replicate 32 0) equalBlob).2.take 32 = (kwUnwrap (List.replicate 32 0) equalBlob).2.drop 32) := by decide +kernel
theorem test_wit_key_check : (kwUnwrap (List.replicate 32 1) goodBlob).1 ≠ List.replicate 8 0xA6 := by decide +kernel
theorem test_wit_owner_key : (given (cmd 0x18) keyed).Accepted 1 0x18 (cmd 0x18) ∧ keyed.key? (cmd 0x18).owner ≠ none ∧ ready.key? (cmd 0x18).owner = none ∧
    (cmd 0x18).addr24 % 8 = 0 ∧ readBytes (holding (.command 1) 0 goodBlob (given (cmd 0x18))) (.command 1) 0 72 = .got goodBlob ∧
    ready.cry.unwrap = none := by unfold State.Accepted; decide +kernel

/-- Owner 0 has a stream and a tagged word; owner 1 has another. -/
def owned : State :=
  let s := having five (given (cmd 0x19))
  { s with mem := { s.mem with words := [(0, { value := 1 }), (16, { value := 2 })], tags := [(0, 0), (1, 1)] } }
theorem test_wit_release : owned.Accepted 1 0x19 (cmd 0x19) ∧ (∀ d ∈ owned.rng.cmds, d.owner = (cmd 0x19).owner → d.ticket = (cmd 0x19).ticket) ∧
    (∀ x ∈ owned.ctx.streams, x.owner = (cmd 0x19).owner → x.recorded = []) ∧ owned.aut.auts.length ≤ 64 := by unfold State.Accepted; decide +kernel
theorem test_release : (nextOf (exec (.ownerRelease 1) owned)).mem.words = [(16, { value := 2 })] ∧
    (nextOf (exec (.ownerRelease 1) owned)).ctx.streams = [] := by decide +kernel

/-! ## Stream commands -/

/-- A record ring and a replay ring of 64 KiB and a checkpoint area of 128 KiB for owner 0. -/
def rings (s : State) : State := { s with pkr := { s.pkr with owners := modAt s.pkr.owners 0 fun p => { p with
  recRing := { base := 0x100000, sizeLog := 16 }, rplRing := { base := 0x200000, sizeLog := 16 }, ckBase := 0x400000, ckLog := 17 } } }

/-- Slot 0 and automaton 0 loaded, a key, rings and queues for owner 0. -/
def home : State := keyed (rings (masked slotted))

/-- A command of stream 5. -/
def cmd5 (op : Nat) (fs : List (Nat × Nat) := []) : Cmd := cmd op ((8, 5) :: fs)
def on5 (x : Stream) (c : Cmd) : State := having x (given c home)

theorem test_wit_open : (given (cmd5 0x20) home).Accepted 1 0x20 (cmd5 0x20) ∧ openStatus (given (cmd5 0x20) home) (cmd5 0x20) = none ∧
    (given (cmd5 0x20) home).tree? 5 = none ∧ openStatus (on5 five (cmd5 0x20)) (cmd5 0x20) = some .streamState := by
  unfold State.Accepted; decide +kernel
/-- A stream with a step in flight. -/
def flying : Stream := { five with st := .running, svc := .open, armed := none, armSpent := true }
theorem test_wit_held : flying.atBoundary = false ∧ ∀ op ∈ [0x21, 0x22, 0x23, 0x24, 0x25, 0x28, 0x42], (on5 flying (cmd5 op)).Takes 1 op (cmd5 op) flying := by
  unfold State.Takes State.Accepted; decide +kernel
theorem test_wit_held_params : paramsStatus (on5 flying (cmd5 0x21)) flying (cmd5 0x21) = none ∧ (cmd5 0x21).sel 3 = false ∧
    (cmd5 0x25).bit 16 0 = false ∧ (cmd5 0x28).ownerWide = false ∧ epochRevoked (on5 flying (cmd5 0x28)) 0 0 = false := by decide +kernel
theorem test_held : ((nextOf (exec (.stepArm 1) (on5 flying (cmd5 0x23)))).stream? 5).map (·.recorded) = some [1] := by decide +kernel
theorem test_wit_refused : home.stream? (cmd5 0x21).stream = none ∧ (given (cmd5 0x44) home).Accepted 1 0x44 (cmd5 0x44) ∧
    (on5 { five with owner := 1 } (cmd5 0x23)).stream? 5 = some { five with owner := 1 } ∧ ({ five with owner := 1 } : Stream).owner ≠ (cmd5 0x23).owner ∧
    accepts { five with st := .ended } 0x23 = false := by unfold State.Accepted; decide +kernel

theorem test_wit_step_arm : (on5 five (cmd5 0x23 [(16, 3), (20, 0xFFFFFFFF)])).Takes 1 0x23 (cmd5 0x23 [(16, 3), (20, 0xFFFFFFFF)]) five ∧
    five.Resting ∧ (cmd5 0x23 [(16, 3), (20, 0xFFFFFFFF)]).le 20 4 = 0xFFFFFFFF ∧ (cmd5 0x23 [(20, 1)]).le 20 4 ≠ five.next ∧
    (cmd5 0x23 [(20, 1)]).le 20 4 ≠ 0xFFFFFFFF := by unfold State.Takes State.Accepted Stream.Resting; decide +kernel
theorem test_step_arm : ((nextOf (exec (.stepArm 1) (having five (given (cmd5 0x23 [(16, 3), (20, 0xFFFFFFFF)]))))).rng.comps.map fun e => (e.status, e.d0)) = [(0, 3)] := by
  decide +kernel

/-- Two ids, 0 and 1, at byte 0 of memory. -/
def prompting : State := holding (.command 1) 0 (leBytes 8 4294967296) (on5 five (cmd5 0x22 [(32, 2)]))
theorem test_wit_prompt : prompting.Takes 1 0x22 (cmd5 0x22 [(32, 2)]) five ∧ five.Resting ∧ prompting.tree? 5 = none ∧
    readBytes prompting (.command 1) (cmd5 0x22 [(32, 2)]).addr24 (cmd5 0x22 [(32, 2)]).promptLen = .got (leBytes 8 4294967296) ∧
    (promptTokens prompting five (cmd5 0x22 [(32, 2)]) (leBytes 8 4294967296)).ids.toOption = some [0, 1] ∧ five.waitCkpt = false ∧
    jobSlot prompting five.slot = none ∧ promptShared (promptTokens prompting five (cmd5 0x22 [(32, 2)]) (leBytes 8 4294967296)) 8 = false ∧
    promptLong (promptTokens prompting five (cmd5 0x22 [(32, 2)]) (leBytes 8 4294967296)) = false ∧ spillHere prompting five [] = true ∧
    2 + 1024 ≤ ((prompting.ownPkr 0).ring true).entries true ∧
    queueRoom prompting five (textRecord true 5 five.lastStep (endText five.utf8Raw five.text)) = true ∧ ringRoom prompting 0 true 2 = true := by
  unfold State.Takes State.Accepted Stream.Resting; decide +kernel

/-- SELECT 0x37: every group but the bias table. -/
def params : Cmd := cmd5 0x21 [(16, 0x37), (20, 0xC0), (24, 0x3F000000), (28, 0x3F000000), (36, 9)]
theorem test_wit_params : (on5 five params).Takes 1 0x21 params five ∧ five.Resting ∧ (on5 five params).tree? 5 = none ∧ five.st ≠ .deadEnd ∧
    paramsStatus (on5 five params) five params = none ∧ params.sel 3 = false ∧ params.le 36 4 ≠ 0 ∧ five.text.hold = [] := by
  unfold State.Takes State.Accepted Stream.Resting; decide +kernel
/-- A bias table of one pair. -/
def biased : Cmd := cmd5 0x21 [(16, 8), (48, 1)]
theorem test_wit_bias : readBytes (holding (.command 1) 0 (leBytes 8 1) (on5 five biased)) (.command 1) (biased.le 40 8) (8 * (biased.b 48 % 128)) =
    .got (leBytes 8 1) ∧ biasOk ((on5 five biased).vocOf five).v (biasPairs (leBytes 8 1)) = true ∧ biased.sel 3 = true := by decide +kernel

theorem test_wit_close : (on5 five (cmd5 0x25)).Takes 1 0x25 (cmd5 0x25) five ∧ (cmd5 0x25).bit 16 0 = false ∧
    queueRoom (on5 five (cmd5 0x25)) five (closeGroup five false) = true ∧ queueOwned (on5 five (cmd5 0x25)) five = true ∧
    five.queue < (on5 five (cmd5 0x25)).eqs.qs.length ∧ (∀ g ∈ ((on5 five (cmd5 0x25)).queue five.queue).resv, g.lost = false) := by
  unfold State.Takes State.Accepted; decide +kernel
theorem test_close : (nextOf (exec (.streamClose 1) (on5 five (cmd5 0x25)))).ctx.streams = [] := by decide +kernel
theorem test_wit_epoch : (on5 five (cmd5 0x28 [(20, 7)])).Takes 1 0x28 (cmd5 0x28 [(20, 7)]) five ∧ (cmd5 0x28 [(20, 7)]).ownerWide = false ∧
    epochRevoked (on5 five (cmd5 0x28 [(20, 7)])) 0 7 = false ∧ (on5 five (cmd5 0x42)).Takes 1 0x42 (cmd5 0x42) five := by
  unfold State.Takes State.Accepted; decide +kernel
theorem test_wit_checkpoint : (on5 five (cmd5 0x41)).Takes 1 0x41 (cmd5 0x41) five ∧ (ckptSlot (on5 five (cmd5 0x41)) five 1).isSome = true ∧
    (home.key? 0).isSome = true ∧ five.pendEpoch = none ∧ (cmd5 0x41).n1 = 0 := by unfold State.Takes State.Accepted; decide +kernel
theorem test_wit_no_slots : ∀ n, ckptSlot ready five n = none := by intro n; exact (by decide +kernel : ckptSlot ready five 0 = none) ▸ rfl

theorem test_wit_owner_epoch : (given (cmd 0x28 [(16, 1), (20, 7)])).Accepted 1 0x28 (cmd 0x28 [(16, 1), (20, 7)]) ∧
    (cmd 0x28 [(16, 1), (20, 7)]).ownerWide = true ∧ epochRevoked ready 0 7 = false ∧ (∀ x ∈ ready.ctx.streams, x.owner ≠ 0) := by
  unfold State.Accepted; decide +kernel
/-- Owner 0 has revoked epochs 1 to 16. -/
def revoked : State := keyed { ready with ctx := { ready.ctx with owners := modAt ready.ctx.owners 0 fun _ =>
  { epoch := 0, revoked := (List.range 16).map fun i => (i + 1, 0) } } }
theorem test_wit_revoke : (given (cmd 0x29 [(20, 17)]) revoked).Accepted 1 0x29 (cmd 0x29 [(20, 17)]) ∧ epochRevoked revoked 0 0 = false ∧
    epochRevoked revoked 0 16 = true ∧ revoked.key? 0 ≠ none ∧
    (∀ x ∈ revoked.ctx.streams, x.owner = 0 → x.epoch ≠ 17 ∧ x.pendEpoch ≠ some 17) := by unfold State.Accepted; decide +kernel
theorem test_revoke : ((nextOf (exec (.epochRevoke 1) (given (cmd 0x29 [(20, 17)]) revoked))).owner 0).revoked.map Prod.fst =
    17 :: (List.range 15).map (· + 1) := by decide +kernel

/-- A stream of owner 0 in epoch 17 with a step in flight; records of it to mark, and none. -/
def inEpoch : State := having { flying with epoch := 17 } (given (cmd 0x29 [(20, 17)]) revoked)
theorem test_wit_wide_epoch : (∀ x ∈ inEpoch.ctx.streams, x.owner = 0 → x.atBoundary = false ∧ 1 ∉ x.recorded) ∧
    (inEpoch.ctx.streams.filter (·.owner == 0)).map (·.id) ≠ [] ∧ (inEpoch.ctx.streams.map (·.id)).Nodup ∧
    inEpoch.Accepted 1 0x29 (cmd 0x29 [(20, 17)]) ∧ (inEpoch.ownPkr 0).recRing.next ≤ (inEpoch.ownPkr 0).head ∧
    (inEpoch.ownPkr 0).recRing.staged = [] ∧ ((inEpoch.ownPkr 0).recRing.next + 3) / 4 ≤ (inEpoch.ownPkr 0).head / 4 ∧
    inEpoch.fab.stores ++ inEpoch.fab.waiting = [] ∧ (cmd 0x29 [(20, 17)]).n0 = 0 ∧ (cmd 0x29 [(20, 17)]).failed = false := by
  unfold State.Accepted; decide +kernel
theorem test_wit_wide_epoch_held : (having flying (given (cmd 0x28 [(16, 1), (20, 7)]))).Accepted 1 0x28 (cmd 0x28 [(16, 1), (20, 7)]) := by
  unfold State.Accepted; decide +kernel
theorem test_wit_revoke_no_key :
    let s : State := { ready with pkr := { ready.pkr with owners := modAt ready.pkr.owners 0 fun p => { p with recRing := { p.recRing with next := 1 } } } }
    s.key? 0 = none ∧ (s.ownPkr 0).head < (s.ownPkr 0).recRing.next ∧ epochRevoked s 0 0 = false := by decide +kernel

theorem test_wit_snapshot : (given (cmd 0x40)).Accepted 1 0x40 (cmd 0x40) ∧ ready.snp.busy = none ∧
    ({ given (cmd 0x40) with snp := { ready.snp with busy := some 2 } } : State).snp.busy = some 2 := by unfold State.Accepted; decide +kernel
theorem test_wit_marker : (nextOf (exec (.snapshot 1) (given (cmd 0x40)))).carrying = true ∧ (nextOf (exec (.snapshot 1) (given (cmd 0x40)))).snp.busy = some 1 ∧
    ((nextOf (exec (.snapshot 1) (given (cmd 0x40)))).cmd? 1).isSome = true := by decide +kernel

/-- A stream suspended by SUSPEND, one whose step failed, one suspended by a start. -/
def resting (st : StState) (cause : SuspCause) : Stream := { five with st := st, prior := .ended, cause := cause, susTag := 3 }
theorem test_wit_resume : (on5 (resting .suspended .bySuspend) (cmd5 0x43)).Takes 1 0x43 (cmd5 0x43) (resting .suspended .bySuspend) ∧
    (on5 (resting .stepFailed .bySuspend) (cmd5 0x43)).Takes 1 0x43 (cmd5 0x43) (resting .stepFailed .bySuspend) ∧ (cmd5 0x43).ownerWide = false ∧
    home.key? 0 ≠ none ∧ ready.key? 0 = none := by unfold State.Takes State.Accepted; decide +kernel
/-- Tag 3 of start 1. -/
def attach : Cmd := cmd5 0x44 [(24, 3), (28, 1)]
theorem test_wit_reattach : (on5 (resting .suspended .byStart) attach).Takes 1 0x44 attach (resting .suspended .byStart) ∧ attach.le 20 4 = five.next ∧
    attach.le 24 8 = 3 + 4294967296 * (home.lan.starts % 4294967296) ∧ (cmd5 0x44 [(20, 1)]).le 20 4 ≠ five.next ∧
    (cmd5 0x44).le 24 8 ≠ 3 + 4294967296 * (home.lan.starts % 4294967296) := by unfold State.Takes State.Accepted; decide +kernel
/-- RESUME of all streams of the owner; a stream that a start found suspended by SUSPEND. -/
def resumeAll : Cmd := cmd 0x43 [(16, 1)]
theorem test_wit_resume_all : (having (resting .suspended .bySuspend) (given resumeAll home)).Accepted 1 0x43 resumeAll ∧ resumeAll.ownerWide = true ∧
    streamTakes (resting .suspended .bySuspend) 0x43 = true ∧ (resting .suspended .bySuspend).recorded = [] ∧
    (on5 { resting .suspended .byStart with inner := some (.bySuspend, .idle) } attach).Takes 1 0x44 attach
      { resting .suspended .byStart with inner := some (.bySuspend, .idle) } := by unfold State.Takes State.Accepted; decide +kernel
/-- Queue 63 holds two records, the first partly read. -/
def queued : State := { ready with eqs := { ready.eqs with qs := modAt ready.eqs.qs 63 fun q => { q with
  recs := [List.replicate 32 1, List.replicate 32 2], partRead := 4 } } }
theorem test_wit_flush : (given (cmd 0x48 [(16, 63)]) queued).Accepted 1 0x48 (cmd 0x48 [(16, 63)]) ∧ (cmd 0x48 [(16, 63)]).bit 17 0 = false ∧
    (queued.queue ((cmd 0x48 [(16, 63)]).b 16 % 64)).owner = (cmd 0x48 [(16, 63)]).owner ∧ 63 < queued.eqs.qs.length ∧
    (queued.queue 63).owner ≠ (cmd 0x48 [(2, 1), (16, 63)]).owner := by unfold State.Accepted; decide +kernel
theorem test_wit_flush_all : (given (cmd 0x48 [(17, 1)]) queued).Accepted 1 0x48 (cmd 0x48 [(17, 1)]) ∧ (cmd 0x48 [(17, 1)]).bit 17 0 = true ∧
    queued.eqs.qs.length = 64 := by unfold State.Accepted; decide +kernel
theorem test_flush : ((nextOf (exec (.flush 1) (given (cmd 0x48 [(16, 63)]) queued))).rng.comps.map fun e => (e.status, e.d0)) = [(0, 1)] := by decide +kernel

/-! ## Jobs -/

/-- Command 1 holds one line at byte 0 of memory. -/
def reading (c : Cmd) (bs : List Byte) (s : State := home) : State := holding (.command 1) 0 bs (given c s)

/-- TOKENIZE without a slot, and its scatter list: 4 bytes at 0x1000. -/
def tokCmd : Cmd := cmd 0x30 [(17, 6), (32, 1), (36, 64), (40, 0x2000)]
def oneSeg : List Byte := leBytes 16 (0x1000 + 4 * 2 ^ 64)
theorem test_wit_tokenize : (reading tokCmd oneSeg).Accepted 1 0x30 tokCmd ∧ tokenizeStatus (reading tokCmd oneSeg) tokCmd = none ∧
    readBytes (reading tokCmd oneSeg) (.command 1) tokCmd.addr24 (16 * tokCmd.len32) = .got oneSeg ∧ scatterOk oneSeg = true ∧
    (∃ g ∈ segsOf oneSeg, awaited (reading tokCmd oneSeg) (.command 1) g.1 g.2 = true) ∧
    (readable (reading tokCmd oneSeg) (.command 1) tokCmd.addr24 (16 * tokCmd.len32)).1 = oneSeg ∧
    tokenizeStatus ready (cmd 0x30) = some .noSlot ∧ ((segsOf (leBytes 16 0x1000)).map Prod.snd).sum = 0 := by unfold State.Accepted; decide +kernel
def detCmd (n : Nat) (phase : CmdPhase := .dispatched) : Cmd := cmd 0x31 [(17, 1), (32, n), (36, 64), (40, 0x2000)] phase
theorem test_wit_detokenize : (given (detCmd 1)).Accepted 1 0x31 (detCmd 1) ∧ detokStatus (given (detCmd 1)) (detCmd 1) = none ∧ (detCmd 0).len32 = 0 ∧
    awaited (given (detCmd 1)) (.command 1) (detCmd 1).addr24 (4 * (detCmd 1).len32) = true ∧ detokStatus ready (cmd 0x31) = some .noSlot := by
  unfold State.Accepted; decide +kernel
theorem test_wit_align : (given (cmd 0x39 [(24, 4)])).Accepted 1 0x39 (cmd 0x39 [(24, 4)]) ∧ (cmd 0x39 [(24, 4)]).addr24 % 8 ≠ 0 ∧
    (given (cmd 0x38 [(24, 32)])).Accepted 1 0x38 (cmd 0x38 [(24, 32)]) ∧ (cmd 0x38 [(24, 32)]).addr24 % 64 ≠ 0 := by unfold State.Accepted; decide +kernel

/-- The byte id 0x61 has been read. -/
def detRead : State :=
  let s := reading (detCmd 1 .recorded) (leBytes 4 0x61)
  { s with job := { js := [{ ticket := 1, reading := true }] } }
theorem test_wit_detokenize_plan : detRead.carrying = true ∧ detRead.cmd? 1 = some (detCmd 1 .recorded) ∧ (detCmd 1 .recorded).phase = .recorded ∧
    (detRead.job? 1).map (·.reading) = some true ∧ awaited detRead (.command 1) (detCmd 1).addr24 4 = false ∧
    (detRead.job? 1).map (fun j => (j.nextUnit, j.errUnit, jobFaulted detRead j)) = some (0, none, false) ∧ (detRead.turret 0).lane = [] ∧
    jobFaulted { detRead with aut := { detRead.aut with stops := [{ owner := 0, id := 1, st := .faulted }] } } { stop := some (0, 1) } = true ∧
    (detokPlan (detokGo false none none 64 true [0x61] {} 0 0) 1 true).units ≠ [] := by decide +kernel
/-- A reference of kind 0. -/
def refCmd : Cmd := cmd 0x39 [(32, 1), (36, 128), (40, 0x2000)]
theorem test_wit_replay : (reading refCmd (leBytes 8 0)).carrying = true ∧ refCmd.phase = .dispatched ∧ (reading refCmd (leBytes 8 0)).job? 1 = none ∧
    readBytes (reading refCmd (leBytes 8 0)) (.command 1) refCmd.addr24 (8 * refCmd.len32) = .got (leBytes 8 0) ∧
    (∃ m, replayRefs (reading refCmd (leBytes 8 0)) refCmd (leWords 8 (leBytes 8 0)) = .got [m] ∧ masksFit refCmd.outLen [m] 0 ≠ []) :=
  ⟨by decide +kernel, by decide +kernel, by decide +kernel, by decide +kernel, maskBytes (parseVoc vocImage) 3, by decide +kernel, by decide +kernel⟩

theorem test_wit_tokenize_output : ∀ u ∈ ([(0, { pieces := [] })] : List (Nat × Tok.UnitOut)), u.2.fail = none := by decide

/-- A job with a written unit, one to write, one that waits. -/
def jobbed : State := { ready with job := { js := [{ ticket := 1, units := [{ out := [(0, [1])] }, { longPiece := true },
  { suspended := true, out := [(2, List.replicate 5000 0)] }] }] } }
theorem test_wit_units : jobbed.carrying = true ∧ ((jobbed.job? 1).bind fun j => j.units[j.nextUnit]?) = some { out := [(0, [1])] } ∧
    ((jobbed.job? 1).map fun j => (j.reading, j.errUnit)) = some (false, none) ∧
    jobQuiet jobbed 1 = true ∧ jobQuiet { jobbed with fab := { stores := [{ who := .jobLine 1 0 }] } } 1 = false ∧
    ((jobbed.job? 1).bind fun j => j.units[2]?).map (·.suspended) = some true := by decide +kernel
/-- Cluster 0's area is job 2's; job 1 waits with a long piece. -/
def areaHeld : State := { jobbed with
  job := { js := [{ ticket := 1, units := [{ longPiece := true }] }] }
  cup := { jobbed.cup with longPiece := [(0, 2)], longWait := [(0, 1)] } }
theorem test_wit_area : (areaHeld.job? 1).bind (fun j => (j.units[j.nextUnit]?).map (·.longPiece)) = some true ∧ (0, 1) ∉ areaHeld.cup.longPiece ∧
    (∃ w ∈ areaHeld.cup.longPiece, w.1 = 0) := by decide +kernel
theorem test_wit_area_grant : ({ areaHeld with cup := { areaHeld.cup with longPiece := [] } } : State).cup.longWait.find? (·.1 == 0) = some (0, 1) ∧
    (makeRoom ({ areaHeld with cup := { areaHeld.cup with longPiece := [] } } : State) longArea).isSome = true := by decide +kernel

theorem test_wit_placement : 1 ≤ ({ rows := 1, rowLen := 8, budget := 8, mbs := 1 } : PackDesc).rows ∧
    ({ rows := 1, rowLen := 8, budget := 8, mbs := 1 } : PackDesc).rowLen ≤ ({ rows := 1, rowLen := 8, budget := 8, mbs := 1 } : PackDesc).budget := by decide

/-- A key of 64 different bytes for owner 0, its record ring with one entry written: token 1 of stream 5 at step 0. -/
def key64 : List Byte := (List.range 64).map (BitVec.ofNat 8)
def recorded1 : State :=
  let s := rings { ready with lan := { ready.lan with keys := setAt ready.lan.keys 0 (some { key := key64 }) } }
  { s with pkr := { s.pkr with owners := modAt s.pkr.owners 0 fun p => { p with recRing := { p.recRing with wseq := 4, next := 4 } } } }
def recLine : List Byte := slice (recordOf five 1 0 0 0 0 0) 0 128
/-- One sequence of one token, one micro-batch of one row of 8. -/
def packDesc : List Byte := leBytes 100 (0x4B50594E + 2 ^ 32 + 64 * 2 ^ 48 + 2 ^ 64 + 8 * 2 ^ 96 + 8 * 2 ^ 128 + 2 ^ 160 + 2 ^ 192 + 2 ^ 224 +
  0x8000 * 2 ^ 256 + 0x10000 * 2 ^ 320 + 5 * 2 ^ 512 + 1 * 2 ^ 656)
def packCmd : Cmd := cmd 0x38 [(32, 100)]
def packing : State := holding (.command 1) 0x2000 (xtsEncrypt key64 0x100000 1 0 recLine) (reading packCmd packDesc recorded1)
theorem test_wit_pack : packing.Accepted 1 0x38 packCmd ∧ packCmd.addr24 % 64 = 0 ∧
    readBytes packing (.command 1) packCmd.addr24 packCmd.len32 = .got packDesc ∧ descOk packDesc packCmd.len32 = true ∧
    packing.key? packCmd.owner ≠ none ∧ (packing.ownPkr packCmd.owner).recRing.sizeLog ≠ 0 ∧
    firstBad (fun q => !seqInRing (packing.ownPkr packCmd.owner).recRing q) (parseDesc packDesc).seqs 0 = none ∧
    packRecords packing packCmd (parseDesc packDesc).seqs 0 = .inl (.got [[recLine.take 32]]) := by unfold State.Accepted; decide +kernel

/-! ## A step -/

/-- Stream 5 builds the mask of step 0; its unit is open. -/
def building (x : Stream := {}) : Stream := { x with id := 5, st := .running, svc := .build, armed := some 1 }
def unit5 : SelUnit := { stream := 5 }
def stepped (x : Stream) (u : SelUnit := unit5) (s : State := slotted) : State := { having x s with fin := { s.fin with units := [u] } }

theorem test_wit_mask : (stepped building).Serving ∧ (stepped building).stream? 5 = some building ∧ building.svc = .build ∧
    epochUnwritten (stepped building) 5 = false ∧ (stepped building).tree? 5 = none ∧ (stepped building).unit? 5 0 0x7F = some unit5 ∧
    unit5.sources = [] ∧ building.restoring = false ∧ building.forcedEos = false ∧ spillHere (stepped building) building [] = true ∧
    (uncovered [] (coverRange (stepped building) building).1 (coverRange (stepped building) building).2).isSome = true ∧
    (∀ k ∈ serviceKeys (stepped building) building, ∃ e ∈ (stepped building).cup.entries, e.key = some k ∧ e.filling = false) ∧
    (setMask (stepped building) building building.set).mask ≠ 0 ∧ (setMask (stepped building) building building.set).wide = false ∧
    (setMask (stepped building) building building.set).ev.read = [] ∧
    building.armed ≠ some 0 ∧ needsValues (stepped building) building = false := by unfold State.Serving; decide +kernel
theorem test_mask_ready : (nextOf (exec (.maskRdy 5) (stepped building))).fin.maskQueue = [(5, 0)] ∧
    ((nextOf (exec (.maskRdy 5) (stepped building))).unit? 5 0 0x7F).bind (·.mask) = some { all := true } := by decide +kernel
/-- No configuration is left. -/
def stuck : Stream := building { aut := some 0 }
theorem test_wit_dead_end : (stepped stuck unit5 masked).stream? 5 = some stuck ∧ serviceKeys (stepped stuck unit5 masked) stuck = [] ∧
    (setMask (stepped stuck unit5 masked) stuck stuck.set).mask = 0 ∧ (setMask (stepped stuck unit5 masked) stuck stuck.set).ev = {} ∧
    spillHere (stepped stuck unit5 masked) stuck [] = true ∧ stuck.svc = .build ∧ (stepped stuck unit5 masked).tree? 5 = none ∧ stuck.deadPolicy = 0 ∧ stuck.recorded = [] := by decide +kernel
theorem test_dead_end : ((nextOf (exec (.maskRdy 5) (stepped stuck unit5 masked))).stream? 5).map (·.st) = some .deadEnd := by decide +kernel

def entry0 : CupEntry := { key := some { aut := 0, q := 0, syms := [], exact := true }, filling := true }
theorem test_wit_fill : ({ masked with cup := { masked.cup with entries := [entry0] } } : State).cupEntry? { aut := 0, q := 0, syms := [], exact := true } =
    some entry0 ∧ entry0.fillFor = none := by decide +kernel
def waits : Stream := building { waitCup := true }
theorem test_wit_space : (stepped waits).stream? 5 = some waits ∧ waits.waitCup = true ∧ serviceKeys (stepped waits) waits = [] ∧
    (rootBuild (stepped waits) waits).wide = false := by decide +kernel
theorem test_wit_ports : ({ ready with fin := { ready.fin with maskQueue := [(5, 0)] } } : State).fin.maskQueue = [(5, 0)] ∧
    (5, 0) ∈ ({ ready with fin := { ready.fin with maskGiven := [(5, 0)] } } : State).fin.maskGiven ∧ (5, 0) ∉ ready.fin.maskGiven := by decide +kernel

/-- A shard of both ids, binary32, no mirror, for stream 5. -/
def head : List Byte := leBytes 128 (5 + 0x7F * 2 ^ 16 + 2 * 2 ^ 28 + 2 * 2 ^ 96 + crc32c (leBytes 16 (5 + 0x7F * 2 ^ 16 + 2 * 2 ^ 28 + 2 * 2 ^ 96)) * 2 ^ 128)
def opened : SelUnit := { stream := 5, mask := some { all := true } }
def inFlight5 : Stream := { id := 5, st := .running, svc := .open, armed := some 0, armSpent := true }
theorem test_wit_header : (stepped inFlight5 opened).carrying = true ∧ 31 < (stepped inFlight5 opened).variant.ports ∧
    31 < (stepped inFlight5 opened).sel.ports.length ∧ 272 + 31 ∉ (stepped inFlight5 opened).lan.domReset ∧ ((stepped inFlight5 opened).port 31).enable = true ∧
    ((stepped inFlight5 opened).port 31).cur = none ∧ getLE head 16 4 = crc32c (head.take 16) ∧ (parseHeader head).hver = 2 ∧ headerFieldBad head = false ∧
    (parseHeader head).base + (parseHeader head).count ≤ ((stepped inFlight5 opened).vocOf inFlight5).v ∧ 0 < (parseHeader head).count ∧
    opened.noMask = false ∧ opened.late = false ∧ opened.sources.length < 1024 ∧ needsValues (stepped inFlight5 opened) inFlight5 = false ∧
    (stepped inFlight5 opened).unit? 5 0 0x7F = some opened ∧ (stepped inFlight5 opened).stream? (parseHeader head).stream = some inFlight5 ∧
    ready.stream? (parseHeader head).stream = none := by decide +kernel
theorem test_wit_header_bad : getLE (putBytes head 16 [0]) 16 4 ≠ crc32c ((putBytes head 16 [0]).take 16) ∧
    (modAt ready.sel.ports 31 fun q => { q with enable := false }).getLast?.map (·.enable) = some false := by decide +kernel
def shard : Source := { src := 31, port := 31, count := 2, lanes := List.replicate 64 {}, crc := 0xFFFFFFFF }
def streaming : State :=
  let s := stepped inFlight5 { opened with sources := [shard] }
  { s with sel := { s.sel with ports := modAt s.sel.ports 31 fun q => { q with cur := some (5, 0, 0x7F), left := 2 } } }
theorem test_wit_data : streaming.carrying = true ∧ (streaming.port 31).enable = true ∧ (streaming.port 31).drop = false ∧
    (streaming.port 31).cur = some (5, 0, 0x7F) ∧ 1 < (streaming.port 31).left ∧ (streaming.unit? 5 0 0x7F).map (·.st) = some .open ∧
    shard.got + 1 < shard.count ∧ shard.whole = false := by decide +kernel
theorem test_data_last : ((nextOf (exec (.logitDataBeat 31 2 (leBytes 128 0x3F800000)) streaming)).unit? 5 0 0x7F).map (·.st) = some .closed := by decide +kernel

def timed : SelUnit := { opened with deadline := true }
theorem test_wit_deadline : (stepped inFlight5 timed).stream? 5 = some inFlight5 ∧ (stepped inFlight5 timed).unit? 5 0 0x7F = some timed ∧
    timed.st = .open ∧ (partOf (stepped inFlight5 timed) inFlight5).1 = 0 ∧ inFlight5.svc = .open ∧ inFlight5.held = [] ∧ inFlight5.pendEpoch = none := by
  decide +kernel
theorem test_deadline : ((nextOf (exec (.stepDeadlineExpire 5 0 0x7F) (stepped inFlight5 timed))).stream? 5).map (·.st) = some .stepFailed := by decide +kernel

def chosen : SelUnit := { opened with st := .closed, list := [(1, 0x3F800000), (0, 0)] }
theorem test_wit_token : (stepped inFlight5 chosen).unit? 5 0 0x7F = some chosen ∧ chosen.st = .closed ∧ chosen.awaitNotice = false ∧ inFlight5.svc = .open ∧
    (stepped inFlight5 chosen).tree? 5 = none ∧ inFlight5.held = [] := by
  decide +kernel
def argmax : Stream := { inFlight5 with temp := 0 }
theorem test_token : (nextOf (exec (.finialTokenRecord 5) (stepped argmax chosen))).fin.egress.map (·.token) = [1] := by decide +kernel

/-- A partial list for unit (5, 0, 0x7F) with no entries. -/
def list5 : List Byte := leBytes 128 (5 + 0x7F * 2 ^ 16 + crc32c (leBytes 68 (5 + 0x7F * 2 ^ 16)) * 2 ^ 544)
theorem test_wit_peer : ready.carrying = true ∧ ready.hasPeer = true ∧ 95 < ready.variant.peers ∧ listOk list5 = true ∧ listOk [0] = false ∧
    ready.unit? (getLE list5 0 2 % 16384) (getLE list5 4 4) (getN list5 2).toNat = none ∧
    (stepped inFlight5).unit? (getLE list5 0 2 % 16384) (getLE list5 4 4) (getN list5 2).toNat = some unit5 ∧ unit5.mask = none ∧ unit5.noMask = false := by decide +kernel
def sent : SelUnit := { chosen with awaitNotice := true }
theorem test_wit_notice : (leBytes 64 (5 * 2 ^ 64 + 0x7F * 2 ^ 80)).length = 64 ∧ (resultOfBytes (leBytes 64 (5 * 2 ^ 64 + 0x7F * 2 ^ 80))).stream = 5 ∧
    (stepped inFlight5 sent).unit? 5 0 0x7F = some sent ∧ sent.awaitNotice = true ∧ inFlight5.next = 0 := by decide +kernel

/-- A held result of token 1. -/
def holds : Stream := { inFlight5 with held := [{ token := 1, stream := 5 }] }
def committing : State := rings (having holds slotted)
theorem test_wit_commit_idle : holds.restoring = false ∧ holds.recorded = [] ∧ holds.endDue = 0 ∧ holds.zeroing = false ∧ holds.endOut = false ∧
    committing.tree? 5 = none ∧ holds.owner < committing.pkr.owners.length ∧ holds.queue < committing.eqs.qs.length ∧
    spillHere committing holds (commitPlan committing holds { token := 1, stream := 5 }).stepped.read = true := by decide +kernel
theorem test_wit_commit : committing.carrying = true ∧ committing.stream? 5 = some holds ∧ holds.waitCkpt = false ∧ holds.st = .running ∧
    queueRoom committing holds (commitPlan committing holds { token := 1, stream := 5 }).group = true ∧
    ringRoom committing 0 true (commitPlan committing holds { token := 1, stream := 5 }).entries.length = true ∧
    (commitPlan committing holds { token := 1, stream := 5 }).reason = 0 ∧
    (commitPlan committing { holds with maxNew := some 1 } { token := 1, stream := 5 }).reason = 3 ∧ queueOwned committing holds = true ∧
    (∀ g ∈ (committing.queue holds.queue).resv, g.lost = false) := by decide +kernel
theorem test_commit : ((nextOf (exec (.tokenCommit 5) committing)).stream? 5).map (fun y => (y.next, y.gen)) = some (1, 1) := by decide +kernel
/-- EOS before LENGTH; the last step number of all ends by LENGTH. -/
theorem test_end_reason : endAt { eos := [1] } { five with maxNew := some 1 } { token := 1 } { text := {} } = 2 ∧
    endAt {} five { token := 1, step := 0xFFFFFFFD } { text := {} } = 3 ∧ endAt {} five { token := 1, step := 0xFFFFFFFC } { text := {} } = 0 := by decide

theorem test_wit_timers : (keyed ready).key? 0 ≠ none ∧ ready.lan.ckMs.v ≠ 0 ∧ ((having { inFlight5 with ckptSteps := 1 }).ctx.streams.map (·.id)).Nodup ∧
    (∀ x ∈ (having { inFlight5 with ckptSteps := 1 }).ctx.streams, x.ckptSteps ≠ 0 → x.atBoundary = false) ∧ ready.lan.idleTmo.v ≠ 0 ∧
    five.atBoundary = true ∧ five.idleSaid = false := by decide +kernel

/-- A tree of one node, token 1, for step 0. -/
def drafting (step : Nat) : State := reading { cmd 0x24 [(8, 5), (16, step), (20, 1), (21, 1), (32, 128)] .recorded with ticket := 1 } (leBytes 8 (1 + 0x7F * 2 ^ 32))
  (having { five with recorded := [1] } home)
theorem test_wit_draft : (drafting 0).stream? 5 = some { five with recorded := [1] } ∧ ((drafting 0).cmd? 1).map (fun c => (c.opcode, c.le 16 4, c.le 32 4)) = some (0x24, 0, 128) ∧
    (drafting 0).tree? 5 = none ∧ (((drafting 0).cmd? 1).map fun c => match checkTree (drafting 0) { five with recorded := [1] } c
      (readBytes (drafting 0) (.command 1) 0 128) with
      | .ok t => treeFits (drafting 0) t
      | .error _ => false) = some true ∧ ((drafting 1).cmd? 1).map (fun c => c.le 16 4) = some 1 ∧
    boundFaulted (drafting 0) { five with recorded := [1] } = false ∧ (drafting 0).unit? 5 0 0x7F = none ∧ ((drafting 0).cmd? 1).map draftFields = some true := by decide +kernel
def verifying : State :=
  let s := stepped argmax chosen
  { s with stp := { s.stp with trees := [{ stream := 5, nodes := [{ token := 1 }] }] } }
theorem test_wit_verify : verifying.stream? 5 = some argmax ∧ (verifying.tree? 5).map (fun t => (t.walking, t.stochastic)) = some (true, false) ∧
    verifying.unit? 5 0 0x7F = some chosen ∧ chosen.list ≠ [] := by decide +kernel
theorem test_verify : (nextOf (exec (.draftVerifyStep 5) verifying)).fin.egress.map (fun r => (r.token, r.flags)) = [(1, 8)] := by decide +kernel

/-! ## Fabric, queues, stores, turrets, registers -/

def fetching : State := { ready with fab := { fetches := [{ port := 3, tag := 1023, line := 3, who := .command 1 }], stores := [{ port := 3, tag := 0, who := .completion 0 }] } }
theorem test_wit_fabric : fetching.Serving ∧ (fetching.fab.fetches.find? fun r => r.port == 3 && r.tag == 1023).isSome = true ∧
    (fetching.fab.stores.find? fun r => r.port == 3 && r.tag == 0).map (·.who) = some (.completion 0) ∧ fetching.fab.waiting = [] ∧
    (∀ r ∈ fetching.fab.fetches, r.port = 3 → r.tag ≠ 0) ∧ (∀ r ∈ fetching.fab.stores, r.port = 3 → r.tag ≠ 1023) := by
  unfold State.Serving; decide +kernel
theorem test_wit_fabric_timeout : (∃ r ∈ ({ fetching with fab := { fetching.fab with stores := [] } } : State).fab.fetches, r.port = 3) ∧
    (∀ r ∈ ({ fetching with fab := { fetching.fab with stores := [] } } : State).fab.fetches, r.port = 3 → r.who = .command 1) := by decide +kernel
/-- Port 0 has one request outstanding, at tag 0. -/
def reads (who : Req) : State := { ready with fab := { fetches := [{ port := 0, tag := 0, line := 8, who := who }] } }
def writes (who : Req) (s : State := ready) : State := { s with fab := { stores := [{ port := 0, tag := 0, line := 8, who := who }] } }
/-- A ring line of owner 0 with one staged entry, under way; a job with nothing left to write. -/
def ringWrites : State :=
  let s := keyed (rings (writes (.ringLine 0 false 1 0)))
  { s with pkr := { s.pkr with owners := modAt s.pkr.owners 0 fun p => { p with recRing := { p.recRing with next := 1, staged := [{ seq := 0, issued := true }] } } } }
def jobEnds : State := writes (.jobLine 1 0) (given (detCmd 1 .recorded) { ready with job := { js := [{ ticket := 1, nextUnit := 1, units := [{}] }] } })
theorem test_wit_fabric_clauses : (∀ who ∈ [Req.entry 3, .message 0, .command 1],
      ((reads who).fab.fetches.find? fun r => r.port == 0 && r.tag == 0).map (·.who) = some who) ∧
    (∀ who ∈ [Req.enumLine, .spillLine 1, .ringLine 0 false 1 3], ((writes who).fab.stores.find? fun r => r.port == 0 && r.tag == 0).map (·.who) = some who) ∧
    (∀ c ∈ ringWrites.rng.cmds, c.opcode ≠ 0x29) ∧ 0 < ringWrites.pkr.owners.length ∧ (ringWrites.key? 0).isSome = true ∧
    ((ringWrites.ownPkr 0).ring false).blocked = false ∧
    ((jobEnds.job? 1).map fun j => (j.reading, j.errUnit, decide (j.units.length ≤ j.nextUnit), j.isPack)) = some (false, none, true, false) ∧
    (jobEnds.cmd? 1).isSome = true ∧ (jobEnds.fab.stores.filter (· != { port := 0, tag := 0, line := 8, who := .jobLine 1 0 })) ++ jobEnds.fab.waiting = [] := by
  decide +kernel
theorem test_fabric_clauses : ((nextOf (exec (.fabricStoreAck 0 0 false) ringWrites)).ownPkr 0).recRing.wseq = 1 ∧
    (nextOf (exec (.fabricStoreAck 0 0 false) jobEnds)).job.js = [] := by decide +kernel
theorem test_fabric_timeout : (nextOf (exec (.fabricResponseTimeout 3) { fetching with fab := { fetching.fab with stores := [] } })).lan.domReset = [307] := by
  decide +kernel

theorem test_wit_queue_reads : queued.eqs.qs.length = 64 ∧ queued.Serving ∧ queued.fab.waiting = [] ∧ State.reset.carrying = false ∧ bits 0xFC000 19 14 = 63 := by
  unfold State.Serving; decide +kernel
theorem test_queue_read : (nextOf (exec (.eqDataRead 63) queued)).csp.data = 0x01010101 ∧
    (nextOf (exec (.drainRead 0 0xFC000 0) queued)).fab.drains.map (fun d => (getN d.data 27, getN d.data 28, getN d.data 60)) = [(1, 2, 0)] := by decide +kernel

/-- A whole-word write to the last word of the last row of macro (0, 511), injected. -/
def whole : StoreReq := { requester := 0, work := .finial, owner := none, line := 1023, op := .write 15 0xFF 7 }
def part : StoreReq := { whole with op := .write 15 0x01 7 }
/-- Lines 0 and 1023 of the macro belong to owner 0. -/
def tagged : State := { ready with mem := { ready.mem with tags := [(lineKey 0 511 0, 0), (lineKey 0 511 1023, 0)] } }
def armed : State := { tagged with mem := { tagged.mem with injArm := true, injDouble := true } }
theorem test_wit_write : tagged.Serving ∧ hasMacro tagged 0 511 = true ∧ tagged.mem.busy.contains (0, 511) = false ∧ marchHolds tagged 0 511 = false ∧
    scanon {} tagged.mem.words = true ∧ tagAllows 0 (tagged.lineTag 0 511 (whole.line % Variant.storeRows 0)) (StoreReq.atRow 0 whole) = true ∧ retriesAt tagged 0 511 = [] ∧ fixOf tagged 0 511 = none ∧ whole.cls = 2 := by
  unfold State.Serving; decide +kernel
theorem test_write : (nextOf (exec (.storeAccessGrant 0 511 [whole]) armed)).rawWord 0 511 1023 15 = { value := 7, err := 2 } := by decide +kernel
def poisoned : State := nextOf (exec (.storeAccessGrant 0 511 [whole]) armed)
theorem test_wit_part : (poisoned.rawWord 0 511 1023 15).err = 2 ∧ (nextOf (exec (.storeAccessGrant 0 511 [part]) poisoned)).rawWord 0 511 1023 15 =
    { value := 7, err := 2 } := by decide +kernel
def lineRead : StoreReq := { requester := 1, work := .restore, owner := none, line := 0, op := .read }
theorem test_wit_arbitration : lineRead.cls = 1 ∧ 1 < whole.cls ∧ (∀ i < 16, (tagged.rawWord 0 511 0 i).err = 0) ∧
    tagAllows 0 (tagged.lineTag 0 511 0) (StoreReq.atRow 0 lineRead) = true ∧ hasMacro tagged 0 512 = false ∧ hasMacro tagged 9 0 = false := by decide +kernel
theorem test_arbitration : (nextOf (exec (.storeAccessGrant 0 511 [whole, lineRead]) tagged)).refusals 0 511 0 = 1 := by decide +kernel
/-- A store and the bit set of the same word in one cycle: the later one wins it, and the other is repeated (12 R438). -/
theorem test_collision :
    let t := nextOf (exec (.storeAccessGrant 0 511 [{ part with requester := 2, op := .setBits 15 1 }, { whole with op := .write 15 0xFF 3 }]) tagged)
    (t.mem.collisions, t.mem.retry.length) = (1, 1) := by decide +kernel
theorem test_no_macro : exec (.storeAccessGrant 0 512 []) ready = .fault .noSuchMacro := by rfl
theorem test_wit_promote : 256 ≤ ({ ready with mem := { ready.mem with refused := [(0, 511, 3, 256)] } } : State).refusals 0 511 3 := by decide +kernel

/-- The march test before region 0 of turret 0's memory, which is not gated. -/
def marching : State := { ready with mem := { ready.mem with pos := 704511, posValid := true } }
theorem test_wit_march : regionAt marching.variant (List.range 9) ((marching.mem.pos + 1) % marching.variant.marchRegions) = some (6, 0, 0) ∧ marching.mem.region = none ∧
    (regionAt ready.variant (List.range 9) (ready.variant.marchRegions - 1)).isSome = true ∧ regionAt ready.variant (List.range 9) ready.variant.marchRegions = none ∧
    (∀ x ∈ regionWords 0, (ready.rawWord 6 0 x.1 x.2).err = 0) ∧ groupAllocated ready 6 0 0 = true := by decide +kernel
theorem test_wit_march_over : ({ ready with mem := { ready.mem with region := some (6, 0, 0) } } : State).mem.region = some (6, 0, 0) ∧
    (nextOf (exec (.marchRegionDone true 1) { ready with mem := { ready.mem with region := some (6, 0, 0) } })).mem.fails = 1 := by decide +kernel

/-- Stream 5 restores; no area, so no slot. -/
def restoring5 : Stream := { five with restoring := true }
theorem test_wit_restore_lost : (having restoring5).stream? 5 = some restoring5 ∧ slotsMissing (having restoring5) restoring5 = false ∧
    (bestSlot (having restoring5) restoring5).isNone = true ∧ (having restoring5).tree? 5 = none := by decide +kernel
theorem test_restore_lost : ((nextOf (exec (.contextRestoreDone 5) (having restoring5))).stream? 5).map (fun y => (y.st, y.lost)) = some (.suspended, true) := by
  decide +kernel
/-- A fold whose value is computed at every element. -/
def strict (f : Nat → Byte → Nat) : List Byte → Nat → Nat
  | [], c => c
  | b :: bs, c => match f c b with
    | 0 => strict f bs 0
    | n + 1 => strict f bs (n + 1)
theorem strict_foldl (f : Nat → Byte → Nat) (bs : List Byte) (c : Nat) : bs.foldl f c = strict f bs c := by
  induction bs generalizing c with
  | nil => rfl
  | cons b bs ih => rw [List.foldl_cons, ih, strict]; cases f c b <;> rfl

/-- Checkpoint 0 of stream 5 at step 7: its header, and zeros. -/
def ckptImage : List Byte :=
  putBytes (putBytes (List.replicate 4096 0) 0x1C0 (leBytes 24 (0x4B43594E + 5 * 2 ^ 32 + 7 * 2 ^ 64))) 0x1D8 (leBytes 4 0xeaa126e)
theorem ckptImage_crc : crc32c (putBytes ckptImage 0x1D8 [0, 0, 0, 0]) = 0xeaa126e := by rw [crc32c, strict_foldl]; decide +kernel
theorem test_wit_kept : (keepSlot five ckptImage).map (fun k => (k.serial, k.next, k.seq)) = some (0, 7, 0) := by
  rw [keepSlot, ckptImage_crc]; decide +kernel
/-- Line 3 of that image in the slot at 0x40A000, encrypted by another implementation of AES-256-XTS. -/
theorem test_xts_line : xtsDecrypt key64 0x40A180 3 0 (leBytes 128 (0x83723265f3fdb9e67e9d5499d01213e74e2c39e90ea5f2f6c9d1127c32263a6e02b39a75697992c6cb583bc0c89e0b2e37c56be54d66a61d8b3b318dba73d7da * 2 ^ 512 +
    0x5d1b3ba2ffcbc933fb96e5007eef886cb0f0a604df15d7a26bc3d7a27200fb8e21f66d46e82490bd3a452458e016ce9c07186a934b15a07bd7fb70d7515effe8)) = slice ckptImage 384 128 := by decide +kernel
def rests : Stream := { five with restoring := true, svc := .open }
def restoring1 : State :=
  let s := having rests recorded1
  (List.range 64).foldl (fun s i => holding (.restore 5) (0x40A000 / 128 + i) [] s) s
theorem test_wit_restore : restoring1.stream? 5 = some rests ∧ slotsMissing restoring1 rests = false ∧ (ckptSlots restoring1 rests) = [0x40A000, 0x40B000] ∧
    ((restoring1.ownPkr 0).ring true).wseq ≤ 0 ∧ ((restoring1.ownPkr 0).ring true).staged = [] ∧ rests.svc = .open := by decide +kernel
/-- Automaton 0's image is read again. -/
def repairing (img : List Byte) : State :=
  let s := { masked with aut := { masked.aut with auts := modAt masked.aut.auts 0 fun a => { a with len := img.length } }
                         mem := { masked.mem with repairs := [(1, 0, 0)] } }
  (linesOf 0 img.length).foldl (fun s l => holding (.repair 1 0 0) l (img.drop (128 * l)) s) s
theorem test_wit_repair : (repairing autImage).mem.repairs.contains (1, 0, 0) = true ∧ itemImage (repairing autImage) 1 0 0 = some (0, 512, imgDigest autImage) ∧
    readBytes (repairing autImage) (.repair 1 0 0) 0 512 = .got autImage ∧ 0 < (repairing autImage).aut.auts.length ∧
    readBytes (repairing [7]) (.repair 1 0 0) 0 1 = .got [7] ∧ computedDigest [7] ≠ imgDigest autImage := by decide +kernel

def engine5 : Invocation := { role := roleEngine, prog := 3, codeCount := 4096, cls := 3 }
def running (i : Invocation) (c : Core := {}) : State :=
  { ready with tur := { ready.tur with ts := modAt ready.tur.ts 0 fun u => { u with core := c, inv := some i } } }
theorem test_wit_watchdog : (running engine5).Serving ∧ turretRuns (running engine5) 0 = true ∧ ((running engine5).turret 0).inv = some engine5 ∧
    ((running engine5).turret 0).activeNo = some 0 ∧ spareOf (running engine5) (0 / 17) = some 16 := by unfold State.Serving; decide +kernel
theorem test_watchdog : ((nextOf (exec (.turretWatchdogExpire 0) (running engine5))).turret 16).activeNo = some 0 ∧
    ((nextOf (exec (.turretWatchdogExpire 0) (running engine5))).turret 0).quarantined = true := by decide +kernel
theorem test_wit_gate : turretRuns ready 0 = true ∧ (ready.turret 0).inv = none ∧ (ready.turret 0).suspended = [] ∧ (ready.turret 0).lane = [] ∧
    (ready.turret 0).taken = none ∧ homeWork ready 0 = none ∧ leadJob ready 0 = none ∧ boardLane ready 0 = none := by decide +kernel

theorem test_wit_registers : ready.lan.fenced = false ∧ ready.ready = true ∧ (having five).stream? ((5 : Word).field 13 0) = some five ∧
    (0x81 : Word).bit 0 = true ∧ ready.ctx.enumBusy = false ∧ writesOut ready .enumLine = false ∧ ready.pkr.ownerSel < ready.pkr.owners.length ∧
    ({ ready with bel := { ready.bel with log := [(0, { code := 1 })] } } : State).bel.log.find? (·.1 == 0) = some (0, { code := 1 }) ∧
    State.reset.ready = false := by decide +kernel
theorem test_rc_counter : (nextOf (exec (.rcCounterRead 0x1C20) { ready with rng := { ready.rng with dispatched := 7 } })).csp.data = 7 ∧
    (nextOf (exec (.registerWrite 0x1C20 9) ready)).csp.err = false ∧ (nextOf (exec (.registerWrite 0x1C20 9) State.reset)).csp.data = 0xFFFFFFFF := by decide +kernel

/-! ## The Lantern and the wrapper -/

/-- A state in an activity. -/
def lan (f : Lan → Lan) : State := { ready with lan := f ready.lan }
theorem test_wit_power_on : (lan fun l => { l with pwrLow := true }).lan.pwrLow = true ∧ ready.lan.pwrLow = false ∧ ready.lan.inStart = false ∧ ready.Powered := by
  unfold State.Powered; decide +kernel
theorem test_wit_warm : (lan fun l => { l with wdogEn := true }).Serving ∧ (lan fun l => { l with blk := .transition, act := .quiesce, optValid := true }).lan.act = .quiesce ∧
    (lan fun l => { l with blk := .starting, act := .held }).lan.act = .held ∧ ready.lan.wrapCold = false := by unfold State.Serving; decide +kernel
theorem test_warm : (nextOf (exec .swWarm ready)).lan.act = .quiesce ∧ (nextOf (exec .swCold ready)).lan.kind = 2 := by decide +kernel

def starting (f : Lan → Lan) : State := { State.reset with lan := f State.reset.lan }
theorem test_wit_start : State.reset.lan.blk = .starting ∧ State.reset.lan.act = .start ∧ State.reset.lan.domWait = [] ∧ State.reset.lan.step = 0 ∧
    (starting fun l => { l with step := 1 }).lan.isCold = true ∧ (starting fun l => { l with step := 7 }).lan.targetLatched = none ∧
    State.reset.mem.checked = false ∧ (starting fun l => { l with step := 6 }).lan.step = 6 ∧ (starting fun l => { l with step := 3 }).lan.isCold = true := by decide +kernel
theorem test_wit_options : (starting fun l => { l with optLoading := true, optNext := 62, optTries := 1 }).lan.optNext < 63 ∧
    (starting fun l => { l with optLoading := true, optTries := 3 }).lan.optTries = 3 ∧ (starting fun l => { l with startTimer := true }).lan.startTimer = true ∧
    (starting fun l => { l with act := .retryWait }).lan.isCold = true ∧
    (starting fun l => { l with act := .retryWait, kind := 4, shape := 1, optValid := true }).lan.isCold = false := by decide +kernel
theorem test_options : (nextOf (exec (.optionWordResponse true 0) (starting fun l => { l with optLoading := true, optTries := 3 }))).lan.failed = 1 ∧
    (nextOf (exec (.startStepDone []) (starting fun l => { l with step := 7 }))).ready = true := by decide +kernel
/-- The third failure of a start leads to RECOVERY. -/
theorem test_recovery : (nextOf (exec .startTimerExpire (starting fun l => { l with startTimer := true, failed := 2 }))).lan.blk = .recovery := by decide +kernel

theorem test_wit_power : ready.lan.pwrLow = false ∧ ready.ready = true ∧ (lan fun l => { l with blk := .retain, act := .idle }).lan.blk = .retain ∧
    stepsRun (lan fun l => { l with blk := .transition, act := .entry 2 }) = false ∧
    (writeStaged (lan fun l => { l with blk := .transition, act := .entry 2 })).fab.stores = [] ∧
    (writeStaged (lan fun l => { l with blk := .transition, act := .entry 2 })).fab.waiting = [] ∧
    (lan fun l => { l with act := .railLogicDown 1 }).lan.targetLatched = none ∧
    (lan fun l => { l with act := .railLogicUp 9 2 3, optValid := true }).lan.rootOk = true ∧ ready.lan.blkLow = false := by decide +kernel
theorem test_power : (nextOf (exec (.powerRailAck false false) (lan fun l => { l with act := .railLogicDown 1 }))).lan.blk = .retain ∧
    (nextOf (exec .powerEntryQuiesced (lan fun l => { l with blk := .transition, act := .entry 2 }))).lan.logicReq = false := by decide +kernel

theorem test_wit_power_fail : ready.lan.fenced = false ∧ State.reset.lan.blk = .starting ∧ State.reset.lan.pwrLow = false ∧
    (lan fun l => { l with act := .emergency }).fab.stores = [] ∧ (lan fun l => { l with blk := .pfHold, optValid := true }).lan.pf = false ∧
    (lan fun l => { l with blk := .starting, act := .clockLoss true, optValid := true }).lan.act = .clockLoss true := by decide +kernel
theorem test_power_fail : (nextOf (exec .pfWarn State.reset)).lan.blk = .pfHold ∧ (nextOf (exec .pfWarn ready)).lan.act = .emergency := by decide +kernel

theorem test_wit_lantern : ready.stepping = true ∧ 271 < ready.tur.ts.length ∧ (ready.turret 16).spare = true ∧ (ready.turret 0).spare = false ∧
    (ready.turret 0).quarantined = false ∧ 31 < ready.variant.ports ∧ 3 < ready.variant.fabricPorts ∧ (∀ r ∈ ready.fab.fetches ++ ready.fab.stores, r.port ≠ 3) ∧
    (0x4B1C : Word) ≠ 0x5A := by decide +kernel
theorem test_lantern : (nextOf (exec (.ltnKeyZero 0x5A) keyed)).lan.keys = List.replicate 64 none ∧ (nextOf (exec (.ltnFence 0xFE4C) ready)).lan.fenced = true ∧
    (nextOf (exec (.localResetTurret 0) ready)).lan.localRefused = true := by decide +kernel
theorem test_wit_wrapper : ready.lan.blkLow = false ∧ ready.lan.blk ≠ .recovery ∧ (lan fun l => { l with blkLow := true }).lan.blkLow = true ∧
    (getN ready.lan.opt 1).toNat.testBit 2 = false ∧ (lan fun l => { l with blk := .recovery }).lan.wrapLive = false := by decide +kernel
theorem test_wrapper : (nextOf (exec .n2Idcode ready)).lan.wdr = 0x14E327AB := by decide +kernel

/-! ## Knalen -/

/-- A program of another owner runs beside an engine program; the last index, and one before it. -/
def split5 : Invocation := { role := rolePreSplit, prog := 32, codeCount := 4096, cls := 3, budget := 1, bytesMax := 4, pieces := [(0, [])], input := [1, 2], runLen := 2 }
/-- The core whose descriptor t0 names a table of 8 bytes. -/
def core8 : Core := { t := List.replicate 8 1 :: List.replicate 7 [] }
theorem test_wit_runs : (running engine5).Runs 0 engine5 {} ∧ (running split5).Runs 0 split5 {} ∧ (running split5).Runs 0 split5 {} ∧ ({} : Core).pc + 1 < 4096 ∧
    (running split5 { pc := 4095 }).Runs 0 split5 { pc := 4095 } ∧ ¬ (4095 + 1 < split5.codeCount) := by
  unfold State.Runs; decide +kernel
theorem test_arithmetic : ((nextOf (exec (.addi 0 1 0 0x3FFFF) (running split5))).turret 0).core.rd 1 = 0xFFFFFFFFFFFFFFFF ∧
    ((nextOf (exec (.movh 0 0 1) (running split5))).turret 0).core.rd 0 = 0 := by decide +kernel
/-- The edges of the local memory regions and of the stack. -/
theorem test_wit_local : localOk rolePreSplit 0x5FF8 8 = true ∧ localOk rolePreSplit 0x5FF9 8 = false ∧ localOk rolePreSplit 0x6000 1 = false ∧
    localOk roleEngine 0x6000 1 = true ∧ localOk roleEngine 0x5FFC 8 = false ∧ localOk rolePreSplit 0xFFFF 1 = true ∧ localOk rolePreSplit 0x10000 1 = false ∧
    0x4001 % 4 ≠ 0 ∧ localOk rolePreSplit 0x4001 8 = true ∧ scanon 0 ({} : Core).mem = true := by decide +kernel
theorem test_stack : ((nextOf (exec (.push 0 1) (running split5 { sp := 0xF008 }))).turret 0).core.sp = 0xF000 ∧
    ((nextOf (exec (.push 0 1) (running split5 { sp := 0xF007 }))).turret 0).fault % 256 = 6 ∧
    ((nextOf (exec (.pop 0 1) (running split5 { sp := 0xFFF8 }))).turret 0).core.sp = 0x10000 ∧
    ((nextOf (exec (.pop 0 1) (running split5 { sp := 0x10000 }))).turret 0).fault % 256 = 6 := by decide +kernel
theorem test_wit_table : (8 * (0 + 1) ≤ (getN core8.t 0).length) ∧ ¬ (8 * (1 + 1) ≤ (getN core8.t 0).length) ∧ split5.role ≠ roleEngine ∧
    (kEnv ({ slotted with tur := (running { engine5 with slot := some 0 }).tur } : State) { engine5 with slot := some 0 }).voc = some (parseVoc vocImage) ∧
    0 < (parseVoc vocImage).maskTrie.length := by decide +kernel
theorem test_wit_rank : ({ buckets := [emptyBucket] } : VocImage).buckets ≠ [] := by decide
theorem test_table : ((nextOf (exec (.tld 0 1 0 0) (running split5 core8))).turret 0).core.rd 1 = 0x0101010101010101 ∧
    ((nextOf (exec (.tld 0 1 0 8) (running split5 core8))).turret 0).fault % 256 = 5 := by decide +kernel
theorem test_wit_vector : localOk rolePreSplit 0x5FE0 32 = true ∧ localOk rolePreSplit 0x5FE1 32 = false ∧ localOk rolePreSplit 0x5F00 256 = true ∧
    split5.pieces = [] ++ [(0, [])] ∧ split5.bytesOut + 1 ≤ split5.bytesMax ∧ ¬ (split5.bytesOut + 5 ≤ split5.bytesMax) ∧
    (split5.lastCut ≤ 2 ∧ split5.runBase ≤ 2 ∧ 2 ≤ split5.runBase + split5.runLen) := by decide +kernel
theorem test_vector : (((nextOf (exec (.vin 0 7 0 1) (running split5))).turret 0).core.vrd 7).take 2 = [2, 0] ∧
    ((nextOf (exec (.vfind 0 1 0 0) (running split5))).turret 0).core.rd 1 = 32 ∧
    ((nextOf (exec (.emit 0 0 2) (running split5))).turret 0).fault % 256 = 7 := by decide +kernel
theorem test_wit_branch : branchTarget 9 0x3FFF7 = 1 ∧ branchTarget 4095 0 = 4096 ∧ 4096 ≤ branchTarget 0 0x3FFFE ∧ (0 : Int) ≤ (9 : Int) + 1 + (0x3FFF7 : BitVec 18).toInt ∧
    ((running engine5).turret 0).suspended = [] ∧ pickSteal (running engine5) 0 = none ∧ ((running engine5).turret 0).lane.length < 64 := by decide +kernel
theorem test_branch : ((nextOf (exec (.beq 0 0 0 0x3FFF7) (running split5 { pc := 9 }))).turret 0).core.pc = 1 ∧
    ((nextOf (exec (.trap 0 7) (running split5))).turret 0).fault % 256 = 12 := by decide +kernel
/-- A unit waits in the lane of turret 1, and a full lane. -/
def lanes (n : Nat) : State := { running engine5 with tur := { (running engine5).tur with
  ts := modAt (modAt (running engine5).tur.ts 1 fun u => { u with lane := [{ unit := 4 }] }) 0 fun u => { u with lane := List.replicate n {} } } }
theorem test_wit_steal : (pickSteal (lanes 0) 0).isSome = true ∧ 64 ≤ ((lanes 64).turret 0).lane.length ∧ (lanes 64).Runs 0 engine5 {} := by
  unfold State.Runs; decide +kernel

/-! ## The machine -/

theorem test_wit_front : ({ ready with pending := [.commandDispatch, .maskRdyDeliver] } : State).pending = .commandDispatch :: [.maskRdyDeliver] ∧ ready.pending = [] := by
  decide
theorem test_tick : (nextOf (step ready)).lan.aonTime = 1 := by decide +kernel
theorem test_wit_canonical : scanon {} ready.mem.words = true ∧ scanon 0xC0 ready.mem.tags = true ∧
    (∀ u ∈ ready.tur.ts, ∀ m ∈ u.memories, scanon 0 m = true) ∧ step ready = .next (tick ready) := ⟨by decide +kernel, by decide +kernel, by decide +kernel, rfl⟩
theorem test_wit_encode : (Instr.peek 271 15 511).wf = true ∧ encodeKnalen (.peek 271 15 511) = some (271, 0x63C001FF) ∧
    decodeKnalen 271 0x63C001FF = some (.peek 271 15 511) := by decide
/-- From reset, two start steps, the option load of 64 words and six more steps make the block READY. -/
theorem test_starts : (nextOf (exec (.startStepDone []) State.reset)).lan.step = 1 := by decide +kernel

end Sys2Proof.Tests
end

section
/-! Writes of the ring registers (02 R59 to R62, R66, R74): changes of one ring, served accesses, RING_CCTL, RING_QCTL, the base
registers and the doorbell's range check. -/

namespace Sys2Proof.Machine

/-! ## Changes of one ring -/

/-- Two changes of an element that agree on the element it has are one change. -/
theorem modAt_congr {α : Type} [Inhabited α] {l : List α} {n : Nat} {f g : α → α} (h : f (getN l n) = g (getN l n)) :
    modAt l n f = modAt l n g := by
  unfold modAt
  apply List.ext_getElem?
  intro i
  rw [List.getElem?_modify, List.getElem?_modify]
  cases e : l[i]? with
  | none => rfl
  | some x =>
    by_cases k : n = i
    · have : getN l n = x := by simp [getN, k, e]
      rw [this] at h
      simp [k, h]
    · simp [k]

theorem modAt_unchanged {α : Type} [Inhabited α] {l : List α} {n : Nat} {f : α → α} (h : f (getN l n) = getN l n) :
    modAt l n f = l :=
  (modAt_congr (g := id) h).trans (List.modify_id n l)

theorem getN_modAt {α : Type} [Inhabited α] {l : List α} {n : Nat} (f : α → α) (h : n < l.length) :
    getN (modAt l n f) n = f (getN l n) := by
  simp [getN, modAt, h]

theorem State.onRing_onRing (s : State) (n : Nat) (f g : CmdRing → CmdRing) :
    (s.onRing n f).onRing n g = s.onRing n fun r => g (f r) := by
  simp only [State.onRing, State.onRng, modAt_modAt]

theorem State.onRing_unchanged {s : State} {n : Nat} {f : CmdRing → CmdRing} (h : f (s.ring n) = s.ring n) : s.onRing n f = s := by
  simp only [State.onRing, State.onRng, modAt_unchanged (l := s.rng.c) h]

theorem State.onCq_unchanged {s : State} {m : Nat} {f : CplRing → CplRing} (h : f (s.cqr m) = s.cqr m) : s.onCq m f = s := by
  simp only [State.onCq, State.onRng, modAt_unchanged (l := s.rng.q) h]

theorem State.ring_onRing {s : State} {n : Nat} (f : CmdRing → CmdRing) (h : n < s.rng.c.length) :
    (s.onRing n f).ring n = f (s.ring n) := getN_modAt f h

/-! ## Served accesses (15 R555) and events -/

theorem carrying_iff {s : State} : s.carrying = true ↔ s.stepping = true ∧ s.lan.fenced = false := by
  simp only [State.carrying, Bool.and_eq_true, Bool.not_eq_true']

theorem fabricWrite_ready {s : State} (h : s.ready = true) (f : State → State) : fabricWrite s f = served (f s) 0 := if_pos h

/-- The end of a meaning that changed nothing. -/
theorem finish_unchanged {s : State} (h : s.lan.fenced = false) : ∃ t, finish s s = .next t ∧ t.sansFab = s.sansFab := by
  obtain ⟨t, a, e, -⟩ := finish_keep s s h rfl rfl
  exact ⟨t, a, e⟩

/-- A served write whose effect is the state E, the fabric ports aside. -/
theorem finish_fabricWrite {s E : State} {f : State → State} (h : s.Serving) (e : (f s).sansFab = E.sansFab)
    (l : E.lan = s.lan) (p : E.pending = s.pending) (v : E.variant = s.variant) :
    ∃ t, finish s (fabricWrite s f) = .next t ∧ t.sansFab = { E with csp := { data := 0 } }.sansFab ∧
      t.fab.lines = (f s).fab.lines ∧ t.fab.fetches = (f s).fab.fetches := by
  rw [fabricWrite_ready h.1]
  exact finish_fab (E := { E with csp := { data := 0 } }) (congrArg (fun x : State => { x with csp := { data := 0 } }) e)
    (by rw [l]; exact h.2) p v

/-- A served write that changes nothing. -/
theorem finish_fabricWrite_ignored {s : State} {f : State → State} (h : s.Serving) (e : f s = s) :
    ∃ t, finish s (fabricWrite s f) = .next t ∧ t.sansFab = { s with csp := { data := 0 } }.sansFab := by
  obtain ⟨t, a, b, -⟩ := finish_fabricWrite (E := s) h (congrArg State.sansFab e) rfl rfl rfl
  exact ⟨t, a, b⟩

/-- A meaning that raises one event on the state B, which has the Lantern, the Belfry and the queue of the first state. -/
theorem finish_raiseBy {s B : State} {u : Src} {code stream step detail : Nat} (h : s.lan.fenced = false) (l : B.lan = s.lan)
    (b : B.bel = s.bel) (p : B.pending = s.pending) (v : B.variant = s.variant) :
    ∃ t, finish s (raiseBy B u code stream step detail) = .next t ∧ t.sansBel = B.sansBel ∧
      Raised s t u code stream step detail := by
  refine finish_bel (raiseBy_sansBel B u code stream step detail) ?_ (by rw [l]; exact h) p v
  have r := raiseBy_raised B u code stream step detail
  unfold Raised RaisedFrom at r ⊢
  rw [l, b, v] at r
  exact r

/-! ## Ring registers (02 Tables 2.1 to 2.4) -/

theorem regWrite_ring {o : Nat} (h : 0x1000 ≤ o) (k : o < 0x2000) (s : State) (v : Word) :
    regWrite s o v = fabricWrite s fun s => ringRegWrite s o v := by
  unfold regWrite unitRegWrite
  simp only [Nat.not_lt.mpr h, k, if_true, if_false]

/-- A write of either half of a command ring's base register. -/
theorem exec_cbaseWrite {n : Nat} (h : n < 64) (s : State) (v : Word) :
    exec (.registerWrite (0x1000 + 0x20 * n) v) s = finish s (fabricWrite s fun s => writeCbase s n false v) ∧
      exec (.registerWrite (0x1004 + 0x20 * n) v) s = finish s (fabricWrite s fun s => writeCbase s n true v) := by
  have e : ∀ o, exec (.registerWrite o v) s = finish s (regWrite s o v) := fun _ => rfl
  rw [e, e, regWrite_ring (by omega) (by omega), regWrite_ring (by omega) (by omega)]
  unfold ringRegWrite
  simp only [show 0x1000 + 0x20 * n < 0x1800 by omega, show 0x1004 + 0x20 * n < 0x1800 by omega,
    show (0x1000 + 0x20 * n) % 0x20 = 0 by omega, show (0x1004 + 0x20 * n) % 0x20 = 4 by omega,
    show (0x1000 + 0x20 * n - 0x1000) / 0x20 = n by omega, show (0x1004 + 0x20 * n - 0x1000) / 0x20 = n by omega, if_true,
    and_self]

/-- A write of either half of a completion ring's base register. -/
theorem exec_qbaseWrite {m : Nat} (h : m < 64) (s : State) (v : Word) :
    exec (.registerWrite (0x1800 + 0x10 * m) v) s = finish s (fabricWrite s fun s => writeQbase s m false v) ∧
      exec (.registerWrite (0x1804 + 0x10 * m) v) s = finish s (fabricWrite s fun s => writeQbase s m true v) := by
  have e : ∀ o, exec (.registerWrite o v) s = finish s (regWrite s o v) := fun _ => rfl
  rw [e, e, regWrite_ring (by omega) (by omega), regWrite_ring (by omega) (by omega)]
  unfold ringRegWrite
  simp only [show ¬ 0x1800 + 0x10 * m < 0x1800 by omega, show ¬ 0x1804 + 0x10 * m < 0x1800 by omega,
    show 0x1800 + 0x10 * m < 0x1C00 by omega, show 0x1804 + 0x10 * m < 0x1C00 by omega,
    show (0x1800 + 0x10 * m) % 0x10 = 0 by omega, show (0x1804 + 0x10 * m) % 0x10 = 4 by omega,
    show (0x1800 + 0x10 * m - 0x1800) / 0x10 = m by omega, show (0x1804 + 0x10 * m - 0x1800) / 0x10 = m by omega, if_true,
    if_false, and_self]

theorem exec_doorbell {n : Nat} (h : n < 64) (s : State) (v : Word) :
    exec (.ringCtailDoorbell n v) s = finish s (fabricWrite s fun s => writeCtail s n v) := by
  show finish s (fabricWrite s fun s => writeCtail s (n % 64) v) = _
  rw [Nat.mod_eq_of_lt h]

/-- Both rows of RING_CCTL are one write. -/
theorem exec_cctl {n : Nat} (h : n < 64) (s : State) (v : Word) :
    exec (.cmdRingEnable n v) s = finish s (fabricWrite s fun s => writeCctl s n v) ∧
      exec (.cmdRingDisable n v) s = finish s (fabricWrite s fun s => writeCctl s n v) := by
  have e : exec (.cmdRingEnable n v) s = finish s (fabricWrite s fun s => writeCctl s (n % 64) v) := rfl
  have d : exec (.cmdRingDisable n v) s = finish s (fabricWrite s fun s => writeCctl s (n % 64) v) := rfl
  rw [e, d, Nat.mod_eq_of_lt h]
  exact ⟨rfl, rfl⟩

/-- Both rows of RING_QCTL are one write. -/
theorem exec_qctl {m : Nat} (h : m < 64) (s : State) (v : Word) :
    exec (.cqRingEnable m v) s = finish s (fabricWrite s fun s => writeQctl s m v) ∧
      exec (.cqRingDisable m v) s = finish s (fabricWrite s fun s => writeQctl s m v) := by
  have e : exec (.cqRingEnable m v) s = finish s (fabricWrite s fun s => writeQctl s (m % 64) v) := rfl
  have d : exec (.cqRingDisable m v) s = finish s (fabricWrite s fun s => writeQctl s (m % 64) v) := rfl
  rw [e, d, Nat.mod_eq_of_lt h]
  exact ⟨rfl, rfl⟩

section
variable {s : State} {n m : Nat} {v : Word}

theorem writeCbase_enabled {high : Bool} (h : (s.ring n).enable = true) : writeCbase s n high v = s :=
  State.onRing_unchanged (if_pos h)

theorem writeQbase_enabled {high : Bool} (h : (s.cqr m).enable = true) : writeQbase s m high v = s :=
  State.onCq_unchanged (if_pos h)

theorem writeCctl_enabled_on (h : (s.ring n).enable = true) (b : v.bit 0 = true) : writeCctl s n v = s := by
  simp [writeCctl, h, b]

theorem writeCctl_enabled_off (h : (s.ring n).enable = true) (b : v.bit 0 = false) :
    writeCctl s n v = (dropLines s (.entry n)).onRing n fun r => { r with enable := false } := by
  simp [writeCctl, h, b]

/-- The cases of R60, for the values that a write gives a disabled ring. -/
theorem enableBad_written : enableBad s ((s.ring n).written v) = true ↔
    (v.field 12 8 < 6 ∨ 16 < v.field 12 8 ∨ (s.cqr (v.field 29 24)).enable = false ∨ (s.cqr (v.field 29 24)).fmtB ≠ v.bit 1 ∨
      (s.ring n).fetchErr = true ∨ (v.bit 1 = false ∧ (getN s.lan.opt 1).toNat.testBit 1 = true)) := by
  simp only [enableBad, Bool.or_eq_true, Bool.and_eq_true, decide_eq_true_eq, Bool.not_eq_true', bne_iff_ne, or_assoc]
  exact Iff.rfl

/-- ENABLE = 1 on a disabled ring: refused (R60), or it takes effect (R62). -/
theorem writeCctl_disabled (h : (s.ring n).enable = false) (b : v.bit 0 = true) :
    writeCctl s n v = if enableBad s ((s.ring n).written v) = true
      then s.onRing n fun _ => { (s.ring n).written v with enRefused := true }
      else fetchEntry (s.onRing n fun _ => { (s.ring n).written v with
        enable := true, head := if (s.ring n).stopped then (s.ring n).head else (s.ring n).tail
        stopped := false, stallSaid := false }) n := by
  unfold writeCctl
  dsimp only
  rw [if_neg (by rw [h]; exact Bool.false_ne_true), if_neg (by rw [b]; exact Bool.false_ne_true), State.onRing_onRing,
    State.onRing_onRing]
  rfl

theorem cqHeld_iff : cqHeld s m = true ↔
    (∃ r ∈ s.rng.c, r.enable = true ∧ r.cq = m) ∨ (∃ c ∈ s.rng.cmds, c.cq = m) ∨ ∃ e ∈ s.rng.comps, e.cq = m := by
  simp only [cqHeld, Bool.or_eq_true, List.any_eq_true, Bool.and_eq_true, beq_iff_eq, or_assoc]

theorem writeQctl_kept (h : (s.cqr m).enable = true) (k : v.bit 0 = true ∨ cqHeld s m = true) : writeQctl s m v = s := by
  simp only [writeQctl, h, if_true, Bool.or_eq_true, k]

theorem writeQctl_disables (h : (s.cqr m).enable = true) (b : v.bit 0 = false) (k : ¬ cqHeld s m = true) :
    writeQctl s m v = s.onCq m fun q => { q with enable := false } := by
  simp only [writeQctl, h, if_true, Bool.or_eq_true, b, k, Bool.false_eq_true, or_self, if_false]

theorem writeQctl_disabled (h : (s.cqr m).enable = false) (b : v.bit 0 = true) :
    let q := { s.cqr m with fmtB := v.bit 1, irqLine := v.field 7 4, sizeLog := v.field 12 8 }
    writeQctl s m v = s.onCq m fun _ => if 6 ≤ v.field 12 8 ∧ v.field 12 8 ≤ 16
      then { q with enable := true, head := 0, widx := 0, phase := true, full := false } else q := by
  simp only [writeQctl, h, b, Bool.true_and, Bool.and_eq_true, decide_eq_true_eq, Bool.false_eq_true, if_false]
  split <;> rfl

end

/-- Settles O1: the doorbell's other branch, which raises one event. -/
theorem tailOutOfRangeIgnored : Obligations.TailOutOfRangeIgnored := by
  unfold Obligations.TailOutOfRangeIgnored
  intro s n v hs hn out
  have e : writeCtail s n v = raiseBy (s.onRing n fun r => { r with tailRange := true }) .ring 0x0902 0 0
      (n + 65536 * (v.toNat % 65536)) := if_pos out
  rw [exec_doorbell hn, fabricWrite_ready hs.1, e]
  exact finish_bel (congrArg (fun x : State => { x with csp := { data := 0 } }) (raiseBy_sansBel _ _ _ _ _ _))
    (raiseBy_raised (s.onRing n _) .ring 0x0902 0 0 _) hs.2 rfl rfl

/-- Settles O2: each register's write is the identity, or clears ENABLE alone. -/
theorem enabledRingFieldsHold : Obligations.EnabledRingFieldsHold := by
  unfold Obligations.EnabledRingFieldsHold
  intro s n v hs hn
  obtain ⟨ce, cd⟩ := exec_cctl hn s v
  obtain ⟨qe, qd⟩ := exec_qctl hn s v
  obtain ⟨cl, ch⟩ := exec_cbaseWrite hn s v
  obtain ⟨ql, qh⟩ := exec_qbaseWrite hn s v
  rw [ce, cd, qe, qd, cl, ch, ql, qh]
  refine ⟨fun on => ⟨fun b => ?_, fun b => ?_, ?_⟩, fun on => ⟨fun b => ?_, fun b => ?_, ?_⟩⟩
  · exact finish_fabricWrite_ignored hs (writeCctl_enabled_on on b)
  · obtain ⟨t, a, e, -⟩ := finish_fabricWrite (f := fun s => writeCctl s n v) hs
      (E := s.onRing n fun r => { r with enable := false }) ((congrArg State.sansFab (writeCctl_enabled_off on b)).trans rfl) rfl rfl rfl
    exact ⟨t, a, e⟩
  · obtain ⟨t, a, e⟩ := finish_fabricWrite_ignored (f := fun s => writeCbase s n false v) hs (writeCbase_enabled on)
    obtain ⟨u, c, d⟩ := finish_fabricWrite_ignored (f := fun s => writeCbase s n true v) hs (writeCbase_enabled on)
    exact ⟨t, u, a, c, e, d⟩
  · exact finish_fabricWrite_ignored hs (writeQctl_kept on (.inl b))
  · by_cases k : cqHeld s n = true
    · obtain ⟨t, a, e⟩ := finish_fabricWrite_ignored (f := fun s => writeQctl s n v) hs (writeQctl_kept on (.inr k))
      exact ⟨t, a, .inl e⟩
    · obtain ⟨t, a, e, -⟩ := finish_fabricWrite (f := fun s => writeQctl s n v) hs
        (E := s.onCq n fun q => { q with enable := false }) (congrArg State.sansFab (writeQctl_disables on b k)) rfl rfl rfl
      exact ⟨t, a, .inr e⟩
  · obtain ⟨t, a, e⟩ := finish_fabricWrite_ignored (f := fun s => writeQbase s n false v) hs (writeQbase_enabled on)
    obtain ⟨u, c, d⟩ := finish_fabricWrite_ignored (f := fun s => writeQbase s n true v) hs (writeQbase_enabled on)
    exact ⟨t, u, a, c, e, d⟩

/-- Settles O3, by the two outcomes of a RING_CCTL enable and the branches of RING_QCTL. -/
theorem ringEnables : Obligations.RingEnables := by
  unfold Obligations.RingEnables
  refine ⟨fun s n v hs hn off b noErr => ?_, fun s m v hs hm => ⟨fun off b => ?_, fun on b => ?_⟩⟩
  · dsimp only
    rw [(exec_cctl hn s v).1, ← enableBad_written (n := n)]
    by_cases r : enableBad s ((s.ring n).written v) = true
    · obtain ⟨t, a, e, -⟩ := finish_fabricWrite (f := fun s => writeCctl s n v) hs
        (congrArg State.sansFab ((writeCctl_disabled off b).trans (if_pos r))) rfl rfl rfl
      exact ⟨t, a, fun _ => e, fun k => absurd r k⟩
    · obtain ⟨t, a, e, -⟩ := finish_fabricWrite (f := fun s => writeCctl s n v) hs
        ((congrArg State.sansFab ((writeCctl_disabled off b).trans (if_neg r))).trans (fetchEntry_sansFab _ _ hs.2 noErr)) rfl rfl rfl
      exact ⟨t, a, fun k => absurd k r, fun _ => e⟩
  · obtain ⟨t, a, e, -⟩ := finish_fabricWrite (f := fun s => writeQctl s m v) hs
      (congrArg State.sansFab (writeQctl_disabled off b)) rfl rfl rfl
    rw [(exec_qctl hm s v).1]
    refine ⟨t, a, fun k => ?_, fun k => ?_⟩
    · simp only [if_pos k] at e
      exact e
    · simp only [if_neg (show ¬ (6 ≤ v.field 12 8 ∧ v.field 12 8 ≤ 16) by omega)] at e
      exact e
  · dsimp only
    rw [(exec_qctl hm s v).2, ← cqHeld_iff]
    by_cases k : cqHeld s m = true
    · obtain ⟨t, a, e⟩ := finish_fabricWrite_ignored (f := fun s => writeQctl s m v) hs (writeQctl_kept on (.inr k))
      exact ⟨t, a, fun _ => e, fun n => absurd k n⟩
    · obtain ⟨t, a, e, -⟩ := finish_fabricWrite (f := fun s => writeQctl s m v) hs
        (congrArg State.sansFab (writeQctl_disables on b k)) rfl rfl rfl
      exact ⟨t, a, fun h => absurd h k, fun _ => e⟩

end Sys2Proof.Machine
end


section
/-! The fetch of entries (02 R62 to R68). -/

namespace Sys2Proof.Machine

/-- A ring whose Ring Unit may fetch the entry at its head: enabled, not stopped, not empty, room in flight (R63, R67, R68). -/
def State.Fetches (s : State) (n : Nat) : Prop :=
  (s.ring n).enable = true ∧ (s.ring n).stopped = false ∧ (s.ring n).head ≠ (s.ring n).tail ∧ inFlight s n < 256

/-- The condition of the model, as both `fetchEntry` and COMMAND_FETCH test it. -/
theorem State.fetches_iff (s : State) (n : Nat) : s.Fetches n ↔ (!(s.ring n).enable || (s.ring n).stopped ||
    (s.ring n).head == (s.ring n).tail || decide (256 ≤ inFlight s n)) = false := by
  simp [State.Fetches, and_assoc]

section
variable {s : State} {n : Nat}

theorem fetchEntry_idle (h : ¬ s.Fetches n) : fetchEntry s n = s :=
  if_pos ((Bool.not_eq_false _).mp (mt (s.fetches_iff n).mpr h))

/-- A ring that fetches, and holds no answer with an error, asks for the line of its head. -/
theorem fetchEntry_asks (f : s.lan.fenced = false) (k : ∀ l, lineOf s (.entry n) l ≠ some none) (h : s.Fetches n) :
    fetchEntry s n = fetchLine s (.entry n) ((s.ring n).entryAddr / 128) := by
  unfold fetchEntry
  dsimp only
  rw [if_neg (by rw [(s.fetches_iff n).mp h]; exact Bool.false_ne_true),
    if_neg (by rw [lineOf_of_lines (fetchLine_lines _ _ _ f)]; exact k _)]

theorem State.Asked.of_fab {t u : State} {who : Req} {line : Nat} (h : t.Asked who line) (l : u.fab.lines = t.fab.lines)
    (f : u.fab.fetches = t.fab.fetches) : u.Asked who line := by
  unfold State.Asked at h ⊢
  rwa [lineOf_of_lines l, f]

theorem lineOf_dropLines (s : State) (who : Req) (line : Nat) : lineOf (dropLines s who) who line = none := by
  have : (dropLines s who).fab.lines = s.fab.lines.filter (·.1 != who) := rfl
  simp only [lineOf, this, Option.map_eq_none_iff, List.find?_eq_none, List.mem_filter]
  rintro e ⟨-, h⟩
  have ne : e.1 ≠ who := bne_iff_ne.mp h
  simp [ne]

/-! ## The doorbell -/

theorem writeCtail_inRange {v : Word} (h : v.toNat % 65536 < 2 ^ (s.ring n).sizeLog) :
    writeCtail s n v = fetchEntry (s.onRing n fun r => { r with tail := v.toNat % 65536 }) n :=
  if_neg (Nat.not_le.mpr h)

/-! ## COMMAND_FETCH -/

theorem exec_commandFetch_idle (h : ¬ s.Fetches n) : exec (.commandFetch n) s = finish s s := by
  have c := (Bool.not_eq_false _).mp (mt (s.fetches_iff n).mpr h)
  refine congrArg (finish s) (if_pos ?_)
  simp only [Bool.or_assoc] at c ⊢
  rw [c, Bool.or_true]

theorem exec_commandFetch_taken {bs : List Byte} (r : s.ready = true) (h : s.Fetches n)
    (l : lineOf s (.entry n) ((s.ring n).entryAddr / 128) = some (some bs)) :
    exec (.commandFetch n) s = finish s (fetchEntry (takeEntry s n bs) n) := by
  have c := (s.fetches_iff n).mp h
  show execCommandFetch n s = _
  simp only [execCommandFetch, r, c, l, Bool.not_true, Bool.false_or, Bool.false_eq_true, if_false]

theorem exec_commandFetch_error (r : s.ready = true) (h : s.Fetches n)
    (l : lineOf s (.entry n) ((s.ring n).entryAddr / 128) = some none) :
    exec (.commandFetch n) s = finish s (entryError s n) := by
  have c := (s.fetches_iff n).mp h
  show execCommandFetch n s = _
  simp only [execCommandFetch, r, c, l, Bool.not_true, Bool.false_or, Bool.false_eq_true, if_false]

/-- A fetched entry becomes a command of its ring that waits for dispatch. -/
theorem commandOf_fields (s : State) (n : Nat) (e : List Byte) :
    (commandOf s n e).ticket = s.rng.nextTicket ∧ (commandOf s n e).ring = n ∧ (commandOf s n e).cq = (s.ring n).cq ∧
      (commandOf s n e).phase = .fetched := by
  unfold commandOf
  dsimp only
  split <;> exact ⟨rfl, rfl, rfl, rfl⟩

theorem commandOf_ent_formatB {e : List Byte} (h : (s.ring n).fmtB = true) : (commandOf s n e).ent = e := by
  unfold commandOf
  dsimp only
  rw [if_pos h]

/-- Whatever follows, a ring that has just taken an entry holds no line. -/
theorem lineOf_takeEntry (bs : List Byte) (line : Nat) : lineOf (takeEntry s n bs) (.entry n) line = none :=
  lineOf_dropLines s _ _

end

/-- Settles O4: a ring that may fetch asks for its head's line; a ring that took an entry holds no line, so the request that follows
changes the fabric ports alone. -/
theorem doorbellAndFetch : Obligations.DoorbellAndFetch := by
  unfold Obligations.DoorbellAndFetch
  refine ⟨fun s n v hs hn inRange noErr => ?_,
    fun s n hs hn len en st ne => ⟨fun full => ?_, fun room => ⟨fun bs line => ?_, fun err => ?_⟩⟩⟩
  · rw [exec_doorbell hn]
    obtain ⟨t, a, e, l, f⟩ := finish_fabricWrite (f := fun s => writeCtail s n v) hs
      ((congrArg State.sansFab (writeCtail_inRange inRange)).trans (fetchEntry_sansFab _ _ hs.2 noErr)) rfl rfl rfl
    refine ⟨t, a, e, fun len en st ne room free => State.Asked.of_fab ?_ l f⟩
    have g := State.ring_onRing (fun r => { r with tail := v.toNat % 65536 }) len
    have may : (s.onRing n fun r => { r with tail := v.toNat % 65536 }).Fetches n := by
      unfold State.Fetches
      rw [g]
      exact ⟨en, st, ne, room⟩
    have asked := fetchLine_asked (s.onRing n fun r => { r with tail := v.toNat % 65536 }) (.entry n) _ hs.2 free
    rw [writeCtail_inRange inRange, fetchEntry_asks (s := s.onRing n _) hs.2 noErr may, g]
    exact asked
  · rw [exec_commandFetch_idle fun h => absurd h.2.2.2 (Nat.not_lt.mpr full)]
    exact finish_unchanged hs.2
  · rw [exec_commandFetch_taken hs.1 ⟨en, st, ne, room⟩ line]
    have none : ∀ l, lineOf (takeEntry s n bs) (.entry n) l ≠ some none := fun l => by simp [lineOf_takeEntry]
    obtain ⟨t, a, e, -⟩ := finish_fab (s := s) (fetchEntry_sansFab (takeEntry s n bs) n hs.2 none) hs.2 rfl rfl
    obtain ⟨ticket, ring, cq, phase⟩ := commandOf_fields s n (slice bs ((s.ring n).entryAddr % 128) (s.ring n).size)
    refine ⟨t, _, a, e, ticket, ring, cq, phase, fun b => ?_⟩
    rw [commandOf_ent_formatB b, CmdRing.size, if_pos b]
  · rw [exec_commandFetch_error hs.1 ⟨en, st, ne, room⟩ err]
    exact finish_raiseBy (B := (dropLines s (.entry n)).onRing n fun r => { r with fetchErr := true, stopped := true })
      hs.2 rfl rfl rfl rfl

end Sys2Proof.Machine
end


section
/-! SNAPSHOT and the return of its marker (02 R102, 14 R535). -/

namespace Sys2Proof.Machine

section
variable {s : State} {k : Nat} {c : Cmd}

theorem exec_snapshot (h : s.Accepted k 0x40 c) : exec (.snapshot k) s = finish s (runSnapshot s c) :=
  congrArg (finish s) (runCmd_accepted h runSnapshot)

theorem runSnapshot_waits {m : Nat} (h : s.snp.busy = some m) : runSnapshot s c = s :=
  if_pos (by rw [h]; rfl)

theorem runSnapshot_starts (h : s.snp.busy = none) :
    runSnapshot s c = (s.onCmd c.ticket fun c => { c with phase := .recorded }).onSnp fun p =>
      { p with valid := false, busy := some c.ticket, time := wrap32 s.lan.aonTime } :=
  if_neg (by rw [h]; exact Bool.false_ne_true)

/-- The marker's return takes the copies of all units and completes the command that waits for it (log entry 53). -/
theorem exec_snapshotMarkerReturn (r : s.stepping = true) (b : s.snp.busy = some k) (h : s.cmd? k = some c) :
    exec .snapshotMarkerReturn s = finish s (complete (s.onSnp fun p =>
      { p with valid := true, seq := wrap32 (s.snp.seq + 1), busy := none, bank := some s.bank }) c 0 0 (wrap32 (s.snp.seq + 1)) 0) := by
  show execSnapshotMarkerReturn s = _
  have h' : ∀ f, (s.onSnp f).cmd? k = some c := fun _ => h
  simp only [execSnapshotMarkerReturn, r, markerReturn, b, completeTicket, h', if_true, Status.code]

end

/-- Settles O19; that the marker's return makes all the copies is the model's reading (log entry 53). -/
theorem snapshotWaitsForMarker : Obligations.SnapshotWaitsForMarker := by
  unfold Obligations.SnapshotWaitsForMarker
  intro s k m c
  refine ⟨fun h busy => ?_, fun h busy => ?_, fun h busy hc => ?_⟩
  · obtain ⟨-, fenced, -⟩ := accepted_facts h
    rw [exec_snapshot h, runSnapshot_waits busy]
    exact finish_unchanged fenced
  · obtain ⟨-, fenced, -, ticket, -⟩ := accepted_facts h
    rw [exec_snapshot h, runSnapshot_starts busy, ticket]
    obtain ⟨t, a, e, -⟩ := finish_keep s ((s.onCmd k fun c => { c with phase := .recorded }).onSnp fun p =>
      { p with valid := false, busy := some k, time := wrap32 s.lan.aonTime }) fenced rfl rfl
    exact ⟨t, a, e⟩
  · obtain ⟨stepping, fenced⟩ := carrying_iff.mp h
    rw [exec_snapshotMarkerReturn stepping busy hc]
    exact finish_complete fenced rfl rfl rfl rfl

end Sys2Proof.Machine
end


section
/-! The dispatch of fetched commands (02 R69), the ring watchdog (02 R70). -/

namespace Sys2Proof.Machine

section
variable {s : State}

/-- A scan of the first numbers finds what stands at k, when nothing stands below k. -/
theorem findSome?_range {α : Type} {f : Nat → Option α} {x : α} {n k : Nat} (h : k < n) (e : f k = some x) (before : ∀ j < k, f j = none) :
    (List.range n).findSome? f = some x := by
  induction n with
  | zero => omega
  | succ n ih =>
    rw [List.range_succ, List.findSome?_append]
    by_cases l : k < n
    · rw [ih l, Option.some_or]
    · have k : k = n := by omega
      subst k
      have none : (List.range k).findSome? f = none := by simpa using before
      rw [none, Option.none_or, List.findSome?_singleton, e]

theorem ringPick_ring {n : Nat} {c : Cmd} (h : ringPick s n = some c) : c.ring = n := by
  have := List.find?_some h
  simp only [Bool.and_eq_true, beq_iff_eq] at this
  exact this.1

theorem turnAfter_eq (s : State) (n left : Nat) :
    turnAfter s n left = s.onRng fun r => { r with rrRing := if left = 0 then (n + 1) % 64 else n, rrLeft := left } := by
  unfold turnAfter
  split
  · rename_i h; simp [h]
  · rfl

/-- A turn goes on while it lasts and its ring has a command to dispatch. -/
theorem nextDispatch_continues {c : Cmd} (left : s.rng.rrLeft ≠ 0) (pick : ringPick s s.rng.rrRing = some c) :
    nextDispatch s = some (c, turnAfter s s.rng.rrRing (s.rng.rrLeft - 1)) := by
  simp only [nextDispatch, left, pick, if_false]

/-- Otherwise the turn goes to the first ring, from a first one on, that has a command to dispatch. -/
theorem nextDispatch_begins (ended : s.rng.rrLeft = 0 ∨ ringPick s s.rng.rrRing = none) :
    nextDispatch s = ((List.range 64).findSome? fun k =>
      ringPick s (((if s.rng.rrLeft = 0 then s.rng.rrRing else s.rng.rrRing + 1) + k) % 64)).map fun c =>
        (c, turnAfter s c.ring (s.ring c.ring).weight) := by
  have e : (if s.rng.rrLeft = 0 then none else ringPick s s.rng.rrRing) = none := by
    rcases ended with h | h <;> simp [h]
  simp only [nextDispatch, e, List.findSome?_map]
  rfl

/-- The round robin takes the command of the first ring, from the one that has the turn on, that has a command to dispatch (R69). -/
theorem nextDispatch_first {k : Nat} {c : Cmd} (hr : s.rng.rrRing < 64) (hk : k < 64)
    (pick : ringPick s ((s.rng.rrRing + k) % 64) = some c) (before : ∀ j < k, ringPick s ((s.rng.rrRing + j) % 64) = none) :
    nextDispatch s = some (c, turnAfter s ((s.rng.rrRing + k) % 64)
      (if k = 0 ∧ s.rng.rrLeft ≠ 0 then s.rng.rrLeft - 1 else (s.ring c.ring).weight)) := by
  have ring := ringPick_ring pick
  have here : (s.rng.rrRing + 0) % 64 = s.rng.rrRing := Nat.mod_eq_of_lt hr
  by_cases left : s.rng.rrLeft = 0
  · have scan := findSome?_range (f := fun j => ringPick s ((s.rng.rrRing + j) % 64)) hk pick before
    rw [nextDispatch_begins (.inl left), if_pos left, scan, if_neg fun h => h.2 left, ← ring]
    rfl
  · cases k with
    | zero =>
      rw [here] at pick ⊢
      rw [nextDispatch_continues left pick, if_pos ⟨rfl, left⟩]
    | succ k =>
      have idle : ringPick s s.rng.rrRing = none := here ▸ before 0 (Nat.succ_pos k)
      have shift : ∀ j, (s.rng.rrRing + 1 + j) % 64 = (s.rng.rrRing + (j + 1)) % 64 := fun j => by congr 1; omega
      have scan := findSome?_range (f := fun j => ringPick s ((s.rng.rrRing + 1 + j) % 64)) (show k < 64 by omega)
        (by rw [shift]; exact pick) fun j h => by rw [shift]; exact before (j + 1) (by omega)
      rw [nextDispatch_begins (.inr idle), if_neg left, scan, if_neg fun h => Nat.succ_ne_zero k h.1, ← ring]
      rfl

theorem nextDispatch_none (hr : s.rng.rrRing < 64) (idle : ∀ n < 64, ringPick s n = none) : nextDispatch s = none := by
  have scan : ((List.range 64).findSome? fun k =>
      ringPick s (((if s.rng.rrLeft = 0 then s.rng.rrRing else s.rng.rrRing + 1) + k) % 64)) = none :=
    List.findSome?_eq_none_iff.mpr fun k _ => idle _ (Nat.mod_lt _ (by decide))
  rw [nextDispatch_begins (.inr (idle _ hr)), scan]
  rfl

/-! ## COMMAND_DISPATCH -/

/-- The checks of R80 look at the rings and at the configuration. -/
theorem headerStatus_onRng {f : Rng → Rng} (h : (f s.rng).c = s.rng.c) (c : Cmd) : headerStatus (s.onRng f) c = headerStatus s c := by
  have r : (s.onRng f).ring c.ring = s.ring c.ring := congrArg (getN · c.ring) h
  unfold headerStatus
  rw [r]
  rfl

/-- The Ring Unit as a command is dispatched: counted, and the turn at ring n with `left` more to go. -/
def Rng.turned (r : Rng) (n left : Nat) : Rng :=
  { r with dispatched := wrap32 (r.dispatched + 1), rrRing := if left = 0 then (n + 1) % 64 else n, rrLeft := left }

theorem turnAfter_dispatched (s : State) (n left : Nat) :
    ((turnAfter s n left).onRng fun r => { r with dispatched := wrap32 (r.dispatched + 1) }) = s.onRng fun r => r.turned n left := by
  rw [turnAfter_eq]
  rfl

/-- A command that passes its checks is handed to its unit. -/
theorem dispatchOne_passes {n left : Nat} {c : Cmd} (h : headerStatus s c = none) : dispatchOne (turnAfter s n left) c =
    (s.onRng fun r => r.turned n left).onCmd c.ticket fun c => { c with phase := .dispatched } := by
  have k : headerStatus (s.onRng fun r => r.turned n left) c = none := (headerStatus_onRng rfl c).trans h
  simp only [dispatchOne, turnAfter_dispatched, k]

/-- The first check that fails completes the command. -/
theorem dispatchOne_fails {n left : Nat} {c : Cmd} {st : Status} (h : headerStatus s c = some st) :
    dispatchOne (turnAfter s n left) c = complete (s.onRng fun r => r.turned n left) c st.code := by
  have k : headerStatus (s.onRng fun r => r.turned n left) c = some st := (headerStatus_onRng rfl c).trans h
  simp only [dispatchOne, turnAfter_dispatched, k, reject]

theorem exec_commandDispatch_idle (h : nextDispatch s = none) : exec .commandDispatch s = finish s s := by
  show execCommandDispatch s = _
  simp only [execCommandDispatch, h, ite_self]

theorem exec_commandDispatch {c : Cmd} {t : State} (r : s.stepping = true) (h : nextDispatch s = some (c, t)) :
    exec .commandDispatch s = finish s (dispatchOne t c) := by
  show execCommandDispatch s = _
  simp only [execCommandDispatch, r, h, Bool.not_true, Bool.false_eq_true, if_false]

/-! ## RING_STALL -/

theorem exec_ringStall_raises {n : Nat} (r : s.ready = true) (w : s.lan.ringWdog.v ≠ 0) (ne : (s.ring n).head ≠ (s.ring n).tail)
    (h : (s.ring n).stallSaid = false) : exec (.ringStall n) s =
      finish s (raiseBy (s.onRing n fun r => { r with stallSaid := true }) .lantern 0x0901 0 0 n) :=
  congrArg (finish s) (if_pos (by simp [r, w, ne, h]))

theorem exec_ringStall_said {n : Nat} (h : (s.ring n).stallSaid = true) : exec (.ringStall n) s = finish s s :=
  congrArg (finish s) (if_neg (by simp [h]))

end

/-- Settles O7, by the scan of the round robin and the two outcomes of the checks. A command is checked against PRIV and
OWNER of its ring at the dispatch, which is the model's choice (log entry 87). -/
theorem dispatchAndWatchdog : Obligations.DispatchAndWatchdog := by
  unfold Obligations.DispatchAndWatchdog
  refine ⟨fun s hs hr => ⟨fun k c hk pick before => ?_, fun idle => ?_⟩, fun s n hs ne => ⟨fun w said => ?_, fun said => ?_⟩⟩
  · obtain ⟨stepping, fenced⟩ := carrying_iff.mp hs
    dsimp only
    rw [exec_commandDispatch stepping (nextDispatch_first hr hk pick before)]
    generalize (if k = 0 ∧ s.rng.rrLeft ≠ 0 then s.rng.rrLeft - 1 else (s.ring c.ring).weight) = left
    cases status : headerStatus s c with
    | none =>
      rw [dispatchOne_passes status]
      obtain ⟨t, a, e, -⟩ := finish_keep s ((s.onRng fun r => r.turned ((s.rng.rrRing + k) % 64) left).onCmd c.ticket fun c =>
        { c with phase := .dispatched }) fenced rfl rfl
      exact ⟨t, a, ringPick_ring pick, congrArg (fun x : State => { x with rng := s.rng }) e, fun _ => congrArg State.rng e, nofun⟩
    | some st =>
      rw [dispatchOne_fails status]
      obtain ⟨e, isFor, posts⟩ := complete_posts (s.onRng fun r => r.turned ((s.rng.rrRing + k) % 64) left) c st.code 0 0 0
      obtain ⟨t, a, b, -⟩ := finish_fab (s := s) posts fenced rfl rfl
      refine ⟨t, a, ringPick_ring pick, congrArg (fun x : State => { x with rng := s.rng }) b, nofun, fun st' h => ?_⟩
      cases h
      exact ⟨e, isFor, congrArg State.rng b⟩
  · rw [exec_commandDispatch_idle (nextDispatch_none hr idle)]
    exact finish_unchanged (carrying_iff.mp hs).2
  · rw [exec_ringStall_raises hs.1 w ne said]
    exact finish_raiseBy (B := s.onRing n fun r => { r with stallSaid := true }) hs.2 rfl rfl rfl rfl
  · rw [exec_ringStall_said said]
    exact finish_unchanged hs.2

end Sys2Proof.Machine
end


section
/-! COMPLETION_WRITE: that an issued write keeps its line, bytes and requester; the state after a record is written; the bytes of a
record (02 R72 to R77, Table 2.5). -/

namespace Sys2Proof.Machine

/-! ## Queued writes (15 R550, R551) -/

/-- A write request without its tag, which the port gives it as it is issued. -/
def FabReq.untagged (r : FabReq) : FabReq := { r with tag := 0 }

/-- A write is issued, or waits for its port. -/
def State.WriteQueued (s : State) (r : FabReq) : Prop := ∃ q ∈ s.fab.stores ++ s.fab.waiting, q.untagged = r.untagged

theorem State.WriteQueued.of_fab {s t : State} {r : FabReq} (h : s.WriteQueued r) (a : t.fab.stores = s.fab.stores)
    (b : t.fab.waiting = s.fab.waiting) : t.WriteQueued r := by
  unfold State.WriteQueued
  rwa [a, b]

/-- Issuing a write adds it, perhaps with a tag, to the writes that are issued or wait. -/
theorem issueWrite_writes (s : State) (r : FabReq) : ∃ q : FabReq, q.untagged = r.untagged ∧
    ∀ x, x ∈ (issueWrite s r).fab.stores ++ (issueWrite s r).fab.waiting ↔ x ∈ s.fab.stores ++ s.fab.waiting ∨ x = q := by
  unfold issueWrite
  split
  · exact ⟨r, rfl, fun x => by simp [or_assoc]⟩
  · dsimp only [State.onFab]
    generalize freeTag s.fab.stores r.port = tag
    refine ⟨{ r with tag := tag }, rfl, fun x => ?_⟩
    simp only [List.mem_append, List.mem_singleton, or_right_comm]

theorem foldl_issueWrite_writeQueued {r : FabReq} (l : List FabReq) (s : State)
    (h : (∃ q ∈ l, q.untagged = r.untagged) ∨ s.WriteQueued r) : (l.foldl issueWrite s).WriteQueued r := by
  induction l generalizing s with
  | nil => simpa using h
  | cons x l ih =>
    obtain ⟨y, same, writes⟩ := issueWrite_writes s x
    refine ih _ ?_
    rcases h with ⟨q, m, e⟩ | ⟨q, m, e⟩
    · rcases List.mem_cons.mp m with rfl | m
      · exact .inr ⟨y, (writes y).mpr (.inr rfl), same.trans e⟩
      · exact .inl ⟨q, m, e⟩
    · exact .inr ⟨q, (writes q).mpr (.inl m), e⟩

theorem pumpWrites_writeQueued {s : State} {r : FabReq} (h : s.WriteQueued r) : (pumpWrites s).WriteQueued r := by
  obtain ⟨q, m, e⟩ := h
  refine foldl_issueWrite_writeQueued _ _ ?_
  rcases List.mem_append.mp m with m | m
  · exact .inr ⟨q, List.mem_append_left _ m, e⟩
  · exact .inl ⟨q, m, e⟩

/-- The end of a meaning keeps the writes, while the block is not fenced. -/
theorem finish_writeQueued {s t u : State} {r : FabReq} (f : t.lan.fenced = false) (e : finish s t = .next u)
    (h : t.WriteQueued r) : u.WriteQueued r := by
  cases e
  have settled : settle t = pumpWrites t := if_neg (by rw [f]; exact Bool.false_ne_true)
  exact (pumpWrites_writeQueued h).of_fab (by rw [settled]) (by rw [settled])

/-- The write of one line of an access. -/
def lineRequest (s : State) (who : Req) (addr : Nat) (bs : List Byte) (l : Nat) : FabReq :=
  { port := portOfLine s.variant l, line := l, data := (lineWrite addr bs l).1, enables := (lineWrite addr bs l).2, who := who }

theorem writeBytes_writeQueued {s : State} {who : Req} {addr : Nat} {bs : List Byte} {l : Nat} (h : l ∈ linesOf addr bs.length) :
    (writeBytes s who addr bs).WriteQueued (lineRequest s who addr bs l) :=
  ⟨_, List.mem_append_right _ (List.mem_append_right _ (List.mem_map_of_mem h)), rfl⟩

theorem fetchLine_writes (s : State) (who : Req) (line : Nat) :
    (fetchLine s who line).fab.stores = s.fab.stores ∧ (fetchLine s who line).fab.waiting = s.fab.waiting := by
  unfold fetchLine
  dsimp only
  repeat' split
  all_goals exact ⟨rfl, rfl⟩

/-- Asking for the next entry queues no write. -/
theorem fetchEntry_writes {s : State} {n : Nat} (f : s.lan.fenced = false) (k : ∀ l, lineOf s (.entry n) l ≠ some none) :
    (fetchEntry s n).fab.stores = s.fab.stores ∧ (fetchEntry s n).fab.waiting = s.fab.waiting := by
  by_cases h : s.Fetches n
  · rw [fetchEntry_asks f k h]
    exact fetchLine_writes _ _ _
  · rw [fetchEntry_idle h]
    exact ⟨rfl, rfl⟩

/-- An access inside one line touches that line alone. -/
theorem linesOf_single {addr len : Nat} (h : 0 < len) (k : addr % 128 + len ≤ 128) : linesOf addr len = [addr / 128] := by
  unfold linesOf
  rw [if_neg (by omega), show (addr + len - 1) / 128 - addr / 128 + 1 = 1 by omega]
  rfl

/-! ## Little-endian fields -/

@[simp] theorem leBytes_length (n v : Nat) : (leBytes n v).length = n := by
  induction n generalizing v with
  | zero => rfl
  | succ n ih => simp [leBytes, ih]

theorem leNat_leBytes (n v : Nat) : leNat (leBytes n v) = v % 256 ^ n := by
  induction n generalizing v with
  | zero => simp [leBytes, leNat, Nat.mod_one]
  | succ n ih =>
    have low : v % 256 ^ (n + 1) = v % 256 + 256 * (v / 256 % 256 ^ n) := by rw [Nat.pow_succ', Nat.mod_mul]
    simp only [leBytes, leNat, ih, BitVec.toNat_ofNat, low, Nat.reducePow]

/-- The first field of a record. -/
@[simp] theorem getLE_field (n v : Nat) (r : List Byte) : getLE (leBytes n v ++ r) 0 n = v % 256 ^ n := by
  rw [getLE, List.drop_zero, List.take_left' (leBytes_length n v), leNat_leBytes]

@[simp] theorem getLE_field_last (n v : Nat) : getLE (leBytes n v) 0 n = v % 256 ^ n := by
  simpa using getLE_field n v []

/-- A field behind the first. -/
@[simp] theorem getLE_skip {n ofs : Nat} (h : n ≤ ofs) (v len : Nat) (r : List Byte) :
    getLE (leBytes n v ++ r) ofs len = getLE r (ofs - n) len := by
  rw [getLE, List.drop_append, leBytes_length, List.drop_eq_nil_of_le (by simpa using h), List.nil_append, getLE]

/-! ## The record (Table 2.5, R77) -/

theorem cplRecord_length (q : CplRing) (e : Comp) : (cplRecord q e).length = if q.fmtB then 32 else 16 := by
  unfold cplRecord
  dsimp only
  split <;> simp

/-- A record lies inside one line when its ring's base is aligned: its size divides a line (R73). -/
theorem cplRecord_line {q : CplRing} (e : Comp) (h : q.base % 4096 = 0) :
    (linesOf (q.base + q.widx * (if q.fmtB then 32 else 16)) (cplRecord q e).length).length = 1 := by
  rw [cplRecord_length, linesOf_single (by split <;> decide) (by split <;> omega)]
  rfl

/-! ## The state after a record is written -/

/-- The Ring Unit once the record of a completion is written to ring m. -/
def Rng.afterRecord (r : Rng) (m : Nat) (e : Comp) : Rng :=
  let cls := e.status / 4096
  { r with
    comps := r.comps.filter (·.ticket != e.ticket)
    q := modAt r.q m fun q => { q with
      full := false, widx := (q.widx + 1) % 2 ^ q.sizeLog, phase := if q.widx + 1 = 2 ^ q.sizeLog then !q.phase else q.phase }
    completions := wrap32 (r.completions + 1)
    clsNote := if cls = 1 then min (r.clsNote + 1) 255 else min r.clsNote 255
    clsRej := if cls = 2 then min (r.clsRej + 1) 255 else min r.clsRej 255
    clsFail := if cls = 3 then min (r.clsFail + 1) 255 else min r.clsFail 255
    clsAbort := if cls = 4 then min (r.clsAbort + 1) 255 else min r.clsAbort 255
    lastErr := if cls < 2 then r.lastErr else e.status + 65536 * e.ring + 16777216 * e.opcode }

/-- The state once a record is written, its write queued. -/
def State.afterRecord (s : State) (m : Nat) (e : Comp) : State :=
  let q := s.cqr m
  writeBytes { s with
    rng := s.rng.afterRecord m e
    bel := { s.bel with cqPending := if e.irq then s.bel.cqPending ||| 1 <<< q.irqLine else s.bel.cqPending } }
    (.completion m) (q.base + q.widx * (if q.fmtB then 32 else 16)) (cplRecord q e)

theorem satAdd_class (n cap a b : Nat) : satAdd n (b2n (a == b)) cap = if a = b then min (n + 1) cap else min n cap := by
  by_cases h : a = b <;> simp [satAdd, b2n, h]

theorem bne_decide (p : Bool) (P : Prop) [Decidable P] : (p != decide P) = if P then !p else p := by
  by_cases h : P <;> simp [h]

theorem writeComp_unfenced {s : State} {m : Nat} {e : Comp} (f : s.lan.fenced = false) :
    writeComp s m e = fetchEntry (s.afterRecord m e) e.ring := by
  unfold writeComp
  dsimp only
  rw [if_neg (by rw [State.onRng_lan, f]; exact Bool.false_ne_true)]
  congr 1
  unfold State.afterRecord Rng.afterRecord
  simp only [← satAdd_class, ← bne_decide, ← cplRecord_length (s.cqr m) e]
  by_cases h : e.irq = true
  · rw [if_pos h, if_pos h]
    rfl
  · rw [if_neg h, if_neg h]
    rfl

theorem exec_completionWrite {s : State} {m : Nat} {e : Comp} (r : s.stepping = true) (h : nextComp s m = some e)
    (room : (s.cqr m).hasRoom = true) : exec (.completionWrite m) s = finish s (writeComp s m e) := by
  show execCompletionWrite m s = _
  simp only [execCompletionWrite, r, pushComp, h, room, if_true]

/-- Settles O5: the state after a record, the write that stays queued or issued, and the fields of the record one by one. -/
theorem completionRecords : Obligations.CompletionRecords := by
  unfold Obligations.CompletionRecords
  refine ⟨fun s m e hs next room noErr => ?_, fun q e ring tag status opcode stream step d0 d1 => ?_⟩
  · obtain ⟨stepping, fenced⟩ := carrying_iff.mp hs
    dsimp only
    rw [exec_completionWrite stepping next room, writeComp_unfenced fenced]
    obtain ⟨t, a, b, -⟩ := finish_fab (s := s) (fetchEntry_sansFab (s.afterRecord m e) e.ring fenced noErr) fenced rfl rfl
    refine ⟨t, a, congrArg State.rng b, congrArg State.bel b, congrArg (fun x : State => { x with rng := s.rng, bel := s.bel }) b,
      fun l h => ?_, cplRecord_line e⟩
    obtain ⟨stores, waiting⟩ := fetchEntry_writes (s := s.afterRecord m e) fenced noErr
    have queued : (s.afterRecord m e).WriteQueued _ := writeBytes_writeQueued h
    have lan := (fetchEntry_fwd (n := e.ring) (Fwd.refl (s.afterRecord m e))).lan
    obtain ⟨r, mem, same⟩ := finish_writeQueued (by rw [lan]; exact fenced) a (queued.of_fab stores waiting)
    exact ⟨r, mem, congrArg FabReq.line same, congrArg FabReq.who same, congrArg FabReq.data same, congrArg FabReq.enables same⟩
  · dsimp only
    refine ⟨cplRecord_length q e, ?_⟩
    have phase : (b2n q.phase + 2 * e.ring) % 256 = (if q.phase then 1 else 0) + 2 * e.ring :=
      Nat.mod_eq_of_lt (by unfold b2n; split <;> omega)
    have named : (if e.hasStream then e.stream else 0) < 2 ^ 16 := by split <;> omega
    cases b : q.fmtB
    · simp only [cplRecord, b, List.append_assoc]
      simpa using ⟨tag, status, opcode, phase, d0⟩
    · simp only [cplRecord, b, if_true, List.append_assoc]
      simpa using ⟨tag, status, opcode, phase, named, step, d0, d1⟩

end Sys2Proof.Machine
end


section
/-! TOKEN_COMMIT: the text of an EOS id and the order of the end reasons (05 R203). -/

namespace Sys2Proof.Machine

/-! ## The text of an EOS id (Table 5.1) -/

theorem tokText_of_isEos {v : VocImage} {t : Nat} (e : v.isEos t = true) : tokText (some v) t = if v.v ≤ t then .unknown else .eos := by
  simp [tokText, e]

/-- A token that gives no string leaves the text state of its stream as it is. -/
theorem commitPlan_feed_of_no_bytes {s : State} {x : Stream} {r : Result} (h : ∀ bs, tokText (some (s.vocOf x)) r.token ≠ .bytes bs) :
    (commitPlan s x r).feed = { text := x.text } := by
  unfold commitPlan
  dsimp only
  split
  next bs eq => exact absurd eq (h bs)
  next => rfl

theorem commitPlan_feed_of_isEos {s : State} {x : Stream} {r : Result} (e : (s.vocOf x).isEos r.token = true) :
    (commitPlan s x r).feed = { text := x.text } :=
  commitPlan_feed_of_no_bytes fun bs => by rw [tokText_of_isEos e]; split <;> simp

/-! ## The end reason (05 R203, R205, 01 R22) -/

theorem commitPlan_reason (s : State) (x : Stream) (r : Result) :
    (commitPlan s x r).reason = endAt (s.vocOf x) x r (commitPlan s x r).feed := rfl

section
variable {v : VocImage} {x : Stream} {r : Result} {f : FeedRes}

theorem endAt_stop_string (c : f.cut ≠ none) : endAt v x r f = 1 :=
  if_pos (Option.isSome_iff_ne_none.mpr c)

/-- With no match complete, the EOS ids and the length decide. -/
theorem endAt_unmatched (c : f.cut = none) :
    endAt v x r f = if v.isEos r.token then 2 else if x.maxNew = some (x.gen + 1) ∨ r.step = 0xFFFFFFFD then 3 else 0 := by
  simp [endAt, c]

end

/-- Settles O33: the first clause because an EOS id feeds no string, the others by the order of the conditions in `endAt`. That the
length condition holds at MAX_NEW_TOKENS or at the last step is R205 and R22. -/
theorem endReasonOrder : Obligations.EndReasonOrder := by
  unfold Obligations.EndReasonOrder
  intro s x r
  dsimp only
  rw [commitPlan_reason]
  refine ⟨fun eos stopped => ?_, endAt_stop_string, fun unmatched eos => ?_, fun unmatched text long => ?_, fun unmatched text short => ?_⟩
  · exact stopped (by rw [commitPlan_feed_of_isEos eos])
  · rw [endAt_unmatched (Classical.not_not.mp unmatched), if_pos eos]
  · rw [endAt_unmatched (Classical.not_not.mp unmatched), if_neg text, if_pos long]
  · rw [endAt_unmatched (Classical.not_not.mp unmatched), if_neg text, if_neg short]

end Sys2Proof.Machine
end

section
/-! Knalen local memory and the stack (07 R265, R270, Table 7.2, Table 7.5): the outcome of a load, a store, PUSH, POP and PEEK in each
case, and what an instruction with that outcome does to its turret. -/

namespace Sys2Proof.Machine

/-! ## Bytes stored and kept -/

theorem Core.load_store_same {c : Core} (h : scanon 0 c.mem = true) (x : Nat) (bs : List Byte) : (c.store x bs).load x bs.length = bs :=
  sgets_sputs h x bs

theorem Core.store_outside {c : Core} (h : scanon 0 c.mem = true) {x y : Nat} {bs : List Byte} (out : y < x ∨ x + bs.length ≤ y) :
    sget 0 (c.store x bs).mem y = sget 0 c.mem y :=
  sget_sputs_outside bs x y h out

@[simp] theorem Core.wr_pc (c : Core) (r : Nat) (x : DWord) : (c.wr r x).pc = c.pc := by
  unfold Core.wr
  split <;> rfl

/-! ## Outcomes -/

section
variable {n d a : Nat} {al : Bool} {m : BitVec 18} {i : Invocation} {c : Core}

theorem K.next_eq_go (on : c.pc + 1 < i.codeCount) : K.next i c = .go c.advance i := if_pos on

theorem K.put_eq_go (on : c.pc + 1 < i.codeCount) (x : DWord) : K.put i c d x = .go (c.wr d x).advance i :=
  K.next_eq_go (by rwa [Core.wr_pc])

theorem K.loadN_outside (out : localOk i.role (effAddr c a m) n = false) : K.loadN n al d a m i c = .exc Exc.localRange 0 := by
  simp [K.loadN, out]

theorem K.loadN_misaligned (inside : localOk i.role (effAddr c a m) n = true) (odd : effAddr c a m % n ≠ 0) :
    K.loadN n true d a m i c = .exc Exc.misaligned 0 := by
  simp [K.loadN, inside, odd]

theorem K.loadN_eq_go (on : c.pc + 1 < i.codeCount) (inside : localOk i.role (effAddr c a m) n = true)
    (even : al = true → effAddr c a m % n = 0) :
    K.loadN n al d a m i c = .go (c.wr d (BitVec.ofNat 64 (leNat (c.load (effAddr c a m) n)))).advance i := by
  simp +contextual [K.loadN, inside, even, K.put_eq_go on]

theorem K.storeN_outside (out : localOk i.role (effAddr c a m) n = false) : K.storeN n al d a m i c = .exc Exc.localRange 0 := by
  simp [K.storeN, out]

theorem K.storeN_misaligned (inside : localOk i.role (effAddr c a m) n = true) (odd : effAddr c a m % n ≠ 0) :
    K.storeN n true d a m i c = .exc Exc.misaligned 0 := by
  simp [K.storeN, inside, odd]

theorem K.storeN_eq_go (on : c.pc + 1 < i.codeCount) (inside : localOk i.role (effAddr c a m) n = true)
    (even : al = true → effAddr c a m % n = 0) :
    K.storeN n al d a m i c = .go (c.store (effAddr c a m) (leBytes n (c.rd d).toNat)).advance i := by
  have go := K.next_eq_go (i := i) (c := c.store (effAddr c a m) (leBytes n (c.rd d).toNat)) on
  simp +contextual [K.storeN, inside, even, go]

theorem K.push_full (full : c.sp < 0xF000 + 8) : K.push a i c = .exc Exc.stackFault 0 := if_pos full

theorem K.push_eq_go (on : c.pc + 1 < i.codeCount) (room : ¬ c.sp < 0xF000 + 8) :
    K.push a i c = .go { c.store (c.sp - 8) (leBytes 8 (c.rd a).toNat) with sp := c.sp - 8 }.advance i :=
  (if_neg room).trans (K.next_eq_go on)

theorem K.pop_empty (empty : 0x10000 ≤ c.sp) : K.pop d i c = .exc Exc.stackFault 0 := if_pos empty

theorem K.pop_eq_go (on : c.pc + 1 < i.codeCount) (held : ¬ 0x10000 ≤ c.sp) :
    K.pop d i c = .go { c.wr d (BitVec.ofNat 64 (leNat (c.load c.sp 8))) with sp := c.sp + 8 }.advance i :=
  (if_neg held).trans (K.next_eq_go (by simpa using on))

theorem K.peek_above (above : 0x10000 ≤ c.sp + 8 * m.toNat) : K.peek d m i c = .exc Exc.stackFault 0 := if_pos above

theorem K.peek_eq_go (on : c.pc + 1 < i.codeCount) (held : ¬ 0x10000 ≤ c.sp + 8 * m.toNat) :
    K.peek d m i c = .go (c.wr d (BitVec.ofNat 64 (leNat (c.load (c.sp + 8 * m.toNat) 8)))).advance i :=
  (if_neg held).trans (K.put_eq_go on _)

end

/-! ## Instructions of a turret that runs -/

section
variable {s : State} {ins : Instr} {p : Nat} {i : Invocation} {c : Core}

/-- An instruction whose outcome is a next core and invocation completes with them. -/
theorem State.Runs.does {f : Invocation → Core → KOut} {e : Core} {j : Invocation} (h : s.Runs p i c)
    (row : exec ins s = finish s (kRun s p fun _ => f)) (k : f i c = .go e j) : s.Does ins p e j := by
  unfold State.Does
  rw [row]
  exact kRun_does h k

/-- An instruction whose outcome is an exception raises it. -/
theorem State.Runs.excepts {f : Invocation → Core → KOut} {code tr : Nat} (h : s.Runs p i c) (lt : code < 0xFE)
    (row : exec ins s = finish s (kRun s p fun _ => f)) (k : f i c = .exc code tr) : s.Excepts ins p i c code tr := by
  unfold State.Excepts
  rw [row]
  exact kRun_excepts h lt k

/-- An access outside the regions raises LOCAL_RANGE, one inside them at an address that is no multiple of its size MISALIGNED. -/
theorem State.Runs.access_excepts {f : Invocation → Core → KOut} {x n : Nat} (h : s.Runs p i c)
    (row : exec ins s = finish s (kRun s p fun _ => f)) (outside : localOk i.role x n = false → f i c = .exc Exc.localRange 0)
    (misaligned : localOk i.role x n = true → x % n ≠ 0 → f i c = .exc Exc.misaligned 0) :
    (localOk i.role x n = false → s.Excepts ins p i c 3 0) ∧ (localOk i.role x n = true → x % n ≠ 0 → s.Excepts ins p i c 4 0) :=
  ⟨fun out => h.excepts (by decide) row (outside out), fun inside odd => h.excepts (by decide) row (misaligned inside odd)⟩

end

/-- Settles O51: the outcome of each instruction in each of its cases, and what the turret does with that outcome. An address that is both
outside the regions and misaligned raises LOCAL_RANGE: that order is the model's choice. -/
theorem knalenLocalMemory : Obligations.KnalenLocalMemory := by
  unfold Obligations.KnalenLocalMemory
  refine ⟨fun c x bs canon => ⟨Core.load_store_same canon x bs, fun y out => Core.store_outside canon out⟩, ?_⟩
  intro s p i c d a m run on
  refine ⟨fun ins n access => ?_, fun out => ⟨?_, ?_⟩, fun inside even => ⟨?_, ?_⟩, fun inside even => ⟨?_, ?_⟩, fun inside => ⟨?_, ?_⟩,
    ?_, ?_, ?_⟩
  · simp only [List.mem_cons, List.not_mem_nil, or_false, Prod.mk.injEq] at access
    obtain ⟨rfl, rfl⟩ | ⟨rfl, rfl⟩ | ⟨rfl, rfl⟩ | ⟨rfl, rfl⟩ := access
    · exact run.access_excepts (f := K.ld d a m) rfl K.loadN_outside K.loadN_misaligned
    · exact run.access_excepts (f := K.ldw d a m) rfl K.loadN_outside K.loadN_misaligned
    · exact run.access_excepts (f := K.st d a m) rfl K.storeN_outside K.storeN_misaligned
    · exact run.access_excepts (f := K.stw d a m) rfl K.storeN_outside K.storeN_misaligned
  · exact run.excepts (by decide) rfl (K.loadN_outside out)
  · exact run.excepts (by decide) rfl (K.storeN_outside out)
  · exact run.does rfl (K.loadN_eq_go on inside fun _ => even)
  · exact run.does rfl (K.storeN_eq_go on inside fun _ => even)
  · exact run.does rfl (K.loadN_eq_go on inside fun _ => even)
  · exact run.does rfl (K.storeN_eq_go on inside fun _ => even)
  · exact run.does rfl (K.loadN_eq_go on inside nofun)
  · exact run.does rfl (K.storeN_eq_go on inside nofun)
  · split
    · next full => exact run.excepts (by decide) rfl (K.push_full full)
    · next room => exact run.does rfl (K.push_eq_go on room)
  · split
    · next empty => exact run.excepts (by decide) rfl (K.pop_empty empty)
    · next held => exact run.does rfl (K.pop_eq_go on held)
  · split
    · next above => exact run.excepts (by decide) rfl (K.peek_above above)
    · next held => exact run.does rfl (K.peek_eq_go on held)

end Sys2Proof.Machine
end

section
/-! Writes of one store word (12 R442, R443): a request that is presented alone, to a free unit of the store, and that its line's tag allows, from the access it is
granted to the word it leaves. What an uncorrectable word does elsewhere never fences the block, so the meaning ends as usual. -/

namespace Sys2Proof.Machine

/-! ## Words of the listing -/

/-- A value that is listed reads back, whatever the listing's form. -/
theorem sget_sput_same_of_ne {α : Type} [DecidableEq α] {z x : α} (n : x ≠ z) (l : List (Nat × α)) (a : Nat) :
    sget z (sput z l a x) a = x := by
  induction l with
  | nil => simp [sput, sget, n]
  | cons e r ih =>
    obtain ⟨k, v⟩ := e
    rcases Nat.lt_trichotomy a k with lt | eq | gt
    · simp [sput, sget, n, lt]
    · simp [sput, sget, n, eq]
    · have lt : ¬ a < k := by omega
      have ne : a ≠ k := by omega
      simp [sput, sget, lt, ne, ne.symm, ih]

theorem storeUnits_le (v : Variant) (m : Nat) : v.storeUnits m ≤ 512 := by
  unfold Variant.storeUnits
  cases v <;> split <;> decide

theorem mod_storeRows_lt (n m : Nat) : n % Variant.storeRows m < 1024 := by
  unfold Variant.storeRows
  split <;> omega

/-- The store that an address of the listing is in. -/
theorem wordKey_store {m u row w : Nat} (hu : u < 512) (hr : row < 1024) (hw : w < 16) : wordKey m u row w / 8388608 = m := by
  unfold wordKey lineKey
  omega

section
variable (s : State) (k : Nat) (v : DWord)

theorem putWhole_words : (putWhole s k v).mem.words = sput {} s.mem.words k
    { value := v, err := if s.mem.injArm && s.mem.injStore == k / 8388608 then (if s.mem.injDouble then 2 else 1) else 0 } := rfl

theorem putWhole_tags : (putWhole s k v).mem.tags = s.mem.tags := rfl

theorem putWhole_lan : (putWhole s k v).lan = s.lan := rfl

/-- An injection for another store stays armed. -/
theorem putWhole_injArm : (putWhole s k v).mem.injArm = (s.mem.injArm && s.mem.injStore != k / 8388608) := by
  show (s.mem.injArm && !(s.mem.injArm && s.mem.injStore == k / 8388608)) = _
  cases s.mem.injArm <;> rfl

end

/-! ## An uncorrectable word does not fence the block -/

theorem turretFault_fenced (s : State) (p prog pc code : Nat) : (turretFault s p prog pc code).lan.fenced = s.lan.fenced := by
  by_cases spared : ((s.turret p).quarantined || decide (s.tur.ts.length ≤ p)) = true
  · unfold turretFault
    dsimp only
    rw [if_pos spared]
  · simp only [Bool.or_eq_true, decide_eq_true_eq, not_or, Nat.not_le, Bool.not_eq_true] at spared
    obtain ⟨running, inRange⟩ := spared
    obtain ⟨-, lan, -⟩ := turretFault_at (prog := prog) (pc := pc) (code := code) inRange running
    rw [lan]

theorem Fwd.fenced {s t : State} (h : Fwd s t) : t.lan.fenced = s.lan.fenced := by rw [h.lan]

theorem programPoisoned_fenced (s : State) (p : Nat) : (programPoisoned s p).lan.fenced = s.lan.fenced :=
  turretFault_fenced ..

theorem startRestore_fwd (s : State) (x : Stream) : Fwd s (startRestore s x) :=
  foldl_fwd (fun _ _ => fetchBytes_fwd) (dropLines_fwd (State.onStream_fwd (.refl s)))

theorem startRepair_fenced (s : State) (kind id owner : Nat) : (startRepair s kind id owner).lan.fenced = s.lan.fenced := by
  unfold startRepair
  split
  · rfl
  · exact (fetchBytes_fwd (.refl _)).fenced

theorem poisonCupola_fwd (s : State) (line requester : Nat) : Fwd s (poisonCupola s line requester) := by
  unfold poisonCupola
  dsimp only
  split
  · exact State.onUnit_fwd (State.onCup_fwd (.refl s))
  · exact State.onCup_fwd (.refl s)

theorem poisonQueue_fwd (s : State) (line : Nat) : Fwd s (poisonQueue s line) := by
  unfold poisonQueue
  dsimp only
  split
  · exact .refl s
  · exact raiseBy_fwd (State.onQueue_fwd (.refl s))

theorem poisonTree_fwd (s : State) (t : Tree) : Fwd s (poisonTree s t) := by
  unfold poisonTree
  split
  · split
    · exact boundary_fwd (failStep_fwd (endRound_fwd (.refl s)))
    · split
      · exact walkOver_fwd (State.onTree_fwd (.refl s))
      · exact .refl s
  · exact .refl s

/-- What a poisoned word does to what it belongs to, store by store. -/
theorem poisonItem_fenced (s : State) (m u row q : Nat) : (poisonItem s m u row q).lan.fenced = s.lan.fenced := by
  unfold poisonItem
  dsimp only
  split
  case h_1 =>
    split
    · exact (startRestore_fwd s _).fenced
    · rfl
  case h_5 => exact (poisonCupola_fwd ..).fenced
  case h_6 => split <;> rfl
  case h_7 => exact programPoisoned_fenced ..
  case h_8 => exact (poisonQueue_fwd ..).fenced
  case h_9 =>
    split
    · exact (poisonTree_fwd ..).fenced
    · rfl
  all_goals
    split
    · exact startRepair_fenced ..
    · rfl

theorem foundUe_fenced (s : State) (m u row w q : Nat) : (foundUe s m u row w q).lan.fenced = s.lan.fenced := by
  unfold foundUe poisoned
  dsimp only
  have found : ∀ t : State, (poisonItem (raiseFrom t q 0x0601 0 0 (placeBits m u row w)) m u row q).lan.fenced = t.lan.fenced :=
    fun t => (poisonItem_fenced ..).trans (raiseFrom_fwd (.refl t)).fenced
  split
  · exact (programPoisoned_fenced ..).trans (found _)
  · exact found _

/-! ## The word that a write leaves -/

/-- A raw word that is not a good zero word reads back, whatever the listing's form. -/
theorem State.rawWord_putWord_of_ne {v : RawWord} (n : v ≠ {}) (s : State) (m u row w : Nat) :
    (s.putWord m u row w v).rawWord m u row w = v := sget_sput_same_of_ne n ..

theorem opValue_write_whole (n : Nat) (x v : DWord) : opValue (.write n 0xFF x) v = x := by
  have all : enableMask 0xFF = BitVec.allOnes 64 := by decide
  show (x &&& enableMask 0xFF) ||| (v &&& ~~~enableMask 0xFF) = x
  rw [all, BitVec.and_allOnes, BitVec.not_allOnes, BitVec.and_zero, BitVec.or_zero]

section
variable {s : State} {m u w : Nat} {r : StoreReq}

/-- An operation on the whole word puts its value, whatever the word held. -/
theorem writeWord_alone_whole (whole : opPartial r.op = false) :
    (writeWord s m u w r [r]).1 = putWhole s (wordKey m u r.line w) (opValue r.op (s.rawWord m u r.line w).value) := by
  simp [writeWord, applyGroupOps, whole]

/-- An operation on part of an uncorrectable word finds the error and leaves the word uncorrectable. -/
theorem writeWord_alone_part (part : opPartial r.op = true) (bad : (s.rawWord m u r.line w).err = 2) :
    (writeWord s m u w r [r]).1 = ((foundUe s m u r.line w r.requester).onMem fun t => { t with
      fixes := t.fixes.filter (· != wordKey m u r.line w) }).putWord m u r.line w
        { value := opValue r.op (s.rawWord m u r.line w).value, err := 2 } := by
  simp [writeWord, applyGroupOps, part, bad]

theorem writeWord_alone_part_bad (part : opPartial r.op = true) (bad : (s.rawWord m u r.line w).err = 2) :
    ((writeWord s m u w r [r]).1.rawWord m u r.line w).err = 2 := by
  rw [writeWord_alone_part part bad, State.rawWord_putWord_of_ne (by simp)]

theorem writeWord_alone_part_fenced (part : opPartial r.op = true) (bad : (s.rawWord m u r.line w).err = 2) :
    (writeWord s m u w r [r]).1.lan.fenced = s.lan.fenced := by
  rw [writeWord_alone_part part bad]
  exact foundUe_fenced ..

end

/-! ## A request presented alone -/

/-- From a to b the words of the stores, the tags and the armed injection stay, and so does the Lantern. -/
structure SameStores (a b : State) : Prop where
  words : b.mem.words = a.mem.words
  tags : b.mem.tags = a.mem.tags
  injArm : b.mem.injArm = a.mem.injArm
  lan : b.lan = a.lan

theorem SameStores.trans {a b c : State} (h : SameStores a b) (k : SameStores b c) : SameStores a c :=
  ⟨k.words.trans h.words, k.tags.trans h.tags, k.injArm.trans h.injArm, k.lan.trans h.lan⟩

theorem SameStores.rawWord {a b : State} (h : SameStores a b) (m u row w : Nat) : b.rawWord m u row w = a.rawWord m u row w := by
  unfold State.rawWord
  rw [h.words]

theorem endCycle_same (s : State) (m u : Nat) (granted : List StoreReq) : SameStores s (endCycle s m u granted []) :=
  ⟨rfl, rfl, rfl, rfl⟩

/-- With nothing to repeat, a grant takes no operation off the list. -/
theorem retries_kept {s : State} {m u : Nat} (noRetry : retriesAt s m u = []) (p : StoreReq → Bool) :
    (s.onMem fun t => { t with retry := t.retry.filter fun e => !(e.1 == m && e.2.1 == u && p e.2.2) }) = s := by
  have kept : (s.mem.retry.filter fun e => !(e.1 == m && e.2.1 == u && p e.2.2)) = s.mem.retry := by
    refine List.filter_eq_self.mpr fun e mem => ?_
    have other := List.filter_eq_nil_iff.mp (List.map_eq_nil_iff.mp noRetry) e mem
    rw [Bool.not_eq_true] at other
    rw [other, Bool.false_and, Bool.not_false]
  simp only [State.onMem, kept]

section
variable {s : State} {m u n : Nat} {r : StoreReq} {en : BitVec 8} {x : DWord}

theorem groupOf_alone (p : Nat → Bool) (op : r.op = .write n en x) : groupOf p r [r] = [r] := by
  simp [groupOf, op, opWords, ascending]

theorem writeGroup_alone (op : r.op = .write n en x) : SameStores (writeWord s m u (n % 16) r [r]).1 (writeGroup s m u r [r]) := by
  obtain ⟨q, work, owner, line, op'⟩ := r
  subst op
  simp only [writeGroup, opWords, List.foldl_cons, List.foldl_nil, List.filter_cons, List.contains_cons, BEq.rfl, Bool.true_or, if_true,
    List.filter_nil, List.map_cons, List.map_nil, opAt]
  exact ⟨rfl, rfl, rfl, rfl⟩

theorem grantAccess_alone (op : r.op = .write n en x) (allowed : tagAllows m (s.lineTag m u r.line) r = true) :
    SameStores (writeWord s m u (n % 16) r [r]).1 (grantAccess s m u r [r]) := by
  refine (writeGroup_alone op).trans ?_
  simp only [grantAccess, op, List.filter_cons, List.filter_nil, allowed, if_true, Bool.not_true, Bool.false_eq_true, if_false,
    List.isEmpty_cons, List.foldl_nil]
  exact ⟨rfl, rfl, rfl, rfl⟩

/-- A free unit of a store grants a request presented alone: no write-back goes before it. -/
theorem storeCycle_alone (free : s.mem.busy.contains (m, u) = false) (march : marchHolds s m u = false) (noRetry : retriesAt s m u = [])
    (first : r.cls ≤ 5 ∨ fixOf s m u = none) (alone : ∀ p, groupOf p r [r] = [r]) :
    storeCycle s m u [r] = endCycle (grantAccess s m u r [r]) m u [r] [] := by
  have kept := retries_kept noRetry [r].contains
  have top : ∀ p, topRequest p [r] = some r := fun _ => rfl
  unfold storeCycle
  simp only [free, march, noRetry, List.nil_append, alone, kept, top, Bool.false_eq_true, if_false]
  rcases first with first | first <;> simp [first, topRequest]

/-- A write presented alone to a free unit of a store, allowed by its line's tag, leaves what its one word leaves. -/
theorem exec_write_alone (serving : s.Serving) (present : hasMacro s m u = true) (free : s.mem.busy.contains (m, u) = false)
    (march : marchHolds s m u = false) (noRetry : retriesAt s m u = []) (first : r.cls ≤ 5 ∨ fixOf s m u = none)
    (op : r.op = .write n en x) (allowed : tagAllows m (s.lineTag m u (r.line % Variant.storeRows m)) (StoreReq.atRow m r) = true)
    (fenced : (writeWord s m u (n % 16) (StoreReq.atRow m r) [StoreReq.atRow m r]).1.lan.fenced = s.lan.fenced) :
    ∃ t, exec (.storeAccessGrant m u [r]) s = .next t ∧ SameStores (writeWord s m u (n % 16) (StoreReq.atRow m r) [StoreReq.atRow m r]).1 t := by
  have cycle := storeCycle_alone (r := StoreReq.atRow m r) free march noRetry first fun p => groupOf_alone p op
  have same := (grantAccess_alone (r := StoreReq.atRow m r) op allowed).trans (endCycle_same _ m u [StoreReq.atRow m r])
  rw [← cycle] at same
  have writing : s.writing = true := by simp [State.writing, serving.1]
  have run : exec (.storeAccessGrant m u [r]) s = finish s (storeCycle s m u [StoreReq.atRow m r]) := by
    show execStoreAccessGrant m u [r] s = _
    simp only [execStoreAccessGrant, present, writing, if_true, List.map_cons, List.map_nil]
  obtain ⟨t, next, agrees, -⟩ := finish_next s _ (by rw [same.lan, fenced]; exact serving.2)
  obtain ⟨-, -, -, lan, -, -, -, -, -, -, -, -, -, -, -, -, mem, -⟩ := sansFab_ext agrees
  exact ⟨t, run.trans next, same.trans ⟨by rw [mem], by rw [mem], by rw [mem], lan⟩⟩

end

/-- Settles O38: a granted write does to the stores what `writeWord` does to its one word, which puts a whole word and leaves an
uncorrectable word uncorrectable. -/
theorem wordWrites : Obligations.WordWrites := by
  unfold Obligations.WordWrites
  intro s m u r w en x serving present free march noRetry first canon op
  dsimp only
  intro allowed
  have run := exec_write_alone serving present free march noRetry first op allowed
  replace op : (StoreReq.atRow m r).op = .write w en x := op
  constructor
  · rintro rfl
    have store : wordKey m u (StoreReq.atRow m r).line (w % 16) / 8388608 = m :=
      wordKey_store (Nat.lt_of_lt_of_le (of_decide_eq_true present) (storeUnits_le ..)) (mod_storeRows_lt ..) (Nat.mod_lt _ (by decide))
    rw [writeWord_alone_whole (by rw [op]; rfl), op, opValue_write_whole] at run
    obtain ⟨t, next, same⟩ := run (by rw [putWhole_lan])
    refine ⟨t, next, ?_, ?_, same.tags.trans (putWhole_tags ..), fun k other => ?_⟩
    · show sget {} t.mem.words (wordKey m u (StoreReq.atRow m r).line (w % 16)) = _
      rw [same.words, putWhole_words, sget_sput_same canon, store]
    · rw [same.injArm, putWhole_injArm, store]
    · rw [same.words, putWhole_words]
      exact sget_sput_ne canon other _
  · intro partEnables bad
    have part : opPartial (StoreReq.atRow m r).op = true := by
      rw [op]
      exact bne_iff_ne.mpr partEnables
    obtain ⟨t, next, same⟩ := run (writeWord_alone_part_fenced part bad)
    exact ⟨t, next, by rw [same.rawWord]; exact writeWord_alone_part_bad part bad⟩

end Sys2Proof.Machine
end

section
/-! Code words of Knalen instructions (07 Table 7.3, Table 7.4): the fields of a packed word, and that decoding gives back what was encoded. -/

namespace Sys2Proof

open Knalen

namespace Knalen

section
variable {op x y z lo : Nat} {imm : BitVec 18} {w : Word}

/-- The fields of a word in format R. -/
theorem pack_fields (e : pack op x y z lo = w) (ho : op < 64) (hx : x < 16) (hy : y < 16) (hz : z < 16) (hl : lo < 16384) :
    fop w = op ∧ f1 w = x ∧ f2 w = y ∧ f3 w = z ∧ fsub w = lo := by
  have n : w.toNat = op * 67108864 + x * 4194304 + y * 262144 + z * 16384 + lo := by
    rw [← e, pack, BitVec.toNat_ofNat, Nat.mod_eq_of_lt (by omega)]
  simp only [fop, f1, f2, f3, fsub, n]
  omega

/-- The fields of a word in format I or B. -/
theorem packI_fields (e : packI op x y imm = w) (ho : op < 64) (hx : x < 16) (hy : y < 16) :
    fop w = op ∧ f1 w = x ∧ f2 w = y ∧ fimm w = imm := by
  have := imm.isLt
  have n : w.toNat = op * 67108864 + x * 4194304 + y * 262144 + imm.toNat := by
    rw [← e, packI, BitVec.toNat_ofNat, Nat.mod_eq_of_lt (by omega)]
  have low : w.toNat % 262144 = imm.toNat := by omega
  refine ⟨?_, ?_, ?_, ?_⟩
  · rw [fop]; omega
  · rw [f1]; omega
  · rw [f2]; omega
  · rw [fimm, low, BitVec.ofNat_toNat, BitVec.setWidth_eq]

/-- A flag in the low bits of a word. -/
theorem flag_fits (b : Bool) : b.toNat < 16384 := by cases b <;> decide

theorem vreg_fits {r : Nat} (h : Operand.vreg r = true) : r < 16 := by
  simp only [Operand.vreg, decide_eq_true_eq] at h
  omega

theorem whenOk_true {b : Bool} (h : b = true) (i : Instr) : whenOk b i = some i := if_pos h

end
end Knalen

/-- Settles O60, format by format of Table 7.3: the fields of the packed word select the instruction's line of Table 7.4, and what a
well-formed instruction leaves unused in them is 0. -/
theorem knalenDecodeEncode : Obligations.KnalenDecodeEncode := by
  unfold Obligations.KnalenDecodeEncode
  intro i p w wf enc
  cases i <;> cases enc
  all_goals
    simp only [Instr.wf, wfRRR, wfRR, Operand.reg, Operand.turret, Bool.and_eq_true, decide_eq_true_eq] at wf
  case add | sub | and | or | xor | slt | hprobe =>
    obtain ⟨⟨⟨-, hd⟩, ha⟩, hb⟩ := wf
    generalize e : pack _ _ _ _ _ = w
    obtain ⟨o, x, y, z, l⟩ := pack_fields e (by decide) hd ha hb (by decide)
    rw [decodeKnalen, o, x, y, z, l]
    rfl
  case tstep flag =>
    obtain ⟨⟨⟨-, hd⟩, ha⟩, hb⟩ := wf
    generalize e : pack _ _ _ _ _ = w
    obtain ⟨o, x, y, z, l⟩ := pack_fields e (by decide) hd ha hb (flag_fits flag)
    rw [decodeKnalen, o, x, y, z, l]
    cases flag <;> rfl
  case mset flag | mclr flag =>
    obtain ⟨⟨-, ha⟩, hb⟩ := wf
    generalize e : pack _ _ _ _ _ = w
    obtain ⟨o, x, y, z, l⟩ := pack_fields e (by decide) (by decide) ha hb (flag_fits flag)
    rw [decodeKnalen, o, x, y, z, l]
    cases flag <;> rfl
  case addi | andi | ld | ldw | ldb | st | stw | stb | tld | tldw | beq | bne | blt =>
    obtain ⟨⟨-, hd⟩, ha⟩ := wf
    generalize e : packI _ _ _ _ = w
    obtain ⟨o, x, y, i⟩ := packI_fields e (by decide) hd ha
    rw [decodeKnalen, o, x, y, i]
    rfl
  case shli | shri =>
    obtain ⟨⟨⟨-, hd⟩, ha⟩, fits⟩ := wf
    generalize e : packI _ _ _ _ = w
    obtain ⟨o, x, y, i⟩ := packI_fields e (by decide) hd ha
    rw [decodeKnalen, o, x, y, i]
    exact whenOk_true fits _
  case movi | jal =>
    obtain ⟨-, hd⟩ := wf
    generalize e : packI _ _ _ _ = w
    obtain ⟨o, x, y, i⟩ := packI_fields e (by decide) hd (by decide)
    rw [decodeKnalen, o, x, y, i]
    rfl
  case movh | peek =>
    obtain ⟨⟨-, hd⟩, fits⟩ := wf
    generalize e : packI _ _ _ _ = w
    obtain ⟨o, x, y, i⟩ := packI_fields e (by decide) hd (by decide)
    rw [decodeKnalen, o, x, y, i]
    exact whenOk_true (by simpa using fits) _
  case push | post | ares | jr =>
    obtain ⟨-, ha⟩ := wf
    generalize e : pack _ _ _ _ _ = w
    obtain ⟨o, x, y, z, l⟩ := pack_fields e (by decide) (by decide) ha (by decide) (by decide)
    rw [decodeKnalen, o, x, y, z, l]
    rfl
  case pop | steal =>
    obtain ⟨-, hd⟩ := wf
    generalize e : pack _ _ _ _ _ = w
    obtain ⟨o, x, y, z, l⟩ := pack_fields e (by decide) hd (by decide) (by decide) (by decide)
    rw [decodeKnalen, o, x, y, z, l]
    rfl
  case astep | aspec | asave =>
    obtain ⟨⟨-, hd⟩, ha⟩ := wf
    generalize e : pack _ _ _ _ _ = w
    obtain ⟨o, x, y, z, l⟩ := pack_fields e (by decide) hd ha (by decide) (by decide)
    rw [decodeKnalen, o, x, y, z, l]
    rfl
  case vld | vst | vin =>
    obtain ⟨⟨-, hd⟩, ha⟩ := wf
    generalize e : packI _ _ _ _ = w
    obtain ⟨o, x, y, i⟩ := packI_fields e (by decide) (vreg_fits hd) ha
    rw [decodeKnalen, o, x, y, i]
    exact whenOk_true hd _
  case vcls =>
    obtain ⟨⟨⟨-, hd⟩, ha⟩, hb⟩ := wf
    generalize e : pack _ _ _ _ _ = w
    obtain ⟨o, x, y, z, l⟩ := pack_fields e (by decide) (vreg_fits hd) (vreg_fits ha) hb (by decide)
    rw [decodeKnalen, o, x, y, z, l]
    exact whenOk_true (by simp [hd, ha]) _
  case vcmpeq | vfind =>
    obtain ⟨⟨⟨-, hd⟩, ha⟩, hb⟩ := wf
    generalize e : pack _ _ _ _ _ = w
    obtain ⟨o, x, y, z, l⟩ := pack_fields e (by decide) hd (vreg_fits ha) hb (by decide)
    rw [decodeKnalen, o, x, y, z, l]
    exact whenOk_true (by simp [ha]) _
  case vutf flag =>
    obtain ⟨⟨⟨-, hd⟩, ha⟩, hb⟩ := wf
    generalize e : pack _ _ _ _ _ = w
    obtain ⟨o, x, y, z, l⟩ := pack_fields e (by decide) hd (vreg_fits ha) hb (flag_fits flag)
    rw [decodeKnalen, o, x, y, z, l]
    cases flag <;> exact whenOk_true (by simp [ha]) _
  case emitv =>
    obtain ⟨⟨-, ha⟩, hb⟩ := wf
    generalize e : pack _ _ _ _ _ = w
    obtain ⟨o, x, y, z, l⟩ := pack_fields e (by decide) (by decide) (vreg_fits ha) hb (by decide)
    rw [decodeKnalen, o, x, y, z, l]
    exact whenOk_true (by simp [ha]) _
  case emit k =>
    obtain ⟨⟨-, ha⟩, hk⟩ := wf
    generalize e : packI _ _ _ _ = w
    obtain ⟨o, x, y, i⟩ := packI_fields e (by decide) (by decide) ha
    have kind : (BitVec.ofNat 18 k).toNat = k := by rw [BitVec.toNat_ofNat]; omega
    rw [decodeKnalen, o, x, y, i, kind]
    exact whenOk_true (by simp [hk]) _
  case trap code =>
    have := code.isLt
    generalize e : packI _ _ _ _ = w
    obtain ⟨o, x, y, i⟩ := packI_fields e (by decide) (by decide) (by decide)
    have byte : (BitVec.ofNat 18 code.toNat).toNat = code.toNat := by rw [BitVec.toNat_ofNat]; omega
    rw [decodeKnalen, o, x, y, i, byte]
    refine (whenOk_true (by simpa using this) _).trans ?_
    rw [BitVec.ofNat_toNat, BitVec.setWidth_eq]
  case bar | fin =>
    generalize e : pack _ _ _ _ _ = w
    obtain ⟨o, x, y, z, l⟩ := pack_fields e (by decide) (by decide) (by decide) (by decide) (by decide)
    rw [decodeKnalen, o, x, y, z, l]
    rfl
  case j =>
    generalize e : packI _ _ _ _ = w
    obtain ⟨o, x, y, i⟩ := packI_fields e (by decide) (by decide) (by decide)
    rw [decodeKnalen, o, x, y, i]
    rfl

end Sys2Proof
end

section
/-! A step and the queue of commands; reset; NOP and FENCE; written-out code words. -/

namespace Sys2Proof.Machine

/-- Every instruction ends in `finish`, or is the fault of a store that the configuration lacks. -/
theorem exec_finishes (i : Instr) (s t : State) (h : exec i s = .next t) : ∃ u, finish s u = .next t := by
  cases i
  case storeAccessGrant store unit reqs =>
    change (if _ then finish s _ else _) = _ at h
    split at h
    · exact ⟨_, h⟩
    · cases h
  case arbStarvePromote store unit requester =>
    change (if _ then finish s _ else _) = _ at h
    split at h
    · exact ⟨_, h⟩
    · cases h
  all_goals exact ⟨_, h⟩

theorem finish_keeps_queue {s u t : State} (h : finish s u = .next t) : t.variant = s.variant ∧ t.pending = s.pending := by
  cases h
  exact ⟨rfl, rfl⟩

/-- Settles O56: whatever an instruction leaves, `finish` gives back the configuration and the queue. -/
theorem configurationAndQueueKept : Obligations.ConfigurationAndQueueKept := by
  unfold Obligations.ConfigurationAndQueueKept
  intro i s t h
  obtain ⟨u, e⟩ := exec_finishes i s t h
  exact finish_keeps_queue e

/-- Settles O55 (an empty queue passing one CK_AON cycle is the model's choice, log entry 3). -/
theorem stepRunsTheFront : Obligations.StepRunsTheFront := by
  unfold Obligations.StepRunsTheFront
  refine ⟨fun c rest s h => ?_, fun s h => ?_⟩
  · simp only [step, h]
  · have idle : step s = .next (tick s) := by simp only [step, h]
    exact idle

/-- Settles O59: each word is evaluated field by field. -/
theorem knalenWords : Obligations.KnalenWords := by
  unfold Obligations.KnalenWords
  decide

/-- An element of a list of equal ones, within the list or past its end. -/
theorem getN_replicate {α : Type} [Inhabited α] (x : α) (k n : Nat) : getN (List.replicate k x) n = x ∨ getN (List.replicate k x) n = default := by
  by_cases h : n < k
  · exact .inl (by simp [getN, h])
  · exact .inr (by simp [getN, h])

theorem ring_reset_disabled (n : Nat) : (State.reset.ring n).enable = false := by
  rcases getN_replicate ({} : CmdRing) 64 n with h | h <;> exact congrArg CmdRing.enable h

theorem cqr_reset_disabled (n : Nat) : (State.reset.cqr n).enable = false := by
  rcases getN_replicate ({} : CplRing) 64 n with h | h <;> exact congrArg CplRing.enable h

theorem owner_reset_epoch (o : Nat) : (State.reset.owner o).epoch = 0 := by
  rcases getN_replicate ({} : OwnerEpoch) 64 o with h | h <;> exact congrArg OwnerEpoch.epoch h

theorem key_reset (o : Nat) : State.reset.key? o = none := by
  show ((List.replicate 64 none)[o]?).join = none
  rw [List.getElem?_replicate]
  split <;> rfl

/-- A turret at reset has an empty local memory and no suspended work. -/
theorem reset_canonical : Claims.Canonical State.reset := by
  refine ⟨rfl, rfl, fun u hu m hm => ?_⟩
  obtain ⟨p, -, rfl⟩ := List.mem_map.mp hu
  obtain rfl : m = [] := List.mem_singleton.mp hm
  rfl

/-- Settles O58. That the store words are zero and the lines free before step 4 clears them is the model's choice (log entry 65), as are
the configuration and the empty queue (log entry 2). -/
theorem resetState : Obligations.ResetState := by
  unfold Obligations.ResetState
  exact ⟨⟨rfl, rfl, rfl, rfl, rfl, rfl, fun n => ⟨ring_reset_disabled n, cqr_reset_disabled n⟩, key_reset, fun _ _ _ _ => ⟨rfl, rfl⟩,
    owner_reset_epoch, rfl, rfl⟩, reset_canonical⟩

/-- A FENCE without SYNC_RECORDS. -/
theorem runFence_plain {s : State} {c : Cmd} (h : c.bit 16 0 = false) : runFence s c = complete s c Status.ok.code := by
  simp [runFence, h]

/-- An executing FENCE that waits for the owner's record ring. -/
theorem runFence_executing {s : State} {c : Cmd} (h : c.bit 16 0 = true) (e : c.phase = .executing) :
    runFence s c = if c.n0 ≤ (s.ownPkr c.owner).recRing.wseq ∨ (s.ownPkr c.owner).recRing.next < c.n0
      then complete s { c with n0 := 0 } Status.ok.code else s := by
  simp [runFence, h, e]

/-- A command completes with OK and changes nothing else. -/
theorem finish_completes {s : State} (c : Cmd) (f : s.lan.fenced = false) :
    ∃ t, finish s (complete s c Status.ok.code) = .next t ∧ Completed s t c 0 0 0 0 ∧ { t with rng := s.rng }.sansFab = s.sansFab :=
  finish_complete f rfl rfl rfl rfl

/-- Settles O8. -/
theorem nopAndFenceComplete : Obligations.NopAndFenceComplete := by
  unfold Obligations.NopAndFenceComplete
  intro s k c
  refine ⟨fun h => ?_, fun h plain => ?_, fun h sync => ?_⟩
  · obtain ⟨-, fenced, -⟩ := accepted_facts h
    show ∃ t, finish s (runCmd s k 0x00 _) = _ ∧ _
    rw [runCmd_accepted h]
    exact finish_completes c fenced
  · obtain ⟨-, fenced, -⟩ := accepted_facts h
    show ∃ t, finish s (runCmd s k 0x01 runFence) = _ ∧ _
    rw [runCmd_accepted h, runFence_plain plain]
    exact finish_completes c fenced
  · obtain ⟨-, fenced, -, -, -, phase⟩ := executing_facts h
    have run : exec (.fence k) s = finish s (runFence s c) := congrArg (finish s) (runCmd_executing h runFence)
    dsimp only
    rw [run, runFence_executing sync phase]
    refine ⟨fun written => ?_, fun waits staged => ?_⟩
    · rw [if_pos (.inl written)]
      exact finish_completes { c with n0 := 0 } fenced
    · rw [if_neg (by omega)]
      exact finish_unchanged fenced

end Sys2Proof.Machine
end

section
/-! The canonical form of the stores and of local memories (12 R430, 07 R265), operation by operation: what an instruction leaves of the local
memory of its turret, and what turret work, faults and resets leave. -/

namespace Sys2Proof.Machine

open Claims

section
variable {s t : State}

/-- The canonical form is a property of the words, the tags and the turrets. -/
theorem canonical_of_eq (h : Canonical s) (w : t.mem.words = s.mem.words) (g : t.mem.tags = s.mem.tags) (u : t.tur = s.tur) :
    Canonical t := by
  unfold Canonical
  rwa [w, g, u]

theorem Fwd.canonical (f : Fwd s t) (h : Canonical s) : Canonical t := by
  obtain ⟨words, tags, mems⟩ := h
  refine ⟨?_, ?_, f.mems mems⟩
  · rwa [f.mem]
  · rwa [f.mem]

theorem foldl_canonical {α : Type} {g : State → α → State} (k : ∀ s x, Canonical s → Canonical (g s x)) (l : List α) (h : Canonical s) :
    Canonical (l.foldl g s) := by
  induction l generalizing s with
  | nil => exact h
  | cons x l ih => exact ih (k s x h)

theorem turret_canon (h : Canonical s) (p : Nat) : (s.turret p).Canon := by
  by_cases inRange : p < s.tur.ts.length
  · exact h.2.2 _ (getN_mem inRange)
  · have : s.turret p = default := by simp [State.turret, getN, inRange]
    rw [this]
    exact Turret.local_canon default

theorem onTurret_canonical {p : Nat} {f : Turret → Turret} (k : ∀ u, u.Canon → (f u).Canon) (h : Canonical s) : Canonical (s.onTurret p f) :=
  (State.onTurret_fwd (Fwd.refl s) k).canonical h

end

/-! ## Instructions -/

/-- The core that an outcome leaves has its local memory in canonical form. -/
def KOut.Canon : KOut → Prop
  | .go c _ => scanon 0 c.mem = true
  | _ => True

/-- An instruction that keeps the canonical form of its core's local memory. -/
def KeepsMem (f : Invocation → Core → KOut) : Prop := ∀ i c, scanon 0 c.mem = true → (f i c).Canon

@[simp] theorem Core.wr_mem (c : Core) (r : Nat) (x : DWord) : (c.wr r x).mem = c.mem := by
  unfold Core.wr
  split <;> rfl

namespace K

section
variable {i : Invocation} {c : Core} (h : scanon 0 c.mem = true)
include h

theorem next_canon : (next i c).Canon := by
  unfold next
  split
  · exact h
  · trivial

theorem put_canon (d : Nat) (x : DWord) : (put i c d x).Canon := next_canon (by rwa [Core.wr_mem])

theorem goto_canon (t : Nat) : (goto_ i c t).Canon := by
  unfold goto_
  split
  · exact h
  · trivial

theorem emitBytes_canon (bs : List Byte) : (emitBytes i bs c).Canon := by
  unfold emitBytes
  split
  · trivial
  · exact next_canon h

end

theorem ite_canon {p : Prop} [Decidable p] {a b : KOut} (ha : p → a.Canon) (hb : ¬ p → b.Canon) : (if p then a else b).Canon := by
  split
  · exact ha ‹_›
  · exact hb ‹_›

theorem engineOnly_canon {i : Invocation} {k : KOut} (h : k.Canon) : (engineOnly i k).Canon := ite_canon (fun _ => h) fun _ => trivial

section
variable (n d a b : Nat) (al : Bool) (m : BitVec 18) (e : KEnv)

theorem alu_keeps (f : DWord → DWord → DWord) : KeepsMem (alu f d a b) := fun _ _ h => put_canon h _ _

theorem loadN_keeps : KeepsMem (loadN n al d a m) := fun _ _ h =>
  ite_canon (fun _ => trivial) fun _ => ite_canon (fun _ => trivial) fun _ => put_canon h _ _

theorem storeN_keeps : KeepsMem (storeN n al d a m) := fun _ _ h =>
  ite_canon (fun _ => trivial) fun _ => ite_canon (fun _ => trivial) fun _ => next_canon (Core.store_scanon h _ _)

theorem push_keeps : KeepsMem (push a) := fun _ _ h => ite_canon (fun _ => trivial) fun _ => next_canon (Core.store_scanon h _ _)

theorem pop_keeps : KeepsMem (pop d) := fun _ c h =>
  ite_canon (fun _ => trivial) fun _ => next_canon (show scanon 0 (c.wr d _).mem = true by rwa [Core.wr_mem])

theorem peek_keeps : KeepsMem (peek d m) := fun _ _ h => ite_canon (fun _ => trivial) fun _ => put_canon h _ _

theorem tldN_keeps : KeepsMem (tldN n d a m) := fun _ _ h => ite_canon (fun _ => trivial) fun _ => put_canon h _ _

theorem hprobe_keeps : KeepsMem (hprobe e d a b) := by
  intro i c h
  refine engineOnly_canon ?_
  split
  · trivial
  · refine ite_canon (fun _ => trivial) fun _ => ?_
    split <;> exact put_canon h _ _

theorem tstep_keeps : KeepsMem (tstep e d a b al) := by
  intro i c h
  refine engineOnly_canon ?_
  split
  · trivial
  · refine ite_canon (fun _ => trivial) fun _ => ?_
    split <;> exact put_canon h _ _

theorem astep_keeps : KeepsMem (astep e d a) := fun _ _ h => engineOnly_canon (put_canon (by exact h) _ _)

theorem aspec_keeps : KeepsMem (aspec e d a) := fun _ _ h => engineOnly_canon (put_canon (by exact h) _ _)

theorem asave_keeps : KeepsMem (asave d a) := fun _ _ h =>
  engineOnly_canon (ite_canon (fun _ => trivial) fun _ => put_canon (Core.store_scanon h _ _) _ _)

theorem ares_keeps : KeepsMem (ares a) := fun _ _ h => engineOnly_canon (ite_canon (fun _ => trivial) fun _ => next_canon h)

theorem bitLocal_keeps (set : Bool) : KeepsMem (bitLocal set a b) := fun _ _ h =>
  engineOnly_canon (ite_canon (fun _ => trivial) fun _ => next_canon (Core.store_scanon h _ _))

theorem vld_keeps : KeepsMem (vld d a m) := fun _ _ h => ite_canon (fun _ => trivial) fun _ => next_canon h

theorem vst_keeps : KeepsMem (vst d a m) := fun _ _ h => ite_canon (fun _ => trivial) fun _ => next_canon (Core.store_scanon h _ _)

theorem vin_keeps : KeepsMem (vin d a m) := fun _ _ h => next_canon h

theorem vcls_keeps : KeepsMem (vcls d a b) := fun _ _ h => ite_canon (fun _ => trivial) fun _ => next_canon h

theorem vutf_keeps (carried : Bool) : KeepsMem (vutf d a b carried) := by
  intro i c h
  refine put_canon ?_ _ _
  split <;> exact h

theorem emit_keeps : KeepsMem (emit a n) := by
  intro i c h
  unfold emit
  split
  · exact ite_canon (fun _ => trivial) fun _ => next_canon h
  · exact emitBytes_canon h _
  · exact engineOnly_canon (next_canon h)
  · trivial

theorem branch_keeps (taken : DWord → DWord → Bool) : KeepsMem (branch taken a b m) := fun _ _ h =>
  ite_canon (fun _ => goto_canon h _) fun _ => next_canon h

theorem jal_keeps : KeepsMem (jal d m) := fun _ _ h => goto_canon (by rwa [Core.wr_mem]) _

end
end K

/-! ## Turret work and faults -/

section
variable {s : State} (h : Canonical s)
include h

theorem beginWork_canonical (p : Nat) : Canonical (beginWork s p) := by
  unfold beginWork
  dsimp only
  split
  · split
    · exact onTurret_canonical (fun _ c => (Turret.suspends_canon c _).of_eq rfl rfl) h
    · exact h
  · split
    · exact onTurret_canonical (fun _ c => Turret.resumes_canon c) h
    · exact onTurret_canonical (fun _ c => c.of_eq rfl rfl) h

theorem endWork_canonical (p : Nat) (i : Invocation) : Canonical (endWork s p i) := by
  unfold endWork
  have ended : Canonical (s.onTurret p fun t => { t with inv := none, core := t.core.ended, taken := if 3 ≤ i.cls then none else t.taken }) :=
    onTurret_canonical (fun _ c => c.of_core (Core.ended_scanon c.core) rfl) h
  dsimp only
  generalize s.onTurret p _ = u at ended
  split
  · exact onTurret_canonical (fun _ c => Turret.resumes_canon c) ended
  · exact ended

theorem turretReset_canonical (p : Nat) : Canonical (turretReset s p) := by
  obtain ⟨words, tags, mems⟩ := onTurret_canonical (p := p) (f := Turret.local) (fun t _ => Turret.local_canon t.local) h
  exact ⟨scanon_filter words _, tags, mems⟩

theorem turretFault_canonical (p prog pc code : Nat) : Canonical (turretFault s p prog pc code) := by
  unfold turretFault
  dsimp only
  generalize raised : raiseFrom s p _ _ _ _ = u
  have reset : Canonical ((turretReset u p).onTurret p fun t => { t with
      quarantined := true, gated := true, activeNo := none
      fault := if code < 0xFE then code + 256 * prog + 65536 * (pc % 4096) else 0 }) :=
    onTurret_canonical (fun _ c => c.of_eq rfl rfl) (turretReset_canonical (raised ▸ (raiseFrom_fwd (.refl s)).canonical h) p)
  generalize (turretReset u p).onTurret p _ = v at reset
  split
  · exact h
  · split
    · exact reset
    · split
      · exact Fwd.canonical (passWork_fwd (State.onTurret_same_fwd (.refl v) (fun _ => rfl) fun _ => rfl)) reset
      · have moved := (moveHomes_fwd (n := ‹Nat›) (.refl v)).canonical reset
        split
        · exact (passWork_fwd (.refl _)).canonical moved
        · exact moved

theorem kFault_canonical (p : Nat) (i : Invocation) (code trapCode : Nat) : Canonical (kFault s p i code trapCode) := by
  unfold kFault
  dsimp only
  split
  · exact turretFault_canonical h ..
  · exact endWork_canonical ((programFaults_fwd (.refl s)).canonical h) ..

/-- One instruction, with what it does outside its turret. -/
theorem kRunWith_canonical {p : Nat} {f : KEnv → Invocation → Core → KOut} {g : KEnv → Core → State → State} (kf : ∀ e, KeepsMem (f e))
    (kg : ∀ e c s, Canonical s → Canonical (g e c s)) : Canonical (kRunWith s p f g) := by
  unfold kRunWith
  dsimp only
  split
  · exact h
  · have begun := beginWork_canonical h p
    generalize beginWork s p = b at begun
    split
    · exact begun
    · rename_i i _
      split
      · exact begun
      · split
        · exact kFault_canonical begun ..
        · have kept := kf (kEnv b i) i (b.turret p).core (turret_canon begun p).core
          split
          · exact kFault_canonical begun ..
          · rename_i c j go
            rw [go] at kept
            exact onTurret_canonical (fun _ k => k.of_core kept rfl) (kg _ _ _ begun)
          · refine endWork_canonical ?_ _ _
            exact onTurret_canonical (fun _ k => k.of_eq rfl rfl) begun

theorem kRun_canonical {p : Nat} {f : KEnv → Invocation → Core → KOut} (kf : ∀ e, KeepsMem (f e)) : Canonical (kRun s p f) :=
  kRunWith_canonical h kf fun _ _ _ k => k

theorem bitRow_canonical (set : Bool) (p a b : Nat) (cupola : Bool) : Canonical (bitRow set s p a b cupola) := by
  unfold bitRow
  split
  · exact kRunWith_canonical h (fun _ _ _ k => K.engineOnly_canon (K.next_canon k)) fun _ _ s k => (bitCupola_fwd (.refl s)).canonical k
  · exact kRun_canonical h fun _ => K.bitLocal_keeps a b set

theorem takeUnit_canonical (p : Nat) (k : Take) : Canonical (takeUnit s p k) := by
  have lane : Canonical ({ s with fresh := s.fresh + 1 }.onTurret k.lane fun t => { t with lane := t.lane.erase k.unit }) :=
    onTurret_canonical (fun _ c => c.of_eq rfl rfl) h
  exact onTurret_canonical (fun _ c => c.of_eq rfl rfl) ((repost_fwd (.refl _)).canonical lane)

theorem stealRow_canonical (p d : Nat) : Canonical (stealRow s p d) := by
  unfold stealRow
  split
  · exact kRun_canonical h fun _ _ _ k => K.engineOnly_canon (K.put_canon k _ _)
  · exact kRunWith_canonical h (fun _ _ _ k => K.engineOnly_canon (K.put_canon (Core.store_scanon k _ _) _ _)) fun _ _ _ k => takeUnit_canonical k ..

theorem postRow_canonical (p a : Nat) : Canonical (postRow s p a) := by
  unfold postRow
  split
  · exact beginWork_canonical h p
  · exact kRunWith_canonical h (fun _ _ _ k => K.engineOnly_canon (K.next_canon k)) fun _ _ _ k => onTurret_canonical (fun _ c => c.of_eq rfl rfl) k

theorem turretWatchdog_canonical (p : Nat) : Canonical (turretWatchdog s p) := by
  unfold turretWatchdog
  split
  · split
    · exact turretFault_canonical h ..
    · exact h
  · exact h

end

end Sys2Proof.Machine
end

section
/-! The canonical form of the stores (12 R430) through accesses of a store, the march test, errors found, restores and repairs. -/

namespace Sys2Proof.Machine

open Claims

section
variable {s : State} (h : Canonical s)
include h

/-! ## Words and errors -/

theorem putWhole_canonical (k : Nat) (v : DWord) : Canonical (putWhole s k v) := by
  obtain ⟨words, tags, mems⟩ := h
  exact ⟨scanon_sput words _ _, tags, mems⟩

theorem putWord_canonical (m u row w : Nat) (v : RawWord) : Canonical (s.putWord m u row w v) := by
  obtain ⟨words, tags, mems⟩ := h
  exact ⟨scanon_sput words _ _, tags, mems⟩

/-- A change of the Memory unit that leaves words and tags. -/
theorem onMem_canonical {f : Mem → Mem} (w : (f s.mem).words = s.mem.words) (g : (f s.mem).tags = s.mem.tags) : Canonical (s.onMem f) :=
  canonical_of_eq h w g rfl

theorem raiseFrom_canonical (requester code stream step detail : Nat) : Canonical (raiseFrom s requester code stream step detail) :=
  (raiseFrom_fwd (.refl s)).canonical h

theorem startRepair_canonical (kind id owner : Nat) : Canonical (startRepair s kind id owner) := by
  unfold startRepair
  split
  · exact h
  · exact Fwd.canonical (fetchBytes_fwd (.refl _)) (onMem_canonical h rfl rfl)

theorem programPoisoned_canonical (p : Nat) : Canonical (programPoisoned s p) := turretFault_canonical h ..

theorem poisonItem_canonical (m u row q : Nat) : Canonical (poisonItem s m u row q) := by
  unfold poisonItem
  dsimp only
  split
  case h_1 =>
    split
    · exact (startRestore_fwd s _).canonical h
    · exact h
  case h_5 => exact (poisonCupola_fwd ..).canonical h
  case h_6 => split <;> exact h
  case h_7 => exact programPoisoned_canonical h u
  case h_8 => exact (poisonQueue_fwd ..).canonical h
  case h_9 =>
    split
    · exact (poisonTree_fwd ..).canonical h
    · exact h
  all_goals
    split
    · exact startRepair_canonical h ..
    · exact h

theorem poisoned_canonical (m u row q : Nat) : Canonical (poisoned s m u row q) := by
  unfold poisoned
  dsimp only
  split
  · exact programPoisoned_canonical (poisonItem_canonical h ..) q
  · exact poisonItem_canonical h ..

theorem foundCe_canonical (m u row w q : Nat) : Canonical (foundCe s m u row w q) := by
  unfold foundCe
  dsimp only
  split
  · exact raiseFrom_canonical (onMem_canonical h rfl rfl) ..
  · exact onMem_canonical h rfl rfl

theorem foundUe_canonical (m u row w q : Nat) : Canonical (foundUe s m u row w q) :=
  poisoned_canonical (raiseFrom_canonical (onMem_canonical h rfl rfl) ..) ..

theorem readWord_canonical (m u row w q : Nat) : Canonical (readWord s m u row w q) := by
  unfold readWord
  dsimp only
  split
  · exact foundCe_canonical (onMem_canonical h rfl rfl) ..
  · split
    · exact foundUe_canonical h ..
    · exact h

theorem tagFault_canonical (m u : Nat) (r : StoreReq) : Canonical (tagFault s m u r) :=
  poisoned_canonical (raiseFrom_canonical (onMem_canonical h rfl rfl) ..) ..

/-! ## Accesses -/

theorem writeWord_canonical (m u word : Nat) (w : StoreReq) (rs : List StoreReq) : Canonical (writeWord s m u word w rs).1 := by
  unfold writeWord
  dsimp only
  generalize found : (if ((rs.head?.map fun r => opPartial r.op).getD false && _) = true then _ else _ : State) = t
  have c : Canonical t := by
    rw [← found]
    split
    · exact foundCe_canonical h ..
    · split
      · exact foundUe_canonical h ..
      · exact h
  split
  · exact putWhole_canonical c ..
  · exact putWord_canonical (onMem_canonical c rfl rfl) ..

theorem writeGroup_canonical (m u : Nat) (w : StoreReq) (rs : List StoreReq) : Canonical (writeGroup s m u w rs) := by
  have words : ∀ (l : List Nat) (a : State × List StoreResp), Canonical a.1 → Canonical (l.foldl (fun (a : State × List StoreResp) word =>
      let t := writeWord a.1 m u word w ((rs.filter fun r => (opWords r.op).contains word).map fun r => { r with op := opAt word r.op })
      (t.1, a.2 ++ t.2)) a).1 := by
    intro l
    induction l with
    | nil => exact fun _ c => c
    | cons x l ih => exact fun a c => ih _ (writeWord_canonical c ..)
  exact onMem_canonical (words (opWords w.op) (s, []) h) rfl rfl

theorem readLine_canonical (m u : Nat) (r : StoreReq) : Canonical (readLine s m u r) := by
  unfold readLine
  extract_lets ws t
  have read : Canonical t := foldl_canonical (fun _ _ c => readWord_canonical c ..) (List.range 16) h
  clear_value t
  exact onMem_canonical read rfl rfl

theorem allocateLine_canonical (m u : Nat) (r : StoreReq) (what : AllocFor) (ws : List DWord) : Canonical (allocateLine s m u r what ws) := by
  unfold allocateLine
  dsimp only
  obtain ⟨words, tags, mems⟩ := onMem_canonical (f := fun x => { x with resp := [{ requester := r.requester, code := 0, data := [] }] }) h rfl rfl
  generalize s.onMem _ = t at words tags mems
  split
  · exact ⟨words, tags, mems⟩
  · exact foldl_canonical (fun _ _ c => putWhole_canonical c ..) _ ⟨words, scanon_sput tags _ _, mems⟩

theorem grantAccess_canonical (m u : Nat) (w : StoreReq) (rs : List StoreReq) : Canonical (grantAccess s m u w rs) := by
  unfold grantAccess
  dsimp only
  refine foldl_canonical (fun _ _ c => tagFault_canonical c ..) _ (onMem_canonical ?_ rfl rfl)
  split
  · split
    · exact readLine_canonical h ..
    · exact onMem_canonical h rfl rfl
  · split
    · exact allocateLine_canonical h ..
    · exact onMem_canonical h rfl rfl
  · split
    · exact onMem_canonical h rfl rfl
    · exact writeGroup_canonical h ..

theorem endCycle_canonical (m u : Nat) (granted stalled : List StoreReq) : Canonical (endCycle s m u granted stalled) := by
  unfold endCycle
  refine foldl_canonical (fun _ _ c => ?_) _ (onMem_canonical h rfl rfl)
  exact onTurret_canonical (fun _ k => k.of_eq rfl rfl) c

/-! ## The march test and a cycle of a store -/

theorem restoreRegion_canonical (m u r : Nat) : Canonical (restoreRegion s m u r) :=
  foldl_canonical (fun _ _ c => putWhole_canonical c ..) _ h

theorem regionOver_canonical (skipped : Bool) : Canonical (regionOver s skipped) := onMem_canonical h rfl rfl

theorem abortRegion_canonical (m u : Nat) : Canonical (abortRegion s m u) := by
  unfold abortRegion
  extract_lets t v
  have kept : Canonical t := by
    dsimp only [t]
    split
    · exact restoreRegion_canonical h ..
    · exact h
  have held : Canonical v := onMem_canonical kept rfl rfl
  split
  · exact regionOver_canonical held true
  · exact onMem_canonical held rfl rfl

theorem doneRegion_canonical (fails : Bool) (row : Nat) : Canonical (doneRegion s fails row) := by
  unfold doneRegion
  split
  · exact h
  · rename_i m u r _
    extract_lets t found
    have ended : Canonical t := regionOver_canonical (restoreRegion_canonical h m u r) false
    clear_value t
    split
    · exact ended
    · exact Fwd.canonical (raiseBy_fwd (.refl _)) (onMem_canonical ended rfl rfl)

theorem startRegion_canonical : Canonical (startRegion s) := by
  unfold startRegion
  extract_lets n t me
  have begun : Canonical t := onMem_canonical h rfl rfl
  clear_value t
  split
  · exact begun
  · split
    · exact regionOver_canonical begun false
    · extract_lets bad v
      have read : Canonical v := foldl_canonical (fun _ _ c => readWord_canonical c ..) (regionWords _) begun
      clear_value v
      split
      · exact regionOver_canonical read false
      · exact onMem_canonical read rfl rfl

theorem storeCycle_canonical (m u : Nat) (new : List StoreReq) : Canonical (storeCycle s m u new) := by
  unfold storeCycle
  dsimp only
  split
  · exact endCycle_canonical (onMem_canonical h rfl rfl) ..
  · split
    · refine endCycle_canonical (onMem_canonical ?_ rfl rfl) _ _ _ _
      split
      · exact abortRegion_canonical h ..
      · exact h
    · split
      · exact endCycle_canonical (putWhole_canonical (onMem_canonical h rfl rfl) ..) ..
      · split
        · exact onMem_canonical h rfl rfl
        · exact endCycle_canonical (grantAccess_canonical (onMem_canonical h rfl rfl) ..) ..

theorem promote_canonical (m u q : Nat) : Canonical (promote s m u q) := by
  unfold promote
  split
  · exact onMem_canonical h rfl rfl
  · exact h

/-! ## Restores and repairs -/

theorem mendWords_canonical (p : Nat → Bool) : Canonical (mendWords s p) := foldl_canonical (fun _ _ c => putWhole_canonical c ..) _ h

theorem restored_canonical (x y : Stream) (k : Kept) (n : Nat) : Canonical (restored s x y k n) :=
  Fwd.canonical (tryEnd_fwd (raiseBy_fwd (State.onCtx_fwd (.refl _))))
    (mendWords_canonical (Fwd.canonical (State.onStream_fwd (dropLines_fwd (.refl s))) h) _)

theorem runRestore_canonical (x : Stream) : Canonical (runRestore s x) := by
  unfold runRestore
  dsimp only
  split
  · exact Fwd.canonical (foldl_fwd (fun _ _ => fetchBytes_fwd) (.refl s)) h
  · split
    · exact (loseStream_fwd (.refl s)).canonical h
    · split
      · exact Fwd.canonical (foldl_fwd (fun _ _ => fetchBytes_fwd) (.refl s)) h
      · split
        · exact (loseStream_fwd (.refl s)).canonical h
        · split
          · exact (loseStream_fwd (.refl s)).canonical h
          · split
            · exact restored_canonical ((countReads_fwd (.refl s)).canonical h) ..
            · exact (askSpill_fwd (.refl s)).canonical h

theorem repairOver_canonical (kind id owner : Nat) (good : Bool) : Canonical (repairOver s kind id owner good) := by
  unfold repairOver
  dsimp only
  have dropped : Canonical (dropLines (s.onMem fun m => { m with repairs := m.repairs.filter (· != (kind, id, owner)) }) (.repair kind id owner)) :=
    Fwd.canonical (dropLines_fwd (.refl _)) (onMem_canonical h rfl rfl)
  generalize dropLines _ _ = t at dropped
  split
  · exact mendWords_canonical dropped _
  · exact Fwd.canonical (failJobs_fwd (raiseBy_fwd (faultItem_fwd (.refl t)))) dropped

theorem runRepair_canonical (kind id owner : Nat) : Canonical (runRepair s kind id owner) := by
  unfold runRepair
  split
  · exact h
  · split
    · exact onMem_canonical h rfl rfl
    · split
      · exact (fetchBytes_fwd (.refl s)).canonical h
      · exact repairOver_canonical h ..
      · exact repairOver_canonical h ..

end

end Sys2Proof.Machine
end

section
/-! The canonical form through starts, resets, power changes, key zeroisation, register accesses and the commands that reach the Memory
unit or the Lantern; then every instruction (12 R430, 07 R265). -/

namespace Sys2Proof.Machine

open Claims

section
variable {s : State} (h : Canonical s)
include h

/-- A change of the Lantern. -/
theorem onLan_canonical (f : Lan → Lan) : Canonical (s.onLan f) := canonical_of_eq h rfl rfl rfl

theorem lanLog_canonical (code detail : Nat) : Canonical (lanLog s code detail) := onLan_canonical h _

theorem served_canonical (data : Word) : Canonical (served s data) := canonical_of_eq h rfl rfl rfl

theorem fabricWrite_canonical {f : State → State} (k : Canonical (f s)) : Canonical (fabricWrite s f) := by
  unfold fabricWrite
  split
  · exact served_canonical k 0
  · exact (refusedAccess_fwd (.refl s)).canonical h

theorem alive_canonical {f : State → State} (k : Canonical (f s)) : Canonical (alive s f) := by
  unfold alive
  split
  · exact h
  · exact k

theorem lanWrite_canonical {f : State → State} (k : Canonical (f s)) : Canonical (lanWrite s f) :=
  alive_canonical h (served_canonical k 0)

/-! ## Starts -/

omit h in
/-- Units at their reset values. -/
theorem coldUnits_canonical (s : State) : Canonical (coldUnits s) := by
  refine ⟨rfl, rfl, fun u hu m hm => ?_⟩
  obtain ⟨p, -, rfl⟩ := List.mem_map.mp hu
  obtain rfl : m = [] := List.mem_singleton.mp hm
  rfl

/-- A warm start keeps the stores, and the local memory of each turret's own work. -/
theorem warmUnits_canonical : Canonical (warmUnits s) := by
  obtain ⟨words, tags, mems⟩ := h
  refine ⟨words, tags, fun u hu m hm => ?_⟩
  obtain ⟨v, hv, rfl⟩ := List.mem_map.mp hu
  obtain rfl : m = v.core.mem := List.mem_singleton.mp hm
  exact mems v hv _ (List.mem_cons_self ..)

theorem startNow_canonical (kind shape : Nat) : Canonical (startNow s kind shape) := lanLog_canonical (onLan_canonical h _) ..

omit h in
theorem coldStart_canonical (s : State) (kind : Nat) : Canonical (coldStart s kind) :=
  startNow_canonical (onLan_canonical (coldUnits_canonical s) _) ..

theorem warmStart_canonical (kind shape : Nat) : Canonical (warmStart s kind shape) := by
  unfold warmStart
  split
  · exact coldStart_canonical ..
  · exact startNow_canonical (warmUnits_canonical h) ..

omit h in
theorem offStart_canonical (s : State) (kind : Nat) : Canonical (offStart s kind) := by
  unfold offStart
  split
  · exact coldStart_canonical ..
  · exact startNow_canonical (coldUnits_canonical s) ..

theorem startOf_canonical (kind shape : Nat) : Canonical (startOf s kind shape) := by
  unfold startOf
  split
  · exact coldStart_canonical ..
  · split
    · exact offStart_canonical ..
    · exact warmStart_canonical h ..

theorem wake_canonical (kind shape left : Nat) : Canonical (wake s kind shape left) := by
  unfold wake
  refine onLan_canonical (startOf_canonical ?_ ..) _
  split
  · exact lanLog_canonical h ..
  · exact h

theorem restart_canonical : Canonical (restart s) := lanLog_canonical (onLan_canonical h _) ..

theorem powerUp_canonical (kind shape : Nat) : Canonical (powerUp s kind shape) := by
  unfold powerUp
  dsimp only
  split
  · exact onLan_canonical h _
  · split
    · exact onLan_canonical h _
    · exact startOf_canonical h ..

theorem failStart_canonical (cause : Nat) : Canonical (failStart s cause) := by
  unfold failStart
  extract_lets n t
  have logged : Canonical t := lanLog_canonical (onLan_canonical h _) ..
  clear_value t
  split
  · exact lanLog_canonical (onLan_canonical logged _) ..
  · exact onLan_canonical logged _

/-! ## The steps of a start -/

theorem needDomain_canonical (d : Nat) : Canonical (needDomain s d) := by
  unfold needDomain
  split
  · exact h
  · exact raiseBy_fwd (.refl _) |>.canonical (lanLog_canonical (onLan_canonical h _) ..)

theorem beginLoad_canonical (tries : Nat) : Canonical (beginLoad s tries) := onLan_canonical h _

theorem loadFailed_canonical (crc : Bool) : Canonical (loadFailed s crc) := by
  have noted : Canonical (s.onLan fun l => { l with optCrcFail := l.optCrcFail || crc, optBusErr := l.optBusErr || !crc }) :=
    onLan_canonical h _
  unfold loadFailed
  dsimp only
  split
  · exact failStart_canonical noted 2
  · exact beginLoad_canonical noted _

theorem loadOver_canonical : Canonical (loadOver s) := by
  have loaded : Canonical (s.onLan fun l => { l with opt := l.optStg, optValid := true, optLoading := false }) := onLan_canonical h _
  unfold loadOver
  dsimp only
  split
  · exact loadFailed_canonical h _
  · split
    · exact loaded
    · exact failStart_canonical loaded 2

theorem retentionCheck_canonical : Canonical (retentionCheck s) := by
  unfold retentionCheck
  extract_lets t
  have mended : Canonical t := foldl_canonical (fun _ _ c => putWhole_canonical (foundCe_canonical c ..) ..) _ h
  clear_value t
  exact onMem_canonical mended rfl rfl

theorem reportUes_canonical : Canonical (reportUes s) := by
  unfold reportUes
  split
  · exact h
  · exact foldl_canonical (fun _ _ c => foundUe_canonical c ..) _ h

theorem writeStaged_canonical : Canonical (writeStaged s) :=
  foldl_canonical (fun s _ c => (writeLines_fwd (writeLines_fwd (.refl s))).canonical c) _ h

theorem reachReady_canonical : Canonical (reachReady s) := by
  unfold reachReady
  extract_lets t u v
  have reached : Canonical u := onLan_canonical (Fwd.canonical (State.onCtx_fwd (.refl s)) h) _
  clear_value u
  have reported : Canonical v := reportUes_canonical ((raiseBy_fwd (.refl u)).canonical reached)
  clear_value v
  exact onLan_canonical reported _

/-- The turrets that repair maps keep their local memory. -/
theorem repair_canonical (failed : List Nat) : Canonical (repair s failed) := by
  unfold repair
  extract_lets t u gone
  have mapped : Canonical u := by
    obtain ⟨words, tags, mems⟩ := h
    refine ⟨words, tags, fun v hv => ?_⟩
    obtain ⟨p, hp, rfl⟩ := List.mem_map.mp hv
    have old : (getN s.tur.ts p).Canon := mems _ (getN_mem (List.mem_range.mp hp))
    split
    · exact old.of_eq rfl rfl
    · exact old.of_eq rfl rfl
  clear_value u gone
  exact foldl_canonical (fun s _ c => (moveHomes_fwd (.refl s)).canonical c) _ mapped

theorem finishStep_canonical (n : Nat) (failed : List Nat) : Canonical (finishStep s n failed) := by
  have done : ∀ t : State, Canonical t → Canonical (t.onLan fun l => { l with step := n }) := fun _ c => onLan_canonical c _
  unfold finishStep
  dsimp only
  split
  case h_1 =>
    split
    · exact beginLoad_canonical (onLan_canonical (onLan_canonical h _) _) _
    · exact onLan_canonical h _
  case h_2 =>
    split
    · exact h
    · split
      · exact failStart_canonical h 2
      · split
        · exact done s h
        · exact needDomain_canonical (done s h) _
  case h_3 =>
    split
    · exact done _ ⟨rfl, rfl, h.2.2⟩
    · split
      · exact done _ (retentionCheck_canonical h)
      · exact done s h
  case h_4 =>
    split
    · exact writeStaged_canonical (needDomain_canonical (done s h) _)
    · split
      · exact failStart_canonical h 3
      · exact writeStaged_canonical (done _ (repair_canonical h failed))
  case h_5 =>
    split
    · exact h
    · exact done s h
  case h_6 => exact reachReady_canonical h
  case h_7 => exact done s h

theorem stepDone_canonical (failed : List Nat) : Canonical (stepDone s failed) := by
  unfold stepDone
  split
  · exact h
  · exact finishStep_canonical h ..

/-! ## Resets, clocks and power -/

theorem warmSource_canonical (kind : Nat) : Canonical (warmSource s kind) := by
  unfold warmSource
  dsimp only
  split
  · exact onLan_canonical h _
  · split
    · exact restart_canonical h
    · exact h
  · split
    · exact warmStart_canonical (onLan_canonical h _) ..
    · exact h
  · split
    · exact onLan_canonical h _
    · exact onLan_canonical h _
    · exact onLan_canonical h _
    · exact h
  · exact h

theorem quiesced_canonical : Canonical (quiesced s) :=
  onLan_canonical (warmStart_canonical (onLan_canonical h fun l => { l with writesLost := min s.fab.stores.length 255 }) ..) _

theorem swCold_canonical : Canonical (swCold s) := by
  unfold swCold
  dsimp only
  split
  · exact restart_canonical h
  · refine powerUp_canonical ?_ ..
    split
    · exact onLan_canonical h _
    · exact h

theorem clockFall_canonical : Canonical (clockFall s) := by
  unfold clockFall
  extract_lets t wait lose
  have fallen : Canonical t := onLan_canonical h _
  have waits : ∀ u fresh, Canonical u → Canonical (wait u fresh) := fun _ _ c => onLan_canonical c _
  have loses : ∀ kind shape, Canonical (lose t kind shape) := fun _ _ =>
    waits _ _ (onLan_canonical (warmUnits_canonical fallen) _)
  clear_value lose wait t
  split
  · exact loses ..
  · split
    · exact waits _ _ fallen
    · exact fallen
  · split
    · exact loses ..
    · exact loses ..
    · exact loses ..
    · exact fallen
  · exact fallen

theorem clockRise_canonical : Canonical (clockRise s) := by
  unfold clockRise
  extract_lets t
  have risen : Canonical t := onLan_canonical h _
  clear_value t
  split
  · split
    · exact warmStart_canonical risen ..
    · exact restart_canonical risen
  · split
    · exact wake_canonical risen ..
    · exact risen
  · exact risen

theorem writeTarget_canonical (t : Nat) : Canonical (writeTarget s t) := by
  unfold writeTarget
  split
  · exact h
  · dsimp only
    split
    · exact onLan_canonical h _
    · exact onLan_canonical (onLan_canonical (onLan_canonical h _) _) _

theorem entryOver_canonical (t : Nat) : Canonical (entryOver s t) := by
  have written := writeStaged_canonical h
  unfold entryOver
  dsimp only
  generalize writeStaged s = u at written
  split
  · exact h
  · split
    · exact written
    · exact onLan_canonical (warmUnits_canonical written) _

theorem railAck_canonical (array level : Bool) : Canonical (railAck s array level) := by
  unfold railAck
  split
  · split
    · exact onLan_canonical h _
    · exact onLan_canonical (lanLog_canonical (onLan_canonical h _) ..) _
  · exact onLan_canonical (lanLog_canonical (onLan_canonical (coldUnits_canonical s) _) ..) _
  · exact onLan_canonical h _
  · extract_lets t
    have acked : Canonical t := onLan_canonical h _
    clear_value t
    split
    · exact wake_canonical acked ..
    · exact acked
  · exact h

theorem emergency_canonical : Canonical (emergency s) := by
  unfold emergency
  extract_lets a b c d save skip e
  have cleared : Canonical c := Fwd.canonical (State.onCtx_fwd (State.onStp_fwd (State.onFin_fwd (.refl s)))) h
  clear_value c
  have written : Canonical d := writeStaged_canonical cleared
  have begun : Canonical e := onLan_canonical written _
  clear_value e
  exact foldl_canonical (fun s _ c => (takeCkpt_fwd (.refl s)).canonical c) _ begun

theorem enterHold_canonical (taken : Bool) (n : Nat) : Canonical (enterHold s taken n) := lanLog_canonical (onLan_canonical h _) ..

theorem pfWarn_canonical : Canonical (pfWarn s) := by
  unfold pfWarn
  extract_lets t none_
  have warned : Canonical t := onLan_canonical h _
  have skipped : Canonical (none_ t) := onLan_canonical warned _
  clear_value none_ t
  split
  · exact emergency_canonical warned
  · exact enterHold_canonical skipped ..
  · split
    · exact warned
    · exact enterHold_canonical skipped ..
  · exact lanLog_canonical skipped ..
  · exact lanLog_canonical skipped ..
  · exact warned

theorem emergencyOver_canonical : Canonical (emergencyOver s) := by
  unfold emergencyOver
  split
  · exact h
  · exact enterHold_canonical (onLan_canonical h _) ..

theorem fenceOff_canonical : Canonical (fenceOff s) := by
  unfold fenceOff
  split
  · exact h
  · exact (answerAll_fwd (.refl _)).canonical (lanLog_canonical (onLan_canonical h _) ..)

theorem resetTurret_canonical (p : Nat) : Canonical (resetTurret s p) := by
  unfold resetTurret
  dsimp only
  split
  · exact h
  · split
    · exact onLan_canonical h _
    · exact turretReset_canonical h p

theorem resetIngress_canonical (p : Nat) : Canonical (resetIngress s p) := by
  unfold resetIngress
  split
  · exact h
  · exact onLan_canonical (Fwd.canonical (State.onPort_fwd (State.onFin_fwd (.refl s))) h) _

theorem resetFabric_canonical (p : Nat) : Canonical (resetFabric s p) := by
  unfold resetFabric
  split
  · exact h
  · exact (portErrors_fwd (.refl _)).canonical (onLan_canonical h _)

theorem writeWdog_canonical (v : Word) : Canonical (writeWdog s v) := by
  unfold writeWdog
  dsimp only
  split
  · exact h
  · exact onLan_canonical h _

theorem kickWdog_canonical (v : Word) : Canonical (kickWdog s v) := by
  unfold kickWdog
  split
  · exact onLan_canonical h _
  · exact h

omit h in
theorem endNoKey_fwd {s0 : State} {c : Cmd} (f : Fwd s0 s) : Fwd s0 (endNoKey s c) := by
  unfold endNoKey
  split
  · exact autFail_fwd f
  · refine reject_fwd ?_
    split
    · exact State.onCry_fwd (State.onCtx_fwd (State.onCup_fwd (State.onJob_fwd f)))
    · exact State.onCtx_fwd (State.onCup_fwd (State.onJob_fwd f))

omit h in
theorem discardLines_fwd {s0 : State} {o : Nat} {replay : Bool} (f : Fwd s0 s) : Fwd s0 (discardLines s o replay) := by
  unfold discardLines
  exact State.onOwnRing_fwd (State.onCry_fwd f)

theorem zeroise_canonical (src : Nat) : Canonical (zeroise s src) := by
  unfold zeroise
  extract_lets keyed a b ids c d
  have logged : Canonical a := lanLog_canonical (onLan_canonical h _) ..
  have dropped : Canonical b := foldl_canonical (fun s _ c => (discardLines_fwd (discardLines_fwd (.refl s))).canonical c) _ logged
  have ended : Canonical d := foldl_canonical (fun s _ c => (endNoKey_fwd (.refl s)).canonical c) _
    (Fwd.canonical (State.onCtx_fwd (.refl b)) dropped)
  clear_value d
  split
  · exact ended
  · exact foldl_canonical (fun s _ c => (boundary_fwd (.refl s)).canonical c) _ ((raiseBy_fwd (.refl d)).canonical ended)

theorem selectWrap_canonical (i : WrapIns) (data : Nat) : Canonical (selectWrap s i data) := onLan_canonical h _

theorem testIns_canonical (i : WrapIns) (data : Nat) : Canonical (testIns s i data) := by
  unfold testIns
  split
  · exact selectWrap_canonical h ..
  · extract_lets t
    have tested : Canonical t := by
      dsimp only [t]
      split
      · exact h
      · exact zeroise_canonical h 1
    exact selectWrap_canonical (canonical_of_eq tested rfl rfl rfl) i data

/-! ## Registers -/

theorem lanRegWrite_canonical (o : Nat) (v : Word) : Canonical (lanRegWrite s o v) := by
  have lan : ∀ f, Canonical (s.onLan f) := onLan_canonical h
  unfold lanRegWrite
  dsimp only
  split
  case h_1 =>
    unfold writeSwReset
    split
    · exact swCold_canonical h
    · split
      · exact warmSource_canonical h 4
      · exact h
  case h_2 => exact writeWdog_canonical h v
  case h_3 => exact kickWdog_canonical h v
  case h_4 => exact writeTarget_canonical h _
  case h_5 =>
    unfold writeLocalReset
    split
    · exact resetTurret_canonical h _
    · exact resetIngress_canonical h _
    · exact resetFabric_canonical h _
    · exact h
  case h_6 =>
    split
    · exact lan _
    · exact h
  case h_7 =>
    split
    · exact fenceOff_canonical h
    · exact h
  case h_8 =>
    split
    · exact zeroise_canonical h 0
    · exact h
  case h_15 => exact h
  all_goals exact lan _

theorem memRegWrite_canonical (o : Nat) (v : Word) : Canonical (memRegWrite s o v) := by
  unfold memRegWrite
  split
  · exact onMem_canonical h rfl rfl
  · exact onMem_canonical h rfl rfl
  · exact h

theorem unitRegWrite_canonical (o : Nat) (v : Word) : Canonical (unitRegWrite s o v) := by
  unfold unitRegWrite
  repeat' split
  · exact (ringRegWrite_fwd (.refl s)).canonical h
  · exact (State.onAut_fwd (.refl s)).canonical h
  · exact (State.onAut_fwd (.refl s)).canonical h
  · exact (selRegWrite_fwd (.refl s)).canonical h
  · exact (finRegWrite_fwd (.refl s)).canonical h
  · exact (ctxRegWrite_fwd (.refl s)).canonical h
  · exact (pkrRegWrite_fwd (.refl s)).canonical h
  · exact (eqRegWrite_fwd (.refl s)).canonical h
  · exact memRegWrite_canonical h o v
  · exact (State.onCry_fwd (.refl s)).canonical h
  · exact (belRegWrite_fwd (.refl s)).canonical h
  · exact h

theorem regWrite_canonical (o : Nat) (v : Word) : Canonical (regWrite s o v) := by
  unfold regWrite
  split
  · exact lanWrite_canonical h (lanRegWrite_canonical h o v)
  · exact fabricWrite_canonical h (unitRegWrite_canonical h o v)

omit h in
/-- Clearing a counter of the Memory unit leaves words and tags. -/
theorem clearMem_keeps (s : State) (o : Nat) : (clearMem s o).mem.words = s.mem.words ∧ (clearMem s o).mem.tags = s.mem.tags := by
  unfold clearMem State.onMem
  dsimp only
  repeat' split
  all_goals exact ⟨rfl, rfl⟩

theorem clearMem_canonical (o : Nat) : Canonical (clearMem s o) :=
  canonical_of_eq h (clearMem_keeps s o).1 (clearMem_keeps s o).2 rfl

theorem clearTur_canonical (p k : Nat) : Canonical (clearTur s p k) := by
  refine onTurret_canonical (fun t c => ?_) h
  split <;> exact c.of_eq rfl rfl

theorem clearRc1_canonical (o : Nat) : Canonical (clearRc1 s o) := by
  unfold clearRc1
  split
  case h_12 => exact h
  all_goals exact canonical_of_eq h rfl rfl rfl

theorem clearRc_canonical (o : Nat) : Canonical (clearRc s o) := by
  unfold clearRc
  repeat' split
  · exact clearRc1_canonical h o
  · exact (clearSel_fwd (.refl s)).canonical h
  · exact (clearFin_fwd (.refl s)).canonical h
  · exact (clearStp_fwd (.refl s)).canonical h
  · exact (clearCtx_fwd (.refl s)).canonical h
  · exact (clearPkr_fwd (.refl s)).canonical h
  · exact (clearEqs_fwd (.refl s)).canonical h
  · exact clearMem_canonical h o
  · exact (clearCry_fwd (.refl s)).canonical h
  · exact (clearBel_fwd (.refl s)).canonical h
  · exact clearTur_canonical h ..
  · exact h

theorem readRegister_canonical (o : Nat) : Canonical (readRegister s o) := by
  unfold readRegister
  repeat' split
  · exact alive_canonical h (served_canonical h _)
  · exact (eqDataRead_fwd (.refl s)).canonical h
  · exact (logDataRead_fwd (.refl s)).canonical h
  · exact (refusedAccess_fwd (.refl s)).canonical h
  · exact served_canonical (clearRc_canonical h o) _

/-! ## Completions and commands -/

theorem writeComp_canonical (m : Nat) (e : Comp) : Canonical (writeComp s m e) := by
  have ends : ∀ t : State, Canonical t → Canonical (fetchEntry t e.ring) := fun t c => (fetchEntry_fwd (.refl t)).canonical c
  unfold writeComp
  dsimp only
  split
  · exact ends _ (canonical_of_eq h rfl rfl rfl)
  · refine ends _ ?_
    split <;> exact canonical_of_eq h rfl rfl rfl

theorem pushComp_canonical (m : Nat) : Canonical (pushComp s m) := by
  unfold pushComp
  split
  · exact h
  · dsimp only
    split
    · exact writeComp_canonical h ..
    · split
      · exact h
      · exact Fwd.canonical (raiseBy_fwd (State.onCq_fwd (.refl s))) h

theorem applyAreas_canonical (o : Nat) : Canonical (applyAreas s o) := by
  unfold applyAreas
  dsimp only
  refine foldl_canonical (fun s _ c => Fwd.canonical (boundary_fwd (State.onStream_fwd (.refl s))) c) _ ?_
  exact Fwd.canonical (State.onOwnPkr_fwd (State.onFab_fwd (writeLines_fwd (writeLines_fwd (.refl s))))) h

theorem applyGroup_canonical (g : Nat) : Canonical (applyGroup s g) := by
  unfold applyGroup
  split
  · exact canonical_of_eq h rfl rfl rfl
  · exact onLan_canonical h _
  · exact foldl_canonical (fun _ _ c => applyAreas_canonical c _) _ h
  · exact onLan_canonical h _
  · exact canonical_of_eq h rfl rfl rfl
  · exact onMem_canonical h rfl rfl
  · exact h

theorem runCommit_canonical (c : Cmd) : Canonical (runCommit s c) := by
  unfold runCommit
  dsimp only
  split
  · exact (complete_fwd (.refl _)).canonical (foldl_canonical (fun _ _ c => applyGroup_canonical c _) _ h)
  · exact (complete_fwd (.refl s)).canonical h

theorem keyFault_canonical (c : Cmd) (cause : Nat) : Canonical (keyFault s c cause) :=
  Fwd.canonical (reject_fwd (State.onCry_fwd (.refl s))) h

theorem unwrapKey_canonical (c : Cmd) (duk : List Byte) : Canonical (unwrapKey s c duk) := by
  unfold unwrapKey
  split
  · dsimp only
    split
    · exact keyFault_canonical h ..
    · split
      · exact keyFault_canonical h ..
      · exact Fwd.canonical (complete_fwd (State.onCry_fwd (.refl _))) (onLan_canonical h _)
  · exact h

theorem scrubLines_canonical (o : Nat) : Canonical (scrubLines s o) := by
  unfold scrubLines
  extract_lets mine t
  have scrubbed : Canonical t := ⟨scanon_filter h.1 _, scanon_filter h.2.1 _, h.2.2⟩
  clear_value t
  split
  · exact putWhole_canonical scrubbed ..
  · exact scrubbed

theorem releaseOwner_canonical (o : Nat) : Canonical (releaseOwner s o) := canonical_of_eq h rfl rfl rfl

theorem runRelease_canonical (c : Cmd) : Canonical (runRelease s c) := by
  unfold runRelease
  extract_lets o early t
  have run : Canonical t := Fwd.canonical (executing_fwd (foldl_fwd (fun _ _ => reject_fwd) (.refl s))) h
  clear_value t
  split
  · exact run
  · exact (complete_fwd (.refl _)).canonical
      (releaseOwner_canonical (scrubLines_canonical ((releaseItems_fwd (.refl t)).canonical run) _) _)

theorem runCmd_canonical {k op : Nat} {f : State → Cmd → State} (kf : ∀ c, Canonical (f s c)) : Canonical (runCmd s k op f) := by
  unfold runCmd
  split
  · exact h
  · split
    · exact h
    · split
      · exact h
      · exact kf _
      · exact kf _
      · split
        · exact (tryEnd_fwd (.refl s)).canonical h
        · exact h

theorem tick_canonical : Canonical (tick s) := onLan_canonical h _

end

end Sys2Proof.Machine
end

section
/-! Every instruction keeps the canonical form of the stores and of local memory. -/

namespace Sys2Proof.Machine

open Claims

/-- An outcome that leaves the canonical form. -/
def KeepsForm (o : Host.Outcome State Fault Refusal) : Prop := ∀ t, o = .next t → Canonical t

theorem finish_keepsForm {s u : State} (h : Canonical u) : KeepsForm (finish s u) := by
  rintro t ⟨⟩
  exact canonical_of_eq ((settle_fwd (.refl u)).canonical h) rfl rfl rfl

theorem nextDispatch_fwd {s t : State} {c : Cmd} (h : nextDispatch s = some (c, t)) : Fwd s t := by
  have turn : ∀ n left, Fwd s (turnAfter s n left) := fun _ _ => turnAfter_fwd (.refl s)
  by_cases goesOn : s.rng.rrLeft ≠ 0 ∧ (ringPick s s.rng.rrRing).isSome = true
  · obtain ⟨left, some⟩ := goesOn
    obtain ⟨d, pick⟩ := Option.isSome_iff_exists.mp some
    rw [nextDispatch_continues left pick] at h
    cases h
    exact turn ..
  · have begins : s.rng.rrLeft = 0 ∨ ringPick s s.rng.rrRing = none := by
      by_cases left : s.rng.rrLeft = 0
      · exact .inl left
      · exact .inr (Option.not_isSome_iff_eq_none.mp fun some => goesOn ⟨left, some⟩)
    rw [nextDispatch_begins begins] at h
    obtain ⟨d, -, e⟩ := Option.map_eq_some_iff.mp h
    cases e
    exact turn ..

section
variable {s : State} (h : Canonical s)
include h

theorem finish_fwd_keepsForm {u : State} (f : Fwd s u) : KeepsForm (finish s u) := finish_keepsForm (f.canonical h)

theorem cmd_keepsForm {k op : Nat} {f : State → Cmd → State} (kf : ∀ c, Fwd s (f s c)) : KeepsForm (finish s (runCmd s k op f)) :=
  finish_fwd_keepsForm h (runCmd_fwd kf (.refl s))

theorem fabricWrite_keepsForm {f : State → State} (kf : ∀ t, Fwd s t → Fwd s (f t)) : KeepsForm (finish s (fabricWrite s f)) :=
  finish_fwd_keepsForm h (fabricWrite_fwd kf (.refl s))

theorem knalen_keepsForm {p : Nat} {f : KEnv → Invocation → Core → KOut} (kf : ∀ e, KeepsMem (f e)) :
    KeepsForm (finish s (kRun s p f)) := finish_keepsForm (kRun_canonical h kf)

theorem lanWrite_keepsForm {f : State → State} (kf : Canonical (f s)) : KeepsForm (finish s (lanWrite s f)) :=
  finish_keepsForm (lanWrite_canonical h kf)

theorem execCommandFetch_keepsForm (ring : Nat) : KeepsForm (execCommandFetch ring s) := by
  refine finish_fwd_keepsForm h ?_
  dsimp only
  split
  · exact .refl s
  · split
    · exact fetchEntry_fwd (takeEntry_fwd (.refl s))
    · exact entryError_fwd (.refl s)
    · exact fetchEntry_fwd (.refl s)

theorem execCommandDispatch_keepsForm : KeepsForm (execCommandDispatch s) := by
  refine finish_fwd_keepsForm h ?_
  split
  · exact .refl s
  · split
    · exact dispatchOne_fwd (nextDispatch_fwd ‹_›)
    · exact .refl s

theorem execCompletionWrite_keepsForm (cq : Nat) : KeepsForm (execCompletionWrite cq s) := by
  refine finish_keepsForm ?_
  split
  · exact pushComp_canonical h _
  · exact h

theorem execRingStall_keepsForm (ring : Nat) : KeepsForm (execRingStall ring s) := by
  refine finish_fwd_keepsForm h ?_
  dsimp only
  split
  · exact raiseBy_fwd (State.onRing_fwd (.refl s))
  · exact .refl s

theorem execCupolaFillDone_keepsForm (aut state : Nat) (syms : List Nat) (exact : Bool) : KeepsForm (execCupolaFillDone aut state syms exact s) := by
  refine finish_fwd_keepsForm h ?_
  split
  · exact fillDone_fwd (.refl s)
  · exact .refl s

theorem execCupolaSpaceFree_keepsForm (stream : Nat) : KeepsForm (execCupolaSpaceFree stream s) := by
  refine finish_fwd_keepsForm h ?_
  split
  · split
    · exact .refl s
    · exact takeSpace_fwd (.refl s)
  · exact .refl s

theorem execMaskRdy_keepsForm (stream : Nat) : KeepsForm (execMaskRdy stream s) := by
  refine finish_fwd_keepsForm h ?_
  split
  · split
    · exact finishBuild_fwd (.refl s)
    · exact .refl s
  · exact .refl s

theorem execMaskRdyDeliver_keepsForm : KeepsForm (execMaskRdyDeliver s) := by
  refine finish_fwd_keepsForm h ?_
  split
  · exact .refl s
  · split
    · exact .refl s
    · exact State.onFin_fwd (.refl s)

theorem execStepIssued_keepsForm (stream step : Nat) : KeepsForm (execStepIssued stream step s) := by
  refine finish_fwd_keepsForm h ?_
  split
  · exact .refl s
  · exact State.onFin_fwd (.refl s)

theorem execStepDeadlineExpire_keepsForm (stream step node : Nat) : KeepsForm (execStepDeadlineExpire stream step node s) := by
  refine finish_fwd_keepsForm h ?_
  split
  · split
    · exact failUnit_fwd (peerTimeout_fwd (.refl s))
    · exact .refl s
  · exact .refl s

theorem execFinialTokenRecord_keepsForm (stream : Nat) : KeepsForm (execFinialTokenRecord stream s) := by
  refine finish_fwd_keepsForm h ?_
  split
  · exact .refl s
  · split
    · exact .refl s
    · split
      · exact .refl s
      · exact sendNotices_fwd (emitResult_fwd (.refl s))

theorem execPeerPartialList_keepsForm (source type : Nat) (message : List Byte) : KeepsForm (execPeerPartialList source type message s) := by
  refine finish_fwd_keepsForm h ?_
  split
  · exact .refl s
  · split
    · exact peerFault_fwd (.refl s)
    · split
      · exact takeNotice_fwd (.refl s)
      · split
        · exact peerFault_fwd (.refl s)
        · exact takeList_fwd (.refl s)

theorem execTokenNotice_keepsForm (source : Nat) (message : List Byte) : KeepsForm (execTokenNotice source message s) := by
  refine finish_fwd_keepsForm h ?_
  split
  · exact .refl s
  · split
    · exact peerFault_fwd (.refl s)
    · exact takeNotice_fwd (.refl s)

theorem execTokenCommit_keepsForm (stream : Nat) : KeepsForm (execTokenCommit stream s) := by
  refine finish_fwd_keepsForm h ?_
  split
  · exact .refl s
  · split
    · exact .refl s
    · split
      · exact commitHeld_fwd (.refl s)
      · split
        · exact tryEnd_fwd (.refl s)
        · exact .refl s

theorem execRecordLineTimer_keepsForm (owner : Nat) (replay : Bool) : KeepsForm (execRecordLineTimer owner replay s) := by
  refine finish_fwd_keepsForm h ?_
  split
  · exact writeLines_fwd (.refl s)
  · exact .refl s

theorem execCkptTimeInterval_keepsForm : KeepsForm (execCkptTimeInterval s) := by
  refine finish_fwd_keepsForm h ?_
  split
  · exact .refl s
  · exact foldl_fwd (fun _ _ f => boundary_fwd (State.onStream_fwd f)) (.refl s)

theorem execStreamIdle_keepsForm (stream : Nat) : KeepsForm (execStreamIdle stream s) := by
  refine finish_fwd_keepsForm h ?_
  split
  · split
    · exact raiseBy_fwd (State.onCtx_fwd (State.onStream_fwd (.refl s)))
    · exact .refl s
  · exact .refl s

theorem execDraftTreeAttach_keepsForm (stream : Nat) : KeepsForm (execDraftTreeAttach stream s) := by
  refine finish_fwd_keepsForm h ?_
  split
  · exact .refl s
  · split
    · exact .refl s
    · split
      · exact boundaryWith_fwd effectDraft_keeps (.refl s)
      · exact .refl s

theorem execDraftVerifyStep_keepsForm (stream : Nat) : KeepsForm (execDraftVerifyStep stream s) := by
  refine finish_fwd_keepsForm h ?_
  split
  · split
    · split
      · exact .refl s
      · split
        · exact walkPosition_fwd (.refl s)
        · split
          · exact walkOver_fwd (State.onTree_fwd (.refl s))
          · exact .refl s
    · exact .refl s
  · exact .refl s

theorem execFabricFetchReturn_keepsForm (port tag : Nat) (err : Bool) (line : List Byte) : KeepsForm (execFabricFetchReturn port tag err line s) := by
  refine finish_fwd_keepsForm h ?_
  split
  · exact fetchReturn_fwd (.refl s)
  · exact .refl s

theorem execFabricStoreAck_keepsForm (port tag : Nat) (err : Bool) : KeepsForm (execFabricStoreAck port tag err s) := by
  refine finish_fwd_keepsForm h ?_
  split
  · exact storeAck_fwd (.refl s)
  · exact .refl s

theorem execFabricResponseTimeout_keepsForm (port : Nat) : KeepsForm (execFabricResponseTimeout port s) := by
  refine finish_keepsForm ?_
  split
  · exact (portErrors_fwd (.refl _)).canonical (onLan_canonical ((raiseBy_fwd (.refl s)).canonical h) _)
  · exact h

theorem execUnitOutputWrite_keepsForm (ticket : Nat) : KeepsForm (execUnitOutputWrite ticket s) := by
  refine finish_fwd_keepsForm h ?_
  split
  · exact unitOutput_fwd (.refl s)
  · exact .refl s

theorem execStagingPieceFree_keepsForm (ticket unit : Nat) : KeepsForm (execStagingPieceFree ticket unit s) := by
  refine finish_fwd_keepsForm h ?_
  split
  · exact resumeUnit_fwd (.refl s)
  · exact .refl s

theorem execLongPieceAreaGrant_keepsForm (cluster : Nat) : KeepsForm (execLongPieceAreaGrant cluster s) := by
  refine finish_fwd_keepsForm h ?_
  split
  · exact grantArea_fwd (.refl s)
  · exact .refl s

theorem execStoreAccessGrant_keepsForm (store unit : Nat) (reqs : List StoreReq) : KeepsForm (execStoreAccessGrant store unit reqs s) := by
  unfold execStoreAccessGrant
  split
  · refine finish_keepsForm ?_
    split
    · exact storeCycle_canonical h ..
    · exact h
  · rintro t ⟨⟩

theorem execArbStarvePromote_keepsForm (store unit requester : Nat) : KeepsForm (execArbStarvePromote store unit requester s) := by
  unfold execArbStarvePromote
  split
  · refine finish_keepsForm ?_
    split
    · exact promote_canonical h ..
    · exact h
  · rintro t ⟨⟩

theorem execMarchRegionStart_keepsForm : KeepsForm (execMarchRegionStart s) := by
  refine finish_keepsForm ?_
  split
  · exact startRegion_canonical h
  · exact h

theorem execMarchRegionDone_keepsForm (fails : Bool) (row : Nat) : KeepsForm (execMarchRegionDone fails row s) := by
  refine finish_keepsForm ?_
  split
  · exact doneRegion_canonical h ..
  · exact h

theorem execContextRestoreDone_keepsForm (stream : Nat) : KeepsForm (execContextRestoreDone stream s) := by
  refine finish_keepsForm ?_
  split
  · split
    · exact runRestore_canonical h _
    · exact h
  · exact h

theorem execImageRepairDone_keepsForm (kind id owner : Nat) : KeepsForm (execImageRepairDone kind id owner s) := by
  refine finish_keepsForm ?_
  split
  · exact runRepair_canonical h ..
  · exact h

theorem execSnapshotMarkerReturn_keepsForm : KeepsForm (execSnapshotMarkerReturn s) := by
  refine finish_fwd_keepsForm h ?_
  split
  · exact markerReturn_fwd (.refl s)
  · exact .refl s

theorem execCtxEnumDone_keepsForm : KeepsForm (execCtxEnumDone s) := by
  refine finish_fwd_keepsForm h ?_
  split
  · exact enumOver_fwd (.refl s)
  · exact .refl s

theorem execBlockWatchdogExpire_keepsForm : KeepsForm (execBlockWatchdogExpire s) := by
  refine finish_keepsForm ?_
  split
  · exact warmSource_canonical h 5
  · exact h

theorem execLtnKeyZero_keepsForm (value : Word) : KeepsForm (execLtnKeyZero value s) := by
  refine lanWrite_keepsForm h ?_
  split
  · exact zeroise_canonical h 0
  · exact h

theorem execLtnFence_keepsForm (value : Word) : KeepsForm (execLtnFence value s) := by
  refine lanWrite_keepsForm h ?_
  split
  · exact fenceOff_canonical h
  · exact h

theorem execPowerEntryQuiesced_keepsForm : KeepsForm (execPowerEntryQuiesced s) := by
  refine finish_keepsForm ?_
  split
  · exact entryOver_canonical h _
  · exact h

theorem execPowerOnRelease_keepsForm : KeepsForm (execPowerOnRelease s) := by
  refine finish_keepsForm ?_
  split
  · exact startNow_canonical (onLan_canonical h _) ..
  · exact h

theorem execBlkRstRelease_keepsForm : KeepsForm (execBlkRstRelease s) := by
  refine finish_keepsForm (alive_canonical (onLan_canonical h _) ?_)
  split
  · exact onLan_canonical (onLan_canonical h _) _
  · exact onLan_canonical h _

theorem execWarmQuiesceDone_keepsForm : KeepsForm (execWarmQuiesceDone s) := by
  refine finish_keepsForm ?_
  split
  · exact quiesced_canonical h
  · exact h

theorem execDomainResetRelease_keepsForm (domain : Nat) : KeepsForm (execDomainResetRelease domain s) := by
  refine finish_keepsForm ?_
  split
  · exact onLan_canonical h _
  · exact h

theorem execOptionWordResponse_keepsForm (err : Bool) (data : Word) : KeepsForm (execOptionWordResponse err data s) := by
  refine finish_keepsForm ?_
  split
  · exact h
  · split
    · exact loadFailed_canonical h _
    · dsimp only
      split
      · exact onLan_canonical h _
      · exact loadOver_canonical (onLan_canonical h _)

theorem execOptionBusTimeout_keepsForm : KeepsForm (execOptionBusTimeout s) := by
  refine finish_keepsForm ?_
  split
  · exact loadFailed_canonical h _
  · exact h

theorem execStartTimerExpire_keepsForm : KeepsForm (execStartTimerExpire s) := by
  refine finish_keepsForm ?_
  split
  · exact failStart_canonical h 1
  · exact h

theorem execStartRetry_keepsForm : KeepsForm (execStartRetry s) := by
  refine finish_keepsForm ?_
  split
  · split
    · exact coldStart_canonical ..
    · exact warmStart_canonical (onLan_canonical h _) ..
  · exact h

theorem execPfHoldExpire_keepsForm : KeepsForm (execPfHoldExpire s) := by
  refine finish_keepsForm ?_
  split
  · exact powerUp_canonical h ..
  · exact h

theorem execDukKeyValid_keepsForm (key : List Byte) : KeepsForm (execDukKeyValid key s) := by
  have seen := (sawDuk_fwd (valid := true) (.refl s)).canonical h
  refine finish_keepsForm ?_
  split
  · split
    · exact unwrapKey_canonical seen ..
    · exact seen
  · exact seen

theorem execDukTimeout_keepsForm : KeepsForm (execDukTimeout s) := by
  refine finish_keepsForm ?_
  split
  · split
    · exact keyFault_canonical ((sawDuk_fwd (.refl s)).canonical h) ..
    · exact h
  · exact h

theorem execN2Scan_keepsForm : KeepsForm (execN2Scan s) := by
  refine finish_keepsForm ?_
  split
  · exact selectWrap_canonical h ..
  · exact testIns_canonical h ..

theorem execAstep_keepsForm (p : Nat) (d a : Nat) : KeepsForm (execAstep p d a s) := by
  exact finish_keepsForm (kRunWith_canonical h (fun e => K.astep_keeps _ _ e) fun _ _ _ c => (astepEvents_fwd (.refl _)).canonical c)

theorem exec_keepsForm (i : Instr) : KeepsForm (exec i s) := by
  have fwd : ∀ {u}, Fwd s u → KeepsForm (finish s u) := finish_fwd_keepsForm h
  cases i
  -- rings
  case ringCtailDoorbell => exact fabricWrite_keepsForm h fun _ => writeCtail_fwd
  case cmdRingEnable => exact fabricWrite_keepsForm h fun _ => writeCctl_fwd
  case cmdRingDisable => exact fabricWrite_keepsForm h fun _ => writeCctl_fwd
  case cqRingEnable => exact fabricWrite_keepsForm h fun _ => writeQctl_fwd
  case cqRingDisable => exact fabricWrite_keepsForm h fun _ => writeQctl_fwd
  case ringQheadWrite => exact fabricWrite_keepsForm h fun _ => writeQhead_fwd
  case commandFetch => exact execCommandFetch_keepsForm h _
  case commandDispatch => exact execCommandDispatch_keepsForm h
  case completionWrite => exact execCompletionWrite_keepsForm h _
  case ringStall => exact execRingStall_keepsForm h _
  -- commands
  case nop => exact cmd_keepsForm h fun _ => complete_fwd (.refl s)
  case fence => exact cmd_keepsForm h fun _ => runFence_fwd (.refl s)
  case commitConfig => exact finish_keepsForm (runCmd_canonical h fun _ => runCommit_canonical h _)
  case loadVocab => exact cmd_keepsForm h fun _ => runLoadVocab_fwd (.refl s)
  case dropVocab => exact cmd_keepsForm h fun _ => runDropVocab_fwd (.refl s)
  case loadAutomaton => exact cmd_keepsForm h fun _ => runLoadAut_fwd (.refl s)
  case dropAutomaton => exact cmd_keepsForm h fun _ => runDropAut_fwd (.refl s)
  case loadProgram => exact cmd_keepsForm h fun _ => runLoadProgram_fwd (.refl s)
  case loadStopset => exact cmd_keepsForm h fun _ => runLoadStop_fwd (.refl s)
  case ownerKey => exact cmd_keepsForm h fun _ => runOwnerKey_fwd (.refl s)
  case ownerRelease => exact finish_keepsForm (runCmd_canonical h fun _ => runRelease_canonical h _)
  case streamOpen => exact cmd_keepsForm h fun _ => runOpen_fwd (.refl s)
  case streamParams => exact cmd_keepsForm h fun _ => runParams_fwd (.refl s)
  case prompt => exact cmd_keepsForm h fun _ => runPrompt_fwd (.refl s)
  case stepArm => exact cmd_keepsForm h fun _ => runArm_fwd (.refl s)
  case draft => exact cmd_keepsForm h fun _ => runDraft_fwd (.refl s)
  case streamClose => exact cmd_keepsForm h fun _ => runClose_fwd (.refl s)
  case epochSet => exact cmd_keepsForm h fun _ => runEpochSet_fwd (.refl s)
  case epochRevoke => exact cmd_keepsForm h fun _ => runRevoke_fwd (.refl s)
  case tokenize => exact fwd (runJob_fwd (fun _ => tokenizeStart_fwd (.refl s)) (fun _ => tokenizeRead_fwd (.refl s)) (.refl s))
  case detokenize => exact fwd (runJob_fwd (fun _ => detokStart_fwd (.refl s)) (fun _ => detokRead_fwd (.refl s)) (.refl s))
  case pack => exact cmd_keepsForm h fun _ => runPack_fwd (.refl s)
  case maskReplay => exact fwd (runJob_fwd (fun _ => runReplay_fwd (.refl s)) (fun _ => runReplay_fwd (.refl s)) (.refl s))
  case snapshot => exact cmd_keepsForm h fun _ => runSnapshot_fwd (.refl s)
  case checkpoint => exact cmd_keepsForm h fun _ => runCheckpoint_fwd (.refl s)
  case suspend => exact cmd_keepsForm h fun _ => runSuspend_fwd (.refl s)
  case resume => exact cmd_keepsForm h fun _ => runResume_fwd (.refl s)
  case reattach => exact cmd_keepsForm h fun _ => runReattach_fwd (.refl s)
  case flush => exact cmd_keepsForm h fun _ => runFlush_fwd (.refl s)
  -- steps of streams
  case cupolaFillDone => exact execCupolaFillDone_keepsForm h _ _ _ _
  case cupolaSpaceFree => exact execCupolaSpaceFree_keepsForm h _
  case maskRdy => exact execMaskRdy_keepsForm h _
  case maskRdyDeliver => exact execMaskRdyDeliver_keepsForm h
  case stepIssued => exact execStepIssued_keepsForm h _ _
  case logitHeaderBeat => exact fwd (atPort_fwd (fun _ => headerBeat_fwd) (.refl s))
  case logitDataBeat => exact fwd (atPort_fwd (fun _ => dataBeat_fwd) (.refl s))
  case stepDeadlineExpire => exact execStepDeadlineExpire_keepsForm h _ _ _
  case finialTokenRecord => exact execFinialTokenRecord_keepsForm h _
  case peerPartialList => exact execPeerPartialList_keepsForm h _ _ _
  case tokenNotice => exact execTokenNotice_keepsForm h _ _
  case tokenCommit => exact execTokenCommit_keepsForm h _
  case recordLineTimer => exact execRecordLineTimer_keepsForm h _ _
  case ckptTimeInterval => exact execCkptTimeInterval_keepsForm h
  case streamIdle => exact execStreamIdle_keepsForm h _
  case draftTreeAttach => exact execDraftTreeAttach_keepsForm h _
  case draftVerifyStep => exact execDraftVerifyStep_keepsForm h _
  -- the fabric ports and the queues
  case fabricFetchReturn => exact execFabricFetchReturn_keepsForm h _ _ _ _
  case fabricStoreAck => exact execFabricStoreAck_keepsForm h _ _ _
  case fabricResponseTimeout => exact execFabricResponseTimeout_keepsForm h _
  case drainRead => exact fwd (drainRead_fwd (.refl s))
  case drainWrite => exact fwd (drainError_fwd (.refl s))
  case eqDataRead => exact fwd (eqDataRead_fwd (.refl s))
  -- bulk jobs
  case unitOutputWrite => exact execUnitOutputWrite_keepsForm h _
  case stagingPieceFree => exact execStagingPieceFree_keepsForm h _ _
  case longPieceAreaGrant => exact execLongPieceAreaGrant_keepsForm h _
  -- the stores
  case storeAccessGrant => exact execStoreAccessGrant_keepsForm h _ _ _
  case arbStarvePromote => exact execArbStarvePromote_keepsForm h _ _ _
  case marchRegionStart => exact execMarchRegionStart_keepsForm h
  case marchRegionDone => exact execMarchRegionDone_keepsForm h _ _
  case contextRestoreDone => exact execContextRestoreDone_keepsForm h _
  case imageRepairDone => exact execImageRepairDone_keepsForm h _ _ _
  case turretWatchdogExpire => exact finish_keepsForm (turretWatchdog_canonical h _)
  case idleClockGate => exact fwd (gateIdle_fwd (.refl s))
  -- registers
  case snapshotMarkerReturn => exact execSnapshotMarkerReturn_keepsForm h
  case ctxQuery => exact fabricWrite_keepsForm h fun _ => writeQuery_fwd
  case ctxEnumGo => exact fabricWrite_keepsForm h fun _ => writeEnum_fwd
  case ctxEnumDone => exact execCtxEnumDone_keepsForm h
  case pkrRecHeadWrite => exact fabricWrite_keepsForm h fun _ => writeRecHead_fwd
  case belLogDataRead => exact fwd (logDataRead_fwd (.refl s))
  case rcCounterRead => exact finish_keepsForm (readRegister_canonical h _)
  case registerWrite => exact finish_keepsForm (regWrite_canonical h ..)
  -- resets, starts and power
  case swCold => exact lanWrite_keepsForm h (swCold_canonical h)
  case swWarm => exact lanWrite_keepsForm h (warmSource_canonical h 4)
  case ltnWdogCtlWrite => exact lanWrite_keepsForm h (writeWdog_canonical h _)
  case ltnWdogKick => exact lanWrite_keepsForm h (kickWdog_canonical h _)
  case blockWatchdogExpire => exact execBlockWatchdogExpire_keepsForm h
  case ltnKeyZero => exact execLtnKeyZero_keepsForm h _
  case ltnFence => exact execLtnFence_keepsForm h _
  case pwrTargetOn => exact lanWrite_keepsForm h (writeTarget_canonical h 0)
  case pwrTargetRetain => exact lanWrite_keepsForm h (writeTarget_canonical h 1)
  case pwrTargetOff => exact lanWrite_keepsForm h (writeTarget_canonical h 2)
  case powerEntryQuiesced => exact execPowerEntryQuiesced_keepsForm h
  case powerRailAck => exact finish_keepsForm (alive_canonical h (railAck_canonical h ..))
  case localResetTurret => exact lanWrite_keepsForm h (resetTurret_canonical h _)
  case localResetIngressPort => exact lanWrite_keepsForm h (resetIngress_canonical h _)
  case localResetFabricPort => exact lanWrite_keepsForm h (resetFabric_canonical h _)
  case powerOnAssert => exact finish_keepsForm (canonical_of_eq (coldUnits_canonical s) rfl rfl rfl)
  case powerOnRelease => exact execPowerOnRelease_keepsForm h
  case blkRstAssert => exact finish_keepsForm (alive_canonical (onLan_canonical h _) (warmSource_canonical (onLan_canonical h _) 3))
  case blkRstRelease => exact execBlkRstRelease_keepsForm h
  case warmQuiesceDone => exact execWarmQuiesceDone_keepsForm h
  case ckRootOkFall => exact finish_keepsForm (clockFall_canonical h)
  case ckRootOkRise => exact finish_keepsForm (clockRise_canonical h)
  case domainResetRelease => exact execDomainResetRelease_keepsForm h _
  case startStepDone => exact finish_keepsForm (alive_canonical h (stepDone_canonical h _))
  case optionWordResponse => exact execOptionWordResponse_keepsForm h _ _
  case optionBusTimeout => exact execOptionBusTimeout_keepsForm h
  case startTimerExpire => exact execStartTimerExpire_keepsForm h
  case startRetry => exact execStartRetry_keepsForm h
  case pfWarn => exact finish_keepsForm (alive_canonical h (pfWarn_canonical h))
  case emergencyCkptDone => exact finish_keepsForm (emergencyOver_canonical h)
  case pfWarnRelease => exact finish_keepsForm (onLan_canonical h _)
  case pfHoldExpire => exact execPfHoldExpire_keepsForm h
  case dukKeyValid => exact execDukKeyValid_keepsForm h _
  case dukTimeout => exact execDukTimeout_keepsForm h
  case wsBypass => exact finish_keepsForm (selectWrap_canonical h ..)
  case n2Idcode => exact finish_keepsForm (selectWrap_canonical h ..)
  case n2Lantern => exact finish_keepsForm (selectWrap_canonical h ..)
  case wsExtest => exact finish_keepsForm (testIns_canonical h ..)
  case wsIntest => exact finish_keepsForm (testIns_canonical h ..)
  case n2Scan => exact execN2Scan_keepsForm h
  case n2Mbist => exact finish_keepsForm (testIns_canonical h ..)
  case n2Repair => exact finish_keepsForm (testIns_canonical h ..)
  case wrapperReset => exact finish_keepsForm (selectWrap_canonical h ..)
  -- Knalen
  case add => exact knalen_keepsForm h fun _ => by apply K.alu_keeps
  case sub => exact knalen_keepsForm h fun _ => by apply K.alu_keeps
  case and => exact knalen_keepsForm h fun _ => by apply K.alu_keeps
  case or => exact knalen_keepsForm h fun _ => by apply K.alu_keeps
  case xor => exact knalen_keepsForm h fun _ => by apply K.alu_keeps
  case slt => exact knalen_keepsForm h fun _ => by apply K.alu_keeps
  case addi => exact knalen_keepsForm h fun _ _ _ k => K.put_canon k ..
  case andi => exact knalen_keepsForm h fun _ _ _ k => K.put_canon k ..
  case shli => exact knalen_keepsForm h fun _ _ _ k => K.put_canon k ..
  case shri => exact knalen_keepsForm h fun _ _ _ k => K.put_canon k ..
  case movi => exact knalen_keepsForm h fun _ _ _ k => K.put_canon k ..
  case movh => exact knalen_keepsForm h fun _ _ _ k => K.put_canon k ..
  case ld => exact knalen_keepsForm h fun _ => by apply K.loadN_keeps
  case ldw => exact knalen_keepsForm h fun _ => by apply K.loadN_keeps
  case ldb => exact knalen_keepsForm h fun _ => by apply K.loadN_keeps
  case st => exact knalen_keepsForm h fun _ => by apply K.storeN_keeps
  case stw => exact knalen_keepsForm h fun _ => by apply K.storeN_keeps
  case stb => exact knalen_keepsForm h fun _ => by apply K.storeN_keeps
  case push => exact knalen_keepsForm h fun _ => by apply K.push_keeps
  case pop => exact knalen_keepsForm h fun _ => by apply K.pop_keeps
  case peek => exact knalen_keepsForm h fun _ => by apply K.peek_keeps
  case tld => exact knalen_keepsForm h fun _ => by apply K.tldN_keeps
  case tldw => exact knalen_keepsForm h fun _ => by apply K.tldN_keeps
  case hprobe => exact knalen_keepsForm h fun _ => by apply K.hprobe_keeps
  case tstep => exact knalen_keepsForm h fun _ => by apply K.tstep_keeps
  case astep => exact execAstep_keepsForm h _ _ _
  case aspec => exact knalen_keepsForm h fun _ => by apply K.aspec_keeps
  case asave => exact knalen_keepsForm h fun _ => by apply K.asave_keeps
  case ares => exact knalen_keepsForm h fun _ => by apply K.ares_keeps
  case mset => exact finish_keepsForm (bitRow_canonical h ..)
  case mclr => exact finish_keepsForm (bitRow_canonical h ..)
  case vld => exact knalen_keepsForm h fun _ => by apply K.vld_keeps
  case vst => exact knalen_keepsForm h fun _ => by apply K.vst_keeps
  case vin => exact knalen_keepsForm h fun _ => by apply K.vin_keeps
  case vcls => exact knalen_keepsForm h fun _ => by apply K.vcls_keeps
  case vcmpeq => exact knalen_keepsForm h fun _ _ _ k => K.put_canon k ..
  case vfind => exact knalen_keepsForm h fun _ _ _ k => K.put_canon k ..
  case vutf => exact knalen_keepsForm h fun _ => by apply K.vutf_keeps
  case emit => exact knalen_keepsForm h fun _ => by apply K.emit_keeps
  case emitv => exact knalen_keepsForm h fun _ _ _ k => K.emitBytes_canon k _
  case steal => exact finish_keepsForm (stealRow_canonical h ..)
  case post => exact finish_keepsForm (postRow_canonical h ..)
  case bar => exact knalen_keepsForm h fun _ _ _ k => K.next_canon k
  case fin => exact knalen_keepsForm h fun _ _ _ _ => trivial
  case trap => exact knalen_keepsForm h fun _ _ _ _ => trivial
  case beq => exact knalen_keepsForm h fun _ => by apply K.branch_keeps
  case bne => exact knalen_keepsForm h fun _ => by apply K.branch_keeps
  case blt => exact knalen_keepsForm h fun _ => by apply K.branch_keeps
  case j => exact knalen_keepsForm h fun _ _ _ k => K.goto_canon k _
  case jal => exact knalen_keepsForm h fun _ => by apply K.jal_keeps
  case jr => exact knalen_keepsForm h fun _ _ _ k => K.goto_canon k _

end

/-- Settles O57: an empty queue ticks the Lantern; otherwise the front instruction keeps the form. -/
theorem stepKeepsCanonical : Obligations.StepKeepsCanonical := by
  unfold Obligations.StepKeepsCanonical
  intro s t h e
  unfold step at e
  split at e
  · cases e
    exact tick_canonical h
  · rename_i c rest _
    have queued : Canonical { s with pending := rest } := canonical_of_eq h rfl rfl rfl
    exact exec_keepsForm queued c t e

end Sys2Proof.Machine
end

section
/-! Knalen arithmetic, byte vectors and output (07 Table 7.4, Table 7.5, R264, R268, R280): the outcome of each instruction. -/

namespace Sys2Proof.Machine

/-! ## Registers (07 R264) -/

theorem Core.rd_zero (c : Core) : c.rd 0 = 0 := if_pos rfl

theorem Core.wr_zero (c : Core) (x : DWord) : c.wr 0 x = c := if_pos rfl

section
variable {c : Core} {d e : Nat} (x : DWord)

theorem Core.rd_wr_same (h : d ≠ 0) (k : d < c.g.length) : (c.wr d x).rd d = x := by
  simp [Core.rd, Core.wr, h, getN, setAt, k]

theorem Core.rd_wr_ne (h : e ≠ d) : (c.wr d x).rd e = c.rd e := by
  unfold Core.rd Core.wr
  by_cases z : d = 0
  · simp [z]
  · simp [z, getN, setAt, Ne.symm h]

end

/-! ## Outcomes -/

section
variable {i : Invocation} {c : Core}

theorem K.next_past (past : i.codeCount ≤ c.pc + 1) : K.next i c = .exc Exc.pcRange 0 := if_neg (Nat.not_lt.mpr past)

theorem K.put_past (past : i.codeCount ≤ c.pc + 1) (d : Nat) (x : DWord) : K.put i c d x = .exc Exc.pcRange 0 :=
  K.next_past (by rwa [Core.wr_pc])

theorem K.engineOnly_engine (h : i.role = roleEngine) (k : KOut) : K.engineOnly i k = k := if_pos h

theorem K.engineOnly_other (h : i.role ≠ roleEngine) (k : KOut) : K.engineOnly i k = .exc Exc.roleFault 0 := if_neg h

end

/-! ## Arithmetic -/

/-- Settles O50: every instruction writes one register with its result and moves on, or is past the last instruction. -/
theorem knalenArithmetic : Obligations.KnalenArithmetic := by
  unfold Obligations.KnalenArithmetic
  refine ⟨fun c d x => ⟨c.rd_zero, c.wr_zero x, fun h k => ⟨Core.rd_wr_same x h k, fun e => Core.rd_wr_ne x⟩⟩, ?_⟩
  intro s p i c d a b m run
  refine ⟨fun past ins named => ?_, fun on => ?_⟩
  · have out := K.put_past (d := d) past
    simp only [List.mem_cons, List.not_mem_nil, or_false] at named
    obtain rfl | rfl | rfl | rfl | rfl | rfl | rfl | rfl | rfl | rfl | rfl | rfl := named
    · exact run.excepts (f := K.add d a b) (by decide) rfl (out _)
    · exact run.excepts (f := K.sub d a b) (by decide) rfl (out _)
    · exact run.excepts (f := K.and d a b) (by decide) rfl (out _)
    · exact run.excepts (f := K.or d a b) (by decide) rfl (out _)
    · exact run.excepts (f := K.xor d a b) (by decide) rfl (out _)
    · exact run.excepts (f := K.slt d a b) (by decide) rfl (out _)
    · exact run.excepts (f := K.addi d a m) (by decide) rfl (out _)
    · exact run.excepts (f := K.andi d a m) (by decide) rfl (out _)
    · exact run.excepts (f := K.shli d a m) (by decide) rfl (out _)
    · exact run.excepts (f := K.shri d a m) (by decide) rfl (out _)
    · exact run.excepts (f := K.movi d m) (by decide) rfl (out _)
    · exact run.excepts (f := K.movh d m) (by decide) rfl (out _)
  · have go := K.put_eq_go (d := d) on
    refine ⟨run.does (f := K.add d a b) rfl (go _), run.does (f := K.sub d a b) rfl (go _), run.does (f := K.and d a b) rfl (go _),
      run.does (f := K.or d a b) rfl (go _), run.does (f := K.xor d a b) rfl (go _), ?_, run.does (f := K.addi d a m) rfl (go _),
      run.does (f := K.andi d a m) rfl (go _), fun short => ?_, run.does (f := K.movi d m) rfl (go _), fun short => ?_⟩
    · have less : (if (c.rd a).toInt < (c.rd b).toInt then 1 else 0 : DWord) = if (c.rd a).slt (c.rd b) then 1 else 0 := by
        simp [BitVec.slt]
      rw [less]
      exact run.does (f := K.slt d a b) rfl (go _)
    · rw [← Nat.mod_eq_of_lt short]
      exact ⟨run.does (f := K.shli d a m) rfl (go _), run.does (f := K.shri d a m) rfl (go _)⟩
    · have low : m.setWidth 64 = BitVec.ofNat 64 (m.toNat % 65536) := by
        rw [Nat.mod_eq_of_lt short]
        exact BitVec.eq_of_toNat_eq (by simp)
      rw [low]
      exact run.does (f := K.movh d m) rfl (go _)

/-! ## Byte vectors -/

section
variable {i : Invocation} {c : Core} {d a b : Nat} {m : BitVec 18}

theorem K.vld_outside (out : localOk i.role (effAddr c a m) 32 = false) : K.vld d a m i c = .exc Exc.localRange 0 := by
  simp [K.vld, out]

theorem K.vld_eq_go (on : c.pc + 1 < i.codeCount) (inside : localOk i.role (effAddr c a m) 32 = true) :
    K.vld d a m i c = .go (c.vwr d (c.load (effAddr c a m) 32)).advance i := by
  simp [K.vld, inside, K.next_eq_go (c := c.vwr d (c.load (effAddr c a m) 32)) on]

theorem K.vst_outside (out : localOk i.role (effAddr c a m) 32 = false) : K.vst d a m i c = .exc Exc.localRange 0 := by
  simp [K.vst, out]

theorem K.vst_eq_go (on : c.pc + 1 < i.codeCount) (inside : localOk i.role (effAddr c a m) 32 = true) :
    K.vst d a m i c = .go (c.store (effAddr c a m) (c.vrd d)).advance i := by
  simp [K.vst, inside, K.next_eq_go (c := c.store (effAddr c a m) (c.vrd d)) on]

theorem K.vcls_outside (out : ¬ localOk i.role (c.rd b).toNat 256 = true) : K.vcls d a b i c = .exc Exc.localRange 0 := by
  simp [K.vcls, out]

theorem K.vcls_eq_go (on : c.pc + 1 < i.codeCount) (inside : localOk i.role (c.rd b).toNat 256 = true) :
    K.vcls d a b i c = .go (c.vwr d ((c.vrd a).map fun l => sget 0 c.mem ((c.rd b).toNat + l.toNat))).advance i :=
  (if_neg (by simp [inside])).trans (K.next_eq_go (c := c.vwr d _) on)

/-! ## Output (07 R280) -/

theorem K.cut_eq_go (on : c.pc + 1 < i.codeCount) (cut : i.lastCut ≤ (c.rd a).toNat ∧ i.runBase ≤ (c.rd a).toNat ∧ (c.rd a).toNat ≤ i.runBase + i.runLen) :
    K.emit a 0 i c = .go c.advance { i with lastCut := (c.rd a).toNat, pieces := i.pieces ++ [((c.rd a).toNat, [])] } :=
  (if_neg (by omega)).trans (K.next_eq_go on)

theorem K.cut_refused (cut : ¬ (i.lastCut ≤ (c.rd a).toNat ∧ i.runBase ≤ (c.rd a).toNat ∧ (c.rd a).toNat ≤ i.runBase + i.runLen)) :
    K.emit a 0 i c = .exc Exc.emitOrder 0 := if_pos (by omega)

theorem K.emitBytes_refused {out : List Byte} (full : ¬ i.bytesOut + out.length ≤ i.bytesMax) : K.emitBytes i out c = .exc Exc.expansion 0 :=
  if_pos (Nat.not_le.mp full)

/-- Bytes go to the last piece; without one they begin a piece at the last cut. -/
theorem K.emitBytes_eq_go (on : c.pc + 1 < i.codeCount) {ps : List (Nat × List Byte)} {o : Nat} {bs out : List Byte}
    (last : i.pieces = ps ++ [(o, bs)] ∨ (i.pieces = [] ∧ ps = [] ∧ o = i.lastCut ∧ bs = [])) (fits : i.bytesOut + out.length ≤ i.bytesMax) :
    K.emitBytes i out c = .go c.advance { i with bytesOut := i.bytesOut + out.length, pieces := ps ++ [(o, bs ++ out)] } := by
  have on' : ∀ j : Invocation, j.codeCount = i.codeCount → K.next j c = .go c.advance j := fun j e => K.next_eq_go (by rwa [e])
  unfold K.emitBytes
  rw [if_neg (Nat.not_lt.mpr fits)]
  obtain e | ⟨e, rfl, rfl, rfl⟩ := last
  · simp [e, on']
  · simp [e, on']

end

/-- Settles O53: the outcome of each instruction in each of its cases. -/
theorem knalenVectorsAndOutput : Obligations.KnalenVectorsAndOutput := by
  unfold Obligations.KnalenVectorsAndOutput
  intro s p i c d a b m run on
  have go := K.put_eq_go (d := d) on
  refine ⟨fun inside => ⟨?_, ?_⟩, fun out => ⟨?_, ?_⟩, ?_, ?_, ?_, ?_, fun wcs => ?_, ?_, fun ps o bs last ins out named => ?_, ?_⟩
  · exact run.does rfl (K.vld_eq_go on inside)
  · exact run.does rfl (K.vst_eq_go on inside)
  · exact run.excepts (by decide) rfl (K.vld_outside out)
  · exact run.excepts (by decide) rfl (K.vst_outside out)
  · exact run.does (f := K.vin d a m) rfl (K.next_eq_go (c := c.vwr d _) on)
  · split
    · next inside => exact run.does rfl (K.vcls_eq_go on inside)
    · next out => exact run.excepts (by decide) rfl (K.vcls_outside out)
  · exact run.does (f := K.vcmpeq d a b) rfl (go _)
  · exact run.does (f := K.vfind d a b) rfl (go _)
  · refine run.does (f := K.vutf d a b wcs) rfl (K.put_eq_go ?_ _)
    split <;> exact on
  · dsimp only
    split
    · next cut => exact run.does rfl (K.cut_eq_go on cut)
    · next cut => exact run.excepts (by decide) rfl (K.cut_refused cut)
  · simp only [List.mem_cons, List.not_mem_nil, or_false, Prod.mk.injEq] at named
    obtain ⟨rfl, rfl⟩ | ⟨rfl, rfl⟩ := named
    · split
      · next fits => exact run.does (f := K.emit a 1) rfl (K.emitBytes_eq_go on last fits)
      · next full => exact run.excepts (f := K.emit a 1) (by decide) rfl (K.emitBytes_refused full)
    · split
      · next fits => exact run.does (f := K.emitv a b) rfl (K.emitBytes_eq_go on last fits)
      · next full => exact run.excepts (f := K.emitv a b) (by decide) rfl (K.emitBytes_refused full)
  · split
    · next engine => exact run.does (f := K.emit a 2) rfl ((K.engineOnly_engine engine _).trans (K.next_eq_go on))
    · next other => exact run.excepts (f := K.emit a 2) (by decide) rfl (K.engineOnly_other other _)

end Sys2Proof.Machine
end

section
/-! Knalen tables, tries, configuration sets and bitmaps, and control, steals and posts (07 Table 7.4, Table 7.5, R268, R273, R292 to R295). -/

namespace Sys2Proof.Machine

section
variable {s : State} {ins : Instr} {p : Nat} {i : Invocation} {c : Core} {f : KEnv → Invocation → Core → KOut}

/-- An instruction that reads the slot or the automaton, whose outcome is a next core and invocation. -/
theorem State.Runs.does_env {e : Core} {j : Invocation} (h : s.Runs p i c) (row : exec ins s = finish s (kRun s p f))
    (k : f (kEnv s i) i c = .go e j) : s.Does ins p e j := by
  unfold State.Does
  rw [row]
  exact kRun_does h k

/-- One that raises an exception, which then has no effect outside its turret. -/
theorem State.Runs.excepts_env {g : KEnv → Core → State → State} {code tr : Nat} (h : s.Runs p i c) (lt : code < 0xFE)
    (row : exec ins s = finish s (kRunWith s p f g)) (k : f (kEnv s i) i c = .exc code tr) : s.Excepts ins p i c code tr := by
  unfold State.Excepts
  rw [row]
  exact kRun_excepts h lt k

end

theorem Retired.eq {s t : State} {p : Nat} {d : Core} {j : Invocation} (h : Retired s t p d j) : t.sansFab = (s.onTurret p fun u =>
    { u with core := d, inv := some { j with budget := j.budget - 1 }, instr := wrap32 (u.instr + 1) }).sansFab := h

/-- The turret after an instruction that completed, when the block around it has as many turrets. -/
theorem Retired.turret {s t : State} {p : Nat} {d : Core} {j : Invocation} (h : Retired s t p d j) (len : p < s.tur.ts.length) :
    t.turret p = { s.turret p with core := d, inv := some { j with budget := j.budget - 1 }, instr := wrap32 ((s.turret p).instr + 1) } := by
  have tur := congrArg State.tur h.eq
  exact (congrArg (fun x : Tur => getN x.ts p) tur).trans (getN_modAt _ len)

/-- Another turret stays. -/
theorem Retired.turret_ne {s t : State} {p q : Nat} {d : Core} {j : Invocation} (h : Retired s t p d j) (ne : q ≠ p) :
    t.turret q = s.turret q := by
  have tur := congrArg State.tur h.eq
  exact (congrArg (fun x : Tur => getN x.ts q) tur).trans (turret_onTurret_ne s p q _ ne)

/-! ## Tables and tries -/

section
variable {i : Invocation} {c : Core} {d a b n : Nat} {m : BitVec 18} {e : KEnv}

theorem K.tldN_eq_go (on : c.pc + 1 < i.codeCount)
    (inside : n * ((c.rd a + BitVec.ofNat 64 (m.toNat / 8)).toNat + 1) ≤ (getN c.t (m.toNat % 8)).length) :
    K.tldN n d a m i c = .go (c.wr d (BitVec.ofNat 64 (getLE (getN c.t (m.toNat % 8)) (n * (c.rd a + BitVec.ofNat 64 (m.toNat / 8)).toNat) n))).advance i :=
  (if_neg (Nat.not_lt.mpr inside)).trans (K.put_eq_go on _)

theorem K.tldN_beyond (beyond : ¬ n * ((c.rd a + BitVec.ofNat 64 (m.toNat / 8)).toNat + 1) ≤ (getN c.t (m.toNat % 8)).length) :
    K.tldN n d a m i c = .exc Exc.tableRange 0 := if_pos (Nat.not_le.mp beyond)

theorem K.hprobe_unbound (engine : i.role = roleEngine) (none : e.voc = none) : K.hprobe e d a b i c = .exc Exc.tableRange 0 := by
  simp [K.hprobe, K.engineOnly, engine, none]

theorem K.tstep_unbound {long : Bool} (engine : i.role = roleEngine) (none : e.voc = none) : K.tstep e d a b long i c = .exc Exc.tableRange 0 := by
  simp [K.tstep, K.engineOnly, engine, none]

section
variable {v : VocImage} (engine : i.role = roleEngine) (bound : e.voc = some v)
include engine bound

theorem K.hprobe_no_ranks (empty : v.buckets = []) : K.hprobe e d a b i c = .exc Exc.tableRange 0 := by
  simp [K.hprobe, K.engineOnly, engine, bound, empty]

theorem K.hprobe_eq_go (on : c.pc + 1 < i.codeCount) (some : v.buckets ≠ []) :
    K.hprobe e d a b i c = .go (c.wr d (match lookupRank v.buckets (c.rd a).toNat (c.rd b).toNat with
      | .some r => BitVec.ofNat 64 (getN v.results r * 4294967296 + r)
      | none => K.ones)).advance i := by
  have ranks : v.buckets.isEmpty = false := by simpa using some
  simp only [K.hprobe, K.engineOnly, engine, bound, ranks, if_true, Bool.false_eq_true, if_false]
  cases lookupRank v.buckets (c.rd a).toNat (c.rd b).toNat <;> exact K.put_eq_go on _

variable {long : Bool}

theorem K.tstep_beyond (beyond : (if long && v.hasLm then v.lmTrie else v.maskTrie).length ≤ (c.rd a).toNat) :
    K.tstep e d a b long i c = .exc Exc.tableRange 0 := by
  simp only [K.tstep, K.engineOnly, engine, bound, beyond, if_true]

theorem K.tstep_eq_go (on : c.pc + 1 < i.codeCount) (inside : (c.rd a).toNat < (if long && v.hasLm then v.lmTrie else v.maskTrie).length) :
    K.tstep e d a b long i c =
      .go (c.wr d (match Trie.child (if long && v.hasLm then v.lmTrie else v.maskTrie) (c.rd a).toNat (BitVec.ofNat 8 (c.rd b).toNat) with
        | some j => BitVec.ofNat 64 (j + b2n (Trie.terminal (getN (if long && v.hasLm then v.lmTrie else v.maskTrie) j)) * 16777216 +
            Trie.token (getN (if long && v.hasLm then v.lmTrie else v.maskTrie) j) * 4294967296)
        | none => K.ones)).advance i := by
  simp only [K.tstep, K.engineOnly, engine, bound, if_true, if_neg (Nat.not_le.mpr inside)]
  cases Trie.child (if long && v.hasLm then v.lmTrie else v.maskTrie) (c.rd a).toNat (BitVec.ofNat 8 (c.rd b).toNat) <;> exact K.put_eq_go on _

end

/-! ## Configuration sets and bitmaps -/

section
variable (engine : i.role = roleEngine)
include engine

theorem K.asave_outside (out : ¬ localOk i.role (c.rd a).toNat (K.savedLen c.work) = true) : K.asave d a i c = .exc Exc.localRange 0 := by
  simp [K.asave, K.engineOnly_engine engine, out]

theorem K.asave_eq_go (on : c.pc + 1 < i.codeCount) (inside : localOk i.role (c.rd a).toNat (K.savedLen c.work) = true) :
    K.asave d a i c = .go ((c.store (c.rd a).toNat ((List.range (K.savedLen c.work)).map (Config.savedSetByte c.work))).wr d
      (BitVec.ofNat 64 (K.savedLen c.work))).advance i := by
  have go := K.put_eq_go (i := i) (c := c.store (c.rd a).toNat ((List.range (K.savedLen c.work)).map (Config.savedSetByte c.work))) (d := d) on
  simp [K.asave, K.engineOnly_engine engine, inside, go]

theorem K.ares_outside (out : ¬ localOk i.role (c.rd a).toNat (K.savedLen (Config.savedSet c.mem (c.rd a).toNat)) = true) :
    K.ares a i c = .exc Exc.localRange 0 := by
  simp [K.ares, K.engineOnly_engine engine, out]

theorem K.ares_eq_go (on : c.pc + 1 < i.codeCount)
    (inside : localOk i.role (c.rd a).toNat (K.savedLen (Config.savedSet c.mem (c.rd a).toNat)) = true) :
    K.ares a i c = .go { c with work := Config.savedSet c.mem (c.rd a).toNat }.advance i := by
  have go := K.next_eq_go (i := i) (c := { c with work := Config.savedSet c.mem (c.rd a).toNat }) on
  simp [K.ares, K.engineOnly_engine engine, inside, go]

theorem K.bitLocal_outside {set : Bool} (out : ¬ localOk i.role ((c.rd a).toNat + (c.rd b).toNat / 8) 1 = true) :
    K.bitLocal set a b i c = .exc Exc.localRange 0 := by
  simp [K.bitLocal, K.engineOnly_engine engine, out]

theorem K.bitLocal_eq_go {set : Bool} (on : c.pc + 1 < i.codeCount)
    (inside : localOk i.role ((c.rd a).toNat + (c.rd b).toNat / 8) 1 = true) :
    K.bitLocal set a b i c = .go (c.store ((c.rd a).toNat + (c.rd b).toNat / 8)
      [if set then getN (c.load ((c.rd a).toNat + (c.rd b).toNat / 8) 1) 0 ||| 1#8 <<< ((c.rd b).toNat % 8)
        else getN (c.load ((c.rd a).toNat + (c.rd b).toNat / 8) 1) 0 &&& ~~~(1#8 <<< ((c.rd b).toNat % 8))]).advance i := by
  have go : ∀ bs, K.next i (c.store ((c.rd a).toNat + (c.rd b).toNat / 8) bs) = .go (c.store ((c.rd a).toNat + (c.rd b).toNat / 8) bs).advance i :=
    fun bs => K.next_eq_go (c := c.store _ bs) on
  simp [K.bitLocal, K.engineOnly_engine engine, inside, go]

end
end

/-- Raising events leaves the turrets. -/
theorem raiseHome_tur (s : State) (x : Stream) (code step detail : Nat) : (raiseHome s x code step detail).tur = s.tur :=
  show (raiseHome s x code step detail).sansBel.tur = s.sansBel.tur by rw [raiseHome, raiseFrom_sansBel]

theorem stepEvents_tur (s : State) (x : Stream) (n : Nat) (r : Stepped) (step : Nat) : (stepEvents s x n r step).tur = s.tur := by
  unfold stepEvents
  extract_lets a b c
  have cells : a.tur = s.tur := by
    dsimp only [a]
    exact foldl_keeps _ State.tur (fun t k => (raiseHome_tur _ x _ _ _).trans (State.onAut_tur ..)) _ _
  have drops : b.tur = a.tur := by
    dsimp only [b]
    exact foldl_keeps _ State.tur (fun t k => (raiseHome_tur _ x _ _ _).trans (State.onAut_tur ..)) _ _
  clear_value b a
  replace drops : c.tur = s.tur := (State.onAut_tur ..).trans (drops.trans cells)
  clear_value c
  split
  · split
    · exact drops
    · exact (raiseHome_tur _ x _ _ _).trans drops
  · exact drops

/-- ASTEP's events and reads leave the turrets. -/
theorem astepEvents_tur (p a : Nat) (e : KEnv) (c : Core) (s : State) : (astepEvents p a e c s).tur = s.tur := by
  unfold astepEvents
  dsimp only
  split
  · exact stepEvents_tur ..
  · rfl

theorem bitCupola_eq (set : Bool) (a b : Nat) (c : Core) (s : State) :
    bitCupola set a b c s = if (c.rd b).toNat < 262144
      then { s with cup := { s.cup with entries := modAt s.cup.entries (Config.cupolaEntry (c.rd a)) fun e =>
        { e with a := if set then e.a ||| 1 <<< (c.rd b).toNat else bitDiff e.a (1 <<< (c.rd b).toNat) } } }
      else s := by
  by_cases inside : (c.rd b).toNat < 262144
  · simp only [bitCupola, inside, if_true]
    rfl
  · simp only [bitCupola, inside, if_false, State.onCup]
    rw [modAt_unchanged rfl]

/-- Settles O52: the outcome of each instruction in each of its cases. That the saved form of a set is a free value is log entry 24, as is
the Cupola entry that a register names log entry 70. -/
theorem knalenTables : Obligations.KnalenTables := by
  unfold Obligations.KnalenTables
  intro s p i c d a b m run on
  obtain ⟨len, -⟩ := turretRuns_facts run.2.1
  refine ⟨⟨?_, ?_⟩, fun other ins named => ?_, fun engine => ⟨fun none => ⟨?_, fun long => ?_⟩, fun v bound => ⟨fun empty => ?_, fun ranks => ?_, fun long => ?_⟩,
    ?_, ?_, ?_, ?_, ?_, ?_⟩⟩
  · split
    · next inside => exact run.does rfl (K.tldN_eq_go on inside)
    · next beyond => exact run.excepts (by decide) rfl (K.tldN_beyond beyond)
  · split
    · next inside => exact run.does rfl (K.tldN_eq_go on inside)
    · next beyond => exact run.excepts (by decide) rfl (K.tldN_beyond beyond)
  · have fault := fun k => K.engineOnly_other other k
    simp only [List.mem_cons, List.not_mem_nil, or_false] at named
    obtain rfl | rfl | rfl | rfl | rfl | rfl | rfl | rfl | rfl | rfl | rfl := named
    · exact run.excepts_env (f := fun e => K.hprobe e d a b) (by decide) rfl (fault _)
    · exact run.excepts_env (f := fun e => K.tstep e d a b true) (by decide) rfl (fault _)
    · exact run.excepts_env (f := fun e => K.tstep e d a b false) (by decide) rfl (fault _)
    · exact run.excepts_env (f := fun e => K.astep e d a) (by decide) rfl (fault _)
    · exact run.excepts_env (f := fun e => K.aspec e d a) (by decide) rfl (fault _)
    · exact run.excepts_env (f := fun _ => K.asave d a) (by decide) rfl (fault _)
    · exact run.excepts_env (f := fun _ => K.ares a) (by decide) rfl (fault _)
    · exact run.excepts_env (f := fun _ i c => K.engineOnly i (K.next i c)) (g := fun _ c s => bitCupola true a b c s) (by decide) rfl (fault _)
    · exact run.excepts (f := K.bitLocal true a b) (by decide) rfl (fault _)
    · exact run.excepts_env (f := fun _ i c => K.engineOnly i (K.next i c)) (g := fun _ c s => bitCupola false a b c s) (by decide) rfl (fault _)
    · exact run.excepts (f := K.bitLocal false a b) (by decide) rfl (fault _)
  · exact run.excepts_env (by decide) rfl (K.hprobe_unbound engine none)
  · exact run.excepts_env (by decide) rfl (K.tstep_unbound engine none)
  · exact run.excepts_env (by decide) rfl (K.hprobe_no_ranks engine bound empty)
  · exact run.does_env rfl (K.hprobe_eq_go engine bound on ranks)
  · exact ⟨fun beyond => run.excepts_env (by decide) rfl (K.tstep_beyond engine bound beyond),
      fun inside => run.does_env rfl (K.tstep_eq_go engine bound on inside)⟩
  · obtain ⟨t, next, retired⟩ := kRunWith_does (f := fun e => K.astep e d a) (g := astepEvents p a) run
      ((K.engineOnly_engine engine _).trans (K.put_eq_go (by exact on) _)) (astepEvents_fwd (.refl s))
    have at_ := retired.turret (by rw [astepEvents_tur]; exact len)
    exact ⟨t, next, congrArg Turret.core at_, congrArg Turret.inv at_⟩
  · exact run.does_env (f := fun e => K.aspec e d a) rfl ((K.engineOnly_engine engine _).trans (K.put_eq_go (by exact on) _))
  · dsimp only
    split
    · next inside => exact run.does rfl (K.asave_eq_go engine on inside)
    · next out => exact run.excepts (by decide) rfl (K.asave_outside engine out)
  · dsimp only
    split
    · next inside => exact run.does rfl (K.ares_eq_go engine on inside)
    · next out => exact run.excepts (by decide) rfl (K.ares_outside engine out)
  · dsimp only
    split
    · next inside => exact ⟨run.does rfl (K.bitLocal_eq_go (set := true) engine on inside), run.does rfl (K.bitLocal_eq_go (set := false) engine on inside)⟩
    · next out => exact ⟨run.excepts (f := K.bitLocal true a b) (by decide) rfl (K.bitLocal_outside engine out),
        run.excepts (f := K.bitLocal false a b) (by decide) rfl (K.bitLocal_outside engine out)⟩
  · have bit : ∀ set, ∃ t, finish s (bitRow set s p a b true) = .next t ∧ Retired (bitCupola set a b c s) t p c.advance i := fun set =>
      kRunWith_does (f := fun _ i c => K.engineOnly i (K.next i c)) (g := fun _ c s => bitCupola set a b c s) run
        ((K.engineOnly_engine engine _).trans (K.next_eq_go on)) (bitCupola_fwd (.refl s))
    simp only [bitCupola_eq] at bit
    exact ⟨bit true, bit false⟩

end Sys2Proof.Machine
end

section
/-! Knalen branches, jumps, END, TRAP, BAR, STEAL and POST (07 R268, R273, R274, R292 to R295). -/

namespace Sys2Proof.Machine

/-- A target at or above index 0 is the index after the branch plus the offset. -/
theorem branchTarget_eq {pc : Nat} {off : BitVec 18} (h : pc < 4096) (k : 0 ≤ (pc : Int) + 1 + off.toInt) :
    (branchTarget pc off : Int) = pc + 1 + off.toInt := by
  have bound := BitVec.toInt_lt (x := off)
  have sum : (BitVec.ofNat 64 (pc + 1) + sext off).toInt = pc + 1 + off.toInt := by
    have low : (BitVec.ofNat 64 (pc + 1)).toInt = pc + 1 := by
      rw [BitVec.toInt_eq_toNat_of_lt] <;> rw [BitVec.toNat_ofNat, Nat.mod_eq_of_lt] <;> omega
    rw [BitVec.toInt_add, sext, BitVec.toInt_signExtend_of_le (by decide), low]
    exact Int.bmod_eq_of_le (by omega) (by omega)
  unfold branchTarget
  have value := BitVec.toInt_eq_toNat_cond (BitVec.ofNat 64 (pc + 1) + sext off)
  have := (BitVec.ofNat 64 (pc + 1) + sext off).isLt
  split at value <;> omega

section
variable {i : Invocation} {c : Core} {n : Nat}

theorem K.goto_eq_go (h : n < i.codeCount) : K.goto_ i c n = .go { c with pc := n } i := if_pos h

theorem K.goto_past (h : i.codeCount ≤ n) : K.goto_ i c n = .exc Exc.pcRange 0 := if_neg (Nat.not_lt.mpr h)

variable {a b : Nat} {off : BitVec 18} {takes : DWord → DWord → Bool}

theorem K.branch_taken (h : takes (c.rd a) (c.rd b) = true) : K.branch takes a b off i c = K.goto_ i c (branchTarget c.pc off) := if_pos h

theorem K.branch_not_taken (h : takes (c.rd a) (c.rd b) = false) : K.branch takes a b off i c = K.next i c :=
  if_neg (by rw [h]; exact Bool.false_ne_true)

end

/-- A branch, whatever its condition. -/
theorem State.Runs.branches {s : State} {ins : Instr} {p : Nat} {i : Invocation} {c : Core} {a b : Nat} {off : BitVec 18}
    (takes : DWord → DWord → Bool) (run : s.Runs p i c) (row : exec ins s = finish s (kRun s p fun _ => K.branch takes a b off)) :
    (takes (c.rd a) (c.rd b) = true → (branchTarget c.pc off < i.codeCount → s.Does ins p { c with pc := branchTarget c.pc off } i) ∧
      (i.codeCount ≤ branchTarget c.pc off → s.Excepts ins p i c 2 0)) ∧
    (takes (c.rd a) (c.rd b) = false → c.pc + 1 < i.codeCount → s.Does ins p c.advance i) :=
  ⟨fun taken => ⟨fun inside => run.does row ((K.branch_taken taken).trans (K.goto_eq_go inside)),
      fun past => run.excepts (by decide) row ((K.branch_taken taken).trans (K.goto_past past))⟩,
    fun passed on => run.does row ((K.branch_not_taken passed).trans (K.next_eq_go on))⟩

/-! ## The end of an invocation -/

/-- A turret with no suspended work only loses its invocation. -/
theorem endWork_unsuspended {s : State} {p : Nat} (i : Invocation) (len : p < s.tur.ts.length) (h : (s.turret p).suspended = []) :
    endWork s p i = s.onTurret p fun t => { t with inv := none, core := t.core.ended, taken := if 3 ≤ i.cls then none else t.taken } := by
  unfold endWork
  dsimp only
  rw [turret_onTurret _ _ _ len, h]
  exact if_neg nofun

/-- END of a turret with no suspended work. -/
theorem State.Runs.ends {s : State} {p : Nat} {i : Invocation} {c : Core} (run : s.Runs p i c) (h : (s.turret p).suspended = []) :
    kRun s p (fun _ => K.fin) = s.onTurret p fun u =>
      { u with inv := none, core := c.ended, instr := wrap32 (u.instr + 1), taken := if 3 ≤ i.cls then none else u.taken } := by
  have begun := beginWork_runs run
  obtain ⟨-, runs, inv, core, -, held, budget⟩ := run
  obtain ⟨len, -⟩ := turretRuns_facts runs
  have spends : ¬ (i.role ≠ roleEngine ∧ i.budget = 0) := fun ⟨a, b⟩ => budget.elim a (fun q => q b)
  have goesOn : ¬ (3 ≤ i.cls ∧ unitHeld s p = true) := fun ⟨a, b⟩ => by rw [held a] at b; cases b
  unfold kRun kRunWith
  simp only [runs, begun, inv, spends, goesOn, K.fin, Bool.not_true, Bool.false_eq_true, if_false]
  rw [endWork_unsuspended i (by rwa [onTurret_length]) (by rw [turret_onTurret _ _ _ len]; exact h)]
  simp only [State.onTurret, State.onTur, modAt_modAt]
  rw [modAt_congr (f := fun t : Turret => _) (g := fun u : Turret =>
    { u with inv := none, core := c.ended, instr := wrap32 (u.instr + 1), taken := if 3 ≤ i.cls then none else u.taken })]
  rw [← core]
  rfl

/-! ## Steal units (07 R292 to R295) -/

/-- From a to b units were posted: lanes grew at their ends, and no core changed. -/
structure Posted (a b : State) : Prop where
  core : ∀ p, (b.turret p).core = (a.turret p).core
  lane : ∀ p, ∃ more, (b.turret p).lane = (a.turret p).lane ++ more
  len : b.tur.ts.length = a.tur.ts.length

theorem Posted.refl (a : State) : Posted a a := ⟨fun _ => rfl, fun _ => ⟨[], (List.append_nil _).symm⟩, rfl⟩

theorem Posted.trans {a b c : State} (h : Posted a b) (k : Posted b c) : Posted a c := by
  refine ⟨fun p => (k.core p).trans (h.core p), fun p => ?_, k.len.trans h.len⟩
  obtain ⟨x, hx⟩ := h.lane p
  obtain ⟨y, hy⟩ := k.lane p
  exact ⟨x ++ y, by rw [hy, hx, List.append_assoc]⟩

theorem Posted.of_tur {a b : State} (h : b.tur = a.tur) : Posted a b := by
  have same : ∀ p, b.turret p = a.turret p := fun p => by rw [State.turret, h]; rfl
  exact ⟨fun p => by rw [same], fun p => ⟨[], by rw [same, List.append_nil]⟩, by rw [h]⟩

theorem onTurret_out {s : State} {p : Nat} (f : Turret → Turret) (h : ¬ p < s.tur.ts.length) : s.onTurret p f = s := by
  simp only [State.onTurret, State.onTur, modAt, List.modify_eq_self (Nat.not_lt.mp h)]

/-- A change of one turret that leaves its core and at most adds to its lane. -/
theorem Posted.onTurret (s : State) (q : Nat) {f : Turret → Turret} (core : ∀ t, (f t).core = t.core)
    (lane : ∀ t, ∃ more, (f t).lane = t.lane ++ more) : Posted s (s.onTurret q f) := by
  by_cases len : q < s.tur.ts.length
  · refine ⟨fun p => ?_, fun p => ?_, onTurret_length ..⟩
    · by_cases e : p = q
      · subst e
        rw [turret_onTurret _ _ _ len, core]
      · rw [turret_onTurret_ne _ _ _ _ e]
    · by_cases e : p = q
      · subst e
        rw [turret_onTurret _ _ _ len]
        exact lane _
      · rw [turret_onTurret_ne _ _ _ _ e]
        exact ⟨[], (List.append_nil _).symm⟩
  · rw [onTurret_out f len]
    exact .refl s

theorem Posted.foldl {α : Type} {g : State → α → State} (k : ∀ s x, Posted s (g s x)) (l : List α) (s : State) : Posted s (l.foldl g s) := by
  induction l generalizing s with
  | nil => exact .refl s
  | cons x r ih => exact (k s x).trans (ih (g s x))

theorem ungateCluster_posted (s : State) (k : Nat) : Posted s (ungateCluster s k) := by
  have at_ : ∀ p, ((ungateCluster s k).turret p).core = (s.turret p).core ∧ ((ungateCluster s k).turret p).lane = (s.turret p).lane := by
    intro p
    by_cases len : p < s.tur.ts.length
    · simp only [ungateCluster, State.turret, State.onTur, getN, List.getD_eq_getElem?_getD, List.getElem?_map, List.getElem?_range len,
        Option.map_some, Option.getD_some]
      split <;> exact ⟨rfl, rfl⟩
    · simp [ungateCluster, State.turret, State.onTur, getN, len]
  exact ⟨fun p => (at_ p).1, fun p => ⟨[], by rw [(at_ p).2, List.append_nil]⟩, by simp [ungateCluster, State.onTur]⟩

theorem postUnits_posted (s : State) (t : Nat) : Posted s (postUnits s t) := by
  unfold postUnits
  split
  · exact .refl s
  · rename_i j _
    extract_lets due u v
    have ungated : Posted s u := by
      dsimp only [u]
      split
      · exact .refl s
      · exact ungateCluster_posted ..
    clear_value u
    have appended : Posted u v := Posted.onTurret u _ (fun _ => rfl) fun _ => ⟨_, rfl⟩
    exact ungated.trans (appended.trans (.of_tur rfl))

theorem postFill_posted (s : State) (e : CupEntry) (kind : Nat) : Posted s (postFill s e kind) := by
  unfold postFill
  extract_lets now u v
  have ungated : Posted s u := by
    dsimp only [u]
    split
    · exact .refl s
    · exact ungateCluster_posted ..
  clear_value u
  have appended : Posted u v := Posted.onTurret u _ (fun _ => rfl) fun _ => ⟨_, rfl⟩
  exact ungated.trans (appended.trans (.of_tur rfl))

theorem repost_posted (s : State) (p : Nat) : Posted s (repost s p) :=
  (Posted.foldl (fun s (j : Job) => postUnits_posted s j.ticket) _ _).trans
    (.foldl (fun s (e : CupEntry) => postFill_posted s e (if e.eager then 3 else 2)) _ _)

theorem getN_of_length_le {α : Type} [Inhabited α] {l : List α} {n : Nat} (out : l.length ≤ n) : getN l n = default := by
  rw [getN, List.getD_eq_getElem?_getD, List.getElem?_eq_none out]
  rfl

theorem getN_eq_getElem {α : Type} [Inhabited α] {l : List α} {n : Nat} (inside : n < l.length) : getN l n = l[n] := by
  rw [getN, List.getD_eq_getElem?_getD, List.getElem?_eq_getElem inside]
  rfl

/-- The lane that a steal takes from is a turret's. -/
theorem pickSteal_lane {s : State} {p : Nat} {k : Take} (h : pickSteal s p = some k) : k.lane < s.tur.ts.length := by
  have unit : k.unit ∈ (s.turret k.lane).lane := by
    unfold pickSteal at h
    split at h
    · cases h
    · split at h
      · obtain ⟨u, found, rfl⟩ := Option.map_eq_some_iff.mp h
        exact List.mem_of_find?_eq_some found
      · split at h
        · obtain ⟨u, found, rfl⟩ := Option.map_eq_some_iff.mp h
          exact List.mem_reverse.mp (List.mem_of_find?_eq_some found)
        · cases h
  refine Nat.lt_of_not_le fun out => ?_
  have : s.turret k.lane = default := getN_of_length_le out
  rw [this] at unit
  cases unit

/-- A unit is taken: turret p holds it, it is gone from its lane, and the lane may be filled from behind. -/
theorem takeUnit_facts {s : State} {p : Nat} {k : Take} (hp : p < s.tur.ts.length) (hk : k.lane < s.tur.ts.length) :
    p < (takeUnit s p k).tur.ts.length ∧ ((takeUnit s p k).turret p).taken = some k.unit ∧
      ∃ more, ((takeUnit s p k).turret k.lane).lane = (s.turret k.lane).lane.erase k.unit ++ more := by
  have erased : (({ s with fresh := s.fresh + 1 } : State).onTurret k.lane fun t => { t with lane := t.lane.erase k.unit }).turret k.lane = _ :=
    turret_onTurret _ _ _ hk
  unfold takeUnit
  extract_lets s' u
  have reposted : Posted (s'.onTurret k.lane fun t => { t with lane := t.lane.erase k.unit }) u := repost_posted ..
  have len : p < u.tur.ts.length := by rw [reposted.len, onTurret_length]; exact hp
  obtain ⟨more, lane⟩ := reposted.lane k.lane
  rw [erased] at lane
  clear_value u
  have taken := turret_onTurret u p (fun t => { t with
    taken := some k.unit
    steals3 := if k.cls = 3 then satAdd t.steals3 1 65535 else t.steals3
    steals4 := if k.cls = 4 then satAdd t.steals4 1 65535 else t.steals4 }) len
  refine ⟨by rwa [onTurret_length], by rw [taken], more, ?_⟩
  by_cases e : k.lane = p
  · rw [e] at lane ⊢
    rw [taken]
    exact lane
  · rw [turret_onTurret_ne _ _ _ _ e]
    exact lane

theorem takeUnit_fwd {s0 s : State} {p : Nat} {k : Take} (h : Fwd s0 s) : Fwd s0 (takeUnit s p k) :=
  State.onTurret_same_fwd (repost_fwd (State.onTurret_same_fwd (h.of_eq rfl rfl rfl rfl rfl rfl) (fun _ => rfl) fun _ => rfl)) (fun _ => rfl) fun _ => rfl

/-- POST waits when the lane of a running turret is full and its program is an engine's. -/
theorem State.Runs.postWaits_iff {s : State} {p : Nat} {i : Invocation} {c : Core} (run : s.Runs p i c) :
    postWaits s p = true ↔ 64 ≤ (s.turret p).lane.length ∧ i.role = roleEngine := by
  obtain ⟨-, -, inv, -⟩ := id run
  simp only [postWaits, beginWork_runs run, inv, Option.any_some, Bool.and_eq_true, decide_eq_true_eq, beq_iff_eq]
  exact Iff.rfl

/-- Settles O54: the outcome of each instruction in each of its cases. The descriptor's address and bytes are the model's choice (log entry
25), as is the unit that STEAL picks (log entry 56). -/
theorem knalenControl : Obligations.KnalenControl := by
  unfold Obligations.KnalenControl
  refine ⟨fun pc off => branchTarget_eq, ?_⟩
  intro s p i c d a b off run
  obtain ⟨fenced, runs, -⟩ := id run
  obtain ⟨len, -⟩ := turretRuns_facts runs
  refine ⟨fun ins taken named => ?_, ?_, ?_, ?_, fun past => ⟨?_, ?_⟩, fun past => ?_, fun on => ?_, fun off => ?_, fun k => ?_, fun h => ?_,
    fun engine on => ⟨fun none => ?_, fun k picked => ?_, fun room => ?_⟩, fun other => ⟨?_, ?_⟩, fun engine full => ?_⟩
  · simp only [List.mem_cons, List.not_mem_nil, or_false, Prod.mk.injEq] at named
    obtain ⟨rfl, rfl⟩ | ⟨rfl, rfl⟩ | ⟨rfl, rfl⟩ := named
    · exact run.branches (fun x y => x == y) rfl
    · exact run.branches (fun x y => x != y) rfl
    · exact run.branches (fun x y => x.slt y) rfl
  · exact fun inside => run.does (f := K.j off) rfl (K.goto_eq_go inside)
  · exact fun inside => run.does (f := K.jal d off) rfl (K.goto_eq_go inside)
  · exact fun inside => run.does (f := K.jr a) rfl (K.goto_eq_go inside)
  · exact run.excepts (f := K.j off) (by decide) rfl (K.goto_past past)
  · exact run.excepts (f := K.jal d off) (by decide) rfl (K.goto_past past)
  · exact run.excepts (f := K.jr a) (by decide) rfl (K.goto_past past)
  · exact run.does (f := K.bar) rfl (K.next_eq_go on)
  · exact run.excepts (f := K.bar) (by decide) rfl (K.next_past (Nat.not_lt.mp off))
  · exact run.excepts (f := K.trap k) (by decide) rfl rfl
  · have row : exec (.fin p) s = finish s (kRun s p fun _ => K.fin) := rfl
    rw [row, run.ends h]
    obtain ⟨t, next, same, -⟩ := finish_keep s (s.onTurret p _) fenced rfl rfl
    exact ⟨t, next, same⟩
  · have row : exec (.steal p d) s = finish s (kRun s p fun _ i c => K.engineOnly i (K.put i c d K.ones)) := by
      show finish s (stealRow s p d) = _
      rw [stealRow, none]
    exact run.does row ((K.engineOnly_engine engine _).trans (K.put_eq_go on _))
  · have row : exec (.steal p d) s = finish s (kRunWith s p (fun _ i c => K.engineOnly i (K.put (i.withUnit s k)
        (c.store (descriptorAt s p) (descriptorBytes k.unit)) d (BitVec.ofNat 64 (descriptorAt s p)))) fun _ _ s => takeUnit s p k) := by
      show finish s (stealRow s p d) = _
      rw [stealRow, picked]
    obtain ⟨len', taken, more, lane⟩ := takeUnit_facts len (pickSteal_lane picked)
    obtain ⟨t, next, retired⟩ := kRunWith_does (f := fun _ i c => K.engineOnly i (K.put (i.withUnit s k)
      (c.store (descriptorAt s p) (descriptorBytes k.unit)) d (BitVec.ofNat 64 (descriptorAt s p)))) (g := fun _ _ s => takeUnit s p k) run ((K.engineOnly_engine engine _).trans (K.put_eq_go (by exact on) _)) (takeUnit_fwd (.refl s))
    have at_ := retired.turret len'
    refine ⟨t, row.trans next, (congrArg Turret.taken at_).trans taken, ⟨more, ?_⟩, congrArg Turret.core at_⟩
    by_cases e : k.lane = p
    · rw [e] at lane ⊢
      rw [at_]
      exact lane
    · rw [retired.turret_ne e]
      exact lane
  · have row : exec (.post p a) s = finish s (kRunWith s p (fun _ i c => K.engineOnly i (K.next i c)) fun _ c s =>
        s.onTurret p fun t => { t with lane := t.lane ++ [Config.descriptorUnit c.mem (c.rd a).toNat] }) := by
      have goesOn : ¬ (turretRuns s p && postWaits s p) = true := by
        rw [Bool.and_eq_true, run.postWaits_iff]
        omega
      show finish s (postRow s p a) = _
      rw [postRow, if_neg goesOn]
    rw [row]
    exact kRunWith_does run ((K.engineOnly_engine engine _).trans (K.next_eq_go on)) (State.onTurret_same_fwd (.refl s) (fun _ => rfl) fun _ => rfl)
  · cases picked : pickSteal s p with
    | none =>
      exact run.excepts_env (f := fun _ i c => K.engineOnly i (K.put i c d K.ones)) (g := fun _ _ s => s) (by decide)
        (by show finish s (stealRow s p d) = _; rw [stealRow, picked]; rfl) (K.engineOnly_other other _)
    | some k =>
      exact run.excepts_env (f := fun _ i c => K.engineOnly i (K.put (i.withUnit s k)
        (c.store (descriptorAt s p) (descriptorBytes k.unit)) d (BitVec.ofNat 64 (descriptorAt s p)))) (g := fun _ _ s => takeUnit s p k) (by decide)
        (by show finish s (stealRow s p d) = _; rw [stealRow, picked]) (K.engineOnly_other other _)
  · have goesOn : ¬ (turretRuns s p && postWaits s p) = true := by
      rw [Bool.and_eq_true, run.postWaits_iff]
      exact fun h => other h.2.2
    exact run.excepts_env (f := fun _ i c => K.engineOnly i (K.next i c)) (g := fun _ c s =>
        s.onTurret p fun t => { t with lane := t.lane ++ [Config.descriptorUnit c.mem (c.rd a).toNat] }) (by decide)
      (by show finish s (postRow s p a) = _; rw [postRow, if_neg goesOn]) (K.engineOnly_other other _)
  · have row : exec (.post p a) s = finish s s := by
      show finish s (postRow s p a) = _
      rw [postRow, if_pos (by rw [runs, run.postWaits_iff.mpr ⟨full, engine⟩]; rfl), beginWork_runs run]
    rw [row]
    exact finish_unchanged fenced

end Sys2Proof.Machine
end

section
/-! Registers of the units (10 R399, R405, 14 R528, R532, 00 R20, 15 R555) and the test wrapper (15 R564, R565, Table 15.13). -/

namespace Sys2Proof.Machine

/-- The end of a meaning keeps the Lantern, fenced or not. -/
theorem finish_lan {s u t : State} (h : finish s u = .next t) : t.lan = u.lan := by
  cases h
  exact (settle_fwd (.refl u)).lan

/-- A meaning whose result is the state E, while the block is not fenced. -/
theorem finish_to {s E : State} (h : E.lan.fenced = false) (p : E.pending = s.pending) (v : E.variant = s.variant) :
    ∃ t, finish s E = .next t ∧ t.sansFab = E.sansFab := by
  obtain ⟨t, next, same, -⟩ := finish_keep s E h p v
  exact ⟨t, next, same⟩

/-! ## The test wrapper -/

/-- Zeroising logs and clears the keys; what follows leaves the Lantern. -/
theorem zeroise_fwd (s : State) (src : Nat) :
    Fwd (lanLog (s.onLan fun l => { l with keys := List.replicate 64 none }) 0x0B01 src) (zeroise s src) := by
  unfold zeroise
  extract_lets keyed a b ids c d
  have dropped : Fwd a b := foldl_fwd (fun _ _ f => discardLines_fwd (discardLines_fwd f)) (.refl a)
  have ended : Fwd a d := foldl_fwd (fun _ _ f => endNoKey_fwd f) (State.onCtx_fwd dropped)
  clear_value d
  split
  · exact ended
  · exact foldl_fwd (fun _ _ f => boundary_fwd f) (raiseBy_fwd ended)

theorem testIns_refused {s : State} (h : testAllowed s = false) (i : WrapIns) (data : Nat) : testIns s i data = selectWrap s i 0 := by
  unfold testIns
  rw [h]
  rfl

/-- A test instruction that takes effect: it is selected, the next start is cold, and the first one clears the keys. -/
theorem testIns_allowed {s : State} (h : testAllowed s = true) (i : WrapIns) (data : Nat) :
    (testIns s i data).lan.wir = i ∧ (testIns s i data).lan.wrapCold = true ∧ (testIns s i data).lan.wdr = data ∧
      (s.lan.wrapLive = false → (testIns s i data).lan.keys = List.replicate 64 none) := by
  unfold testIns
  rw [h]
  refine ⟨rfl, rfl, rfl, fun first => ?_⟩
  have keys : (zeroise s 1).lan.keys = List.replicate 64 none := by rw [(zeroise_fwd s 1).lan]; rfl
  generalize zeroise s 1 = z at keys
  simp only [first, Bool.not_true, Bool.false_eq_true, if_false]
  exact keys

section
variable {s : State}

/-- A capture of a wrapper register. -/
theorem finish_selectWrap (fenced : s.lan.fenced = false) (i : WrapIns) (n : Nat) :
    ∃ t, finish s (selectWrap s i n) = .next t ∧ t.sansFab = { s with lan := { s.lan with wir := i, wdr := n } }.sansFab :=
  finish_to fenced rfl rfl

theorem exec_scan_refused (h : testAllowed s = false) : exec .n2Scan s = finish s (selectWrap s .scan 0) := by
  show finish s (if _ then _ else _) = _
  rw [testIns_refused h, ite_self]

theorem exec_scan_allowed (h : (getN s.lan.opt 1).toNat.testBit 2 = false) :
    exec .n2Scan s = finish s (testIns s .scan (Config.wrapperData 0x0A s.fresh)) := by
  show finish s (if _ then _ else _) = _
  rw [h]
  rfl

theorem testAllowed_iff : testAllowed s = true ↔ s.lan.blkLow = true ∨ s.lan.blk = .recovery := by
  simp [testAllowed]

/-- Settles O49. -/
theorem wrapperInstructions : Obligations.WrapperInstructions := by
  unfold Obligations.WrapperInstructions
  intro s fenced
  refine ⟨finish_selectWrap fenced .bypass 0, finish_selectWrap fenced .bypass 0, finish_selectWrap fenced .idcode _, fun o inRange => ?_,
    fun i w named => ⟨fun high running => ?_, fun allowed scans => ?_⟩⟩
  · have row : exec (.n2Lantern o) s = finish s (selectWrap s .lantern (o % 1024 + 1024 * (regRead s (4 * (o % 1024))).toNat)) := rfl
    rw [row, Nat.mod_eq_of_lt inRange]
    exact finish_selectWrap fenced .lantern _
  · have refused : testAllowed s = false := by
      rw [← Bool.not_eq_true, testAllowed_iff]
      simp [high, running]
    have row : exec i s = finish s (selectWrap s w 0) := by
      simp only [List.mem_cons, List.not_mem_nil, or_false, Prod.mk.injEq] at named
      obtain ⟨rfl, rfl⟩ | ⟨rfl, rfl⟩ | ⟨rfl, rfl⟩ | ⟨rfl, rfl⟩ | ⟨rfl, rfl⟩ := named
      · exact congrArg (finish s) (testIns_refused refused ..)
      · exact congrArg (finish s) (testIns_refused refused ..)
      · exact exec_scan_refused refused
      · exact congrArg (finish s) (testIns_refused refused ..)
      · exact congrArg (finish s) (testIns_refused refused ..)
    rw [row]
    exact finish_selectWrap fenced w 0
  · replace allowed := testAllowed_iff.mpr allowed
    have row : ∃ n, exec i s = finish s (testIns s w n) ∧ (i = .n2Repair → n = repairBits s.lan.repair) := by
      simp only [List.mem_cons, List.not_mem_nil, or_false, Prod.mk.injEq] at named
      obtain ⟨rfl, rfl⟩ | ⟨rfl, rfl⟩ | ⟨rfl, rfl⟩ | ⟨rfl, rfl⟩ | ⟨rfl, rfl⟩ := named
      · exact ⟨_, rfl, nofun⟩
      · exact ⟨_, rfl, nofun⟩
      · exact ⟨_, exec_scan_allowed scans, nofun⟩
      · exact ⟨_, rfl, nofun⟩
      · exact ⟨_, rfl, fun _ => rfl⟩
    obtain ⟨n, row, repair⟩ := row
    obtain ⟨wir, cold, wdr, keys⟩ := testIns_allowed allowed w n
    refine ⟨_, row, ?_⟩
    rw [finish_lan rfl]
    exact ⟨wir, cold, keys, fun e => wdr.trans (repair e)⟩

end

/-! ## Registers -/

theorem queryWords_tail {s : State} {n : Nat} {x : Stream} (h : s.stream? n = some x) : (queryWords s n).drop 1 =
    [BitVec.ofNat 32 x.next, BitVec.ofNat 32 x.epoch, BitVec.ofNat 32 (x.armedSeen.getD 0xFFFFFFFF), BitVec.ofNat 32 x.gen,
      BitVec.ofNat 32 (x.slot + 8 * x.aut.getD 0 + 512 * b2n x.aut.isSome + 1024 * x.stop.getD 0 + 262144 * b2n x.stop.isSome +
        524288 * x.queue + 33554432 * x.owner), BitVec.ofNat 32 x.home] := by
  simp only [queryWords, h]
  rfl

theorem writeEnum_starts {s : State} {v : Word} (go : v.bit 0 = true) (idle : s.ctx.enumBusy = false) :
    let xs := s.ctx.streams.filter fun x => x.st == .suspended && (v.bit 7 || x.owner == v.field 6 1)
    (writeEnum s v).sansFab = { s with ctx := { s.ctx with
      enumBusy := true, enumDone := false, enumErr := false, enumFull := decide (min xs.length (s.ctx.enumLen / 16) < xs.length)
      enumCount := min xs.length (s.ctx.enumLen / 16) } }.sansFab := by
  unfold writeEnum
  rw [if_neg (by simp [go, idle])]
  exact writeBytes_sansFab ..

theorem enumOver_done {s : State} (busy : s.ctx.enumBusy = true) (written : writesOut s .enumLine = false) :
    enumOver s = s.onCtx fun c => { c with enumBusy := false, enumDone := true } := if_neg (by simp [busy, written])

theorem ownPkr_onOwnPkr {s : State} {o : Nat} (f : OwnerPkr → OwnerPkr) (h : o < s.pkr.owners.length) :
    (s.onOwnPkr o f).ownPkr o = f (s.ownPkr o) := getN_modAt f h

theorem logDataWord_found {b : Bel} {e : Event} (h : b.log.find? (·.1 == b.sel) = some (b.sel, e)) (w : Nat) :
    logDataWord b w = getLE (eventBytes e) (4 * w) 4 := by
  simp only [logDataWord, h]

/-- An access while the block is not READY (13 R481). -/
theorem unready_refuses {s : State} (h : s.ready = false) {v : Word} {o : Nat} (k : 0x1000 ≤ o) {i : Instr}
    (named : i ∈ [Instr.ctxQuery v, .ctxEnumGo v, .pkrRecHeadWrite v, .registerWrite o v, .rcCounterRead o, .belLogDataRead o, .eqDataRead o]) :
    exec i s = finish s (refusedAccess s) := by
  have write : ∀ f, fabricWrite s f = refusedAccess s := fun f => if_neg (by rw [h]; exact Bool.false_ne_true)
  have data : ∀ q, eqDataRead s q = refusedAccess s := fun q => if_pos (by rw [h]; rfl)
  have log : ∀ w, logDataRead s w = refusedAccess s := fun w => if_pos (by rw [h]; rfl)
  refine (?_ : exec i s = _)
  simp only [List.mem_cons, List.not_mem_nil, or_false] at named
  obtain rfl | rfl | rfl | rfl | rfl | rfl | rfl := named
  · exact congrArg (finish s) (write _)
  · exact congrArg (finish s) (write _)
  · exact congrArg (finish s) (write _)
  · exact congrArg (finish s) ((if_neg (Nat.not_lt.mpr k)).trans (write _))
  · refine congrArg (finish s) ?_
    simp only [readRegister, Nat.not_lt.mpr k, data, log, h, Bool.not_false, if_true, if_false, ite_self]
  · exact congrArg (finish s) (log o)
  · exact congrArg (finish s) (data (o % 64))

/-- Settles O43. That FULL stays 0 at an exact fit of CTX_ENUM_LEN is the model's choice. -/
theorem unitRegisters : Obligations.UnitRegisters := by
  unfold Obligations.UnitRegisters
  intro s fenced
  refine ⟨fun ready => ⟨fun v x found => ?_, fun v go idle => ?_, fun busy written => ?_, fun v selected => ?_, fun w e inRange found => ?_, ?_, fun v => ?_⟩,
    fun unready v o k i named => ?_⟩
  · obtain ⟨t, next, same, -⟩ := finish_fabricWrite (s := s) (f := fun s => writeQuery s v) ⟨ready, fenced⟩ rfl rfl rfl rfl
    have latch : t.ctx.qLatch = queryWords s (v.field 13 0) := congrArg (fun u : State => u.ctx.qLatch) same
    exact ⟨t, next, by rw [latch, queryWords_tail found], congrArg (fun u : State => { u with ctx := s.ctx, csp := s.csp }) same,
      congrArg (fun u : State => u.csp.err) same⟩
  · obtain ⟨t, next, same, -⟩ := finish_fabricWrite (s := s) (f := fun s => writeEnum s v) ⟨ready, fenced⟩ (writeEnum_starts go idle) rfl rfl rfl
    exact ⟨t, next, congrArg (fun u : State => u.csp.err) same, congrArg State.ctx same⟩
  · have stepping : s.stepping = true := by simp [State.stepping, ready]
    have row : exec .ctxEnumDone s = finish s (s.onCtx fun c => { c with enumBusy := false, enumDone := true }) := by
      show finish s (if _ then _ else _) = _
      rw [if_pos stepping, enumOver_done busy written]
    rw [row]
    exact finish_to fenced rfl rfl
  · obtain ⟨t, next, same, -⟩ := finish_fabricWrite (s := s) (f := fun s => writeRecHead s v) ⟨ready, fenced⟩ rfl rfl rfl rfl
    have pkr := congrArg State.pkr same
    have head : t.ownPkr s.pkr.ownerSel = (writeRecHead s v).ownPkr s.pkr.ownerSel := congrArg (fun p : Pkr => getN p.owners s.pkr.ownerSel) pkr
    refine ⟨t, next, congrArg (fun u : State => u.csp.err) same, ?_, congrArg (fun u : State => { u with pkr := s.pkr, csp := s.csp }) same⟩
    rw [head, writeRecHead, ownPkr_onOwnPkr _ selected]
    split <;> rfl
  · have row : exec (.belLogDataRead w) s = finish s (served (s.onBel fun b => { b with
        log := b.log.map fun e => if e.1 == b.sel then (e.1, { e.2 with isRead := true }) else e }) (BitVec.ofNat 32 (logDataWord s.bel w))) :=
      congrArg (finish s) (if_neg (by rw [ready]; exact Bool.false_ne_true))
    obtain ⟨t, next, same⟩ := finish_to (s := s) (E := served (s.onBel fun b => { b with
        log := b.log.map fun e => if e.1 == b.sel then (e.1, { e.2 with isRead := true }) else e }) (BitVec.ofNat 32 (logDataWord s.bel w))) fenced rfl rfl
    have csp : t.csp = { data := BitVec.ofNat 32 (logDataWord s.bel w) } := congrArg State.csp same
    have log : t.bel.log = s.bel.log.map fun e => if e.1 == s.bel.sel then (e.1, { e.2 with isRead := true }) else e :=
      congrArg (fun u : State => u.bel.log) same
    refine ⟨t, row.trans next, by rw [csp, logDataWord_found found], fun x mem selected => ?_, congrArg (fun u : State => { u with bel := s.bel, csp := s.csp }) same⟩
    rw [log] at mem
    obtain ⟨y, -, rfl⟩ := List.mem_map.mp mem
    by_cases here : y.1 = s.bel.sel
    · simp [here]
    · simp only [beq_iff_eq, here, if_false] at selected
  · have row : exec (.rcCounterRead 0x1C20) s = finish s (served (s.onRng fun r => { r with dispatched := 0 }) (BitVec.ofNat 32 s.rng.dispatched)) := by
      refine congrArg (finish s) ?_
      have reads : readRegister s 0x1C20 = served (clearRc s 0x1C20) (regRead s 0x1C20) := by simp [readRegister, ready]
      exact reads
    rw [row]
    exact finish_to fenced rfl rfl
  · have row : exec (.registerWrite 0x1C20 v) s = finish s (fabricWrite s fun s => s) :=
      congrArg (finish s) (regWrite_ring (by decide) (by decide) s v)
    rw [row]
    exact finish_fabricWrite_ignored ⟨ready, fenced⟩ rfl
  · rw [unready_refuses unready k named]
    exact finish_to fenced rfl rfl

end Sys2Proof.Machine
end

section
/-! Arbitration of a store (12 R433 to R435, Table 12.1) and the march test (12 R444 to R448). -/

namespace Sys2Proof.Machine

/-! ## A read granted before another request -/

section
variable {s : State} {m u : Nat} {a b : StoreReq}

theorem ranksBefore_class1 (p : Nat → Bool) (ha : a.cls = 1) (hb : 1 < b.cls) : ranksBefore p a b = true := by
  have other : b.cls ≠ 1 := by omega
  simp only [ranksBefore, ha, other, if_true, if_false]
  split <;> rfl

theorem topRequest_pair {p : Nat → Bool} (h : ranksBefore p a b = true) : topRequest p [b, a] = some a := by
  simp [topRequest, h]

/-- Of two requests to a free unit, the one that ranks first is granted, and the other stalls. -/
theorem storeCycle_pair (free : s.mem.busy.contains (m, u) = false) (march : marchHolds s m u = false) (noRetry : retriesAt s m u = [])
    (first : ∀ p, ranksBefore p a b = true) (work : a.cls ≤ 5) (alone : ∀ p, groupOf p a [b, a] = [a]) (ne : b ≠ a) :
    storeCycle s m u [b, a] = endCycle (grantAccess s m u a [a]) m u [a] [b] := by
  have kept := retries_kept noRetry [a].contains
  have top : ∀ p, topRequest p [b, a] = some a := fun p => topRequest_pair (first p)
  have kernel : ∃ w, topRequest (s.promotedAt m u) ([b, a].filter fun r => decide (r.cls ≤ 5)) = some w := by
    by_cases k : b.cls ≤ 5
    · exact ⟨a, by simp [k, work, top]⟩
    · exact ⟨a, by simp [k, work, topRequest]⟩
  obtain ⟨w, kernel⟩ := kernel
  have stalled : [b, a].filter (fun r => !([a] : List StoreReq).contains r) = [b] := by simp [ne]
  unfold storeCycle
  simp only [free, march, noRetry, List.nil_append, Bool.false_eq_true, if_false, kernel, top, alone, kept, stalled]

/-- A read of a line without errors answers with its words and changes nothing else. -/
theorem readLine_clean {r : StoreReq} (clean : ∀ i < 16, (s.rawWord m u r.line i).err = 0) :
    readLine s m u r = s.onMem fun x => { x with
      resp := [{ requester := r.requester, code := 0, data := (List.range 16).map fun i => (s.rawWord m u r.line i).value }] } := by
  have reads : ∀ l : List Nat, (∀ i ∈ l, i < 16) → l.foldl (fun s i => readWord s m u r.line i r.requester) s = s := by
    intro l
    induction l with
    | nil => exact fun _ => rfl
    | cons i l ih =>
      intro small
      have one : readWord s m u r.line i r.requester = s := by
        simp [readWord, clean i (small i (List.mem_cons_self ..))]
      rw [List.foldl_cons, one]
      exact ih fun j h => small j (List.mem_cons_of_mem _ h)
  have noErr : ((List.range 16).map fun i => s.rawWord m u r.line i).any (·.err == 2) = false := by
    rw [List.any_eq_false]
    intro w mem
    obtain ⟨i, h, rfl⟩ := List.mem_map.mp mem
    rw [clean i (List.mem_range.mp h)]
    decide
  unfold readLine
  dsimp only
  rw [reads _ fun i => List.mem_range.mp, noErr, List.map_map]
  rfl

theorem grantAccess_read (op : a.op = .read) (allowed : tagAllows m (s.lineTag m u a.line) a = true)
    (clean : ∀ i < 16, (s.rawWord m u a.line i).err = 0) : grantAccess s m u a [a] = s.onMem fun x => { x with
      resp := [{ requester := a.requester, code := 0, data := (List.range 16).map fun i => (s.rawWord m u a.line i).value }] } := by
  simp only [grantAccess, op, allowed, List.filter_cons, List.filter_nil, if_true, Bool.not_true, Bool.false_eq_true, if_false,
    List.foldl_nil, List.map_nil, List.append_nil, readLine_clean clean]
  rfl

end

theorem refusals_of_eq {s t : State} (h : t.mem.refused = s.mem.refused) (m u q : Nat) : t.refusals m u q = s.refusals m u q := by
  simp only [State.refusals, h]

/-- What a cycle that stalls one request leaves of the Memory unit. -/
theorem endCycle_one_stalled (s : State) (m u : Nat) (granted : List StoreReq) (b : StoreReq) :
    (endCycle s m u granted [b]).mem.words = s.mem.words ∧ (endCycle s m u granted [b]).mem.tags = s.mem.tags ∧
      (endCycle s m u granted [b]).mem.resp = s.mem.resp ∧ (endCycle s m u granted [b]).lan = s.lan ∧
      (endCycle s m u granted [b]).refusals m u b.requester = s.refusals m u b.requester + 1 := by
  refine ⟨rfl, rfl, rfl, rfl, ?_⟩
  have others : (s.mem.refused.filter fun e => !(e.1 == m && e.2.1 == u)).find? (fun e => e.1 == m && e.2.1 == u && e.2.2.1 == b.requester) = none := by
    rw [List.find?_eq_none]
    intro e mem here
    have out := (List.mem_filter.mp mem).2
    simp only [Bool.and_eq_true] at here
    simp [here.1.1, here.1.2] at out
  show ((((s.mem.refused.filter fun e => !(e.1 == m && e.2.1 == u)) ++ [(m, u, b.requester, s.refusals m u b.requester + 1)]).find?
    fun e => e.1 == m && e.2.1 == u && e.2.2.1 == b.requester).map fun e => e.2.2.2).getD 0 = _
  rw [List.find?_append, others]
  simp

/-- Settles O39: a class-1 read outranks the other request, whatever is promoted; a requester refused 256 times is promoted once. That a unit of a store which
the configuration lacks is a fault is the model's choice (log entry 72). -/
theorem storeArbitration : Obligations.StoreArbitration := by
  unfold Obligations.StoreArbitration
  intro s m u
  refine ⟨fun serving present free march noRetry a b ha hb op clean allowed => ?_, fun serving present q => ?_, fun absent => ⟨fun rs => ?_, fun q => ?_⟩⟩
  · have writing : s.writing = true := by simp [State.writing, serving.1]
    have run : exec (.storeAccessGrant m u [b, a]) s = finish s (storeCycle s m u [StoreReq.atRow m b, StoreReq.atRow m a]) := by
      show execStoreAccessGrant m u [b, a] s = _
      simp only [execStoreAccessGrant, present, writing, if_true, List.map_cons, List.map_nil]
    have ne : StoreReq.atRow m b ≠ StoreReq.atRow m a := fun e => by
      have same := congrArg StoreReq.cls e
      change b.cls = a.cls at same
      omega
    have cycle := storeCycle_pair (a := StoreReq.atRow m a) (b := StoreReq.atRow m b) free march noRetry (fun p => ranksBefore_class1 p ha hb)
      (by show a.cls ≤ 5; omega) (fun p => by simp [groupOf, StoreReq.atRow, op, opWords]) ne
    rw [run, cycle, grantAccess_read (a := StoreReq.atRow m a) op allowed clean]
    obtain ⟨words, tags, resp, lan, refusals⟩ := endCycle_one_stalled (s.onMem fun x => { x with
      resp := [{ requester := a.requester, code := 0, data := (List.range 16).map fun i => (s.rawWord m u (a.line % Variant.storeRows m) i).value }] })
      m u [StoreReq.atRow m a] (StoreReq.atRow m b)
    obtain ⟨t, next, same, -⟩ := finish_next s (endCycle (s.onMem fun x => { x with
      resp := [{ requester := a.requester, code := 0, data := (List.range 16).map fun i => (s.rawWord m u (a.line % Variant.storeRows m) i).value }] })
      m u [StoreReq.atRow m a] [StoreReq.atRow m b]) (by rw [lan]; exact serving.2)
    have mem := congrArg State.mem same
    exact ⟨t, next, (congrArg Mem.words mem).trans words, (congrArg Mem.tags mem).trans tags, (congrArg Mem.resp mem).trans resp,
      (refusals_of_eq (congrArg Mem.refused mem) ..).trans refusals⟩
  · have writing : s.writing = true := by simp [State.writing, serving.1]
    have run : exec (.arbStarvePromote m u q) s = finish s (promote s m u q) := by
      show execArbStarvePromote m u q s = _
      simp only [execArbStarvePromote, present, writing, if_true]
    have due : (256 ≤ s.refusals m u q ∧ (!s.promotedAt m u q) = true) ↔ 256 ≤ s.refusals m u q ∧ (m, u, q) ∉ s.mem.promoted := by
      simp [State.promotedAt]
    rw [run]
    by_cases h : 256 ≤ s.refusals m u q ∧ (m, u, q) ∉ s.mem.promoted
    · rw [promote, if_pos (due.mpr h), if_pos h]
      exact finish_to serving.2 rfl rfl
    · rw [promote, if_neg (mt due.mp h), if_neg h]
      exact finish_to serving.2 rfl rfl
  · show (if _ then _ else _) = _
    rw [absent]
    rfl
  · show (if _ then _ else _) = _
    rw [absent]
    rfl

/-! ## The march test -/

section
variable {s : State} {m u r : Nat}

theorem regionWords_mem {x : Nat × Nat} : x ∈ regionWords r ↔ (x.1 = 2 * r ∨ x.1 = 2 * r + 1) ∧ x.2 < 16 := by
  obtain ⟨row, w⟩ := x
  simp only [regionWords, List.mem_flatMap, List.mem_cons, List.not_mem_nil, or_false, List.mem_map, List.mem_range, Prod.mk.injEq]
  constructor
  · rintro ⟨k, rows, i, small, rfl, rfl⟩
    exact ⟨rows, small⟩
  · rintro ⟨rows, small⟩
    exact ⟨row, rows, w, small, rfl, rfl⟩

/-- The words of a region have a key each. -/
theorem wordKey_inj {x y : Nat × Nat} (hx : x ∈ regionWords r) (hy : y ∈ regionWords r) (h : wordKey m u x.1 x.2 = wordKey m u y.1 y.2) : x = y := by
  obtain ⟨-, hx⟩ := regionWords_mem.mp hx
  obtain ⟨-, hy⟩ := regionWords_mem.mp hy
  unfold wordKey lineKey at h
  exact Prod.ext (by omega) (by omega)

/-- Good words read for the march test leave the state. -/
theorem readRegion_clean (q : Nat) (clean : ∀ x ∈ regionWords r, (s.rawWord m u x.1 x.2).err = 0) :
    (regionWords r).foldl (fun s x => readWord s m u x.1 x.2 q) s = s := by
  generalize regionWords r = l at clean
  induction l with
  | nil => rfl
  | cons x l ih =>
    have one : readWord s m u x.1 x.2 q = s := by simp [readWord, clean x (List.mem_cons_self ..)]
    rw [List.foldl_cons, one]
    exact ih fun y h => clean y (List.mem_cons_of_mem _ h)

theorem startRegion_takes {n : Nat} (pos : s.mem.posValid = true) (again : s.mem.again = false)
    (next : (s.mem.pos + 1) % s.variant.marchRegions = n) (region : regionAt s.variant (List.range 9) n = some (m, u, r))
    (used : groupAllocated s m u (2 * r) = true) (clean : ∀ x ∈ regionWords r, (s.rawWord m u x.1 x.2).err = 0) :
    startRegion s = s.onMem fun x => { x with pos := n, posValid := true, again := false, region := some (m, u, r) } := by
  have begun : ∀ x ∈ regionWords r, ((s.onMem fun x => { x with pos := n, posValid := true, again := false }).rawWord m u x.1 x.2).err = 0 := clean
  have noErr : ((regionWords r).any fun x => ((s.onMem fun x => { x with pos := n, posValid := true, again := false }).rawWord m u x.1 x.2).err == 2) = false := by
    rw [List.any_eq_false]
    intro x mem
    rw [begun x mem]
    decide
  have used' : groupAllocated (s.onMem fun x => { x with pos := n, posValid := true, again := false }) m u (2 * r) = true := used
  unfold startRegion
  simp only [pos, again, next, Bool.not_true, Bool.false_eq_true, if_false]
  rw [State.onMem_variant, region]
  simp only [used', noErr, readRegion_clean _ begun, Bool.not_true, Bool.false_eq_true, if_false]
  rfl

/-- Words of distinct keys put back whole: each keeps its value and is good, and every other word stays. -/
theorem restoreWords (l : List (Nat × Nat)) (clear : s.mem.injArm = false) (canon : scanon {} s.mem.words = true)
    (inj : ∀ x ∈ l, ∀ y ∈ l, wordKey m u x.1 x.2 = wordKey m u y.1 y.2 → x = y) :
    ∃ ws fs, l.foldl (fun s x => putWhole s (wordKey m u x.1 x.2) (s.rawWord m u x.1 x.2).value) s =
        s.onMem (fun y => { y with words := ws, fixes := fs }) ∧
      (∀ x ∈ l, sget {} ws (wordKey m u x.1 x.2) = { value := (s.rawWord m u x.1 x.2).value, err := 0 }) ∧
      (∀ k, (∀ x ∈ l, k ≠ wordKey m u x.1 x.2) → sget {} ws k = sget {} s.mem.words k) := by
  induction l generalizing s with
  | nil => exact ⟨s.mem.words, s.mem.fixes, rfl, nofun, fun _ _ => rfl⟩
  | cons x l ih =>
    have put : putWhole s (wordKey m u x.1 x.2) (s.rawWord m u x.1 x.2).value = s.onMem fun y => { y with
        words := sput {} y.words (wordKey m u x.1 x.2) { value := (s.rawWord m u x.1 x.2).value, err := 0 }
        fixes := y.fixes.filter (· != wordKey m u x.1 x.2) } := by
      simp only [putWhole, State.onMem, clear, Bool.false_and, Bool.false_eq_true, if_false]
    rw [List.foldl_cons, put]
    have here := sget_sput_same canon (wordKey m u x.1 x.2) { value := (s.rawWord m u x.1 x.2).value, err := 0 }
    have there : ∀ k, k ≠ wordKey m u x.1 x.2 → _ := fun k ne =>
      sget_sput_ne canon ne { value := (s.rawWord m u x.1 x.2).value, err := 0 }
    obtain ⟨ws, fs, restored, inside, outside⟩ := ih (s := s.onMem fun y => { y with
        words := sput {} y.words (wordKey m u x.1 x.2) { value := (s.rawWord m u x.1 x.2).value, err := 0 }
        fixes := y.fixes.filter (· != wordKey m u x.1 x.2) }) clear (scanon_sput canon _ _)
      fun y hy z hz => inj y (List.mem_cons_of_mem _ hy) z (List.mem_cons_of_mem _ hz)
    refine ⟨ws, fs, restored.trans rfl, fun y hy => ?_, fun k away => ?_⟩
    · by_cases later : y ∈ l
      · refine (inside y later).trans ?_
        by_cases same : y = x
        · subst same
          have value := congrArg (fun w : RawWord => ({ value := w.value, err := 0 } : RawWord)) here
          exact value
        · have ne : wordKey m u y.1 y.2 ≠ wordKey m u x.1 x.2 := fun e => same (inj y hy x (List.mem_cons_self ..) e)
          exact congrArg (fun w : RawWord => ({ value := w.value, err := 0 } : RawWord)) (there _ ne)
      · obtain rfl | mem := List.mem_cons.mp hy
        · refine (outside _ fun z hz e => later ?_).trans here
          rwa [inj y (List.mem_cons_self ..) z (List.mem_cons_of_mem _ hz) e]
        · exact absurd mem later
    · exact (outside k fun y hy => away y (List.mem_cons_of_mem _ hy)).trans (there k (away x (List.mem_cons_self ..)))

theorem restoreRegion_facts (clear : s.mem.injArm = false) (canon : scanon {} s.mem.words = true) :
    ∃ ws fs, restoreRegion s m u r = s.onMem (fun y => { y with words := ws, fixes := fs }) ∧
      (∀ x ∈ regionWords r, sget {} ws (wordKey m u x.1 x.2) = { value := (s.rawWord m u x.1 x.2).value, err := 0 }) ∧
      (∀ k, (∀ x ∈ regionWords r, k ≠ wordKey m u x.1 x.2) → sget {} ws k = sget {} s.mem.words k) :=
  restoreWords (regionWords r) clear canon fun _ hx _ hy => wordKey_inj hx hy

end

theorem b2n_beq (a b : Nat) : b2n (a == b) = if a = b then 1 else 0 := by
  simp [b2n]

/-- The state once a region is over, with the words and the pending write-backs that its restoring left. -/
def State.afterRegion (s : State) (ws : List (Nat × RawWord)) (fs : List Nat) : State :=
  { s with mem := { s.mem with
    words := ws, fixes := fs, region := none, again := false, tries := 0, skips := wrap32 (s.mem.skips + 0)
    sweeps := wrap32 (s.mem.sweeps + if s.mem.pos + 1 = s.variant.marchRegions then 1 else 0) } }

theorem regionOver_restored (s : State) (ws : List (Nat × RawWord)) (fs : List Nat) :
    regionOver (s.onMem fun y => { y with words := ws, fixes := fs }) false = s.afterRegion ws fs := by
  unfold regionOver State.afterRegion
  rw [← b2n_beq]
  rfl

section
variable {s : State} {m u r : Nat} (h : s.mem.region = some (m, u, r)) (row : Nat)
include h

theorem doneRegion_passes : doneRegion s false row = regionOver (restoreRegion s m u r) false := by
  simp [doneRegion, h]

theorem doneRegion_fails : doneRegion s true row = raiseBy ((regionOver (restoreRegion s m u r) false).onMem fun x =>
    { x with fails := wrap32 (x.fails + 1), marchLast := m + 16 * u + 16384 * (2 * r + row % 2) }) .test 0x0502 0 0
      (m + 16 * u + 16384 * (2 * r + row % 2)) := by
  simp [doneRegion, h]

end

/-- Settles O40: a region that starts reads good words only; one that is done is restored word by word. -/
theorem marchTest : Obligations.MarchTest := by
  unfold Obligations.MarchTest
  intro s serving
  refine ⟨fun m u r on none pos again region used clean => ?_, fun fails row m u r region clear canon => ?_⟩
  · have run : exec .marchRegionStart s = finish s (startRegion s) := by
      show finish s (if _ then _ else _) = _
      simp only [serving.1, on, none, Option.isNone_none, Bool.and_self, if_true]
    rw [run, startRegion_takes pos again rfl region used clean]
    obtain ⟨t, next, same⟩ := finish_to (s := s) (E := s.onMem fun x => { x with
      pos := (s.mem.pos + 1) % s.variant.marchRegions, posValid := true, again := false, region := some (m, u, r) }) serving.2 rfl rfl
    refine ⟨t, next, same.trans ?_⟩
    rw [← pos, ← again]
    rfl
  · have writing : s.writing = true := by simp [State.writing, serving.1]
    have run : exec (.marchRegionDone fails row) s = finish s (doneRegion s fails row) := by
      show finish s (if _ then _ else _) = _
      rw [if_pos writing]
    obtain ⟨ws, fs, restored, inside, outside⟩ := restoreRegion_facts (m := m) (u := u) (r := r) clear canon
    rw [run]
    cases fails
    · obtain ⟨t, next, same⟩ := finish_to (s := s) (E := s.afterRegion ws fs) serving.2 rfl rfl
      have mem := congrArg State.mem same
      have tw : t.mem.words = ws := congrArg Mem.words mem
      have tf : t.mem.fixes = fs := congrArg Mem.fixes mem
      refine ⟨t, by rw [doneRegion_passes region, restored, regionOver_restored, next], fun x hx => ?_, fun k away => by rw [tw, outside k away],
        fun _ => ?_, nofun⟩
      · rw [State.rawWord, tw, inside x hx]
      · rw [same]
        show _ = (s.afterRegion t.mem.words t.mem.fixes).sansFab
        rw [tw, tf]
    · obtain ⟨t, next, same, raised⟩ := finish_raiseBy (s := s) (u := .test) (code := 0x0502) (stream := 0) (step := 0)
        (detail := m + 16 * u + 16384 * (2 * r + row % 2)) (B := (s.afterRegion ws fs).onMem fun x =>
          { x with fails := wrap32 (x.fails + 1), marchLast := m + 16 * u + 16384 * (2 * r + row % 2) }) serving.2 rfl rfl rfl rfl
      have mem := congrArg State.mem same
      have tw : t.mem.words = ws := congrArg Mem.words mem
      have tf : t.mem.fixes = fs := congrArg Mem.fixes mem
      refine ⟨t, by rw [doneRegion_fails region, restored, regionOver_restored, next], fun x hx => ?_, fun k away => by rw [tw, outside k away],
        nofun, fun _ => ⟨?_, raised⟩⟩
      · rw [State.rawWord, tw, inside x hx]
      · rw [same]
        show _ = ((s.afterRegion t.mem.words t.mem.fixes).onMem fun x =>
          { x with fails := wrap32 (x.fails + 1), marchLast := m + 16 * u + 16384 * (2 * r + row % 2) }).sansBel
        rw [tw, tf]

end Sys2Proof.Machine
end

section
/-! Logit beats, peer messages, and the token that a selector chooses (08 R299 to R303, R309, R318 to R328, R341, R342, 15 R543, R547, R548). -/

namespace Sys2Proof.Machine

/-! ## Named elements of a list -/

/-- A change of the elements that a predicate names, which they keep, changes the element that it finds. -/
theorem find?_modWhere {α : Type} {p : α → Bool} {f : α → α} (keeps : ∀ x, p x = true → p (f x) = true) (l : List α) :
    (modWhere l p f).find? p = (l.find? p).map f := by
  unfold modWhere
  induction l with
  | nil => rfl
  | cons x l ih =>
    by_cases h : p x = true
    · simp [h, keeps x h]
    · simp only [List.map_cons, h, List.find?_cons, Bool.false_eq_true, if_false]
      exact ih

/-- It leaves what another predicate finds, when no element meets both. -/
theorem find?_modWhere_other {α : Type} {p q : α → Bool} {f : α → α} (apart : ∀ x, p x = true → q x = false ∧ q (f x) = false) (l : List α) :
    (modWhere l p f).find? q = l.find? q := by
  unfold modWhere
  induction l with
  | nil => rfl
  | cons x l ih =>
    by_cases h : p x = true
    · simp only [List.map_cons, h, if_true, List.find?_cons, (apart x h).1, (apart x h).2]
      exact ih
    · simp only [List.map_cons, h, Bool.false_eq_true, if_false, List.find?_cons]
      rw [ih]

section
variable {s : State} {n id step node : Nat} {x : Stream} {u : SelUnit}

theorem stream_id (h : s.stream? n = some x) : x.id = n := by
  simpa using List.find?_some h

theorem unit_names (h : s.unit? id step node = some u) : u.stream = id ∧ u.step = step ∧ u.node = node := by
  simpa [and_assoc] using List.find?_some h

theorem stream_onStream (f : Stream → Stream) (keeps : ∀ y, (f y).id = y.id) (h : s.stream? n = some x) : (s.onStream n f).stream? n = some (f x) := by
  show (modWhere s.ctx.streams (·.id == n) f).find? (·.id == n) = _
  rw [find?_modWhere (fun y hy => by rw [keeps]; exact hy)]
  exact congrArg (Option.map f) h

theorem unit_onUnit (f : SelUnit → SelUnit) (keeps : ∀ v, (f v).stream = v.stream ∧ (f v).step = v.step ∧ (f v).node = v.node)
    (h : s.unit? id step node = some u) : (s.onUnit id step node f).unit? id step node = some (f u) := by
  show (modWhere s.fin.units (fun v => v.stream == id && v.step == step && v.node == node) f).find? _ = _
  rw [find?_modWhere (fun v hv => by obtain ⟨a, b, c⟩ := keeps v; rw [a, b, c]; exact hv)]
  exact congrArg (Option.map f) h

theorem port_onPort (f : Selector → Selector) {p : Nat} (h : p < s.sel.ports.length) : (s.onPort p f).port p = f (s.port p) := getN_modAt f h

theorem onPort_onPort (s : State) (p : Nat) (f g : Selector → Selector) : (s.onPort p f).onPort p g = s.onPort p fun q => g (f q) := by
  simp only [State.onPort, State.onSel, modAt_modAt]

end

/-! ## Header beats -/

section
variable {s : State} {p : Nat} (hs : s.carrying = true) (hp : p < s.variant.ports) (free : 272 + p ∉ s.lan.domReset)
include hs hp free

theorem atPort_enabled (f : State → State) (on : (s.port p).enable = true) : atPort s p f = f s := by
  simp [atPort, hs, Nat.not_le.mpr hp, free, on]

theorem atPort_disabled (f : State → State) (off : (s.port p).enable = false) :
    atPort s p f = s.onPort p fun q => { q with dropped := wrap32 (q.dropped + 1) } := by
  simp [atPort, hs, Nat.not_le.mpr hp, free, off]

end

section
variable {s : State} {p : Nat} {b : List Byte} (closed : (s.port p).cur = none)
include closed

theorem shortFault_closed : shortFault s p = s := by
  simp only [shortFault, closed]

theorem headerBeat_bad (bad : getLE b 16 4 ≠ crc32c (b.take 16)) : headerBeat s p b = portFault (dropShard s p 0) p 0 none := by
  unfold headerBeat
  dsimp only
  rw [shortFault_closed closed, if_pos bad]

theorem headerBeat_good (good : getLE b 16 4 = crc32c (b.take 16)) (ver : (parseHeader b).hver = 1 ∨ (parseHeader b).hver = 2)
    (fields : headerFieldBad b = false) : headerBeat s p b = placeHeader s p (parseHeader b) := by
  unfold headerBeat
  dsimp only
  rw [shortFault_closed closed, if_neg (not_not_intro good), if_neg (by omega), if_neg (by rw [fields]; exact Bool.false_ne_true)]

end

section
variable {s : State} {p : Nat} {h : Header} {x : Stream} {u : SelUnit}

/-- A header whose unit is open opens no unit first. -/
theorem openNext_open (found : s.stream? h.stream = some x) (unit : s.unit? h.stream h.step h.node = some u) :
    (if opensEarly s x h then openNext s x else s) = s := by
  split
  · next early =>
    have named : h.node = 0x7F ∧ h.step = x.early := by
      simp only [opensEarly, Bool.and_eq_true, beq_iff_eq] at early
      exact early.1.1.1
    rw [named.1, named.2, ← stream_id found] at unit
    simp [openNext, unit]
  · rfl

theorem placeHeader_accepts (found : s.stream? h.stream = some x) (inside : h.base + h.count ≤ (s.vocOf x).v)
    (unit : s.unit? h.stream h.step h.node = some u) (isOpen : u.st = .open) (masked : u.noMask = false) (room : u.sources.length < 1024) :
    placeHeader s p h = acceptShard s p h x u := by
  unfold placeHeader
  simp only [found, Nat.not_lt.mpr inside, if_false, openNext_open found unit]
  simp [unit, isOpen, masked, Nat.not_le.mpr room]

/-- A shard of a unit that needs no values captured. -/
theorem acceptShard_plain (unit : s.unit? h.stream h.step h.node = some u) (early : u.late = false) {m : MaskDesc} (mask : u.mask = some m)
    (light : needsValues s x = false) (some : 0 < h.count) : acceptShard s p h x u = (s.onPort p fun q => { q with
      cur := .some (h.stream, h.step, h.node), left := h.count, fmt := h.fmt, drop := false
      shards := wrap32 (q.shards + 1), late := wrap32 q.late }).onUnit h.stream h.step h.node fun v => { v with
        sources := v.sources ++ [{ src := p, port := p, base := h.base, count := h.count, mirror := h.mirror, crc := 0xFFFFFFFF, whole := false
                                   lanes := List.replicate 64 {} }] } := by
  obtain ⟨stream, step, node⟩ := unit_names unit
  have whole : (h.count == 0) = false := by simpa using Nat.ne_of_gt some
  unfold acceptShard
  generalize List.replicate 64 ({} : SubLane) = lanes
  simp [early, mask, light, b2n, Nat.ne_of_gt some, whole, stream, step, node]

end

/-- Settles O27. -/
theorem headerBeats : Obligations.HeaderBeats := by
  unfold Obligations.HeaderBeats
  intro s p b hs hp inPorts free
  obtain ⟨stepping, fenced⟩ := carrying_iff.mp hs
  have row : exec (.logitHeaderBeat p b) s = finish s (atPort s p fun s => headerBeat s p b) := rfl
  refine ⟨fun off => ?_, fun on closed => ⟨fun bad => ?_, fun good ver fields => ⟨fun absent => ?_, fun x u m found inside unit isOpen masked early room mask light some => ?_⟩⟩⟩
  · rw [row, atPort_disabled hs hp free _ off]
    exact finish_to fenced rfl rfl
  · rw [row, atPort_enabled hs hp free _ on, headerBeat_bad closed bad]
    have two : (dropShard s p 0).onPort p (fun q => { q with fault := q.fault ||| 1 }) = s.onPort p fun q =>
      { q with cur := none, left := 0, drop := true, fault := q.fault ||| 1 } := onPort_onPort ..
    obtain ⟨t, next, same, raised⟩ := finish_raiseBy (s := s) (u := .selector p) (code := 0x0201) (stream := 0) (step := 0) (detail := p)
      (B := (dropShard s p 0).onPort p (fun q => { q with fault := q.fault ||| 1 })) fenced rfl rfl rfl rfl
    exact ⟨t, next, same.trans (by rw [two]; rfl), raised⟩
  · rw [row, atPort_enabled hs hp free _ on, headerBeat_good closed good ver fields]
    have stray : placeHeader s p (parseHeader b) = strayShard s p (parseHeader b) := by
      simp only [placeHeader, absent]
    rw [stray]
    have two : (dropShard s p (parseHeader b).count).onPort p (fun q => { q with stray := wrap32 (q.stray + 1), drop := (parseHeader b).count != 0 }) =
      s.onPort p fun q => { q with cur := none, left := (parseHeader b).count, drop := (parseHeader b).count != 0, stray := wrap32 (q.stray + 1) } :=
      onPort_onPort ..
    obtain ⟨t, next, same, raised⟩ := finish_raiseBy (s := s) (u := .selector p) (code := 0x0103) (stream := (parseHeader b).stream)
      (step := (parseHeader b).step) (detail := p + 256 * (parseHeader b).node)
      (B := (dropShard s p (parseHeader b).count).onPort p (fun q => { q with stray := wrap32 (q.stray + 1), drop := (parseHeader b).count != 0 }))
      fenced rfl rfl rfl rfl
    exact ⟨t, next, same.trans (by rw [two]; rfl), raised⟩
  · rw [row, atPort_enabled hs hp free _ on, headerBeat_good closed good ver fields,
      placeHeader_accepts found inside unit isOpen masked room, acceptShard_plain unit early mask light some]
    exact finish_to fenced rfl rfl

/-! ## Data beats -/

/-- A unit with a source that is not whole, and needs no mirror, stays open. -/
theorem tryClose_waits {s : State} {id step node : Nat} {u : SelUnit} (unit : s.unit? id step node = some u)
    (waits : (u.sources.all fun r => r.mirror == 2 || r.whole) = false) : tryClose s id step node = s := by
  unfold tryClose
  rw [unit]
  split
  · next x v _ e =>
    cases e
    rw [if_neg]
    simp [canClose, waits]
  · rfl

section
variable {s : State} {p v : Nat} {b : List Byte}

theorem dataBeat_outside (some : 0 < v) (kept : (s.port p).drop = false) (closed : (s.port p).cur = none) :
    dataBeat s p v b = portFault s p 6 none := by
  simp [dataBeat, Nat.ne_of_gt some, kept, closed]

/-- A beat within a shard that it does not end. -/
theorem dataBeat_inside {c : Nat × Nat × Nat} (some : 0 < v) (kept : (s.port p).drop = false) (opened : (s.port p).cur = .some c)
    (less : v < (s.port p).left) (fits : v ≤ if (s.port p).fmt = 0 then 32 else 64) :
    dataBeat s p v b = takeValues (s.onPort p fun q => { q with
      left := q.left - v, cur := if q.left = v then none else q.cur
      values := q.values + v, padding := q.padding + ((if (s.port p).fmt = 0 then 32 else 64) - v) }) p c
      ((List.range v).map (laneValue (s.port p).fmt b)) := by
  unfold dataBeat
  simp only [Nat.ne_of_gt some, kept, opened, Nat.min_eq_left fits, Nat.min_eq_left (Nat.le_of_lt less), Nat.not_lt.mpr fits,
    Nat.not_lt.mpr (Nat.le_of_lt less), decide_false, Bool.or_self, Bool.false_eq_true, if_false]

end

/-- The source of port p takes the values of a beat. -/
def takenBy (s : State) (p : Nat) (x : Stream) (u : SelUnit) (vs : List Word) (r : Source) : Source :=
  if r.port == p && !r.peer && !r.whole then r.take x (u.mask.map (descMask s (s.vocOf x))) (raceArgs x (yieldStep s u)) vs else r

theorem takeValues_open {s : State} {p id step node : Nat} {x : Stream} {u : SelUnit} {vs : List Word} (found : s.stream? id = some x)
    (unit : s.unit? id step node = some u) (isOpen : u.st = .open)
    (waits : ((u.sources.map (takenBy s p x u vs)).all fun r => r.mirror == 2 || r.whole) = false) :
    ∃ nans, takeValues s p (id, step, node) vs = (s.onPort p fun q => { q with nans := wrap32 (q.nans + nans) }).onUnit id step node fun v =>
      { v with sources := u.sources.map (takenBy s p x u vs) } := by
  refine ⟨((u.sources.map (takenBy s p x u vs)).map (·.nans)).sum - (u.sources.map (·.nans)).sum, ?_⟩
  unfold takeValues
  simp only [found, unit, isOpen]
  have fed : ((s.onPort p fun q => { q with nans := wrap32 (q.nans +
      (((u.sources.map (takenBy s p x u vs)).map (·.nans)).sum - (u.sources.map (·.nans)).sum)) }).onUnit id step node fun v =>
        { v with sources := u.sources.map (takenBy s p x u vs) }).unit? id step node = some { u with sources := u.sources.map (takenBy s p x u vs) } :=
    unit_onUnit _ (fun _ => ⟨rfl, rfl, rfl⟩) unit
  exact tryClose_waits fed waits

/-- A source that a beat does not fill is not whole. -/
theorem takenBy_waits {s : State} {p : Nat} {x : Stream} {u : SelUnit} {vs : List Word} {r : Source} (port : r.port = p) (peer : r.peer = false)
    (whole : r.whole = false) (mirror : r.mirror ≠ 2) (less : r.got + vs.length < r.count) :
    ((takenBy s p x u vs r).mirror == 2 || (takenBy s p x u vs r).whole) = false := by
  simp [takenBy, Source.take, port, peer, whole, mirror, Nat.ne_of_lt less]

/-- Settles O28. -/
theorem dataBeats : Obligations.DataBeats := by
  unfold Obligations.DataBeats
  intro s p v b hs hp inPorts free on
  obtain ⟨stepping, fenced⟩ := carrying_iff.mp hs
  have row : exec (.logitDataBeat p v b) s = finish s (dataBeat s p v b) := congrArg (finish s) (atPort_enabled hs hp free _ on)
  rw [row]
  refine ⟨fun none => ?_, fun some kept closed => ?_, fun id step node x u some kept opened less fits found unit isOpen ⟨r, mem, port, peer, whole, mirror, short⟩ => ?_⟩
  · rw [dataBeat, if_pos none]
    exact finish_to fenced rfl rfl
  · rw [dataBeat_outside some kept closed]
    exact finish_raiseBy (B := s.onPort p fun q => { q with fault := q.fault ||| 64 }) fenced rfl rfl rfl rfl
  · rw [dataBeat_inside some kept opened less fits]
    generalize hv : (List.range v).map (laneValue (s.port p).fmt b) = vs
    have length : vs.length = v := by simp [← hv]
    have waits : ((u.sources.map (takenBy s p x u vs)).all fun r => r.mirror == 2 || r.whole) = false := by
      rw [List.all_eq_false]
      exact ⟨_, List.mem_map_of_mem mem, by rw [takenBy_waits port peer whole mirror (by rw [length]; exact short)]; exact Bool.false_ne_true⟩
    obtain ⟨nans, taken⟩ := takeValues_open (s := s.onPort p fun q => { q with
      left := q.left - v, cur := if q.left = v then none else q.cur
      values := q.values + v, padding := q.padding + ((if (s.port p).fmt = 0 then 32 else 64) - v) }) found unit isOpen waits
    rw [taken, onPort_onPort]
    have port' := port_onPort (s := s) (p := p) (fun q => { q with
      left := q.left - v, cur := if q.left = v then none else q.cur
      values := q.values + v, padding := q.padding + ((if (s.port p).fmt = 0 then 32 else 64) - v), nans := wrap32 (q.nans + nans) }) inPorts
    have unit' := unit_onUnit (s := s) (fun w => { w with sources := u.sources.map (takenBy s p x u vs) }) (fun _ => ⟨rfl, rfl, rfl⟩) unit
    obtain ⟨t, next, same⟩ := finish_to (s := s) (E := (s.onPort p fun q => { q with
      left := q.left - v, cur := if q.left = v then none else q.cur
      values := q.values + v, padding := q.padding + ((if (s.port p).fmt = 0 then 32 else 64) - v), nans := wrap32 (q.nans + nans) }).onUnit id step node
        fun w => { w with sources := u.sources.map (takenBy s p x u vs) }) fenced rfl rfl
    have sel := congrArg State.sel same
    have fin := congrArg State.fin same
    have tport := (congrArg (fun l : Sel => getN l.ports p) sel).trans port'
    have tunit := (congrArg (fun f : Machine.Fin => f.units.find? fun u : SelUnit => u.stream == id && u.step == step && u.node == node) fin).trans unit'
    refine ⟨t, _, next, congrArg (fun t : State => { t with sel := s.sel, fin := s.fin }) same, congrArg Selector.left tport,
      congrArg Selector.values tport, congrArg Selector.padding tport, tunit, isOpen, List.map_congr_left fun r _ => ?_⟩
    simp [takenBy, and_assoc]

end Sys2Proof.Machine
end

section
/-! Peer messages and the token record (01 R36, 08 R318 to R328, R341, R342, 15 R547, R548). -/

namespace Sys2Proof.Machine

/-! ## What a stream and a unit are found by -/

section
variable {s t : State}

theorem stream?_of_ctx (h : t.ctx = s.ctx) (n : Nat) : t.stream? n = s.stream? n := congrArg (fun c : Ctx => c.streams.find? fun y : Stream => y.id == n) h

theorem unit?_of_fin (h : t.fin = s.fin) (id step node : Nat) : t.unit? id step node = s.unit? id step node :=
  congrArg (fun f : Machine.Fin => f.units.find? fun u : SelUnit => u.stream == id && u.step == step && u.node == node) h

end

/-! ## A held result -/

section
variable {s : State} {x : Stream} {u : SelUnit} {r : Result}

theorem tokenFlags_eos (eos : Bool) : tokenFlags false false eos false = if eos then 4 else 0 := by
  cases eos <;> rfl

/-- Nothing but turrets changes when an invocation is suspended. -/
theorem suspendWork_tur (s : State) (home : Nat) : { suspendWork s home with tur := s.tur } = s := rfl

theorem dropUnits_fin (s : State) (id step : Nat) : (dropUnits s id step).fin = { s.fin with
    units := s.fin.units.filter fun u => !(u.stream == id && u.step == step)
    maskGiven := s.fin.maskGiven.filter (· != (id, step)) } := rfl

theorem emitToken_open (on : s.lan.fenced = false) (stream step token flags : Nat) : emitToken s stream step token flags =
    s.onFin fun f => { f with egress := f.egress ++ [{ stream := stream, step := step, token := token, flags := flags }] } := by
  simp [emitToken, on]

/-- The Finial after a chosen token: its entry at the egress port, the units of the step gone. -/
theorem emitResult_fin (on : s.lan.fenced = false) : (emitResult s x u r).fin = { s.fin with
    egress := s.fin.egress ++ [{ stream := x.id, step := r.step, token := r.token, flags := if (s.vocOf x).isEos r.token then 4 else 0 }]
    units := s.fin.units.filter fun v => !(v.stream == x.id && v.step == u.step)
    maskGiven := s.fin.maskGiven.filter (· != (x.id, u.step)) } := by
  unfold emitResult
  simp only [emitToken_open on, tokenFlags_eos]
  rfl

/-- Only the stream changes in its part of the state when its units go and its invocation is suspended. -/
theorem heldAside_ctx (s : State) (id n home : Nat) (f : Stream → Stream) :
    (suspendWork ((dropUnits s id n).onStream id f) home).ctx = (s.onStream id f).ctx := rfl

theorem emitResult_ctx (on : s.lan.fenced = false) :
    (emitResult s x u r).ctx = (s.onStream x.id fun y => { y with held := [r] }).ctx := by
  unfold emitResult
  simp only [emitToken_open on]
  exact (heldAside_ctx ..).trans rfl

theorem emitResult_rest (on : s.lan.fenced = false) : (emitResult s x u r).rng = s.rng ∧ (emitResult s x u r).eqs = s.eqs ∧
    (emitResult s x u r).pkr = s.pkr ∧ (emitResult s x u r).lan = s.lan ∧ (emitResult s x u r).pending = s.pending ∧
    (emitResult s x u r).variant = s.variant := by
  simp [emitResult, emitToken_open on, suspendWork, ungate, dropUnits, unpin]

theorem emitResult_holds (on : s.lan.fenced = false) {n : Nat} (found : s.stream? n = some x) :
    (emitResult s x u r).stream? n = some { x with held := [r] } :=
  (stream?_of_ctx (emitResult_ctx on) n).trans (stream_id found ▸ stream_onStream (fun y => { y with held := [r] }) (fun _ => rfl) (stream_id found ▸ found))

end

/-! ## Peer messages -/

section
variable {s : State} {i : Nat} {m : List Byte} (hs : s.carrying = true) (peer : s.hasPeer = true) (inside : i < s.variant.peers)
include hs peer inside

theorem exec_peerPartialList : exec (.peerPartialList i 1 m) s = finish s (if listOk m = false then peerFault s i else takeList s i m) := by
  show finish s _ = _
  cases listOk m <;> simp [hs, peer, Nat.not_le.mpr inside]

theorem exec_tokenNotice : exec (.tokenNotice i m) s = finish s (if m.length ≠ 64 then peerFault s i else takeNotice s m) := by
  show finish s _ = _
  simp [hs, peer, Nat.not_le.mpr inside]

end

/-- A list for an open unit whose mask is not there yet is a further source. -/
theorem takeList_open {s : State} {i : Nat} {m : List Byte} {u : SelUnit}
    (unit : s.unit? (getLE m 0 2 % 16384) (getLE m 4 4) (getN m 2).toNat = some u) (isOpen : u.st = .open) (masked : u.noMask = false)
    (room : u.sources.length < 1024) (mask : u.mask = none) :
    takeList s i m = s.onUnit (getLE m 0 2 % 16384) (getLE m 4 4) (getN m 2).toNat fun v => { v with sources := v.sources ++ [peerSource i m] } := by
  have unit' := unit_onUnit (fun v => { v with sources := v.sources ++ [peerSource i m] }) (fun _ => ⟨rfl, rfl, rfl⟩) unit
  simp only [takeList, unit, isOpen, masked, Nat.not_le.mpr room, bne_self_eq_false, Bool.false_eq_true, if_false]
  unfold tryClose
  rw [unit']
  split
  · next x v _ e =>
    cases e
    rw [if_neg]
    simp [canClose, mask]
  · rfl

/-- Settles O31, for a unit whose mask is not there yet. The model takes a list, and reports a stray, whatever role its header names (log entry
60), and the notice's step keeps its own list (log entry 75). -/
theorem peerMessages : Obligations.PeerMessages := by
  unfold Obligations.PeerMessages
  intro s i m hs peer inside
  obtain ⟨stepping, fenced⟩ := carrying_iff.mp hs
  refine ⟨fun bad => ?_, fun long => ?_, fun good => ⟨fun absent => ?_, fun u unit isOpen masked room mask => ?_⟩,
    fun x u length found unit closed awaits next held => ?_⟩
  · rw [exec_peerPartialList hs peer inside, if_pos bad]
    exact finish_raiseBy fenced rfl rfl rfl rfl
  · rw [exec_tokenNotice hs peer inside, if_pos long]
    exact finish_raiseBy fenced rfl rfl rfl rfl
  · rw [exec_peerPartialList hs peer inside, if_neg (by rw [good]; decide), takeList]
    simp only [absent]
    exact finish_raiseBy fenced rfl rfl rfl rfl
  · rw [exec_peerPartialList hs peer inside, if_neg (by rw [good]; decide), takeList_open unit isOpen masked room mask]
    exact finish_to fenced rfl rfl
  · rw [exec_tokenNotice hs peer inside, if_neg (not_not_intro length)]
    have taken : takeNotice s m = emitResult s x u { resultOfBytes m with list := u.list.take 64 } := by
      simp [takeNotice, found, unit, closed, awaits, next, held]
    obtain ⟨-, -, -, lan, pending, variant⟩ := emitResult_rest (s := s) (x := x) (u := u) (r := { resultOfBytes m with list := u.list.take 64 }) fenced
    have holds := emitResult_holds (u := u) (r := { resultOfBytes m with list := u.list.take 64 }) fenced found
    have egress := congrArg Machine.Fin.egress (emitResult_fin (s := s) (x := x) (u := u) (r := { resultOfBytes m with list := u.list.take 64 }) fenced)
    rw [taken]
    generalize emitResult s x u { resultOfBytes m with list := u.list.take 64 } = E at lan pending variant holds egress
    obtain ⟨t, next, same⟩ := finish_to (s := s) (E := E) (by rw [← lan] at fenced; exact fenced) pending variant
    have ctx := congrArg State.ctx same
    have fin := congrArg State.fin same
    exact ⟨t, _, next, (stream?_of_ctx ctx _).trans holds, rfl, (congrArg Machine.Fin.egress fin).trans egress⟩

/-! ## The token record -/

/-- Settles O30. -/
theorem tokenRecord : Obligations.TokenRecord := by
  unfold Obligations.TokenRecord
  intro s n x u hs found unit closed awaits tree held svc tok
  obtain ⟨stepping, fenced⟩ := carrying_iff.mp hs
  obtain ⟨r, row, token, step⟩ : ∃ r : Result, exec (.finialTokenRecord n) s = finish s (sendNotices (emitResult s x u r) u r) ∧ r.token = tok ∧
      r.step = x.next := by
    refine ⟨{ chooseToken x.params x.id x.next 0x7F u.closedVals (unitFlags x u true) with
      maskRef := finialRef s x (chooseToken x.params x.id x.next 0x7F u.closedVals (unitFlags x u true)) }, ?_, rfl, rfl⟩
    show finish s _ = _
    simp only [found, unit]
    rw [if_neg (by simp [stepping, closed, awaits, tree, held, svc])]
  clear_value tok
  obtain rfl := stream_id found
  obtain ⟨rng, eqs, pkr, lan, pending, variant⟩ := emitResult_rest (s := s) (x := x) (u := u) (r := r) fenced
  have fin := emitResult_fin (s := s) (x := x) (u := u) (r := r) fenced
  have holds := emitResult_holds (u := u) (r := r) fenced found
  have names := (unit_names unit).2.1
  rw [row]
  generalize emitResult s x u r = E at rng eqs pkr lan pending variant fin holds
  obtain ⟨t, next, same⟩ := finish_to (s := s) (E := sendNotices E u r) (by rw [← lan] at fenced; exact fenced) pending variant
  have ctx := congrArg State.ctx same
  have tfin := congrArg State.fin same
  refine ⟨t, _, r, next, (stream?_of_ctx ctx _).trans holds, rfl, token, step, rfl, (unit?_of_fin tfin ..).trans ?_, ?_, ?_,
    (congrArg State.rng same).trans rng, (congrArg State.eqs same).trans eqs,
    (congrArg State.pkr same).trans pkr⟩
  · have gone : E.fin.units = _ := congrArg Machine.Fin.units fin
    show E.fin.units.find? _ = none
    rw [gone, List.find?_eq_none]
    intro v mem
    have other := (List.mem_filter.mp mem).2
    rw [names] at other
    simp only [Bool.not_eq_true', Bool.and_eq_false_iff] at other
    rcases other with other | other <;> simp [other]
  · exact (congrArg Machine.Fin.egress tfin).trans ((congrArg Machine.Fin.egress fin).trans (by rw [token, step]))
  · have out : E.fin.peerOut = _ := congrArg Machine.Fin.peerOut fin
    exact (congrArg Machine.Fin.peerOut tfin).trans (congrArg (· ++ u.peersMerged.map fun p => (p, 2, resultBytes r 0)) out)

end Sys2Proof.Machine
end

section
/-! Fills and space of the Cupola, the step ports, and the timers of streams and rings (06 R245, R246, 15 R544, R545, 10 R385, 12 R457, 14 R519). -/

namespace Sys2Proof.Machine

/-! ## A fill that is over -/

/-- Members of a list whose views differ are the same when their views are. -/
theorem eq_of_nodup_map {α β : Type} {f : α → β} {l : List α} (nodup : (l.map f).Nodup) {x y : α} (hx : x ∈ l) (hy : y ∈ l) (e : f x = f y) : x = y := by
  induction l with
  | nil => cases hx
  | cons z l ih =>
    obtain ⟨apart, rest⟩ := List.nodup_cons.mp nodup
    rcases List.mem_cons.mp hx with rfl | inX <;> rcases List.mem_cons.mp hy with rfl | inY
    · rfl
    · exact absurd (e ▸ List.mem_map_of_mem inY) apart
    · exact absurd (e ▸ List.mem_map_of_mem inX) apart
    · exact ih rest inX inY

/-- What posting the units of fills and jobs can change: turrets, jobs, and the units that a filling entry has left to post. -/
structure Refilled (a b : State) : Prop where
  rest : { b with cup := a.cup, tur := a.tur, job := a.job } = a
  entry : ∀ k, (a.cupEntry? k = none ∧ b.cupEntry? k = none) ∨
    ∃ e l, a.cupEntry? k = some e ∧ b.cupEntry? k = some { e with left := l } ∧ (e.filling = false → l = e.left)

theorem Refilled.of_cup {a b : State} (rest : { b with cup := a.cup, tur := a.tur, job := a.job } = a) (cup : b.cup = a.cup) : Refilled a b := by
  refine ⟨rest, fun k => ?_⟩
  have same : b.cupEntry? k = a.cupEntry? k := congrArg (fun c : Cup => c.entries.find? fun e : CupEntry => e.key == some k) cup
  cases h : a.cupEntry? k with
  | none => exact .inl ⟨rfl, same.trans h⟩
  | some e => exact .inr ⟨e, e.left, rfl, same.trans h, fun _ => rfl⟩

theorem Refilled.refl (a : State) : Refilled a a := .of_cup rfl rfl

theorem Refilled.trans {a b c : State} (h : Refilled a b) (k : Refilled b c) : Refilled a c := by
  refine ⟨?_, fun key => ?_⟩
  · have one : ({ c with cup := a.cup, tur := a.tur, job := a.job } : State) = { b with cup := a.cup, tur := a.tur, job := a.job } :=
      congrArg (fun t : State => { t with cup := a.cup, tur := a.tur, job := a.job }) k.rest
    exact one.trans h.rest
  · rcases h.entry key with ⟨none, gone⟩ | ⟨e, l, there, then_, kept⟩
    · rcases k.entry key with ⟨-, gone'⟩ | ⟨e, l, there, -⟩
      · exact .inl ⟨none, gone'⟩
      · rw [gone] at there
        cases there
    · rcases k.entry key with ⟨gone, -⟩ | ⟨e', l', there', then', kept'⟩
      · rw [then_] at gone
        cases gone
      · rw [then_] at there'
        cases there'
        exact .inr ⟨e, l', there, then', fun still => (kept' still).trans (kept still)⟩

theorem Refilled.foldl {α : Type} {g : State → α → State} (k : ∀ s x, Refilled s (g s x)) (l : List α) (s : State) : Refilled s (l.foldl g s) := by
  induction l generalizing s with
  | nil => exact .refl s
  | cons x r ih => exact (k s x).trans (ih (g s x))

theorem ungateCluster_refilled (s : State) (k : Nat) : Refilled s (ungateCluster s k) := .of_cup rfl rfl

theorem onTurret_refilled (s : State) (p : Nat) (f : Turret → Turret) : Refilled s (s.onTurret p f) := .of_cup rfl rfl

theorem postUnits_refilled (s : State) (t : Nat) : Refilled s (postUnits s t) := by
  unfold postUnits
  split
  · exact .refl s
  · next j _ =>
    extract_lets due u v
    have ungated : Refilled s u := by
      dsimp only [u]
      split
      · exact .refl s
      · exact ungateCluster_refilled ..
    clear_value u
    have appended : Refilled u v := onTurret_refilled ..
    clear_value v
    exact ungated.trans (appended.trans (.of_cup rfl rfl))

/-- Only filling entries have units left to post. -/
theorem leftDropped_refilled (s : State) (fill : Nat) (left : List Nat) : Refilled s (s.onCup fun c => { c with
    entries := c.entries.map fun x => if x.fill == fill && x.filling then { x with left := left } else x }) := by
  refine ⟨rfl, fun k => ?_⟩
  have found : (s.onCup fun c => { c with entries := c.entries.map fun x =>
      if x.fill == fill && x.filling then { x with left := left } else x }).cupEntry? k =
      (s.cupEntry? k).map fun x => if x.fill == fill && x.filling then { x with left := left } else x := by
    show (s.cup.entries.map _).find? _ = _
    rw [List.find?_map]
    congr 2
    funext x
    dsimp only [Function.comp]
    split <;> rfl
  rw [found]
  cases s.cupEntry? k with
  | none => exact .inl ⟨rfl, rfl⟩
  | some e =>
    by_cases c : (e.fill == fill && e.filling) = true
    · refine .inr ⟨e, left, rfl, by simp only [Option.map_some, c, if_true], fun ended => ?_⟩
      rw [ended, Bool.and_false] at c
      cases c
    · exact .inr ⟨e, e.left, rfl, by simp only [Option.map_some, c, Bool.false_eq_true, if_false], fun _ => rfl⟩

theorem postFill_refilled (s : State) (e : CupEntry) (kind : Nat) : Refilled s (postFill s e kind) := by
  unfold postFill
  extract_lets now u v
  have ungated : Refilled s u := by
    dsimp only [u]
    split
    · exact .refl s
    · exact ungateCluster_refilled ..
  clear_value u
  have appended : Refilled u v := onTurret_refilled ..
  clear_value v
  exact ungated.trans (appended.trans (leftDropped_refilled ..))

theorem repost_refilled (s : State) (p : Nat) : Refilled s (repost s p) :=
  (Refilled.foldl (fun s (j : Job) => postUnits_refilled s j.ticket) _ _).trans
    (.foldl (fun s (e : CupEntry) => postFill_refilled s e (if e.eager then 3 else 2)) _ _)

theorem takeOff_refilled (s : State) (p : UnitRef → Bool) : Refilled s (takeOff s p) := .of_cup rfl rfl

/-- The entry of a key with its fill over. -/
def State.filled (s : State) (k : CupKey) : State :=
  s.onCup fun c => { c with entries := c.entries.map fun x => if x.key == some k then { x with filling := false, left := [] } else x }

theorem cupEntry_filled (s : State) (k key : CupKey) : (s.filled k).cupEntry? key =
    (s.cupEntry? key).map fun x => if x.key == some k then { x with filling := false, left := [] } else x := by
  show (s.cup.entries.map _).find? _ = _
  rw [List.find?_map]
  congr 2
  funext x
  dsimp only [Function.comp]
  split <;> rfl

theorem cupEntry_key {s : State} {k : CupKey} {e : CupEntry} (h : s.cupEntry? k = some e) : e.key = some k := by
  simpa using List.find?_some h

/-- A fill for which no eager load waits. -/
theorem fillDone_refilled {s : State} {k : CupKey} {e : CupEntry} (found : s.cupEntry? k = some e) (lazy : e.fillFor = none) :
    Refilled (s.filled k) (fillDone s k) := by
  unfold fillDone
  simp only [found, lazy, Option.bind_none]
  split
  · exact (takeOff_refilled ..).trans (repost_refilled ..)
  · exact .refl _

/-! ## Space of the Cupola -/

/-- A stream whose keys are all there, and whose masks need no entry of their own, waits no longer. -/
theorem takeSpace_narrow {s : State} {x : Stream} (tree : s.tree? x.id = none)
    (there : ∀ k ∈ serviceKeys s x, ∃ e, s.cupEntry? k = some e ∧ e.filling = false) (narrow : (rootBuild s x).wide = false) :
    takeSpace s x = s.onStream x.id fun y => { y with waitCup := false } := by
  have missing : (serviceKeys s x).filter (fun k => (s.cupEntry? k).isNone) = [] := by
    refine List.filter_eq_nil_iff.mpr fun k mem => ?_
    obtain ⟨e, found, -⟩ := there k mem
    simp [found]
  have filled : ((serviceKeys s x).all fun k => ((s.cupEntry? k).map fun e => !e.filling).getD false) = true := by
    refine List.all_eq_true.mpr fun k mem => ?_
    obtain ⟨e, found, ended⟩ := there k mem
    simp [found, ended]
  have alone : ∀ b : Built, b.wide = false → privateEntries s x (positionsOf b (nodeBuilds s x b.mask)) = .ok s := by
    intro b narrow
    simp [nodeBuilds, tree, positionsOf, privateEntries, narrow]
  simp only [takeSpace, missing, filled, alone _ narrow, List.isEmpty_nil, Bool.not_true, Bool.false_eq_true, if_false, if_true]

/-- Settles O26. -/
theorem cupolaAndStepPorts : Obligations.CupolaAndStepPorts := by
  unfold Obligations.CupolaAndStepPorts
  refine ⟨fun s hs => ⟨fun n q syms exact e found lazy => ?_, fun n x found waits svc tree there narrow => ?_⟩, fun s hs => ?_⟩
  · generalize hk : ({ aut := n, q := q, syms := syms, exact := exact } : CupKey) = k at found ⊢
    have done := fillDone_refilled found lazy
    have row : exec (.cupolaFillDone n q syms exact) s = finish s (fillDone s k) := by
      show finish s _ = _
      rw [hk, if_pos (by simp [State.stepping, hs.1])]
    rw [row]
    generalize fillDone s k = E at done
    have lan := congrArg State.lan done.rest
    have pending := congrArg State.pending done.rest
    have variant := congrArg State.variant done.rest
    obtain ⟨t, next, same⟩ := finish_to (s := s) (E := E) ((congrArg Lan.fenced lan).trans hs.2) pending variant
    have cup := congrArg State.cup same
    have entries : ∀ key, t.cupEntry? key = E.cupEntry? key := fun key =>
      congrArg (fun c : Cup => c.entries.find? fun e : CupEntry => e.key == some key) cup
    refine ⟨t, next, ?_, fun key other => ?_, ?_⟩
    · rw [entries]
      have now := cupEntry_filled s k k
      rw [found, Option.map_some, if_pos (by rw [cupEntry_key found]; exact beq_self_eq_true _)] at now
      rcases done.entry k with ⟨gone, -⟩ | ⟨e', l, there, then_, kept⟩
      · rw [now] at gone
        cases gone
      · rw [now] at there
        cases there
        rw [then_, kept rfl]
    · rw [entries]
      have now := cupEntry_filled s k key
      rcases done.entry key with ⟨gone, gone'⟩ | ⟨e', l, there, then_, -⟩
      · rw [gone']
        rw [gone] at now
        rw [Option.map_eq_none_iff.mp now.symm]
      · rw [there] at now
        cases h : s.cupEntry? key with
        | none => rw [h] at now; cases now
        | some e₀ =>
          rw [h, Option.map_some, if_neg (by rw [cupEntry_key h]; simpa using other)] at now
          cases now
          rw [then_]
          rfl
    · have one : ({ t with cup := s.cup, tur := s.tur, job := s.job } : State).sansFab = ({ E with cup := s.cup, tur := s.tur, job := s.job } : State).sansFab :=
        congrArg (fun u : State => ({ u with cup := s.cup, tur := s.tur, job := s.job } : State)) same
      have two : ({ E with cup := s.cup, tur := s.tur, job := s.job } : State) = s :=
        congrArg (fun u : State => ({ u with cup := s.cup } : State)) done.rest
      rw [one, two]
  · have row : exec (.cupolaSpaceFree n) s = finish s (takeSpace s x) := by
      show finish s _ = _
      simp [found, hs.1, waits, svc]
    rw [row, takeSpace_narrow tree there narrow, stream_id found]
    exact finish_to hs.2 rfl rfl
  · obtain ⟨stepping, fenced⟩ := carrying_iff.mp hs
    refine ⟨fun p rest queue => ?_, fun n step given => ?_, fun n step absent => ?_⟩
    · have row : exec .maskRdyDeliver s = finish s (s.onFin fun f => { f with maskQueue := rest, maskGiven := f.maskGiven ++ [p] }) := by
        show finish s _ = _
        simp [hs, queue]
      rw [row]
      exact finish_to fenced rfl rfl
    · have row : exec (.stepIssued n step) s = finish s (s.onFin fun f => { f with
          maskGiven := f.maskGiven.filter (· != (n, step))
          units := f.units.map fun (u : SelUnit) => if u.stream = n ∧ u.step = step ∧ u.st = UnitSt.open then { u with deadline := true } else u }) := by
        show finish s _ = _
        simp [hs, given, and_assoc]
      rw [row]
      exact finish_to fenced rfl rfl
    · have row : exec (.stepIssued n step) s = finish s s := by
        show finish s _ = _
        simp [absent]
      rw [row]
      exact finish_to fenced rfl rfl

/-! ## The timers of streams and rings -/

/-- A partly written ring: its entries are as they were, but for those of the lines already under way. -/
structure LinesLeft (s : State) (o : Nat) (replay : Bool) (ls : List Nat) (t : State) : Prop where
  left : ∀ e ∈ ((t.ownPkr o).ring replay).staged, e.issued = true ∨ e.seq / perLine replay ∈ ls
  same : ((t.ownPkr o).ring replay).staged.map (fun e => (e.seq, e.bytes)) = ((s.ownPkr o).ring replay).staged.map fun e => (e.seq, e.bytes)
  rest : { t with pkr := s.pkr, cry := s.cry }.sansFab = s.sansFab
  inside : o < t.pkr.owners.length
  key : t.key? o ≠ none

theorem ring_onOwnRing {s : State} {o : Nat} (inside : o < s.pkr.owners.length) (replay : Bool) (f : OwnRing → OwnRing) :
    ((s.onOwnRing o replay f).ownPkr o).ring replay = f ((s.ownPkr o).ring replay) := by
  rw [State.onOwnRing, ownPkr_onOwnPkr _ inside]
  cases replay <;> rfl

/-- An entry of the line under way. -/
def Staged.issuedIn (replay : Bool) (line : Nat) (e : Staged) : Staged := if e.seq / perLine replay == line then { e with issued := true } else e

theorem Staged.issuedIn_same (replay : Bool) (line : Nat) (e : Staged) : (e.issuedIn replay line).seq = e.seq ∧ (e.issuedIn replay line).bytes = e.bytes := by
  unfold issuedIn
  split <;> exact ⟨rfl, rfl⟩

/-- A line of an owner with a key: its entries are under way, and only the crypto counters and the write itself change besides. -/
theorem writeRingLine_keyed {s : State} {o : Nat} (key : s.key? o ≠ none) (inside : o < s.pkr.owners.length) (replay : Bool) (line : Nat) :
    ((writeRingLine s o replay line 0).ownPkr o |>.ring replay).staged = ((s.ownPkr o).ring replay).staged.map (Staged.issuedIn replay line) ∧
    { writeRingLine s o replay line 0 with pkr := s.pkr, cry := s.cry }.sansFab = s.sansFab ∧
    (writeRingLine s o replay line 0).pkr.owners.length = s.pkr.owners.length ∧ (writeRingLine s o replay line 0).key? o = s.key? o := by
  obtain ⟨k, hk⟩ := Option.ne_none_iff_exists'.mp key
  obtain ⟨t, ht⟩ : ∃ t, t = writeRingLine s o replay line 0 := ⟨_, rfl⟩
  rw [← ht]
  unfold writeRingLine at ht
  extract_lets r es stop bs hit u at ht
  split at ht
  · next empty =>
    subst ht
    refine ⟨?_, rfl, rfl, rfl⟩
    symm
    refine (List.map_congr_left fun e mem => ?_).trans (List.map_id _)
    rw [Staged.issuedIn, if_neg]
    · rfl
    · exact List.filter_eq_nil_iff.mp (List.isEmpty_iff.mp empty) e mem
  · rw [hk] at ht
    subst ht
    refine ⟨?_, rfl, ?_, rfl⟩
    · exact congrArg OwnRing.staged (ring_onOwnRing inside replay fun r => { r with staged := r.staged.map hit })
    · exact List.length_modify ..

theorem writeRingLine_left {s t : State} {o l : Nat} {replay : Bool} {ls : List Nat} (h : LinesLeft s o replay (l :: ls) t) :
    LinesLeft s o replay ls (writeRingLine t o replay l 0) := by
  obtain ⟨staged, rest, length, key⟩ := writeRingLine_keyed h.key h.inside replay l
  generalize writeRingLine t o replay l 0 = u at staged rest length key
  refine ⟨fun e mem => ?_, ?_, ?_, by rw [length]; exact h.inside, by rw [key]; exact h.key⟩
  · rw [staged] at mem
    obtain ⟨e₀, mem₀, rfl⟩ := List.mem_map.mp mem
    rw [(e₀.issuedIn_same replay l).1]
    rcases h.left e₀ mem₀ with issued | line
    · left
      unfold Staged.issuedIn
      split
      · rfl
      · exact issued
    · rcases List.mem_cons.mp line with this | later
      · left
        rw [Staged.issuedIn, if_pos (beq_iff_eq.mpr this)]
      · exact .inr later
  · rw [staged, List.map_map, ← h.same]
    refine List.map_congr_left fun e _ => ?_
    obtain ⟨seq, bytes⟩ := e.issuedIn_same replay l
    exact Prod.ext seq bytes
  · have one := congrArg (fun v : State => ({ v with pkr := s.pkr, cry := s.cry } : State)) rest
    exact one.trans h.rest

theorem writeRingLines_left {s t : State} {o : Nat} {replay : Bool} (ls : List Nat) (h : LinesLeft s o replay ls t) :
    LinesLeft s o replay [] (ls.foldl (fun t l => writeRingLine t o replay l 0) t) := by
  induction ls generalizing t with
  | nil => exact h
  | cons l ls ih => exact ih (writeRingLine_left h)

/-- Every line with an entry that is not under way. -/
theorem writeLines_all {s : State} {o : Nat} {replay : Bool} (key : s.key? o ≠ none) (inside : o < s.pkr.owners.length) :
    LinesLeft s o replay [] (writeLines s o replay true) := by
  unfold writeLines
  refine writeRingLines_left _ ⟨fun e mem => ?_, rfl, rfl, inside, key⟩
  cases issued : e.issued with
  | true => exact .inl rfl
  | false =>
    right
    simp only [openLines, Bool.true_or, List.filter_eq_self.mpr fun _ _ => rfl, List.mem_eraseDups]
    exact List.mem_map.mpr ⟨e, List.mem_filter.mpr ⟨mem, by simp [issued]⟩, rfl⟩

/-- A stream with a step in flight: nothing is taken up at its boundary. -/
theorem boundary_away {s : State} {n : Nat} (away : ∀ x, s.stream? n = some x → x.atBoundary = false) : boundary s n = s := by
  unfold boundary boundaryWith
  cases found : s.stream? n with
  | none => rfl
  | some x =>
    have step := away x found
    dsimp only
    split
    · rfl
    · rw [step, Bool.and_false, if_neg Bool.false_ne_true]
      have recorded : applyRecorded (fun _ _ _ => .error .row) (x.recorded.length + 1) s n = s := by
        simp [applyRecorded, found, step]
      rw [recorded]
      simp [serve, found, step]

theorem stream_onStream_away {s : State} {n m : Nat} (f : Stream → Stream) (keeps : ∀ y, (f y).id = y.id) (h : m ≠ n) :
    (s.onStream n f).stream? m = s.stream? m := by
  refine find?_modWhere_other (fun y hy => ?_) s.ctx.streams
  rw [keeps, beq_iff_eq.mp hy]
  simpa using h.symm

/-- The checkpoint of a stream is due. -/
def Stream.due (x : Stream) : Stream := { x with ckptDue := true }

/-- When no stream that becomes due is at its boundary, nothing else happens. -/
theorem boundary_due {s : State} (ns : List Nat) (away : ∀ n ∈ ns, ∀ x, s.stream? n = some x → x.atBoundary = false) :
    ns.foldl (fun s n => boundary (s.onStream n Stream.due) n) s = ns.foldl (fun s n => s.onStream n Stream.due) s := by
  induction ns generalizing s with
  | nil => rfl
  | cons n ns ih =>
    have still : ∀ m ∈ n :: ns, ∀ x, (s.onStream n Stream.due).stream? m = some x → x.atBoundary = false := by
      intro m mem x found
      by_cases e : m = n
      · subst e
        cases old : s.stream? m with
        | none =>
          have gone : (s.onStream m Stream.due).stream? m = (s.stream? m).map Stream.due :=
            find?_modWhere (p := fun y : Stream => y.id == m) (f := Stream.due) (fun _ h => h) _
          rw [gone, old] at found
          cases found
        | some y =>
          rw [stream_onStream Stream.due (fun _ => rfl) old] at found
          cases found
          exact away m mem y old
      · rw [stream_onStream_away Stream.due (fun _ => rfl) e] at found
        exact away m mem x found
    rw [List.foldl_cons, List.foldl_cons, boundary_away (still n List.mem_cons_self)]
    exact ih fun m mem => still m (List.mem_cons_of_mem n mem)

/-- Marking the streams of a list one by one is marking each whose id stands in the list. -/
theorem due_foldl (s : State) (ns : List Nat) : ns.foldl (fun s n => s.onStream n Stream.due) s =
    s.onCtx fun c => { c with streams := c.streams.map fun x => if x.id ∈ ns then x.due else x } := by
  induction ns generalizing s with
  | nil => simp [State.onCtx]
  | cons n ns ih =>
    rw [List.foldl_cons, ih]
    simp only [State.onStream, State.onCtx, modWhere, List.map_map]
    congr 3
    funext x
    simp only [Function.comp, List.mem_cons, beq_iff_eq]
    by_cases a : x.id = n <;> by_cases b : x.id ∈ ns <;> simp [a, b, Stream.due]

/-- Settles O34. -/
theorem streamTimers : Obligations.StreamTimers := by
  unfold Obligations.StreamTimers
  intro s hs
  refine ⟨fun o replay inside key => ?_, fun on nodup away => ?_, fun n x found on at_ => ⟨fun unsaid => ?_, fun said => ?_⟩⟩
  · have row : exec (.recordLineTimer o replay) s = finish s (writeLines s o replay true) := by
      show finish s _ = _
      rw [if_pos (by simp [State.writing, hs.1])]
    rw [row]
    have written := writeLines_all (replay := replay) key inside
    generalize writeLines s o replay true = E at written
    have lan := congrArg State.lan written.rest
    have pending := congrArg State.pending written.rest
    have variant := congrArg State.variant written.rest
    obtain ⟨t, next, same⟩ := finish_to (s := s) (E := E) ((congrArg Lan.fenced lan).trans hs.2) pending variant
    have pkr := congrArg State.pkr same
    have ring : (t.ownPkr o).ring replay = (E.ownPkr o).ring replay := congrArg (fun p : Pkr => (getN p.owners o).ring replay) pkr
    refine ⟨t, next, fun e mem => ?_, by rw [ring]; exact written.same, ?_⟩
    · rw [ring] at mem
      rcases written.left e mem with issued | none
      · exact issued
      · cases none
    · have one := congrArg (fun v : State => ({ v with pkr := s.pkr, cry := s.cry } : State)) same
      exact one.trans written.rest
  · have fold : (s.ctx.streams.filter fun x => x.ckptSteps != 0).foldl (fun s x => boundary (s.onStream x.id Stream.due) x.id) s =
        s.onCtx fun c => { c with streams := c.streams.map fun x => if x.ckptSteps ≠ 0 then x.due else x } := by
      have ids := boundary_due (s := s) ((s.ctx.streams.filter fun x => x.ckptSteps != 0).map (·.id)) fun n mem x found => by
        obtain ⟨y, chosen, id⟩ := List.mem_map.mp mem
        obtain ⟨inside, counts⟩ := List.mem_filter.mp chosen
        have same : x = y := eq_of_nodup_map nodup (List.mem_of_find?_eq_some found) inside ((stream_id found).trans id.symm)
        rw [same]
        exact away y inside (by simpa using counts)
      rw [due_foldl, List.foldl_map] at ids
      rw [ids]
      simp only [State.onCtx]
      congr 2
      refine List.map_congr_left fun x inside => ?_
      have named : x.id ∈ (s.ctx.streams.filter fun x => x.ckptSteps != 0).map (·.id) ↔ x.ckptSteps ≠ 0 := by
        refine ⟨fun mem => ?_, fun counts => List.mem_map.mpr ⟨x, List.mem_filter.mpr ⟨inside, by simpa using counts⟩, rfl⟩⟩
        obtain ⟨y, chosen, id⟩ := List.mem_map.mp mem
        obtain ⟨inside', counts⟩ := List.mem_filter.mp chosen
        rw [← eq_of_nodup_map nodup inside' inside id]
        simpa using counts
      simp only [named]
    have row : exec .ckptTimeInterval s = finish s (s.onCtx fun c => { c with streams := c.streams.map fun x =>
        if x.ckptSteps ≠ 0 then x.due else x }) := by
      show finish s (if _ then _ else _) = _
      rw [if_neg (by simp [hs.1, on])]
      exact congrArg (finish s) fold
    rw [row]
    exact finish_to hs.2 rfl rfl
  · have row : exec (.streamIdle n) s = finish s (raiseBy ((s.onStream n fun y => { y with idleSaid := true }).onCtx fun c =>
        { c with idleEvents := wrap32 (c.idleEvents + 1) }) .lantern 0x0003 n x.next s.lan.idleTmo.v) := by
      show finish s _ = _
      simp [found, hs.1, on, at_, unsaid]
    rw [row]
    exact finish_raiseBy hs.2 rfl rfl rfl rfl
  · have row : exec (.streamIdle n) s = finish s s := by
      show finish s _ = _
      simp [found, said]
    rw [row]
    exact finish_to hs.2 rfl rfl

end Sys2Proof.Machine
end

section
/-! Reset sources, the start sequence, power states and the power-fail warning (13 R471 to R503). -/

namespace Sys2Proof.Machine

/-! ## A start begins -/

/-- The end of a meaning whose result is E: its Lantern is E's, and all but the fabric ports when the block is not fenced. -/
theorem finish_ends {s E : State} (p : E.pending = s.pending) (v : E.variant = s.variant) :
    ∃ t, finish s E = .next t ∧ t.lan = E.lan ∧ (E.lan.fenced = false → t.sansFab = E.sansFab) := by
  by_cases h : E.lan.fenced = false
  · obtain ⟨t, next, same⟩ := finish_to h p v
    exact ⟨t, next, finish_lan next, fun _ => same⟩
  · exact ⟨_, rfl, finish_lan rfl, fun on => absurd on h⟩

section
variable {s A t u : State} {kind shape : Nat}

/-- What a start finds in the Lantern besides what it sets. -/
structure SameStart (s A : State) : Prop where
  blkLow : A.lan.blkLow = s.lan.blkLow
  starts : A.lan.starts = s.lan.starts
  log : A.lan.log = s.lan.log
  logNext : A.lan.logNext = s.lan.logNext
  aonTime : A.lan.aonTime = s.lan.aonTime

theorem startNow_started (h : SameStart s A) : Started s (startNow A kind shape) kind shape := by
  obtain ⟨blkLow, starts, log, logNext, aonTime⟩ := h
  refine ⟨rfl, ?_, rfl, rfl, rfl, rfl, rfl, rfl, rfl, congrArg (· + 1) starts, ?_, ?_⟩
  · exact congrArg (fun b : Bool => if b = true then Act.held else Act.start) blkLow
  · show setAt A.lan.log A.lan.logNext { code := 0xF002, detail := kind, time := A.lan.aonTime } = _
    rw [log, logNext, aonTime]
  · exact congrArg (fun n => (n + 1) % 64) logNext

/-- A start is told by the Lantern alone. -/
theorem Started.of_lan (h : Started s u kind shape) (lan : t.lan = u.lan) : Started s t kind shape := by
  unfold Started at h ⊢
  rw [lan]
  exact h

/-- The time from which a start counts is no part of what it sets. -/
theorem Started.since (h : Started s u kind shape) (n : Nat) : Started s (u.onLan fun l => { l with startFrom := n }) kind shape := h

theorem startNow_open (s : State) (kind shape : Nat) : (startNow s kind shape).lan.fenced = false := rfl

theorem startNow_rest (s : State) (kind shape : Nat) : { startNow s kind shape with lan := s.lan } = s := rfl

theorem startNow_keeps (s : State) (kind shape : Nat) : (startNow s kind shape).lan.keys = s.lan.keys ∧ (startNow s kind shape).lan.opt = s.lan.opt ∧
    (startNow s kind shape).lan.writesLost = s.lan.writesLost ∧ (startNow s kind shape).lan.failed = s.lan.failed ∧
    (startNow s kind shape).lan.retried = s.lan.retried ∧ (startNow s kind shape).lan.rootOk = s.lan.rootOk := ⟨rfl, rfl, rfl, rfl, rfl, rfl⟩

/-- A warm start keeps the options that it finds, unless a test instruction asked for a cold one. -/
theorem warmStart_warm (valid : s.lan.optValid = true) (live : s.lan.wrapCold = false) : warmStart s kind shape = startNow (warmUnits s) kind shape := by
  simp [warmStart, valid, live]

theorem coldStart_started (h : SameStart s A) : Started s (coldStart A kind) kind 0 := startNow_started ⟨h.blkLow, h.starts, h.log, h.logNext, h.aonTime⟩

/-- The state that a powered block starts from. -/
theorem powerUp_powered (h : A.Powered) : powerUp A kind shape = startOf A kind shape := by
  obtain ⟨a, b, c, d⟩ := h
  simp [powerUp, a, b, c, d]

end

/-! ## Reset sources -/

/-- A READY block quiesces before a warm source acts. -/
theorem warmSource_ready {s : State} (ready : s.lan.blk = .ready) (kind : Nat) :
    warmSource s kind = s.onLan fun l => { l with blk := .transition, act := .quiesce, warmNext := kind, startFrom := l.aonTime } := by
  simp only [warmSource, ready]

/-- Settles O44. That the stores are clear from the reset on, before step 4 of the start, is the model's choice (log entry 65). -/
theorem resetSources : Obligations.ResetSources := by
  unfold Obligations.ResetSources
  intro s
  refine ⟨?_, fun low => ?_, fun high outside powered => ?_, fun hs high => ⟨?_, ?_, fun on => ?_⟩, fun blk act valid live => ?_,
    fun high on blk act => ?_⟩
  · exact ⟨_, rfl, rfl, rfl, rfl, rfl, rfl, rfl, rfl, rfl, rfl, rfl, rfl, rfl⟩
  · have row : exec .powerOnRelease s = finish s (startNow (s.onLan fun l => { l with pwrLow := false }) 1 0) := by
      show finish s _ = _
      rw [if_pos low]
    obtain ⟨t, next, lan, -⟩ := finish_ends (s := s) (E := startNow (s.onLan fun l => { l with pwrLow := false }) 1 0) rfl rfl
    exact ⟨t, row.trans next, congrArg Lan.pwrLow lan,
      (startNow_started (A := s.onLan fun l => { l with pwrLow := false }) ⟨rfl, rfl, rfl, rfl, rfl⟩).of_lan lan⟩
  · obtain ⟨A, same, cold⟩ : ∃ A, (SameStart s A ∧ A.lan.failed = s.lan.failed ∧ A.variant = s.variant ∧ A.pending = s.pending) ∧
        exec .swCold s = finish s (served (coldStart A 2) 0) := by
      by_cases rec : s.lan.blk = .recovery
      · refine ⟨s.onLan fun l => { l with fromRecovery := true }, ⟨⟨rfl, rfl, rfl, rfl, rfl⟩, rfl, rfl, rfl⟩, ?_⟩
        show finish s (alive s _) = _
        rw [alive, high, if_neg Bool.false_ne_true, swCold, outside, rec]
        simp only [Bool.false_and, Bool.false_eq_true, if_false, beq_self_eq_true, if_true]
        rw [powerUp_powered (A := s.onLan fun l => { l with fromRecovery := true }) powered]
        rfl
      · refine ⟨s, ⟨⟨rfl, rfl, rfl, rfl, rfl⟩, rfl, rfl, rfl⟩, ?_⟩
        show finish s (alive s _) = _
        rw [alive, high, if_neg Bool.false_ne_true, swCold, outside]
        simp only [Bool.false_and, Bool.false_eq_true, if_false, beq_iff_eq, rec]
        rw [powerUp_powered powered]
        rfl
    obtain ⟨start, failed, variant, pending⟩ := same
    obtain ⟨t, next, lan, rest⟩ := finish_ends (s := s) (E := served (coldStart A 2) 0) pending variant
    have same := rest rfl
    exact ⟨t, cold.trans next, (coldStart_started start).of_lan lan, congrArg Lan.keys lan, congrArg State.ctx same, congrArg State.rng same,
      congrArg State.mem same, (congrArg Lan.failed lan).trans failed⟩
  · have row : exec .swWarm s = finish s (served (warmSource s 4) 0) := by
      show finish s (alive s _) = _
      rw [alive, high, if_neg Bool.false_ne_true]
    rw [row, warmSource_ready (by simpa [State.ready] using hs.1)]
    exact finish_to hs.2 rfl rfl
  · have row : exec .blkRstAssert s = finish s (warmSource (s.onLan fun l => { l with blkLow := true }) 3) := by
      show finish s (alive _ _) = _
      rw [alive, if_neg (by show ¬ s.lan.pwrLow = true; rw [high]; exact Bool.false_ne_true)]
    rw [row, warmSource_ready (by simpa [State.ready] using hs.1)]
    exact finish_to hs.2 rfl rfl
  · have row : exec .blockWatchdogExpire s = finish s (warmSource s 5) := by
      show finish s _ = _
      rw [if_pos (by simp [on, hs.1])]
    rw [row, warmSource_ready (by simpa [State.ready] using hs.1)]
    exact finish_to hs.2 rfl rfl
  · let W := warmUnits (s.onLan fun l => { l with writesLost := min s.fab.stores.length 255 })
    have row : exec .warmQuiesceDone s = finish s ((startNow W s.lan.warmNext 1).onLan fun l => { l with startFrom := s.lan.startFrom }) := by
      show finish s _ = _
      rw [if_pos (by simp [blk, act]), quiesced, warmStart_warm (s := s.onLan fun l => { l with writesLost := min s.fab.stores.length 255 }) valid live]
    obtain ⟨t, next, lan, rest⟩ := finish_ends (s := s)
      (E := (startNow W s.lan.warmNext 1).onLan fun l => { l with startFrom := s.lan.startFrom }) rfl rfl
    have same := rest rfl
    have started : Started s (startNow W s.lan.warmNext 1) s.lan.warmNext 1 := startNow_started ⟨rfl, rfl, rfl, rfl, rfl⟩
    have ctx := congrArg State.ctx same
    have eqs := congrArg State.eqs same
    refine ⟨t, row.trans next, (started.since _).of_lan lan, (congrArg Lan.keys lan).trans rfl, (congrArg Lan.opt lan).trans rfl,
      (congrArg Lan.writesLost lan).trans rfl, (congrArg (fun u : State => u.rng.cmds) same).trans rfl,
      (congrArg (fun u : State => u.rng.comps) same).trans rfl, (congrArg (fun u : State => u.fin.units) same).trans rfl,
      (congrArg (fun c : Ctx => c.streams.map (·.id)) ctx).trans (List.map_map ..), (congrArg (fun e : Eqs => e.qs.map (·.recs)) eqs).trans (List.map_map ..),
      (congrArg (fun u : State => u.mem.words) same).trans rfl, (congrArg (fun u : State => u.mem.tags) same).trans rfl⟩
  · have row : exec .blkRstRelease s = finish s (s.onLan fun l => { l with blkLow := false, act := .start, startFrom := l.aonTime }) := by
      show finish s (alive _ _) = _
      rw [alive, if_neg (by show ¬ s.lan.pwrLow = true; rw [high]; exact Bool.false_ne_true),
        if_pos (by show (s.lan.blk == .starting && s.lan.act == .held) = true; rw [blk, act]; rfl)]
      rfl
    rw [row]
    exact finish_to on rfl rfl

/-! ## Power states -/

/-- What writing staged ring lines can change. -/
def RingsOnly (a b : State) : Prop := { b with pkr := a.pkr, cry := a.cry, fab := a.fab } = a

theorem RingsOnly.trans {a b c : State} (h : RingsOnly a b) (k : RingsOnly b c) : RingsOnly a c := by
  unfold RingsOnly at *
  rw [← congrArg (fun t : State => ({ t with pkr := a.pkr, cry := a.cry, fab := a.fab } : State)) k] at h
  exact h

section
variable {a b : State} (h : RingsOnly a b)
include h

theorem RingsOnly.lan : b.lan = a.lan := by
  have e := congrArg State.lan h
  exact e

theorem RingsOnly.pending : b.pending = a.pending := by
  have e := congrArg State.pending h
  exact e

theorem RingsOnly.variant : b.variant = a.variant := by
  have e := congrArg State.variant h
  exact e

theorem RingsOnly.ctx : b.ctx = a.ctx := by
  have e := congrArg State.ctx h
  exact e

theorem RingsOnly.mem : b.mem = a.mem := by
  have e := congrArg State.mem h
  exact e

end

theorem RingsOnly.foldl {α : Type} {g : State → α → State} (k : ∀ s x, RingsOnly s (g s x)) (l : List α) (s : State) : RingsOnly s (l.foldl g s) := by
  induction l generalizing s with
  | nil => rfl
  | cons x r ih => exact (k s x).trans (ih (g s x))

theorem writeRingLine_rings (s : State) (o : Nat) (replay : Bool) (line tries : Nat) : RingsOnly s (writeRingLine s o replay line tries) := by
  unfold writeRingLine
  extract_lets r es stop bs hit u
  split
  · rfl
  · split <;> rfl

theorem writeLines_rings (s : State) (o : Nat) (replay part : Bool) : RingsOnly s (writeLines s o replay part) :=
  .foldl (fun s l => writeRingLine_rings s o replay l 0) _ _

theorem writeStaged_rings (s : State) : RingsOnly s (writeStaged s) :=
  .foldl (fun s o => (writeLines_rings s o false true).trans (writeLines_rings _ o true true)) _ _

section
variable {s : State}

theorem alive_on (high : s.lan.pwrLow = false) (f : State → State) : alive s f = f s := by
  rw [alive, high, if_neg Bool.false_ne_true]

/-- A block in transition keeps a TARGET that is written. -/
theorem writeTarget_latched {k : Nat} (blk : s.lan.blk = .transition) (k3 : k ≠ 3) :
    writeTarget s k = s.onLan fun l => { l with target := k, targetLatched := some k } := by
  simp [writeTarget, blk, k3, State.onLan]

theorem writeTarget_entry {k : Nat} (blk : s.lan.blk = .ready) (k12 : k = 1 ∨ k = 2) :
    writeTarget s k = s.onLan fun l => { l with target := k, targetLatched := none, blk := .transition, act := .entry k } := by
  rcases k12 with rfl | rfl <;> simp [writeTarget, blk, State.onLan, Lan.takeTarget]

theorem writeTarget_wake (blk : s.lan.blk = .retain) : writeTarget s 0 = s.onLan fun l =>
    { l with target := 0, targetLatched := none, blk := .transition, act := .railLogicUp 9 2 3, logicReq := true, startFrom := l.aonTime } := by
  simp [writeTarget, blk, State.onLan, Lan.takeTarget]

theorem takeTarget_none {l : Lan} (h : l.targetLatched = none) : l.takeTarget = l := by
  simp only [Lan.takeTarget, h]

theorem takeTarget_stays (h : s.lan.targetLatched = none) : s.onLan Lan.takeTarget = s := by
  rw [State.onLan, takeTarget_none h]

/-- The wake from RETAIN. -/
theorem wake_retain (valid : s.lan.optValid = true) (live : s.lan.wrapCold = false) : wake s 9 2 3 =
    (startNow (warmUnits (logPower s 3 0)) 9 2).onLan fun l => { l with startFrom := s.lan.startFrom } := by
  simp only [wake, true_or, if_true, startOf, if_false, Nat.reduceEqDiff]
  rw [warmStart_warm (s := logPower s 3 0) valid live]

/-- The entry sequence ends once no write is outstanding. -/
theorem entryOver_quiet {k : Nat} (steps : stepsRun s = false) (stores : (writeStaged s).fab.stores = []) (waiting : (writeStaged s).fab.waiting = []) :
    entryOver s k = (warmUnits (writeStaged s)).onLan fun l => { l with act := .railLogicDown k, iso := true, logicReq := false } := by
  simp [entryOver, steps, stores, waiting]

end

/-- Settles O46. That a TARGET is latched in every transition, and the state left that the log entry names, are the model's reading (log entry 15). -/
theorem powerStates : Obligations.PowerStates := by
  unfold Obligations.PowerStates
  intro s high on
  refine ⟨fun i k what => ⟨fun ready => ?_, fun blk => ?_⟩, fun blk => ?_, fun k blk act steps stores waiting => ?_, fun act latched => ?_, fun act => ?_,
    fun act latched => ?_, fun act root valid live blkLow => ?_, fun array level act => ?_⟩
  · have row : exec i s = finish s (served (writeTarget s k) 0) := by
      rcases what with ⟨rfl, rfl⟩ | ⟨rfl, rfl⟩ <;> exact congrArg (finish s) (alive_on high _)
    rw [row, writeTarget_entry (by simpa [State.ready] using ready) (what.imp And.right And.right)]
    exact finish_to on rfl rfl
  · have row : exec i s = finish s (served (writeTarget s k) 0) := by
      rcases what with ⟨rfl, rfl⟩ | ⟨rfl, rfl⟩ <;> exact congrArg (finish s) (alive_on high _)
    rw [row, writeTarget_latched blk (by omega)]
    exact finish_to on rfl rfl
  · have row : exec .pwrTargetOn s = finish s (served (writeTarget s 0) 0) := congrArg (finish s) (alive_on high _)
    rw [row, writeTarget_wake blk]
    exact finish_to on rfl rfl
  · have row : exec .powerEntryQuiesced s = finish s (entryOver s k) := by
      show finish s (match s.lan.blk, s.lan.act with | .transition, .entry t => entryOver s t | _, _ => s) = _
      rw [blk, act]
    have wlan := (writeStaged_rings s).lan
    have wpending := (writeStaged_rings s).pending
    have wvariant := (writeStaged_rings s).variant
    have wctx := (writeStaged_rings s).ctx
    have wwords := congrArg Mem.words (writeStaged_rings s).mem
    have wkeys := congrArg Lan.keys (writeStaged_rings s).lan
    rw [row, entryOver_quiet steps stores waiting]
    generalize writeStaged s = W at wlan wpending wvariant wctx wwords wkeys
    obtain ⟨t, next, lan, rest⟩ := finish_ends (s := s) (E := (warmUnits W).onLan fun l => { l with act := .railLogicDown k, iso := true, logicReq := false })
      wpending wvariant
    have same := rest ((congrArg Lan.fenced wlan).trans on)
    have ctx := congrArg State.ctx same
    refine ⟨t, next, (congrArg Lan.act lan).trans rfl, (congrArg Lan.iso lan).trans rfl, (congrArg Lan.logicReq lan).trans rfl,
      (congrArg Lan.keys lan).trans wkeys, (congrArg (fun u : State => u.rng.cmds) same).trans rfl, ?_,
      (congrArg (fun u : State => u.mem.words) same).trans wwords⟩
    refine (congrArg (fun c : Ctx => c.streams.map (·.id)) ctx).trans ((List.map_map ..).trans ?_)
    exact congrArg (fun c : Ctx => c.streams.map (·.id)) wctx
  · have row : exec (.powerRailAck false false) s = finish s ((logPower (s.onLan fun l => { l with logicAck := false, blk := .retain, act := .idle }) 1 3).onLan
        Lan.takeTarget) := by
      refine congrArg (finish s) ((alive_on high _).trans ?_)
      unfold railAck
      rw [act]
      rfl
    have stays : ((logPower (s.onLan fun l => { l with logicAck := false, blk := .retain, act := .idle }) 1 3).onLan Lan.takeTarget) =
        logPower (s.onLan fun l => { l with logicAck := false, blk := .retain, act := .idle }) 1 3 := takeTarget_stays latched
    rw [row, stays]
    exact finish_to on rfl rfl
  · have row : exec (.powerRailAck false false) s = finish s (s.onLan fun l => { l with logicAck := false, act := .railArrayDown 1, arrayReq := false }) := by
      refine congrArg (finish s) ((alive_on high _).trans ?_)
      unfold railAck
      rw [act]
      rfl
    rw [row]
    exact finish_to on rfl rfl
  · have row : exec (.powerRailAck true false) s = finish s ((logPower ((coldUnits s).onLan fun l => { l with
        arrayAck := false, blk := .off, act := .idle, discarded := min s.ctx.streams.length 65535 }) 1 4).onLan Lan.takeTarget) := by
      refine congrArg (finish s) ((alive_on high _).trans ?_)
      unfold railAck
      rw [act]
    have stays : ((logPower ((coldUnits s).onLan fun l => { l with
        arrayAck := false, blk := .off, act := .idle, discarded := min s.ctx.streams.length 65535 }) 1 4).onLan Lan.takeTarget) =
        logPower ((coldUnits s).onLan fun l => { l with
          arrayAck := false, blk := .off, act := .idle, discarded := min s.ctx.streams.length 65535 }) 1 4 := takeTarget_stays latched
    rw [row, stays]
    obtain ⟨t, next, lan, rest⟩ := finish_ends (s := s) (E := logPower ((coldUnits s).onLan fun l => { l with
          arrayAck := false, blk := .off, act := .idle, discarded := min s.ctx.streams.length 65535 }) 1 4) rfl rfl
    have same := rest on
    exact ⟨t, next, (congrArg Lan.blk lan).trans rfl, (congrArg Lan.arrayAck lan).trans rfl, (congrArg State.ctx same).trans rfl,
      (congrArg State.mem same).trans rfl, (congrArg Lan.keys lan).trans rfl⟩
  · have row : exec (.powerRailAck false true) s = finish s (wake (s.onLan fun l => { l with logicAck := true }) 9 2 3) := by
      refine congrArg (finish s) ((alive_on high _).trans ?_)
      unfold railAck
      rw [act]
      exact if_pos root
    rw [row, wake_retain (s := s.onLan fun l => { l with logicAck := true }) valid live]
    obtain ⟨L, hL⟩ : ∃ L, L = logPower (s.onLan fun l => { l with logicAck := true }) 3 0 := ⟨_, rfl⟩
    have pending : L.pending = s.pending := by rw [hL]; rfl
    have variant : L.variant = s.variant := by rw [hL]; rfl
    have ack : L.lan.logicAck = true := by rw [hL]; rfl
    have low : L.lan.blkLow = false := by rw [hL]; exact blkLow
    have keys : L.lan.keys = s.lan.keys := by rw [hL]; rfl
    have words : L.mem.words = s.mem.words := by rw [hL]; rfl
    rw [← hL]
    obtain ⟨t, next, lan, rest⟩ := finish_ends (s := s)
      (E := (startNow (warmUnits L) 9 2).onLan fun l => { l with startFrom := (s.onLan fun l => { l with logicAck := true }).lan.startFrom }) pending variant
    have same := rest rfl
    exact ⟨t, next, (congrArg Lan.blk lan).trans rfl, (congrArg Lan.act lan).trans (if_neg (low ▸ Bool.false_ne_true)), (congrArg Lan.kind lan).trans rfl,
      (congrArg Lan.shape lan).trans rfl, (congrArg Lan.logicAck lan).trans ack, (congrArg Lan.keys lan).trans keys,
      (congrArg (fun u : State => u.mem.words) same).trans words⟩
  · have row : exec (.powerRailAck array level) s = finish s s := by
      refine congrArg (finish s) ((alive_on high _).trans ?_)
      unfold railAck
      rw [act]
    rw [row]
    exact finish_to on rfl rfl

end Sys2Proof.Machine
end

section
/-! The start sequence, and the power-fail warning (13 R479, R483 to R490, R501 to R503). -/

namespace Sys2Proof.Machine

/-! ## The start sequence -/

section
variable {s : State}

/-- A start that fails is counted with its cause; the third time, or after a RECOVERY, it ends in RECOVERY. -/
theorem failStart_fails (blk : s.lan.blk = .starting) (cause : Nat) :
    (failStart s cause).lan.failed = satAdd s.lan.failed 1 15 ∧ (failStart s cause).lan.causeFail = cause ∧
    (if 3 ≤ satAdd s.lan.failed 1 15 ∨ s.lan.fromRecovery = true then (failStart s cause).lan.blk = .recovery ∧ (failStart s cause).lan.iso = true
      else (failStart s cause).lan.blk = .starting ∧ (failStart s cause).lan.act = .retryWait) := by
  unfold failStart
  by_cases h : 3 ≤ satAdd s.lan.failed 1 15 ∨ s.lan.fromRecovery = true
  · have taken : 3 ≤ satAdd s.lan.failed 1 15 ∨ (lanLog (s.onLan fun l => { l with
        failed := satAdd s.lan.failed 1 15, causeFail := cause, startTimer := false, optLoading := false, domWait := [] }) 0xF001
        (s.lan.kind + 16 * cause)).lan.fromRecovery = true := h
    dsimp only
    rw [if_pos taken, if_pos h]
    exact ⟨rfl, rfl, rfl, rfl⟩
  · have left : ¬ (3 ≤ satAdd s.lan.failed 1 15 ∨ (lanLog (s.onLan fun l => { l with
        failed := satAdd s.lan.failed 1 15, causeFail := cause, startTimer := false, optLoading := false, domWait := [] }) 0xF001
        (s.lan.kind + 16 * cause)).lan.fromRecovery = true) := h
    dsimp only
    rw [if_neg left, if_neg h]
    exact ⟨rfl, rfl, blk, rfl⟩

theorem failStart_keeps (s : State) (cause : Nat) : (failStart s cause).pending = s.pending ∧ (failStart s cause).variant = s.variant ∧
    (failStart s cause).lan.optBusErr = s.lan.optBusErr := by
  unfold failStart
  dsimp only
  split <;> exact ⟨rfl, rfl, rfl⟩

/-- A step of a start whose domains are ready. -/
theorem stepDone_ready (blk : s.lan.blk = .starting) (act : s.lan.act = .start) (wait : s.lan.domWait = []) (less : s.lan.step < 8) (fs : List Nat) :
    stepDone s fs = finishStep s (s.lan.step + 1) fs := by
  unfold stepDone
  rw [if_neg]
  simp [blk, act, wait, less]

/-- The block is READY: its streams are suspended, and BLOCK_READY is raised. -/
def State.asReady (s : State) : State :=
  (s.onCtx fun c => { c with streams := c.streams.map suspendByStart }).onLan fun l => { l with
    blk := .ready, act := .idle, step := 8, failed := 0, iso := false, startTimer := false, retried := false
    fromRecovery := false, startTime := wrap32 (l.aonTime - l.startFrom), wdogEn := false, wdogPeriod := 0 }

theorem reachReady_clean (checked : s.mem.checked = false) (latched : s.lan.targetLatched = none) :
    reachReady s = raiseBy s.asReady .lantern 0x0C02 0 0 (s.lan.kind + 65536 * (s.lan.starts % 65536)) := by
  have rest := raiseBy_sansBel s.asReady .lantern 0x0C02 0 0 (s.lan.kind + 65536 * (s.lan.starts % 65536))
  show (reportUes (raiseBy s.asReady .lantern 0x0C02 0 0 (s.lan.kind + 65536 * (s.lan.starts % 65536)))).onLan Lan.takeTarget = _
  generalize raiseBy s.asReady .lantern 0x0C02 0 0 (s.lan.kind + 65536 * (s.lan.starts % 65536)) = R at rest
  have mem := congrArg State.mem rest
  have lan := congrArg State.lan rest
  have none : reportUes R = R := by
    rw [reportUes, if_pos]
    have still := congrArg Mem.checked mem
    rw [show R.mem.checked = false from still.trans checked]
    rfl
  rw [none]
  have still := congrArg Lan.targetLatched lan
  exact takeTarget_stays (still.trans latched)

end

/-- Settles O45. The kind code of a retry is the model's choice (log entry 48). -/
theorem startSequence : Obligations.StartSequence := by
  unfold Obligations.StartSequence
  intro s high on blk failed
  have fails : ∀ (A : State) (cause : Nat), A.lan.blk = .starting → A.lan.failed = s.lan.failed → A.lan.fromRecovery = s.lan.fromRecovery →
      ∀ t : State, t.lan = (failStart A cause).lan → failed t cause := by
    intro A cause blk count again t lan
    have facts := failStart_fails blk cause
    rw [count, again, ← lan] at facts
    exact facts
  have step : ∀ fs, s.lan.act = .start → s.lan.domWait = [] → s.lan.step < 8 → exec (.startStepDone fs) s = finish s (finishStep s (s.lan.step + 1) fs) :=
    fun fs act wait less => congrArg (finish s) ((alive_on high _).trans (stepDone_ready blk act wait less fs))
  refine ⟨fun fs act wait => ⟨fun plain => ?_, fun one cold => ?_, fun three cold => ?_, fun seven checked latched => ?_⟩,
    fun act loading => ⟨fun w less => ?_, fun w i mem => ?_⟩, fun timer => ?_, fun act => ⟨fun cold => ?_, fun warm first valid live => ?_⟩⟩
  · rw [step fs act wait (by omega)]
    have done : finishStep s (s.lan.step + 1) fs = s.onLan fun l => { l with step := s.lan.step + 1 } := by
      rcases plain with h | h <;> rw [h] <;> rfl
    rw [done]
    exact finish_to on rfl rfl
  · rw [step fs act wait (by omega), one]
    have load : finishStep s 2 fs = s.onLan fun l => { l with
        step := 2, cause := l.kind, startTimer := true, optCrcFail := false, optBusErr := false, optLoading := true, optNext := 0, optTries := 1 } := by
      show (if s.lan.isCold = true then _ else _) = _
      rw [if_pos cold]
      rfl
    rw [show 1 + 1 = 2 from rfl, load]
    obtain ⟨t, next, lan, -⟩ := finish_ends (s := s) (E := s.onLan fun l => { l with
        step := 2, cause := l.kind, startTimer := true, optCrcFail := false, optBusErr := false, optLoading := true, optNext := 0, optTries := 1 }) rfl rfl
    exact ⟨t, next, (congrArg Lan.step lan).trans rfl, (congrArg Lan.cause lan).trans rfl, (congrArg Lan.startTimer lan).trans rfl,
      (congrArg Lan.optLoading lan).trans rfl, (congrArg Lan.optNext lan).trans rfl, (congrArg Lan.optTries lan).trans rfl⟩
  · rw [step fs act wait (by omega), three]
    have clear : finishStep s 4 fs = (s.onMem fun m => { m with words := [], tags := [], cleared := true }).onLan fun l => { l with step := 4 } := by
      show (if s.lan.isCold = true then _ else _) = _
      rw [if_pos cold]
    rw [show 3 + 1 = 4 from rfl, clear]
    obtain ⟨t, next, lan, rest⟩ := finish_ends (s := s)
      (E := (s.onMem fun m => { m with words := [], tags := [], cleared := true }).onLan fun l => { l with step := 4 }) rfl rfl
    have mem := congrArg State.mem (rest on)
    exact ⟨t, next, (congrArg Lan.step lan).trans rfl, (congrArg Mem.words mem).trans rfl, (congrArg Mem.tags mem).trans rfl,
      (congrArg Mem.cleared mem).trans rfl⟩
  · rw [step fs act wait (by omega), seven]
    have ready : finishStep s 8 fs = _ := reachReady_clean checked latched
    rw [show 7 + 1 = 8 from rfl, ready]
    obtain ⟨t, next, same, raised⟩ := finish_bel (s := s) (raiseBy_sansBel s.asReady .lantern 0x0C02 0 0 (s.lan.kind + 65536 * (s.lan.starts % 65536)))
      (raiseBy_raised s.asReady .lantern 0x0C02 0 0 (s.lan.kind + 65536 * (s.lan.starts % 65536))) on rfl rfl
    have lan := congrArg State.lan same
    have ctx := congrArg State.ctx same
    exact ⟨t, next, congrArg (fun l : Lan => l.blk == .ready) lan, (congrArg Lan.failed lan).trans rfl, (congrArg Lan.iso lan).trans rfl,
      (congrArg Lan.step lan).trans rfl, (congrArg Ctx.streams ctx).trans rfl, raised⟩
  · have row : exec (.optionWordResponse false w) s = finish s (s.onLan fun l => { l with optStg := setAt l.optStg l.optNext w, optNext := l.optNext + 1 }) := by
      show finish s _ = _
      rw [if_neg (by simp [loading, act]), if_neg Bool.false_ne_true]
      exact congrArg (finish s) (if_pos (Nat.succ_lt_succ less))
    rw [row]
    exact finish_to on rfl rfl
  · have row : exec i s = finish s (loadFailed s false) := by
      rcases List.mem_cons.mp mem with rfl | last
      · show finish s _ = _
        rw [if_neg (by simp [loading, act]), if_pos rfl]
      · obtain rfl := List.mem_singleton.mp last
        show finish s _ = _
        rw [if_pos (by simp [loading, act])]
    rw [row]
    refine ⟨fun less => ?_, fun most => ?_⟩
    · have again : loadFailed s false = beginLoad (s.onLan fun l => { l with optCrcFail := l.optCrcFail || false, optBusErr := l.optBusErr || !false })
          (s.lan.optTries + 1) := if_neg (Nat.not_le.mpr less)
      rw [again]
      obtain ⟨t, next, lan, -⟩ := finish_ends (s := s) (E := beginLoad (s.onLan fun l => { l with
        optCrcFail := l.optCrcFail || false, optBusErr := l.optBusErr || !false }) (s.lan.optTries + 1)) rfl rfl
      exact ⟨t, next, (congrArg Lan.optBusErr lan).trans (Bool.or_true _), (congrArg Lan.optNext lan).trans rfl, (congrArg Lan.optTries lan).trans rfl,
        (congrArg Lan.blk lan).trans blk⟩
    · have last : loadFailed s false = failStart (s.onLan fun l => { l with optCrcFail := l.optCrcFail || false, optBusErr := l.optBusErr || !false }) 2 :=
        if_pos most
      rw [last]
      obtain ⟨pending, variant, bus⟩ := failStart_keeps (s.onLan fun l => { l with optCrcFail := l.optCrcFail || false, optBusErr := l.optBusErr || !false }) 2
      obtain ⟨t, next, lan, -⟩ := finish_ends (s := s) pending variant
      exact ⟨t, next, (congrArg Lan.optBusErr lan).trans (bus.trans (Bool.or_true _)), fails (s.onLan fun l => { l with
        optCrcFail := l.optCrcFail || false, optBusErr := l.optBusErr || !false }) 2 blk rfl rfl t lan⟩
  · have row : exec .startTimerExpire s = finish s (failStart s 1) := by
      show finish s _ = _
      rw [if_pos (by simp [timer, blk])]
    obtain ⟨pending, variant, -⟩ := failStart_keeps s 1
    obtain ⟨t, next, lan, -⟩ := finish_ends (s := s) pending variant
    exact ⟨t, row.trans next, fails s 1 blk rfl rfl t lan⟩
  · have row : exec .startRetry s = finish s (coldStart s 8) := by
      show finish s _ = _
      rw [if_pos (by simp [blk, act]), if_pos (by simpa using cold)]
    obtain ⟨t, next, lan, rest⟩ := finish_ends (s := s) (E := coldStart s 8) rfl rfl
    exact ⟨t, row.trans next, (coldStart_started (s := s) (A := s) ⟨rfl, rfl, rfl, rfl, rfl⟩).of_lan lan, (congrArg State.ctx (rest rfl)).trans rfl⟩
  · have row : exec .startRetry s = finish s (startNow (warmUnits (s.onLan fun l => { l with retried := true })) 8 s.lan.shape) := by
      show finish s _ = _
      rw [if_pos (by simp [blk, act]), if_neg (by simp [warm, first]), warmStart_warm (s := s.onLan fun l => { l with retried := true }) valid live]
    obtain ⟨t, next, lan, -⟩ := finish_ends (s := s) (E := startNow (warmUnits (s.onLan fun l => { l with retried := true })) 8 s.lan.shape) rfl rfl
    exact ⟨t, row.trans next, (startNow_started (s := s) (A := warmUnits (s.onLan fun l => { l with retried := true })) ⟨rfl, rfl, rfl, rfl, rfl⟩).of_lan lan,
      (congrArg Lan.retried lan).trans rfl, (congrArg Lan.keys lan).trans rfl⟩

/-! ## The power-fail warning and the root clock -/

theorem RingsOnly.fin {a b : State} (h : RingsOnly a b) : b.fin = a.fin := by
  have e := congrArg State.fin h
  exact e

theorem RingsOnly.stp {a b : State} (h : RingsOnly a b) : b.stp = a.stp := by
  have e := congrArg State.stp h
  exact e

/-- What taking a checkpoint keeps: the Finial, the trees, and the step that each stream is at. -/
structure StepsKept (a b : State) : Prop where
  fin : b.fin = a.fin
  stp : b.stp = a.stp
  streams : ∀ y ∈ b.ctx.streams, ∃ x ∈ a.ctx.streams, y.held = x.held ∧ y.svc = x.svc

theorem StepsKept.of_ctx {a b : State} (fin : b.fin = a.fin) (stp : b.stp = a.stp) (ctx : b.ctx = a.ctx) : StepsKept a b :=
  ⟨fin, stp, fun y mem => ⟨y, ctx ▸ mem, rfl, rfl⟩⟩

theorem StepsKept.refl (a : State) : StepsKept a a := .of_ctx rfl rfl rfl

theorem StepsKept.trans {a b c : State} (h : StepsKept a b) (k : StepsKept b c) : StepsKept a c := by
  refine ⟨k.fin.trans h.fin, k.stp.trans h.stp, fun z mem => ?_⟩
  obtain ⟨y, mem, held, svc⟩ := k.streams z mem
  obtain ⟨x, mem, held', svc'⟩ := h.streams y mem
  exact ⟨x, mem, held.trans held', svc.trans svc'⟩

theorem StepsKept.foldl {α : Type} {g : State → α → State} (k : ∀ s x, StepsKept s (g s x)) (l : List α) (s : State) : StepsKept s (l.foldl g s) := by
  induction l generalizing s with
  | nil => exact .refl s
  | cons x r ih => exact (k s x).trans (ih (g s x))

theorem onStream_stepsKept (s : State) (n : Nat) {f : Stream → Stream} (held : ∀ x, (f x).held = x.held) (svc : ∀ x, (f x).svc = x.svc) :
    StepsKept s (s.onStream n f) := by
  refine ⟨rfl, rfl, fun y mem => ?_⟩
  obtain ⟨x, old, rfl⟩ := List.mem_map.mp (show y ∈ modWhere s.ctx.streams (·.id == n) f from mem)
  refine ⟨x, old, ?_⟩
  split
  · exact ⟨held x, svc x⟩
  · exact ⟨rfl, rfl⟩

theorem ckptOver_stepsKept (s : State) (id bytes : Nat) : StepsKept s (ckptOver s id bytes) := by
  refine .foldl (fun s c => ?_) _ s
  split
  · exact .refl s
  · dsimp only
    split
    · exact .of_ctx rfl rfl rfl
    · exact .of_ctx rfl rfl rfl

theorem writeStream_stepsKept (s : State) (x : Stream) : StepsKept s (writeStream s x) := by
  have rings := writeLines_rings s x.owner (!x.record) true
  exact .of_ctx rings.fin rings.stp rings.ctx

theorem writeSecret_stepsKept (s : State) (who : Req) (key : List Byte) (addr domain owner : Nat) (line : List Byte) :
    StepsKept s (writeSecret s who key addr domain owner line) := .of_ctx rfl rfl rfl

theorem takeCkpt_stepsKept (s : State) (x : Stream) : StepsKept s (takeCkpt s x) := by
  unfold takeCkpt
  extract_lets serial seq u w img v
  have written : StepsKept s w := writeStream_stepsKept s x
  have imaged : StepsKept w v := onStream_stepsKept w x.id (fun _ => rfl) fun _ => rfl
  clear_value w v
  split
  · refine .trans ?_ (ckptOver_stepsKept ..)
    exact (StepsKept.of_ctx rfl rfl rfl : StepsKept s u).trans (onStream_stepsKept u x.id (fun _ => rfl) fun _ => rfl)
  · refine written.trans ?_
    split
    · refine .trans ?_ (ckptOver_stepsKept ..)
      exact onStream_stepsKept w x.id (fun _ => rfl) fun _ => rfl
    · exact imaged.trans (.foldl (fun s i => writeSecret_stepsKept ..) _ v)

theorem takeCkpts_fwd (l : List Stream) (s : State) : Fwd s (l.foldl takeCkpt s) := foldl_fwd (fun _ _ h => takeCkpt_fwd h) (.refl s)

/-- The state in which the emergency checkpoints are taken: no step in flight, no held result. -/
def State.stopped (s : State) : State :=
  ((s.onFin fun f => { f with units := [], maskQueue := [], maskGiven := [] }).onStp fun p => { p with trees := [], waiting := [] }).onCtx fun c =>
    { c with streams := c.streams.map fun x => { x with svc := .none, held := [], pagesResv := 0, endDue := 0 } }

theorem emergency_facts (s : State) : StepsKept s.stopped (emergency s) ∧ (emergency s).lan.blk = .transition ∧ (emergency s).lan.act = .emergency ∧
    (emergency s).lan.pf = s.lan.pf ∧ (emergency s).lan.fenced = s.lan.fenced ∧ (emergency s).pending = s.pending ∧ (emergency s).variant = s.variant := by
  have rings := writeStaged_rings s.stopped
  obtain ⟨E, hE⟩ : ∃ E, E = emergency s := ⟨_, rfl⟩
  rw [← hE]
  unfold emergency at hE
  extract_lets a b c w save skip l at hE
  have hw : w = writeStaged s.stopped := rfl
  have fin : (writeStaged s.stopped).fin = s.stopped.fin := rings.fin
  have stp : (writeStaged s.stopped).stp = s.stopped.stp := rings.stp
  have lan := rings.lan
  have pending := rings.pending
  have variant := rings.variant
  have ctx := rings.ctx
  rw [← hw] at lan pending variant ctx fin stp
  clear_value w save skip
  have wl : StepsKept s.stopped l := .of_ctx fin stp ctx
  have kept : StepsKept l E := hE ▸ .foldl takeCkpt_stepsKept _ _
  have fwd : Fwd l E := hE ▸ takeCkpts_fwd _ _
  refine ⟨wl.trans kept, ?_⟩
  rw [fwd.lan, fwd.pending, fwd.variant]
  have pf : w.lan.pf = s.lan.pf := by rw [lan]; rfl
  have fenced : w.lan.fenced = s.lan.fenced := by rw [lan]; rfl
  exact ⟨rfl, rfl, pf, fenced, pending, variant⟩

/-- Settles O47. -/
theorem powerFailAndClock : Obligations.PowerFailAndClock := by
  unfold Obligations.PowerFailAndClock
  intro s on
  refine ⟨fun high ready => ?_, fun high blk => ?_, fun act stores waiting => ?_, fun blk pf powered valid live => ?_, ?_, fun ready => ?_,
    fun act valid live => ?_, fun d => ?_⟩
  · have row : exec .pfWarn s = finish s (emergency (s.onLan fun l => { l with pf := true })) := by
      refine congrArg (finish s) ((alive_on high _).trans ?_)
      have blk : s.lan.blk = .ready := by simpa [State.ready] using ready
      unfold pfWarn
      dsimp only [State.onLan]
      rw [blk]
    obtain ⟨kept, blk, act, pf, fenced, pending, variant⟩ := emergency_facts (s.onLan fun l => { l with pf := true })
    rw [row]
    generalize emergency (s.onLan fun l => { l with pf := true }) = E at kept blk act pf fenced pending variant
    obtain ⟨t, next, lan, rest⟩ := finish_ends (s := s) pending variant
    have same := rest (fenced.trans on)
    have fin := congrArg (fun u : State => u.fin.units) same
    have stp := congrArg (fun u : State => u.stp.trees) same
    have ctx := congrArg (fun u : State => u.ctx.streams) same
    refine ⟨t, next, (congrArg Lan.blk lan).trans blk, (congrArg Lan.act lan).trans act, (congrArg Lan.pf lan).trans pf,
      fin.trans ((congrArg Machine.Fin.units kept.fin).trans rfl), stp.trans ((congrArg Stp.trees kept.stp).trans rfl), fun x mem => ?_⟩
    obtain ⟨y, mem, held, svc⟩ := kept.streams x ((show t.ctx.streams = E.ctx.streams from ctx) ▸ mem)
    obtain ⟨z, -, rfl⟩ := List.mem_map.mp (show y ∈ s.ctx.streams.map _ from mem)
    exact ⟨held, svc⟩
  · have row : exec .pfWarn s = finish s (enterHold (s.onLan fun l => { l with pf := true, pfNoCkpt := true }) false 0) := by
      refine congrArg (finish s) ((alive_on high _).trans ?_)
      unfold pfWarn
      dsimp only [State.onLan]
      rw [blk]
    obtain ⟨t, next, lan, rest⟩ := finish_ends (s := s) (E := enterHold (s.onLan fun l => { l with pf := true, pfNoCkpt := true }) false 0) rfl rfl
    exact ⟨t, row.trans next, (congrArg Lan.blk lan).trans rfl, (congrArg Lan.act lan).trans rfl, (congrArg Lan.iso lan).trans rfl,
      (congrArg Lan.pf lan).trans rfl, (congrArg Lan.pfNoCkpt lan).trans rfl, (congrArg State.ctx (rest on)).trans rfl⟩
  · let n := (s.ctx.streams.filter fun x => canSave s x && !x.ckptDue).length % 65536
    have row : exec .emergencyCkptDone s = finish s (enterHold (s.onLan fun l => { l with pfCkpt := n, pfTime := wrap32 (l.aonTime - l.pfFrom) }) true n) := by
      refine congrArg (finish s) ?_
      unfold emergencyOver
      rw [if_neg (by simp [act, stores, waiting])]
    clear_value n
    obtain ⟨t, next, lan, rest⟩ := finish_ends (s := s)
      (E := enterHold (s.onLan fun l => { l with pfCkpt := n, pfTime := wrap32 (l.aonTime - l.pfFrom) }) true n) rfl rfl
    exact ⟨t, row.trans next, (congrArg Lan.blk lan).trans rfl, (congrArg Lan.act lan).trans rfl, (congrArg Lan.iso lan).trans rfl,
      (congrArg Lan.pfTime lan).trans rfl, (congrArg State.ctx (rest on)).trans rfl⟩
  · have row : exec .pfHoldExpire s = finish s (startNow (warmUnits s) 7 1) := by
      show finish s _ = _
      rw [if_pos (by simp [blk, pf]), powerUp_powered powered]
      exact congrArg (finish s) (warmStart_warm valid live)
    obtain ⟨t, next, lan, -⟩ := finish_ends (s := s) (E := startNow (warmUnits s) 7 1) rfl rfl
    exact ⟨t, row.trans next, (startNow_started (s := s) (A := warmUnits s) ⟨rfl, rfl, rfl, rfl, rfl⟩).of_lan lan, (congrArg Lan.keys lan).trans rfl⟩
  · exact finish_to (s := s) (E := s.onLan fun l => { l with pf := false }) on rfl rfl
  · have row : exec .ckRootOkFall s = finish s ((warmUnits s).onLan fun l => { l with
        rootOk := false, kind := 6, shape := 2, act := .clockLoss true, blk := .starting, step := 0, iso := true, startTimer := false
        optLoading := false, domWait := [] }) := by
      refine congrArg (finish s) ?_
      have blk : s.lan.blk = .ready := by simpa [State.ready] using ready
      unfold clockFall
      dsimp only [State.onLan]
      rw [blk]
      rfl
    obtain ⟨t, next, lan, rest⟩ := finish_ends (s := s) (E := (warmUnits s).onLan fun l => { l with
        rootOk := false, kind := 6, shape := 2, act := .clockLoss true, blk := .starting, step := 0, iso := true, startTimer := false
        optLoading := false, domWait := [] }) rfl rfl
    have same := rest on
    exact ⟨t, row.trans next, (congrArg Lan.rootOk lan).trans rfl, (congrArg Lan.act lan).trans rfl, (congrArg Lan.blk lan).trans rfl,
      (congrArg Lan.kind lan).trans rfl, (congrArg Lan.shape lan).trans rfl, (congrArg Lan.iso lan).trans rfl, (congrArg Lan.keys lan).trans rfl,
      (congrArg (fun u : State => u.rng.cmds) same).trans rfl, (congrArg (fun u : State => u.mem.words) same).trans rfl⟩
  · have row : exec .ckRootOkRise s = finish s (startNow (warmUnits (s.onLan fun l => { l with rootOk := true })) s.lan.kind s.lan.shape) := by
      refine congrArg (finish s) ?_
      unfold clockRise
      dsimp only [State.onLan]
      rw [act]
      exact warmStart_warm (s := s.onLan fun l => { l with rootOk := true }) valid live
    obtain ⟨t, next, lan, -⟩ := finish_ends (s := s)
      (E := startNow (warmUnits (s.onLan fun l => { l with rootOk := true })) s.lan.kind s.lan.shape) rfl rfl
    exact ⟨t, row.trans next, (congrArg Lan.rootOk lan).trans rfl,
      (startNow_started (s := s) (A := warmUnits (s.onLan fun l => { l with rootOk := true })) ⟨rfl, rfl, rfl, rfl, rfl⟩).of_lan lan⟩
  · by_cases root : s.lan.rootOk = true
    · have row : exec (.domainResetRelease d) s = finish s (s.onLan fun l => { l with
          domWait := l.domWait.filter (· != d), domReset := l.domReset.filter (· != d) }) := congrArg (finish s) (if_pos root)
      rw [row, if_pos root]
      exact finish_to on rfl rfl
    · have row : exec (.domainResetRelease d) s = finish s s := congrArg (finish s) (if_neg root)
      rw [row, if_neg root]
      exact finish_to on rfl rfl

end Sys2Proof.Machine
end

section
/-! What serving a stream at its token boundary changes of it, and that it changes no other stream (10 R384 to R387, 14 R517 to R519). -/

namespace Sys2Proof.Machine

/-! ## Changes of one stream -/

/-- Of the streams only stream id changes, and of it g tells nothing new. -/
structure Touches {α : Type} (id : Nat) (g : Stream → α) (a b : State) : Prop where
  others : ∀ n, n ≠ id → b.stream? n = a.stream? n
  same : (b.stream? id).map g = (a.stream? id).map g

section
variable {α : Type} {id : Nat} {g : Stream → α} {a b c : State}

theorem Touches.of_ctx (h : b.ctx = a.ctx) : Touches id g a b :=
  ⟨fun n _ => stream?_of_ctx h n, congrArg (Option.map g) (stream?_of_ctx h id)⟩

theorem Touches.refl (a : State) : Touches id g a a := .of_ctx rfl

theorem Touches.trans (h : Touches id g a b) (k : Touches id g b c) : Touches id g a c :=
  ⟨fun n e => (k.others n e).trans (h.others n e), k.same.trans h.same⟩

theorem Touches.foldl {β : Type} {f : State → β → State} (k : ∀ s x, Touches id g s (f s x)) (l : List β) (s : State) : Touches id g s (l.foldl f s) := by
  induction l generalizing s with
  | nil => exact .refl s
  | cons x r ih => exact (k s x).trans (ih (f s x))

theorem find_onStream (s : State) (f : Stream → Stream) (keeps : ∀ y, (f y).id = y.id) (id : Nat) :
    (s.onStream id f).stream? id = (s.stream? id).map f :=
  find?_modWhere (p := fun y : Stream => y.id == id) (fun y h => by rw [keeps]; exact h) _

theorem Touches.onStream (s : State) {f : Stream → Stream} (keeps : ∀ y, (f y).id = y.id) (still : ∀ y, g (f y) = g y) :
    Touches id g s (s.onStream id f) := by
  refine ⟨fun n other => stream_onStream_away f keeps other, ?_⟩
  rw [find_onStream s f keeps, Option.map_map]
  exact congrArg (Option.map · (s.stream? id)) (funext still)

/-- A stream that is there stays there. -/
theorem Touches.found (h : Touches id g a b) {x : Stream} (found : a.stream? id = some x) : ∃ y, b.stream? id = some y ∧ g y = g x := by
  have same := h.same
  rw [found] at same
  exact Option.map_eq_some_iff.mp same

theorem Touches.mono {β : Type} (h : Touches id g a b) (p : α → β) : Touches id (fun x => p (g x)) a b := by
  refine ⟨h.others, ?_⟩
  have k := congrArg (Option.map p) h.same
  rwa [Option.map_map, Option.map_map] at k

end

/-! ## What the parts of the service write -/

section
variable {α : Type}

/-- What looking up the keys of a set writes: the wait for space, the lines of spilled states, the notice of the first. -/
structure BlindToLookup (g : Stream → α) : Prop where
  eq : ∀ x waitCup spill spillSaid, g { x with waitCup := waitCup, spill := spill, spillSaid := spillSaid } = g x

/-- What beginning a build, or failing the step instead, writes besides. -/
structure BlindToBuild (g : Stream → α) : Prop extends BlindToLookup g where
  step : ∀ x st svc rebuild held pagesResv waitPages waitCup forcedEos, g { x with
    st := st, svc := svc, rebuild := rebuild, held := held, pagesResv := pagesResv, waitPages := waitPages, waitCup := waitCup, forcedEos := forcedEos } = g x

/-- What a checkpoint writes. -/
structure BlindToCkpt (g : Stream → α) : Prop where
  eq : ∀ x ckptDue ckptSteps waitCkpt ckptSerial ckptPend kept, g { x with
    ckptDue := ckptDue, ckptSteps := ckptSteps, waitCkpt := waitCkpt, ckptSerial := ckptSerial, ckptPend := ckptPend, kept := kept } = g x

/-- What taking a pending epoch writes. -/
structure BlindToEpoch (g : Stream → α) : Prop where
  eq : ∀ x epoch pendEpoch ckptDue, g { x with epoch := epoch, pendEpoch := pendEpoch, ckptDue := ckptDue } = g x

/-- What FIN_RESULT_CTL writes. -/
structure BlindToResult (g : Stream → α) : Prop where
  eq : ∀ x resultOn resultTop, g { x with resultOn := resultOn, resultTop := resultTop } = g x

end

section
variable {α : Type} {g : Stream → α} {s : State} {id : Nat}

/-! ## Checkpoints and epochs -/

theorem ckptOver_ctx (s : State) (id bytes : Nat) : (ckptOver s id bytes).ctx = s.ctx := by
  refine foldl_keeps _ State.ctx (fun s c => ?_) _ s
  split
  · rfl
  · dsimp only
    split <;> rfl

theorem writeSecret_ctx (s : State) (who : Req) (key : List Byte) (addr domain owner : Nat) (line : List Byte) :
    (writeSecret s who key addr domain owner line).ctx = s.ctx := rfl

theorem takeCkpt_touches (h : BlindToCkpt g) (s : State) (x : Stream) : Touches x.id g s (takeCkpt s x) := by
  unfold takeCkpt
  extract_lets serial seq u w img v
  have written : Touches x.id g s w := .of_ctx (writeLines_rings ..).ctx
  have imaged : Touches x.id g w v := .onStream w (fun _ => rfl) fun _ => h.eq ..
  clear_value w v
  split
  · have skipped : Touches x.id g u (u.onStream x.id fun y => { y with ckptDue := false, ckptSteps := 0, waitCkpt := false }) :=
      .onStream u (fun _ => rfl) fun _ => h.eq ..
    exact (Touches.of_ctx rfl : Touches x.id g s u).trans (skipped.trans (.of_ctx (ckptOver_ctx ..)))
  · refine written.trans ?_
    split
    · have skipped : Touches x.id g w (w.onStream x.id fun y => { y with ckptDue := false, waitCkpt := false }) :=
        .onStream w (fun _ => rfl) fun _ => h.eq ..
      exact skipped.trans (.of_ctx (ckptOver_ctx ..))
    · refine imaged.trans (.of_ctx ?_)
      exact foldl_keeps _ State.ctx (fun s i => writeSecret_ctx ..) _ v

theorem takeEpoch_none {s : State} {x : Stream} (h : x.pendEpoch = none) : takeEpoch s x = s := by
  simp only [takeEpoch, h]

theorem takeEpoch_touches (h : BlindToEpoch g) (s : State) (x : Stream) : Touches x.id g s (takeEpoch s x) := by
  unfold takeEpoch
  split
  · exact .refl s
  · split
    · exact .refl s
    · exact .onStream s (fun _ => rfl) fun _ => h.eq ..

theorem resultControl_touches (h : BlindToResult g) (s : State) (id : Nat) : Touches id g s (resultControl s id) :=
  .onStream s (fun _ => rfl) fun _ => h.eq ..

/-! ## Builds -/

theorem raiseHome_ctx (s : State) (x : Stream) (code step detail : Nat) : (raiseHome s x code step detail).ctx = s.ctx :=
  show (raiseHome s x code step detail).sansBel.ctx = s.sansBel.ctx by rw [raiseHome, raiseFrom_sansBel]

theorem stepEvents_touches (h : BlindToLookup g) (s : State) (x : Stream) (n : Nat) (r : Stepped) (step : Nat) :
    Touches x.id g s (stepEvents s x n r step) := by
  unfold stepEvents
  extract_lets a b c
  have cells : a.ctx = s.ctx := foldl_keeps _ State.ctx (fun t k => (raiseHome_ctx _ x _ _ _).trans (State.onAut_ctx ..)) _ _
  have drops : b.ctx = a.ctx := foldl_keeps _ State.ctx (fun t _ => (raiseHome_ctx _ x _ _ _).trans (State.onAut_ctx ..)) _ _
  have reads : c.ctx = b.ctx := rfl
  clear_value a b c
  have all : Touches x.id g s c := .of_ctx (reads.trans (drops.trans cells))
  split
  · split
    · exact all
    · exact all.trans ((Touches.onStream c (f := fun y => { y with spillSaid := true }) (fun _ => rfl) fun y => h.eq y y.waitCup y.spill true).trans
        (.of_ctx (raiseHome_ctx ..)))
  · exact all

theorem fetchSpill_ctx (s : State) (id l : Nat) : (fetchSpill id s l).ctx = s.ctx := by
  unfold fetchSpill
  extract_lets u
  have dropped : u.ctx = s.ctx := by
    dsimp only [u]
    split <;> rfl
  clear_value u
  have asked := congrArg State.ctx (fetchLine_sansFab u (.spillRead id) l)
  exact asked.trans dropped

theorem askSpill_touches (h : BlindToLookup g) (s : State) (x : Stream) (qs : List Nat) : Touches x.id g s (askSpill s x qs) := by
  unfold askSpill
  extract_lets now ls
  refine (Touches.onStream s (f := fun y => { y with spill := ls }) (fun _ => rfl) fun y => h.eq y y.waitCup ls y.spillSaid).trans (.of_ctx ?_)
  exact foldl_keeps _ State.ctx (fun s l => fetchSpill_ctx s x.id l) _ _

theorem fillEvents_touches (h : BlindToLookup g) (s : State) (x : Stream) (fs : List (CupKey × Stepped)) : Touches x.id g s (fillEvents s x fs) := by
  refine .foldl (fun s f => ?_) fs s
  refine (askSpill_touches h s x f.2.read).trans ?_
  generalize askSpill s x f.2.read = u
  dsimp only
  split
  · exact stepEvents_touches h ..
  · exact .of_ctx rfl

theorem cupRoom_ctx (n : Nat) : ∀ (k : Nat) (s : State), ∀ t ∈ cupRoom n k s, t.ctx = s.ctx
  | 0, s, t, mem => by
    unfold cupRoom at mem
    split at mem
    · cases mem; rfl
    · cases mem
  | k + 1, s, t, mem => by
    unfold cupRoom at mem
    split at mem
    · cases mem; rfl
    · dsimp only at mem
      split at mem
      · cases mem
      · exact (cupRoom_ctx n k _ t mem).trans rfl

theorem startFill_ctx {s : State} {k : CupKey} {eager : Bool} {ticket : Option Nat} {poster : Nat} {r : State × Stepped}
    (h : startFill s k eager ticket poster = some r) : r.1.ctx = s.ctx := by
  unfold startFill at h
  extract_lets a v f n e at h
  obtain ⟨t, room, rfl⟩ := Option.map_eq_some_iff.mp h
  refine Eq.trans ?_ (cupRoom_ctx _ _ _ t room)
  unfold postFill
  extract_lets now u w
  have same : u.ctx = t.ctx := by
    dsimp only [u]
    split <;> rfl
  exact same

theorem lookupKey_ctx {s : State} {k : CupKey} {p : Nat} {r : State × Bool × List (CupKey × Stepped)} (h : lookupKey s k p = some r) : r.1.ctx = s.ctx := by
  unfold lookupKey at h
  split at h
  · split at h
    · cases h; rfl
    · cases h; rfl
  · obtain ⟨q, filled, rfl⟩ := Option.map_eq_some_iff.mp h
    exact (startFill_ctx filled).trans rfl

theorem lookupKeys_ctx (p : Nat) : ∀ (ks : List CupKey) (s : State) (ok : Bool), (lookupKeys p ks s ok).1.ctx = s.ctx
  | [], _, _ => rfl
  | k :: ks, s, ok => by
    unfold lookupKeys
    cases h : lookupKey s k p with
    | none => rfl
    | some r => exact (lookupKeys_ctx p ks r.1 _).trans (lookupKey_ctx h)

theorem waitSpace_touches (h : BlindToLookup g) (s : State) (x : Stream) (root : Bool) : Touches x.id g s (waitSpace s x root) := by
  unfold waitSpace
  split
  · exact .refl s
  · extract_lets u
    have waits : Touches x.id g s u := .onStream s (fun _ => rfl) fun y => h.eq y true y.spill y.spillSaid
    clear_value u
    split
    · exact waits
    · exact waits.trans (.of_ctx ((raiseHome_ctx ..).trans rfl))

theorem lookService_touches (h : BlindToLookup g) (s : State) (x : Stream) (keys : List CupKey) : Touches x.id g s (lookService s x keys).1 := by
  unfold lookService
  extract_lets r t
  have looked : Touches x.id g s t := (Touches.of_ctx (lookupKeys_ctx ..)).trans (fillEvents_touches h ..)
  clear_value r t
  split
  · exact looked.trans (waitSpace_touches h ..)
  · exact looked.trans (.onStream t (fun _ => rfl) fun y => h.eq y false y.spill y.spillSaid)

theorem formSets_touches (h : BlindToLookup g) (s : State) (x : Stream) : Touches x.id g s (formSets s x) := by
  unfold formSets
  split
  · exact .refl s
  · extract_lets ns u v
    have asked : Touches x.id g s v := (askSpill_touches h s x ns.2).trans (.of_ctx rfl)
    clear_value v
    refine asked.trans (.of_ctx ?_)
    exact foldl_keeps _ State.ctx (by intro _ _; rfl) _ v

theorem tree_stream {s : State} {id : Nat} {t : Tree} (h : s.tree? id = some t) : t.stream = id := by
  simpa using List.find?_some h

theorem endRound_touches (h : BlindToBuild g) (s : State) (t : Tree) : Touches t.stream g s (endRound s t) :=
  (Touches.of_ctx rfl : Touches t.stream g s (dropUnits s t.stream t.step)).trans
    ((Touches.onStream (dropUnits s t.stream t.step) (f := fun y => { y with pagesResv := 0 }) (fun _ => rfl)
      fun y => h.step y y.st y.svc y.rebuild y.held 0 y.waitPages y.waitCup y.forcedEos).trans (.of_ctx rfl))

theorem dropSpill_touches (h : BlindToLookup g) (s : State) (id : Nat) : Touches id g s (dropSpill s id) :=
  (Touches.onStream s (f := fun y => { y with spill := [] }) (fun _ => rfl) fun y => h.eq y y.waitCup [] y.spillSaid).trans (.of_ctx rfl)

theorem emitToken_ctx (s : State) (stream step token flags : Nat) : (emitToken s stream step token flags).ctx = s.ctx := by
  unfold emitToken
  split <;> rfl

theorem failStep_touches (h : BlindToBuild g) (s : State) (x : Stream) : Touches x.id g s (failStep s x) := by
  unfold failStep
  extract_lets u
  have dropped : Touches x.id g s u := ((Touches.of_ctx rfl : Touches x.id g s (dropAllUnits s x.id)).trans
    (dropSpill_touches h.toBlindToLookup ..)).trans (.of_ctx (emitToken_ctx ..))
  clear_value u
  exact dropped.trans (.onStream u (fun _ => rfl) fun y => h.step y .stepFailed .none y.rebuild [] 0 false false false)

theorem faultedStep_touches (h : BlindToBuild g) (s : State) (x : Stream) : Touches x.id g s (faultedStep s x) := by
  unfold faultedStep
  extract_lets u
  have ended : Touches x.id g s u := by
    dsimp only [u]
    split
    · next t found => exact tree_stream found ▸ endRound_touches h s t
    · exact .refl s
  clear_value u
  refine ended.trans (.trans (b := dropSpill (dropAllUnits u x.id) x.id) ?_ ?_)
  · exact (Touches.of_ctx rfl : Touches x.id g u (dropAllUnits u x.id)).trans (dropSpill_touches h.toBlindToLookup ..)
  · exact .onStream _ (fun _ => rfl) fun y => h.step y .stepFailed .none y.rebuild y.held y.pagesResv y.waitPages y.waitCup y.forcedEos

/-- The build of a step whose unit is open. -/
def buildStep (s : State) (x : Stream) : State :=
  let s := formSets (ungate s (s.physOf x.home)) x
  (lookService (s.onStream x.id fun y => { y with st := .running, svc := .build }) x (serviceKeys s x)).1

theorem buildStep_touches (h : BlindToBuild g) (s : State) (x : Stream) : Touches x.id g s (buildStep s x) := by
  unfold buildStep
  extract_lets u
  have formed : Touches x.id g s u := (Touches.of_ctx rfl : Touches x.id g s (ungate s (s.physOf x.home))).trans (formSets_touches h.toBlindToLookup ..)
  clear_value u
  refine formed.trans (.trans (b := u.onStream x.id fun y => { y with st := .running, svc := .build }) ?_ (lookService_touches h.toBlindToLookup ..))
  exact .onStream u (fun _ => rfl) fun y => h.step y .running .build y.rebuild y.held y.pagesResv y.waitPages y.waitCup y.forcedEos

theorem beginBuild_eq (s : State) (x : Stream) : beginBuild s x = if boundFaulted s x then faultedStep s x else match s.unit? x.id x.next 0x7F with
    | some u => if u.st == .failed then failStep (match s.tree? x.id with
        | some t => endRound s { t with rootFailed := true }
        | none => s) x
      else buildStep s x
    | none => if 16384 ≤ unitsOpen s then s.onStream x.id fun y => { y with st := .running, svc := .waitUnit }
      else buildStep (openUnit s x.id x.next 0x7F) x := rfl

theorem beginBuild_touches (h : BlindToBuild g) (s : State) (x : Stream) : Touches x.id g s (beginBuild s x) := by
  rw [beginBuild_eq]
  split
  · exact faultedStep_touches h ..
  · split
    · split
      · refine .trans ?_ (failStep_touches h ..)
        split
        · next t found => exact tree_stream found ▸ endRound_touches h s { t with rootFailed := true }
        · exact .refl s
      · exact buildStep_touches h ..
    · split
      · exact .onStream s (fun _ => rfl) fun y => h.step y .running .waitUnit y.rebuild y.held y.pagesResv y.waitPages y.waitCup y.forcedEos
      · exact (Touches.of_ctx rfl : Touches x.id g s (openUnit s x.id x.next 0x7F)).trans (buildStep_touches h ..)

/-! ## The service of a boundary -/

/-- A stream that is served to its next step. -/
def goOn (s : State) (id : Nat) (x : Stream) : State :=
  match x.st with
  | .running | .idle =>
    if (s.tree? id).isSome || x.armed != some 0 || x.armSpent || x.rebuild then
      beginBuild (s.onStream id fun y => { y with rebuild := false }) { x with rebuild := false }
    else s.onStream id fun y => { y with st := .idle, svc := .none }
  | _ => s

/-- The checkpoint that is due is taken. -/
def ckptTurn (s : State) (x : Stream) : State := if ckptIsDue s x && recordedOver s x then takeCkpt s x else s

/-- The service after the pending epoch and FIN_RESULT_CTL are taken. -/
def serveOn (s : State) (id : Nat) : State :=
  match s.stream? id with
  | none => s
  | some x =>
    if !recordedOver (ckptTurn s x) x then ckptTurn s x
    else match (ckptTurn s x).stream? id with
      | none => ckptTurn s x
      | some y => goOn (ckptTurn s x) id y

theorem serve_eq (s : State) (id : Nat) : serve s id = match s.stream? id with
  | none => s
  | some x => if !x.atBoundary then s else serveOn (resultControl (takeEpoch s x) id) id := rfl

theorem ckptTurn_touches (h : BlindToCkpt g) (s : State) (x : Stream) : Touches x.id g s (ckptTurn s x) := by
  unfold ckptTurn
  split
  · exact takeCkpt_touches h s x
  · exact .refl s

/-- A state from which no build begins. -/
def Stream.Still (x : Stream) : Prop := x.st ≠ .running ∧ x.st ≠ .idle

theorem goOn_still {x : Stream} (h : x.Still) (s : State) (id : Nat) : goOn s id x = s := by
  obtain ⟨a, b⟩ := h
  unfold goOn
  split <;> first | contradiction | rfl

theorem goOn_touches (h : BlindToBuild g) (s : State) (x : Stream) : Touches x.id g s (goOn s x.id x) := by
  unfold goOn
  have again : Touches x.id g s (s.onStream x.id fun y => { y with rebuild := false }) :=
    .onStream s (fun _ => rfl) fun y => h.step y y.st y.svc false y.held y.pagesResv y.waitPages y.waitCup y.forcedEos
  have rests : Touches x.id g s (s.onStream x.id fun y => { y with st := .idle, svc := .none }) :=
    .onStream s (fun _ => rfl) fun y => h.step y .idle .none y.rebuild y.held y.pagesResv y.waitPages y.waitCup y.forcedEos
  split
  · split
    · exact again.trans (beginBuild_touches h (s.onStream x.id fun y => { y with rebuild := false }) { x with rebuild := false })
    · exact rests
  · split
    · exact again.trans (beginBuild_touches h (s.onStream x.id fun y => { y with rebuild := false }) { x with rebuild := false })
    · exact rests
  · exact .refl s

theorem serveOn_touches (hC : BlindToCkpt g) (hB : BlindToBuild g ∨ ∀ x, s.stream? id = some x → x.Still) : Touches id g s (serveOn s id) := by
  unfold serveOn
  split
  · exact .refl s
  · next x found =>
    obtain rfl := stream_id found
    have turn := ckptTurn_touches hC s x
    have st := ckptTurn_touches (g := Stream.st) ⟨fun _ _ _ _ _ _ _ => rfl⟩ s x
    split
    · exact turn
    · split
      · exact turn
      · next y found' =>
        have id : y.id = x.id := stream_id found'
        obtain ⟨z, there, same⟩ := st.found found
        rw [found'] at there
        cases there
        rcases hB with h | still
        · exact turn.trans (id ▸ goOn_touches h (ckptTurn s x) y)
        · rw [goOn_still (by unfold Stream.Still; rw [same]; exact still x found)]
          exact turn

theorem serve_touches (hE : BlindToEpoch g ∨ ∀ x, s.stream? id = some x → x.pendEpoch = none) (hR : BlindToResult g) (hC : BlindToCkpt g)
    (hB : BlindToBuild g ∨ ∀ x, s.stream? id = some x → x.Still) : Touches id g s (serve s id) := by
  rw [serve_eq]
  split
  · exact .refl s
  · next x found =>
    obtain rfl := stream_id found
    split
    · exact .refl s
    · have first : Touches x.id g s (resultControl (takeEpoch s x) x.id) := by
        rcases hE with h | none
        · exact (takeEpoch_touches h s x).trans (resultControl_touches hR _ _)
        · rw [takeEpoch_none (none x found)]
          exact resultControl_touches hR s _
      have st : Touches x.id Stream.st s (resultControl (takeEpoch s x) x.id) :=
        (takeEpoch_touches ⟨fun _ _ _ _ => rfl⟩ s x).trans (resultControl_touches ⟨fun _ _ _ => rfl⟩ _ _)
      refine first.trans (serveOn_touches hC (hB.imp id fun still y there => ?_))
      obtain ⟨z, there', same⟩ := st.found found
      rw [there] at there'
      cases there'
      unfold Stream.Still
      rw [same]
      exact still x found

/-! ## A command recorded and taken up at once -/

/-- The turn of a stream at its queue writes the wait for its room. -/
theorem inTurn_touches (h : ∀ x waitQueue, g { x with waitQueue := waitQueue } = g x) (s : State) (x : Stream) : Touches x.id g s (inTurn s x) := by
  unfold inTurn
  split
  · exact (Touches.of_ctx rfl : Touches x.id g s (s.onQueue x.queue fun q => { q with waiters := [] })).trans (.onStream _ (fun _ => rfl) fun y => h y false)
  · exact .refl s

theorem outTurn_ctx (before s : State) (x : Stream) : (outTurn before s x).ctx = s.ctx := by
  unfold outTurn
  split <;> rfl

end

end Sys2Proof.Machine
end

section
/-! Commands for a stream: refused, recorded, or taken up at its boundary (02 R82, R96 to R98, 10 R378). -/

namespace Sys2Proof.Machine

/-! ## Commands that a stream takes or refuses -/

section
variable {s : State} {k op : Nat} {c : Cmd} {x : Stream}

theorem takes_facts (h : s.Takes k op c x) : s.Accepted k op c ∧ s.stream? x.id = some x ∧ x.id = c.stream ∧ streamTakes x c.opcode = true ∧
    x.owner = c.owner := by
  obtain ⟨acc, found, owner, closing, lost, ok⟩ := h
  have id := stream_id found
  refine ⟨acc, id ▸ found, id, ?_, owner⟩
  rw [(accepted_facts acc).2.2.2.2.1]
  simp [streamTakes, closing, lost, ok]

theorem withStream_takes (h : s.Takes k op c x) (f : Stream → State) : withStream s c f = f x := by
  obtain ⟨-, found, -, ok, owner⟩ := takes_facts h
  simp [withStream, h.2.1, ok, owner]

theorem withStream_none (h : s.stream? c.stream = none) (f : Stream → State) : withStream s c f = reject s c .streamState := by
  simp only [withStream, h]

theorem withStream_foreign (h : s.stream? c.stream = some x) (owner : x.owner ≠ c.owner) (f : Stream → State) :
    withStream s c f = reject s c .ownerMismatch := by
  simp only [withStream, h, owner, ne_eq, not_false_eq_true, if_true]

theorem withStream_refused (h : s.stream? c.stream = some x) (owner : x.owner = c.owner) (refused : x.closing = true ∨ accepts x c.opcode = false)
    (f : Stream → State) : withStream s c f = reject s c .streamState := by
  have no : streamTakes x c.opcode = false := by
    rcases refused with h | h <;> simp [streamTakes, h]
  simp [withStream, h, owner, no]

end

/-! ## A command recorded -/

theorem onStream_onStream (s : State) (id : Nat) {f : Stream → Stream} (g : Stream → Stream) (keeps : ∀ y, (f y).id = y.id) :
    (s.onStream id f).onStream id g = s.onStream id fun y => g (f y) := by
  simp only [State.onStream, State.onCtx, modWhere, List.map_map]
  congr 3
  funext y
  by_cases h : y.id = id <;> simp [h, keeps]

/-- The stream lists a command. -/
def Stream.lists (k : Nat) (y : Stream) : Stream := { y with recorded := if y.recorded.contains k then y.recorded else y.recorded ++ [k] }

/-- A command that is recorded, before the boundary of its stream. -/
def noted (s : State) (c : Cmd) (id : Nat) : State := (s.onCmd c.ticket fun c => { c with phase := .recorded }).onStream id (Stream.lists c.ticket)

theorem recordFor_eq (s : State) (c : Cmd) (id : Nat) : recordFor s c id = boundary (noted s c id) id := rfl

theorem noted_eq (s : State) (c : Cmd) (n : Nat) : noted s c n = s.recordedOn c.ticket n id := rfl

/-- A command for a stream with a step in flight waits. -/
theorem recordFor_away {s : State} {c : Cmd} {id : Nat} (away : ∀ x, s.stream? id = some x → x.atBoundary = false) :
    recordFor s c id = noted s c id := by
  rw [recordFor_eq]
  refine boundary_away fun y found => ?_
  have there : (noted s c id).stream? id = (s.stream? id).map (Stream.lists c.ticket) :=
    find_onStream (s.onCmd c.ticket fun c => { c with phase := .recorded }) (Stream.lists c.ticket) (fun _ => rfl) id
  rw [there] at found
  obtain ⟨x, old, rfl⟩ := Option.map_eq_some_iff.mp found
  exact away x old

theorem noted_after {s : State} (f : Stream → Stream) (keeps : ∀ y, (f y).id = y.id ∧ (f y).recorded = y.recorded) (c : Cmd) (n : Nat) :
    noted (s.onStream n f) c n = s.recordedOn c.ticket n f := by
  have both := onStream_onStream (s.onCmd c.ticket fun c => { c with phase := .recorded }) n (f := f) (Stream.lists c.ticket) fun y => (keeps y).1
  have lists : (fun y => Stream.lists c.ticket (f y)) = fun y =>
      { f y with recorded := if y.recorded.contains c.ticket then y.recorded else y.recorded ++ [c.ticket] } :=
    funext fun y => by rw [Stream.lists, (keeps y).2]
  rw [lists] at both
  exact both

/-- The end of a command that waits at its stream, with a change of the stream that leaves its step in flight. -/
theorem finish_waits {s : State} {k op : Nat} {c : Cmd} {x : Stream} (h : s.Takes k op c x) (away : x.atBoundary = false) {f : Stream → Stream}
    (keeps : ∀ y, (f y).id = y.id ∧ (f y).recorded = y.recorded) (flight : (f x).atBoundary = x.atBoundary) :
    ∃ t, finish s (recordFor (s.onStream x.id f) c x.id) = .next t ∧ t.sansFab = (s.recordedOn k x.id f).sansFab := by
  obtain ⟨acc, found, -⟩ := takes_facts h
  obtain ⟨-, fenced, -, ticket, -⟩ := accepted_facts acc
  rw [recordFor_away, noted_after f keeps, ticket]
  · exact finish_to fenced rfl rfl
  · intro y there
    rw [stream_onStream f (fun y => (keeps y).1) found] at there
    cases there
    exact flight.trans away

theorem finish_waits_plain {s B : State} {k op : Nat} {c : Cmd} {x : Stream} (h : s.Takes k op c x) (away : x.atBoundary = false)
    (same : B.sansFab = s.sansFab) : ∃ t, finish s (recordFor B c x.id) = .next t ∧ t.sansFab = (s.recordedOn k x.id id).sansFab := by
  obtain ⟨acc, found, -⟩ := takes_facts h
  obtain ⟨-, fenced, -, ticket, -⟩ := accepted_facts acc
  have ctx := congrArg State.ctx same
  rw [recordFor_away, noted_eq, ticket]
  · obtain ⟨lan, pending, variant⟩ : B.lan = s.lan ∧ B.pending = s.pending ∧ B.variant = s.variant :=
      have lan := congrArg State.lan same
      have pending := congrArg State.pending same
      have variant := congrArg State.variant same
      ⟨lan, pending, variant⟩
    obtain ⟨t, next, same'⟩ := finish_to (s := s) (E := B.recordedOn k x.id id) ((congrArg Lan.fenced lan).trans fenced) pending variant
    exact ⟨t, next, same'.trans (congrArg (fun u : State => u.recordedOn k x.id id) same)⟩
  · intro y there
    have still : B.stream? x.id = s.stream? x.id := stream?_of_ctx ctx x.id
    rw [still, found] at there
    cases there
    exact away

/-- The end of a command that its unit refuses at once. -/
theorem finish_refused {s : State} {k op : Nat} {c : Cmd} (h : s.Accepted k op c) (st : Status) (step : Nat) :
    ∃ t, finish s (reject s c st step) = .next t ∧ Completed s t c st.code step 0 0 ∧ { t with rng := s.rng }.sansFab = s.sansFab :=
  finish_complete (accepted_facts h).2.1 rfl rfl rfl rfl

/-- Settles O14. That a refused command's completion carries STEP 0 is the model's reading (log entry 77). -/
theorem heldAndRefusedCommands : Obligations.HeldAndRefusedCommands := by
  unfold Obligations.HeldAndRefusedCommands
  refine ⟨fun s k c x away => ⟨fun h status plain => ?_, fun h => ?_, fun h => ?_, fun h => ?_, fun h soft => ?_, fun h one fresh => ?_, fun h one => ?_⟩,
    fun s k c => ⟨fun absent i op mem acc => ?_, fun x found i op mem acc => ⟨fun foreign => ?_, fun owner refused => ?_⟩⟩⟩
  · have row : exec (.streamParams k) s = finish s (recordFor s c x.id) := by
      refine congrArg (finish s) ((runCmd_accepted h.1 _).trans ((withStream_takes h _).trans ?_))
      simp only [status, plain, Bool.not_false, if_true]
    rw [row]
    exact finish_waits_plain h away rfl
  · have row : exec (.prompt k) s = finish s (recordFor (fetchBytes s (.command c.ticket) c.addr24 c.promptLen) c x.id) :=
      congrArg (finish s) ((runCmd_accepted h.1 _).trans (withStream_takes h _))
    rw [row]
    exact finish_waits_plain h away (fetchBytes_sansFab ..)
  · have row : exec (.stepArm k) s = finish s (recordFor s c x.id) :=
      congrArg (finish s) ((runCmd_accepted h.1 _).trans (withStream_takes h _))
    rw [row]
    exact finish_waits_plain h away rfl
  · have row : exec (.draft k) s = finish s (recordFor (fetchBytes s (.command c.ticket) c.addr24 c.len32) c x.id) :=
      congrArg (finish s) ((runCmd_accepted h.1 _).trans (withStream_takes h _))
    rw [row]
    exact finish_waits_plain h away (fetchBytes_sansFab ..)
  · have row : exec (.streamClose k) s = finish s (recordFor (s.onStream x.id fun y => { y with closing := true }) c x.id) := by
      refine congrArg (finish s) ((runCmd_accepted h.1 _).trans ((withStream_takes h _).trans ?_))
      simp only [soft, Bool.false_eq_true, if_false]
    rw [row]
    exact finish_waits h away (fun _ => ⟨rfl, rfl⟩) rfl
  · have row : exec (.epochSet k) s = finish s (recordFor (s.onStream x.id fun y => { y with pendEpoch := some (c.le 20 4) }) c x.id) := by
      refine congrArg (finish s) ((runCmd_accepted h.1 _).trans ?_)
      rw [runEpochSet, one, if_neg Bool.false_ne_true]
      refine (withStream_takes h _).trans ?_
      rw [fresh, if_neg Bool.false_ne_true]
    rw [row]
    exact finish_waits h away (fun _ => ⟨rfl, rfl⟩) rfl
  · have row : exec (.suspend k) s = finish s (recordFor s c x.id) := by
      refine congrArg (finish s) ((runCmd_accepted h.1 _).trans ?_)
      rw [runSuspend, one, if_neg Bool.false_ne_true]
      exact withStream_takes h _
    rw [row]
    exact finish_waits_plain h away rfl
  · have row : exec i s = finish s (reject s c .streamState) := by
      simp only [List.mem_cons, List.not_mem_nil, or_false, Prod.mk.injEq] at mem
      obtain ⟨rfl, rfl⟩ | ⟨rfl, rfl⟩ | ⟨rfl, rfl⟩ | ⟨rfl, rfl⟩ | ⟨rfl, rfl⟩ | ⟨rfl, rfl⟩ := mem
      · exact congrArg (finish s) ((runCmd_accepted acc _).trans (withStream_none absent _))
      · exact congrArg (finish s) ((runCmd_accepted acc _).trans (withStream_none absent _))
      · exact congrArg (finish s) ((runCmd_accepted acc _).trans (withStream_none absent _))
      · exact congrArg (finish s) ((runCmd_accepted acc _).trans (withStream_none absent _))
      · exact congrArg (finish s) ((runCmd_accepted acc _).trans (withStream_none absent _))
      · refine congrArg (finish s) ((runCmd_accepted acc _).trans ?_)
        simp only [runReattach, absent]
    rw [row]
    exact finish_refused acc .streamState 0
  · have row : exec i s = finish s (reject s c .ownerMismatch) := by
      have no : ∀ f, withStream s c f = reject s c .ownerMismatch := withStream_foreign found foreign
      simp only [List.mem_cons, List.not_mem_nil, or_false, Prod.mk.injEq] at mem
      obtain ⟨rfl, rfl⟩ | ⟨rfl, rfl⟩ | ⟨rfl, rfl⟩ | ⟨rfl, rfl⟩ | ⟨rfl, rfl⟩ := mem <;>
        exact congrArg (finish s) ((runCmd_accepted acc _).trans (no _))
    rw [row]
    exact finish_refused acc .ownerMismatch 0
  · have row : exec i s = finish s (reject s c .streamState) := by
      have no : ∀ f, withStream s c f = reject s c .streamState :=
        withStream_refused found owner (by rw [(accepted_facts acc).2.2.2.2.1]; exact refused)
      simp only [List.mem_cons, List.not_mem_nil, or_false, Prod.mk.injEq] at mem
      obtain ⟨rfl, rfl⟩ | ⟨rfl, rfl⟩ | ⟨rfl, rfl⟩ | ⟨rfl, rfl⟩ | ⟨rfl, rfl⟩ := mem <;>
        exact congrArg (finish s) ((runCmd_accepted acc _).trans (no _))
    rw [row]
    exact finish_refused acc .streamState 0

end Sys2Proof.Machine
end

section
/-! A command that its stream takes up at once, at a token boundary (02 R97). -/

namespace Sys2Proof.Machine

/-- The commands of a state are found by their ticket. -/
theorem cmd_onCmd {s : State} {k : Nat} {c : Cmd} (f : Cmd → Cmd) (keeps : ∀ d, (f d).ticket = d.ticket) (h : s.cmd? k = some c) :
    (s.onCmd k f).cmd? k = some (f c) := by
  show (modWhere s.rng.cmds (·.ticket == k) f).find? (·.ticket == k) = _
  rw [find?_modWhere (fun d hd => by rw [keeps]; exact hd)]
  exact congrArg (Option.map f) h

/-- A command as it is recorded. -/
def Cmd.noted (c : Cmd) : Cmd := { c with phase := .recorded }

/-- A stream that lists one command. -/
def Stream.noted (k : Nat) (x : Stream) : Stream := { x with recorded := [k] }

/-- A stream that lists one command, and whose turn at its queue it may be. -/
def Stream.turned (s : State) (k : Nat) (x : Stream) : Stream :=
  { x with recorded := [k], waitQueue := if hasTurn s (x.noted k) then false else x.waitQueue }

/-- The command leaves the list. -/
def Stream.unlists (k : Nat) (y : Stream) : Stream := { y with recorded := y.recorded.filter (· != k), idleSaid := false }

section
variable {s : State} {c : Cmd} {x : Stream} (found : s.stream? x.id = some x) (list : x.recorded = [c.ticket]) (bound : x.atBoundary = true)
  (due : x.endDue = 0) (zero : x.zeroing = false)
include found list bound due zero

/-- At a boundary where one command is recorded it is taken up, and the stream goes on. -/
theorem boundary_takes (draft : Attach) {A B : State} {X : Stream} (hA : inTurn s x = A) (turn : A.stream? x.id = some X) (atB : X.atBoundary = true)
    (listX : X.recorded = [c.ticket]) (cmd : A.cmd? c.ticket = some c) (front : behindDraft A X c = false)
    (effect : (if c.opcode = 0x24 then draft A X c else takeEffect A X c) = .ok B)
    (single : ∀ y, B.stream? x.id = some y → (y.recorded.filter (· != c.ticket)) = []) :
    boundaryWith draft s x.id = serve (outTurn s (B.onStream x.id (Stream.unlists c.ticket)) x) x.id := by
  have empty : ∀ y, (B.onStream x.id (Stream.unlists c.ticket)).stream? x.id = some y → y.recorded = [] := by
    intro y h
    rw [find_onStream B (Stream.unlists c.ticket) (fun _ => rfl)] at h
    obtain ⟨z, old, rfl⟩ := Option.map_eq_some_iff.mp h
    exact single z old
  have segment : applySegment draft 2 A x.id false = .ok (B.onStream x.id (Stream.unlists c.ticket)) := by
    have after : ∀ p, applySegment draft 1 (B.onStream x.id (Stream.unlists c.ticket)) x.id p = .ok (B.onStream x.id (Stream.unlists c.ticket)) := by
      intro p
      unfold applySegment
      cases h : (B.onStream x.id (Stream.unlists c.ticket)).stream? x.id with
      | none => rfl
      | some y => simp [empty y h]
    unfold applySegment
    rw [turn]
    simp only [atB, listX, cmd, front, effect, Bool.not_true, Bool.false_eq_true, Bool.false_and, Bool.or_false, if_false]
    exact after _
  have applied : applyRecorded draft 2 s x.id = outTurn s (B.onStream x.id (Stream.unlists c.ticket)) x := by
    unfold applyRecorded
    rw [found]
    simp only [bound, list, Bool.not_true, List.isEmpty_cons, Bool.or_self, Bool.false_eq_true, if_false, hA, List.length_singleton]
    rw [segment]
    unfold applyRecorded
    have same := stream?_of_ctx (outTurn_ctx s (B.onStream x.id (Stream.unlists c.ticket)) x) x.id
    cases h : (outTurn s (B.onStream x.id (Stream.unlists c.ticket)) x).stream? x.id with
    | none => simp [h]
    | some y => simp [h, empty y (same.symm.trans h)]
  rw [boundaryWith, found]
  dsimp only
  rw [if_neg (by rw [due]; simp), zero, Bool.false_and, if_neg Bool.false_ne_true, list]
  exact congrArg (fun t => serve t x.id) applied

end

section
variable {s : State} {c : Cmd} {x : Stream} (found : s.stream? x.id = some x) (waits : s.cmd? c.ticket = some c) (rest : x.Resting)
include found rest

theorem noted_stream : (noted s c x.id).stream? x.id = some (x.noted c.ticket) := by
  have there := stream_onStream (s := s.onCmd c.ticket fun c => { c with phase := .recorded }) (Stream.lists c.ticket) (fun _ => rfl) found
  refine there.trans ?_
  simp [Stream.lists, Stream.noted, rest.2.1]

theorem inTurn_stream : (inTurn (noted s c x.id) (x.noted c.ticket)).stream? x.id = some (x.turned (noted s c x.id) c.ticket) := by
  have there := noted_stream (c := c) found rest
  unfold inTurn Stream.turned
  split
  · exact stream_onStream (s := (noted s c x.id).onQueue x.queue fun q => { q with waiters := [] }) (fun y => { y with waitQueue := false }) (fun _ => rfl) there
  · exact there

include waits in
omit found rest in
theorem inTurn_cmd : (inTurn (noted s c x.id) (x.noted c.ticket)).cmd? c.ticket = some c.noted := by
  have there : (noted s c x.id).cmd? c.ticket = some c.noted := cmd_onCmd (fun c => { c with phase := .recorded }) (fun _ => rfl) waits
  unfold inTurn
  split <;> exact there

include waits in
/-- At a boundary with nothing else recorded the command is taken up, and the stream goes on. -/
theorem recordFor_taken {A B : State} (hA : inTurn (noted s c x.id) (x.noted c.ticket) = A)
    (front : behindDraft A (x.turned (noted s c x.id) c.ticket) c.noted = false) (op : c.opcode ≠ 0x24)
    (effect : takeEffect A (x.turned (noted s c x.id) c.ticket) c.noted = .ok B)
    (single : ∀ y, B.stream? x.id = some y → (y.recorded.filter (· != c.ticket)) = []) :
    recordFor s c x.id = serve (outTurn (noted s c x.id) (B.onStream x.id (Stream.unlists c.ticket)) (x.noted c.ticket)) x.id := by
  have turn := inTurn_stream (c := c) found rest
  have cmd := inTurn_cmd (x := x) waits
  have there := noted_stream (c := c) found rest
  obtain ⟨bound, -, due, zero⟩ := rest
  rw [hA] at turn cmd
  refine boundary_takes (c := c.noted) (x := x.noted c.ticket) there rfl bound due zero _ hA turn bound rfl cmd front ?_ single
  exact (if_neg op).trans effect

end

/-! ## STEP_ARM -/

section
variable {s S : State} {c : Cmd} {x : Stream} (fenced : s.lan.fenced = false) (base : Fwd s S) (found : S.stream? x.id = some x)
  (waits : S.cmd? c.ticket = some c) (rest : x.Resting) {A B : State} (hA : inTurn (noted S c x.id) (x.noted c.ticket) = A)
  (front : behindDraft A (x.turned (noted S c x.id) c.ticket) c.noted = false) (other : c.opcode ≠ 0x24)
  (effect : takeEffect A (x.turned (noted S c x.id) c.ticket) c.noted = .ok B)
include fenced base found waits rest hA front other effect

/-- Taking up a command: what it leaves is served, with its completions, and with the streams as the command left them but for its place in the list. -/
theorem finish_taken_any (single : ∀ y, B.stream? x.id = some y → (y.recorded.filter (· != c.ticket)) = []) :
    ∃ t O, finish s (recordFor S c x.id) = .next t ∧ (∀ e ∈ B.rng.comps, e ∈ t.rng.comps) ∧
      O = outTurn (noted S c x.id) (B.onStream x.id (Stream.unlists c.ticket)) (x.noted c.ticket) ∧ t.sansFab = (serve O x.id).sansFab := by
  have taken := recordFor_taken found waits rest hA front other effect single
  have fwd : Fwd s (recordFor S c x.id) := recordFor_fwd base
  obtain ⟨t, next, same⟩ := finish_to (s := s) ((congrArg Lan.fenced fwd.lan).trans fenced) fwd.pending fwd.variant
  refine ⟨t, _, next, fun e mem => ?_, rfl, same.trans (congrArg State.sansFab taken)⟩
  have rng := congrArg State.rng same
  have comps : t.rng.comps = (recordFor S c x.id).rng.comps := congrArg Rng.comps rng
  rw [comps, taken]
  have there : e ∈ (outTurn (noted S c x.id) (B.onStream x.id (Stream.unlists c.ticket)) (x.noted c.ticket)).rng.comps := by
    unfold outTurn
    split <;> exact mem
  exact (serve_fwd (.refl _)).comps e there

/-- The same for a command that leaves its stream open. -/
theorem finish_taken {b : Stream} (left : B.stream? x.id = some b) (single : b.recorded.filter (· != c.ticket) = []) :
    ∃ t O, finish s (recordFor S c x.id) = .next t ∧ (∀ e ∈ B.rng.comps, e ∈ t.rng.comps) ∧
      O.stream? x.id = some (b.unlists c.ticket) ∧ ∀ n, t.stream? n = (serve O x.id).stream? n := by
  obtain ⟨t, O, next, comps, hO, same⟩ := finish_taken_any fenced base found waits rest hA front other effect fun y there => by
    rw [left] at there
    cases there
    exact single
  have ctx := congrArg State.ctx same
  refine ⟨t, O, next, comps, ?_, fun n => stream?_of_ctx ctx n⟩
  rw [hO, stream?_of_ctx (outTurn_ctx ..)]
  exact stream_onStream (Stream.unlists c.ticket) (fun _ => rfl) left

end

theorem alone_left (k : Nat) : [k].filter (· != k) = [] := by
  simp

/-- A completion of a recorded command is one of the command. -/
theorem complete_answers (s : State) (c : Cmd) (status step d0 d1 : Nat) :
    ∃ e ∈ (complete s c.noted status step d0 d1).rng.comps, e.IsFor c status step d0 d1 := by
  obtain ⟨e, isFor, same⟩ := complete_posts s c.noted status step d0 d1
  have rng := congrArg State.rng same
  have comps : (complete s c.noted status step d0 d1).rng.comps = _ := congrArg Rng.comps rng
  exact ⟨e, by rw [comps]; exact List.mem_append_right _ List.mem_cons_self, isFor⟩

theorem complete_ctx (s : State) (c : Cmd) (status step d0 d1 : Nat) : (complete s c status step d0 d1).ctx = s.ctx := rfl

/-- The armed count and the next step are not the service's to change. -/
theorem served_armed (s : State) (id : Nat) : Touches id (fun y => (y.armed, y.next)) s (serve s id) :=
  serve_touches (.inl ⟨fun _ _ _ _ => rfl⟩) ⟨fun _ _ _ => rfl⟩ ⟨fun _ _ _ _ _ _ _ => rfl⟩ (.inl ⟨⟨fun _ _ _ _ => rfl⟩, fun _ _ _ _ _ _ _ _ _ => rfl⟩)

/-- Settles O15. That a STEP_MISMATCH completion carries the stream's next step is the model's reading (log entry 77). -/
theorem stepArmAtBoundary : Obligations.StepArmAtBoundary := by
  unfold Obligations.StepArmAtBoundary
  intro s k c x h rest
  obtain ⟨acc, found, -⟩ := takes_facts h
  obtain ⟨-, fenced, waits, ticket, opcode, -⟩ := accepted_facts acc
  rw [← ticket] at waits
  have row : exec (.stepArm k) s = finish s (recordFor s c x.id) := congrArg (finish s) ((runCmd_accepted h.1 _).trans (withStream_takes h _))
  obtain ⟨A, hA⟩ : ∃ A, inTurn (noted s c x.id) (x.noted c.ticket) = A := ⟨_, rfl⟩
  have turned := inTurn_stream (c := c) found rest
  rw [hA] at turned
  have kind : c.noted.opcode = 0x23 := opcode
  have front : behindDraft A (x.turned (noted s c x.id) c.ticket) c.noted = false := by
    simp [behindDraft, kind]
  have arms : takeEffect A (x.turned (noted s c x.id) c.ticket) c.noted = .ok (effectArm A (x.turned (noted s c x.id) c.ticket) c.noted) := by
    simp only [takeEffect, kind]
  rw [row]
  refine ⟨fun fits => ?_, fun named other => ?_⟩
  · obtain ⟨F, hF⟩ : ∃ F : Stream → Stream, F = fun y => { y with
        armed := if c.le 16 4 = 0 then none else some (c.le 16 4), idleSaid := false, ckptDue := true
        st := if y.st == .idle then .running else y.st
        prior := if y.st == .suspended && y.prior == .idle then .running else y.prior } := ⟨_, rfl⟩
    have armed : effectArm A (x.turned (noted s c x.id) c.ticket) c.noted = complete (A.onStream x.id F) c.noted 0 x.next (c.le 16 4) 0 := by
      rw [hF]
      exact if_neg (by rintro ⟨a, b⟩; exact fits.elim a b)
    have there := stream_onStream F (by rw [hF]; exact fun _ => rfl) turned
    rw [armed] at arms
    obtain ⟨t, O, next, comps, octx, same⟩ := finish_taken fenced (.refl s) found waits rest hA front (by rw [opcode]; decide) arms there (by rw [hF]; exact alone_left c.ticket)
    obtain ⟨y, final, kept⟩ := (served_armed O x.id).found octx
    obtain ⟨e, mem, isFor⟩ := complete_answers (A.onStream x.id F) c 0 x.next (c.le 16 4) 0
    rw [hF] at kept
    have armed := congrArg Prod.fst kept
    have step := congrArg Prod.snd kept
    exact ⟨t, y, next, ⟨e, comps e mem, isFor⟩, (same x.id).trans final, armed, step⟩
  · have refused : effectArm A (x.turned (noted s c x.id) c.ticket) c.noted = complete A c.noted 0x2015 x.next 0 0 := if_pos ⟨named, other⟩
    rw [refused] at arms
    obtain ⟨t, O, next, comps, octx, same⟩ := finish_taken fenced (.refl s) found waits rest hA front (by rw [opcode]; decide) arms turned (alone_left c.ticket)
    obtain ⟨y, final, kept⟩ := (served_armed O x.id).found octx
    obtain ⟨e, mem, isFor⟩ := complete_answers A c 0x2015 x.next 0 0
    exact ⟨t, y, next, ⟨e, comps e mem, isFor⟩, (same x.id).trans final, congrArg Prod.fst kept⟩

end Sys2Proof.Machine
end

section
/-! What a stream goes on to at its boundary, and STREAM_OPEN (10 R374, R375, R384, Tables 10.1, 10.2). -/

namespace Sys2Proof.Machine

/-! ## Housekeeping at a boundary -/

/-- Streams, rings, keys' use, commands and the fabric aside, a state is as it was. -/
def HouseOnly (a b : State) : Prop := { b with ctx := a.ctx, pkr := a.pkr, cry := a.cry, rng := a.rng, fab := a.fab } = a

theorem HouseOnly.refl (a : State) : HouseOnly a a := rfl

theorem HouseOnly.trans {a b c : State} (h : HouseOnly a b) (k : HouseOnly b c) : HouseOnly a c := by
  unfold HouseOnly at *
  rw [← congrArg (fun t : State => ({ t with ctx := a.ctx, pkr := a.pkr, cry := a.cry, rng := a.rng, fab := a.fab } : State)) k] at h
  exact h

theorem HouseOnly.foldl {α : Type} {g : State → α → State} (k : ∀ s x, HouseOnly s (g s x)) (l : List α) (s : State) : HouseOnly s (l.foldl g s) := by
  induction l generalizing s with
  | nil => rfl
  | cons x r ih => exact (k s x).trans (ih (g s x))

theorem HouseOnly.of_rings {a b : State} (h : RingsOnly a b) : HouseOnly a b := by
  have e := congrArg (fun t : State => ({ t with ctx := a.ctx, rng := a.rng } : State)) h
  exact e

section
variable {a b : State} (h : HouseOnly a b)
include h

theorem HouseOnly.stp : b.stp = a.stp := by
  have e := congrArg State.stp h
  exact e

theorem HouseOnly.fin : b.fin = a.fin := by
  have e := congrArg State.fin h
  exact e

theorem HouseOnly.voc : b.voc = a.voc := by
  have e := congrArg State.voc h
  exact e

theorem HouseOnly.aut : b.aut = a.aut := by
  have e := congrArg State.aut h
  exact e

end

theorem ckptOver_house (s : State) (id bytes : Nat) : HouseOnly s (ckptOver s id bytes) := by
  refine .foldl (fun s c => ?_) _ s
  split
  · rfl
  · dsimp only
    split <;> rfl

theorem writeSecret_house (s : State) (who : Req) (key : List Byte) (addr domain owner : Nat) (line : List Byte) :
    HouseOnly s (writeSecret s who key addr domain owner line) := rfl

theorem takeCkpt_house (s : State) (x : Stream) : HouseOnly s (takeCkpt s x) := by
  unfold takeCkpt
  extract_lets serial seq u w img v
  have written : HouseOnly s w := .of_rings (writeLines_rings ..)
  have imaged : HouseOnly w v := rfl
  have skipped : ∀ (t : State) (f : Stream → Stream), HouseOnly t (t.onStream x.id f) := fun _ _ => rfl
  have missed : HouseOnly s u := rfl
  clear_value u w v
  split
  · exact missed.trans ((skipped u _).trans (ckptOver_house ..))
  · refine written.trans ?_
    split
    · exact (skipped w _).trans (ckptOver_house ..)
    · exact imaged.trans (.foldl (fun s i => writeSecret_house ..) _ v)

theorem ckptTurn_house (s : State) (x : Stream) : HouseOnly s (ckptTurn s x) := by
  unfold ckptTurn
  split
  · exact takeCkpt_house s x
  · rfl

theorem takeEpoch_house (s : State) (x : Stream) : HouseOnly s (takeEpoch s x) := by
  unfold takeEpoch
  split
  · rfl
  · split <;> rfl

theorem resultControl_house (s : State) (id : Nat) : HouseOnly s (resultControl s id) := rfl

/-- A stream without what the housekeeping of a boundary writes. -/
def Stream.unkept (x : Stream) : Stream :=
  { x with epoch := 0, pendEpoch := none, ckptDue := false, resultOn := false, resultTop := 0, ckptSteps := 0, waitCkpt := false, ckptSerial := 0
           ckptPend := [], kept := [] }

/-- A stream without what a boundary, or a build that begins there, writes. -/
def Stream.lasting (x : Stream) : Stream :=
  { x.unkept with st := .idle, svc := .none, rebuild := false, held := [], pagesResv := 0, waitPages := false, waitCup := false, forcedEos := false
                  spill := [], spillSaid := false }

theorem serve_lasting (s : State) (id : Nat) : Touches id Stream.lasting s (serve s id) :=
  serve_touches (.inl ⟨fun _ _ _ _ => rfl⟩) ⟨fun _ _ _ => rfl⟩ ⟨fun _ _ _ _ _ _ _ => rfl⟩ (.inl ⟨⟨fun _ _ _ _ => rfl⟩, fun _ _ _ _ _ _ _ _ _ => rfl⟩)

/-- A stream with nothing recorded goes on, after its housekeeping. -/
theorem serve_goesOn {s : State} {id : Nat} {x : Stream} (found : s.stream? id = some x) (bound : x.atBoundary = true) (none : x.recorded = []) :
    ∃ C y, serve s id = goOn C id y ∧ C.stream? id = some y ∧ y.unkept = x.unkept ∧ HouseOnly s C ∧ (∀ n, n ≠ id → C.stream? n = s.stream? n) ∧
      (x.pendEpoch = .none → y.epoch = x.epoch ∧ y.pendEpoch = .none) := by
  obtain rfl := stream_id found
  obtain ⟨R, hR⟩ : ∃ R, R = resultControl (takeEpoch s x) x.id := ⟨_, rfl⟩
  have first : Touches x.id Stream.unkept s R :=
    hR ▸ (takeEpoch_touches ⟨fun _ _ _ _ => rfl⟩ s x).trans (resultControl_touches ⟨fun _ _ _ => rfl⟩ _ _)
  have houseR : HouseOnly s R := hR ▸ (takeEpoch_house s x).trans (resultControl_house ..)
  obtain ⟨z, foundR, sameR⟩ := first.found found
  have id : z.id = x.id := stream_id foundR
  have lists := congrArg Stream.recorded sameR
  have listR : z.recorded = [] := lists.trans none
  have turn := ckptTurn_touches (g := Stream.unkept) ⟨fun _ _ _ _ _ _ _ => rfl⟩ R z
  rw [id] at turn
  obtain ⟨y, foundC, sameC⟩ := turn.found foundR
  refine ⟨ckptTurn R z, y, ?_, foundC, sameC.trans sameR, houseR.trans (ckptTurn_house ..), fun n e => (turn.others n e).trans (first.others n e),
    fun still => ?_⟩
  · rw [serve_eq, found]
    dsimp only
    rw [bound, Bool.not_true, if_neg Bool.false_ne_true, ← hR, serveOn, foundR]
    dsimp only
    have all : recordedOver (ckptTurn R z) z = true := by simp only [recordedOver, listR]
    rw [all, Bool.not_true, if_neg Bool.false_ne_true, foundC]
  · have epochs : Touches x.id (fun y => (y.epoch, y.pendEpoch)) s R := by
      rw [hR, takeEpoch_none still]
      exact resultControl_touches ⟨fun _ _ _ => rfl⟩ s x.id
    have epochs' := ckptTurn_touches (g := fun y => (y.epoch, y.pendEpoch)) ⟨fun _ _ _ _ _ _ _ => rfl⟩ R z
    rw [id] at epochs'
    obtain ⟨w, there, same⟩ := (epochs.trans epochs').found found
    rw [foundC] at there
    cases there
    exact ⟨congrArg Prod.fst same, (congrArg Prod.snd same).trans still⟩

/-- A stream with no armed step rests. -/
theorem goOn_rests {s : State} {id : Nat} {x : Stream} (st : x.st = .idle ∨ x.st = .running) (tree : s.tree? id = none) (armed : x.armed = some 0)
    (spent : x.armSpent = false) (rebuild : x.rebuild = false) : goOn s id x = s.onStream id fun y => { y with st := .idle, svc := .none } := by
  unfold goOn
  rcases st with st | st <;> simp [st, tree, armed, spent, rebuild]

theorem tree_of_house {s C : State} (h : HouseOnly s C) (id : Nat) : C.tree? id = s.tree? id := by
  have trees := congrArg Stp.trees h.stp
  exact congrArg (List.find? fun t : Tree => t.stream == id) trees

/-- A stream with nothing recorded, no end that is due and no key lost is served at once. -/
theorem boundary_serves {s : State} {id : Nat} {x : Stream} (found : s.stream? id = some x) (none : x.recorded = []) (due : x.endDue = 0)
    (zero : x.zeroing = false) : boundary s id = serve s id := by
  have applied : applyRecorded (fun _ _ _ => .error .row) 1 s id = s := by
    simp [applyRecorded, found, none]
  rw [boundary, boundaryWith, found]
  simp [due, zero, none, applied]

/-! ## STREAM_OPEN -/

theorem find_insertBy {x : Stream} : ∀ {l : List Stream}, (∀ y ∈ l, y.id ≠ x.id) →
    ∀ n, (insertBy Stream.id x l).find? (·.id == n) = if n = x.id then some x else l.find? (·.id == n)
  | [], _, n => by
    by_cases e : n = x.id
    · simp [insertBy, e]
    · simp [insertBy, e, Ne.symm e]
  | y :: l, apart, n => by
    have rest := find_insertBy (l := l) (fun z mem => apart z (List.mem_cons_of_mem _ mem)) n
    have here : y.id ≠ x.id := apart y List.mem_cons_self
    unfold insertBy
    split
    · by_cases e : n = x.id
      · simp [e]
      · simp [e, Ne.symm e]
    · rw [if_neg (Ne.symm here)]
      by_cases e : y.id = n
      · have other : n ≠ x.id := e ▸ here
        simp [e, other]
      · rw [List.find?_cons_of_neg (by simpa using e), rest, List.find?_cons_of_neg (by simpa using e)]

theorem stream_putStream {s : State} {x : Stream} (new : s.stream? x.id = none) (n : Nat) :
    (s.putStream x).stream? n = if n = x.id then some x else s.stream? n := by
  refine find_insertBy (fun y mem e => ?_) n
  have none := List.find?_eq_none.mp new y mem
  simp [e] at none

section
variable {s : State} {c : Cmd}

/-- A check that passes, and those after it. -/
theorem passed {α : Type} {p : Prop} [Decidable p] {v : α} {r : Option α} (h : (if p then some v else r) = none) : ¬ p ∧ r = none := by
  by_cases c : p
  · rw [if_pos c] at h
    cases h
  · exact ⟨c, (if_neg c).symm.trans h⟩

/-- What the checks of Table 10.1 leave. -/
theorem openStatus_none (h : openStatus s c = none) : s.stream? c.stream = none ∧ ∃ home, openHome s c = some home := by
  obtain ⟨-, h⟩ := passed h
  obtain ⟨-, h⟩ := passed h
  obtain ⟨opened, h⟩ := passed h
  obtain ⟨-, h⟩ := passed h
  obtain ⟨-, h⟩ := passed h
  obtain ⟨-, h⟩ := passed h
  obtain ⟨-, h⟩ := passed h
  obtain ⟨homeless, -⟩ := passed h
  exact ⟨Option.not_isSome_iff_eq_none.mp opened, Option.ne_none_iff_exists'.mp (by simpa using homeless)⟩

/-- The stream that a STREAM_OPEN leaves, before its boundary. -/
def openState (s : State) (c : Cmd) (home : Nat) : State :=
  complete (s.putStream (openedStream s c home)) c (bindStatus (s.putStream (openedStream s c home)) c.openAut).code 0 home 0

theorem runOpen_passes {home : Nat} (status : openStatus s c = none) (at_ : openHome s c = some home) :
    runOpen s c = boundary (openState s c home) c.stream := by
  simp only [runOpen, status, at_, Option.getD_some, openState]

theorem openState_stream (new : s.stream? c.stream = none) (home n : Nat) :
    (openState s c home).stream? n = if n = c.stream then some (openedStream s c home) else s.stream? n :=
  stream_putStream (x := openedStream s c home) new n

theorem bindStatus_code (a : Option Nat) : (bindStatus s a).code = if (a.map fun n => (s.automaton n).spilled).getD false then 0x1001 else 0 := by
  unfold bindStatus
  split <;> rfl

end

/-- Settles O13. -/
theorem streamOpens : Obligations.StreamOpens := by
  unfold Obligations.StreamOpens
  intro s k c acc
  obtain ⟨-, fenced, -⟩ := accepted_facts acc
  have row : exec (.streamOpen k) s = finish s (runOpen s c) := congrArg (finish s) (runCmd_accepted acc _)
  refine ⟨fun st fails => ?_, fun status tree => ?_⟩
  · have refused : runOpen s c = reject s c st := by simp only [runOpen, fails]
    rw [row, refused]
    exact finish_refused acc st 0
  · obtain ⟨new, home, at_⟩ := openStatus_none status
    have there := openState_stream new home
    have mine := there c.stream
    rw [if_pos rfl] at mine
    obtain ⟨C, y, goes, found, same, house, others, epochs⟩ := serve_goesOn mine rfl rfl
    have treeC : C.tree? c.stream = none := (tree_of_house house _).trans tree
    have opens : runOpen s c = C.onStream c.stream fun y => { y with st := .idle, svc := .none } := by
      rw [runOpen_passes status at_, boundary_serves mine rfl rfl rfl, goes]
      have st := congrArg Stream.st same
      have armed := congrArg Stream.armed same
      have spent := congrArg Stream.armSpent same
      have rebuild := congrArg Stream.rebuild same
      exact goOn_rests (.inl st) treeC armed spent rebuild
    have fwd : Fwd s (runOpen s c) := runOpen_fwd (.refl s)
    obtain ⟨t, next, sansFab⟩ := finish_to (s := s) ((congrArg Lan.fenced fwd.lan).trans fenced) fwd.pending fwd.variant
    have ctx := congrArg State.ctx sansFab
    have rng := congrArg State.rng sansFab
    have final : t.stream? c.stream = some { y with st := .idle, svc := .none } := by
      refine (stream?_of_ctx (s := runOpen s c) ctx _).trans ?_
      rw [opens]
      exact stream_onStream (fun y => { y with st := .idle, svc := .none }) (fun _ => rfl) found
    refine ⟨t, home, _, row.trans next, at_, ?_, final, ?_⟩
    · obtain ⟨e, isFor, posted⟩ := complete_posts (s.putStream (openedStream s c home)) c
        (bindStatus (s.putStream (openedStream s c home)) c.openAut).code 0 home 0
      have prng := congrArg State.rng posted
      have comps : (openState s c home).rng.comps = _ := congrArg Rng.comps prng
      have kept : Fwd (openState s c home) (runOpen s c) := runOpen_passes status at_ ▸ boundary_fwd (.refl _)
      have tcomps : t.rng.comps = (runOpen s c).rng.comps := congrArg Rng.comps rng
      refine ⟨e, tcomps ▸ kept.comps e (comps ▸ List.mem_append_right _ List.mem_cons_self), bindStatus_code (s := s.putStream (openedStream s c home)) c.openAut ▸ isFor⟩
    · refine ⟨rfl, congrArg Stream.owner same, congrArg Stream.slot same, congrArg Stream.aut same, congrArg Stream.stop same, congrArg Stream.queue same,
        congrArg Stream.home same, congrArg Stream.record same, congrArg Stream.seed same, (epochs rfl).1, congrArg Stream.next same,
        congrArg Stream.gen same, congrArg Stream.armed same, congrArg Stream.temp same, congrArg Stream.topK same, congrArg Stream.topP same,
        congrArg Stream.minP same, congrArg Stream.maxNew same, congrArg Stream.deadPolicy same, congrArg Stream.utf8Raw same,
        congrArg Stream.bias same, congrArg Stream.text same, congrArg Stream.endReason same, congrArg Stream.set same, fun n other => ?_⟩
      refine (stream?_of_ctx (s := runOpen s c) ctx n).trans ?_
      rw [opens, stream_onStream_away (fun y => { y with st := .idle, svc := .none }) (fun _ => rfl) other, others n other, there n, if_neg other]

end Sys2Proof.Machine
end

section
/-! Room in a completion ring (02 R75). -/

namespace Sys2Proof.Machine

/-- Settles O6. -/
theorem completionRingRoom : Obligations.CompletionRingRoom := by
  unfold Obligations.CompletionRingRoom
  refine ⟨fun s m v hs inside => ?_, fun s m e hs there next full unsaid => ?_⟩
  · have row : exec (.ringQheadWrite m v) s = finish s (fabricWrite s fun s => writeQhead s m v) := by
      show finish s (fabricWrite s fun s => writeQhead s (m % 64) v) = _
      rw [Nat.mod_eq_of_lt inside]
    rw [row]
    obtain ⟨t, next, same, -⟩ := finish_fabricWrite (s := s) (E := writeQhead s m v) (f := fun s => writeQhead s m v) hs rfl rfl rfl rfl
    refine ⟨t, next, same.trans ?_⟩
    have room : (fun q : CplRing => { q with head := v.toNat % 65536, full := q.full && !({ q with head := v.toNat % 65536 } : CplRing).hasRoom }) =
        fun q => { q with head := v.toNat % 65536, full := q.full && ((q.widx + 1) % 2 ^ q.sizeLog == v.toNat % 65536) } := by
      funext q
      simp [CplRing.hasRoom, bne]
    show ({ s with rng := { s.rng with q := modAt s.rng.q m _ }, csp := _ } : State).sansFab = _
    rw [room]
  · obtain ⟨stepping, fenced⟩ := carrying_iff.mp hs
    have row : exec (.completionWrite m) s = finish s (raiseBy (s.onCq m fun q => { q with full := true }) .ring 0x0903 0 0 m) := by
      refine congrArg (finish s) ((if_pos stepping).trans ?_)
      simp only [pushComp, next, full, unsaid, Bool.false_eq_true, if_false]
    rw [row]
    obtain ⟨t, next, same, raised⟩ := finish_raiseBy (s := s) (u := .ring) (code := 0x0903) (stream := 0) (step := 0) (detail := m)
      (B := s.onCq m fun q => { q with full := true }) fenced rfl rfl rfl rfl
    refine ⟨t, next, same, raised, fun c names => ?_⟩
    have rng := congrArg State.rng same
    have ring : (t.ring c.ring).cq = m := (congrArg (fun r : Rng => (getN r.c c.ring).cq) rng).trans names
    have full : (t.cqr m).full = true := (congrArg (fun r : Rng => (getN r.q m).full) rng).trans (congrArg CplRing.full (getN_modAt _ there))
    simp [mayDispatch, ring, full]

end Sys2Proof.Machine
end

section
/-! STREAM_CLOSE, EPOCH_SET, SUSPEND and CHECKPOINT at a token boundary (10 R377, R386, 14 R518, R526). -/

namespace Sys2Proof.Machine

/-! ## The state in which a command takes effect -/

theorem getN_modAt_ne {α : Type} [Inhabited α] (l : List α) {n m : Nat} (f : α → α) (h : n ≠ m) : getN (modAt l m f) n = getN l n := by
  simp [getN, modAt, Ne.symm h]

/-- Streams, commands and queues aside, a state is as it was. -/
def TurnOnly (a b : State) : Prop := { b with ctx := a.ctx, rng := a.rng, eqs := a.eqs } = a

theorem noted_turn (s : State) (c : Cmd) (id : Nat) : TurnOnly s (noted s c id) := rfl

theorem inTurn_turn (s : State) (c : Cmd) (x : Stream) : TurnOnly s (inTurn (noted s c x.id) (x.noted c.ticket)) := by
  unfold inTurn
  split <;> rfl

section
variable {a b : State} (h : TurnOnly a b)
include h

theorem TurnOnly.stp : b.stp = a.stp := by
  have e := congrArg State.stp h
  exact e

theorem TurnOnly.pkr : b.pkr = a.pkr := by
  have e := congrArg State.pkr h
  exact e

theorem TurnOnly.lan : b.lan = a.lan := by
  have e := congrArg State.lan h
  exact e

theorem TurnOnly.tree (id : Nat) : b.tree? id = a.tree? id := congrArg (fun p : Stp => p.trees.find? fun t : Tree => t.stream == id) h.stp

theorem TurnOnly.key (o : Nat) : b.key? o = a.key? o := congrArg (fun l : Lan => (l.keys[o]?).join) h.lan

theorem TurnOnly.slot (x : Stream) (n : Nat) : ckptSlot b x n = ckptSlot a x n := by
  unfold ckptSlot State.ownPkr
  rw [h.pkr]

end

theorem inTurn_owners (s : State) (c : Cmd) (x : Stream) : (inTurn (noted s c x.id) (x.noted c.ticket)).ctx.owners = s.ctx.owners := by
  unfold inTurn
  split <;> rfl

/-- The queue of a stream whose turn it is has no one else waiting. -/
theorem inTurn_queue {s : State} (c : Cmd) (x : Stream) (n : Nat) :
    (inTurn (noted s c x.id) (x.noted c.ticket)).queue n = s.queue n ∨
      hasTurn s x = true ∧ (inTurn (noted s c x.id) (x.noted c.ticket)).queue n = { s.queue n with waiters := [] } := by
  unfold inTurn
  split
  · next turn =>
    by_cases inside : n < s.eqs.qs.length
    · by_cases e : n = x.queue
      · subst e
        exact .inr ⟨turn, getN_modAt (fun q : EqQueue => { q with waiters := [] }) inside⟩
      · exact .inl (getN_modAt_ne _ _ e)
    · refine .inl ?_
      show getN (modAt s.eqs.qs x.queue _) n = getN s.eqs.qs n
      simp [getN, modAt, Nat.not_lt.mp inside]
  · exact .inl rfl

theorem inTurn_queues (s : State) (c : Cmd) (x : Stream) : (inTurn (noted s c x.id) (x.noted c.ticket)).eqs.qs.length = s.eqs.qs.length := by
  unfold inTurn
  split
  · exact List.length_modify ..
  · rfl

/-- A stream that lists nothing but the command stays in step with its queue's room. -/
theorem inTurn_room {s : State} {c : Cmd} {x : Stream} {rs : List (List Byte)} (room : queueRoom s x rs = true) :
    queueRoom (inTurn (noted s c x.id) (x.noted c.ticket)) (x.turned (noted s c x.id) c.ticket) rs = true := by
  have same := inTurn_queue (s := s) c x x.queue
  unfold queueRoom queueOwned reserved at room ⊢
  generalize inTurn (noted s c x.id) (x.noted c.ticket) = A at same ⊢
  have queue : (x.turned (noted s c x.id) c.ticket).queue = x.queue := rfl
  have owner : (x.turned (noted s c x.id) c.ticket).owner = x.owner := rfl
  have id : (x.turned (noted s c x.id) c.ticket).id = x.id := rfl
  rw [queue, owner, id]
  rcases same with same | ⟨-, same⟩
  · rw [same]
    exact room
  · rw [same]
    simp only [Bool.or_eq_true, Bool.and_eq_true, List.headD_nil, beq_self_eq_true, and_true] at room ⊢
    exact room.imp (fun r => r) And.left

/-! ## The service of a boundary with nothing due -/

section
variable {α : Type} {g : Stream → α} {s : State} {id : Nat} {x : Stream}

/-- With no epoch pending and no checkpoint due the service goes straight on. -/
theorem serve_undue (hR : BlindToResult g) (hB : BlindToBuild g) (found : s.stream? id = some x) (pend : x.pendEpoch = none) (due : x.ckptDue = false)
    (steps : x.ckptSteps = 0) : Touches id g s (serve s id) := by
  obtain rfl := stream_id found
  rw [serve_eq, found]
  dsimp only
  split
  · exact .refl s
  · rw [takeEpoch_none pend]
    have first : Touches x.id g s (resultControl s x.id) := resultControl_touches hR s x.id
    have foundR := find_onStream s (fun y => { y with
      resultOn := getN s.fin.resultCtl y.owner % 2 == 1, resultTop := getN s.fin.resultCtl y.owner / 2 % 128 }) (fun _ => rfl) x.id
    rw [found] at foundR
    refine first.trans ?_
    have undue : ckptTurn (resultControl s x.id) { x with
        resultOn := getN s.fin.resultCtl x.owner % 2 == 1, resultTop := getN s.fin.resultCtl x.owner / 2 % 128 } = resultControl s x.id := by
      simp [ckptTurn, ckptIsDue, due, steps]
    have there : (resultControl s x.id).stream? x.id = some { x with
        resultOn := getN s.fin.resultCtl x.owner % 2 == 1, resultTop := getN s.fin.resultCtl x.owner / 2 % 128 } := foundR
    rw [serveOn, there]
    dsimp only
    rw [undue, there]
    split
    · exact .refl _
    · exact goOn_touches hB _ { x with resultOn := getN s.fin.resultCtl x.owner % 2 == 1, resultTop := getN s.fin.resultCtl x.owner / 2 % 128 }

end

/-! ## EPOCH_SET -/

/-- An epoch that is not revoked is taken as it is. -/
theorem epochTaken_fresh {s : State} {o e : Nat} (h : epochRevoked s o e = false) : epochTaken s o e = e := by
  have none : (s.owner o).revoked.find? (·.1 == e) = none := by
    rw [List.find?_eq_none]
    intro r mem named
    rw [epochRevoked, List.any_eq_false] at h
    exact h r mem named
  unfold epochTaken
  generalize List.range 17 = l
  induction l with
  | nil => rfl
  | cons _ l ih => rw [List.foldl_cons, none, Option.map_none, Option.getD_none, ih]

/-- The stream is at an epoch, with none pending. -/
def Stream.takesEpoch (e : Nat) (y : Stream) : Stream := { y with epoch := e, ckptDue := true, pendEpoch := none }

theorem setEpoch_fresh {s : State} {x : Stream} {e k : Nat} (fresh : epochRevoked s x.owner e = false) (alone : x.recorded = [k]) :
    setEpoch s x e k = s.onStream x.id (Stream.takesEpoch e) := by
  have none : ([k].any fun t => t != k && setsEpoch s t) = false := by simp
  unfold setEpoch
  rw [epochTaken_fresh fresh, alone, none]
  rfl

/-- An epoch is pending for the stream. -/
def Stream.pends (e : Nat) (y : Stream) : Stream := { y with pendEpoch := some e }

section
variable {s : State} {k : Nat} {c : Cmd} {x : Stream}

theorem epochSet_resting (rest : x.Resting) (h : s.Takes k 0x28 c x) (one : c.ownerWide = false) (fresh : epochRevoked s x.owner (c.le 20 4) = false) :
    ∃ t y, exec (.epochSet k) s = .next t ∧ t.Answered c 0 x.next 0 0 ∧ t.stream? x.id = some y ∧ y.epoch = c.le 20 4 ∧ y.pendEpoch = none := by
  obtain ⟨acc, found, -⟩ := takes_facts h
  obtain ⟨-, fenced, waits, ticket, opcode, -⟩ := accepted_facts acc
  rw [← ticket] at waits
  have row : exec (.epochSet k) s = finish s (recordFor (s.onStream x.id (Stream.pends (c.le 20 4))) c x.id) := by
    refine congrArg (finish s) ((runCmd_accepted h.1 _).trans ?_)
    rw [runEpochSet, one, if_neg Bool.false_ne_true]
    refine (withStream_takes h _).trans ?_
    rw [fresh, if_neg Bool.false_ne_true]
    rfl
  have found' : (s.onStream x.id (Stream.pends (c.le 20 4))).stream? x.id = some (x.pends (c.le 20 4)) := stream_onStream (Stream.pends (c.le 20 4)) (fun _ => rfl) found
  have base : Fwd s (s.onStream x.id (Stream.pends (c.le 20 4))) := State.onStream_fwd (.refl s)
  have owners : (s.onStream x.id (Stream.pends (c.le 20 4))).ctx.owners = s.ctx.owners := rfl
  have kind : c.noted.opcode = 0x28 := opcode
  generalize hS : s.onStream x.id (Stream.pends (c.le 20 4)) = S at row found' base owners
  have waits' : S.cmd? c.ticket = some c := by rw [← hS]; exact waits
  obtain ⟨A, hA⟩ : ∃ A, inTurn (noted S c (x.pends (c.le 20 4)).id) ((x.pends (c.le 20 4)).noted c.ticket) = A := ⟨_, rfl⟩
  have turned := inTurn_stream (x := x.pends (c.le 20 4)) (c := c) found' rest
  have ownersA := inTurn_owners S c (x.pends (c.le 20 4))
  rw [hA] at turned ownersA
  have freshA : epochRevoked A (x.pends (c.le 20 4)).owner (c.le 20 4) = false := by
    unfold epochRevoked State.owner at fresh ⊢
    rw [ownersA, owners]
    exact fresh
  have sets : setEpoch A ((x.pends (c.le 20 4)).turned (noted S c x.id) c.ticket) (c.le 20 4) c.ticket =
      A.onStream x.id (Stream.takesEpoch (c.le 20 4)) := setEpoch_fresh freshA (show [c.ticket] = [c.ticket] from rfl)
  have effect : takeEffect A ((x.pends (c.le 20 4)).turned (noted S c x.id) c.ticket) c.noted =
      .ok (complete (A.onStream x.id (Stream.takesEpoch (c.le 20 4))) c.noted 0 x.next 0 0) := by
    have one' : c.noted.ownerWide = false := one
    simp only [takeEffect, kind, one', Bool.false_eq_true, if_false]
    exact congrArg (fun t => Except.ok (complete t c.noted 0 x.next 0 0)) sets
  have front : behindDraft A ((x.pends (c.le 20 4)).turned (noted S c x.id) c.ticket) c.noted = false := by simp [behindDraft, kind]
  have left := stream_onStream (Stream.takesEpoch (c.le 20 4)) (fun _ => rfl) turned
  obtain ⟨t, O, next, comps, there, same⟩ := finish_taken (x := x.pends (c.le 20 4)) fenced base found' waits' rest hA front (by rw [opcode]; decide) effect left
    (alone_left c.ticket)
  have kept : Touches x.id (fun y => (y.epoch, y.pendEpoch)) O (serve O x.id) := by
    refine serve_touches (.inr fun y found => ?_) ⟨fun _ _ _ => rfl⟩ ⟨fun _ _ _ _ _ _ _ => rfl⟩ (.inl ⟨⟨fun _ _ _ _ => rfl⟩, fun _ _ _ _ _ _ _ _ _ => rfl⟩)
    cases found.symm.trans there
    rfl
  obtain ⟨y, final, same'⟩ := kept.found there
  obtain ⟨e, mem, isFor⟩ := complete_answers (A.onStream x.id (Stream.takesEpoch (c.le 20 4))) c 0 x.next 0 0
  exact ⟨t, y, row.trans next, ⟨e, comps e mem, isFor⟩, (same x.id).trans final, congrArg Prod.fst same', congrArg Prod.snd same'⟩

/-! ## SUSPEND -/

theorem suspend_resting (rest : x.Resting) (h : s.Takes k 0x42 c x) (one : c.ownerWide = false) (tree : s.tree? x.id = none) :
    ∃ t y, exec (.suspend k) s = .next t ∧ t.Answered c 0 x.next 0 0 ∧ t.stream? x.id = some y ∧ y.st = .suspended ∧ y.prior = x.st ∧
      y.cause = .bySuspend := by
  obtain ⟨acc, found, -⟩ := takes_facts h
  obtain ⟨-, fenced, waits, ticket, opcode, -⟩ := accepted_facts acc
  rw [← ticket] at waits
  have row : exec (.suspend k) s = finish s (recordFor s c x.id) := by
    refine congrArg (finish s) ((runCmd_accepted h.1 _).trans ?_)
    rw [runSuspend, one, if_neg Bool.false_ne_true]
    exact withStream_takes h _
  obtain ⟨A, hA⟩ : ∃ A, inTurn (noted s c x.id) (x.noted c.ticket) = A := ⟨_, rfl⟩
  have turned := inTurn_stream (c := c) found rest
  have turn := inTurn_turn s c x
  rw [hA] at turned turn
  have kind : c.noted.opcode = 0x42 := opcode
  have front : behindDraft A (x.turned (noted s c x.id) c.ticket) c.noted = false := by
    have none : A.tree? (x.turned (noted s c x.id) c.ticket).id = none := (turn.tree x.id).trans tree
    simp [behindDraft, none]
  have awake : (x.st == .suspended) = false := by
    have ok : accepts x 0x42 = true := h.2.2.2.2.2
    simpa [accepts] using ok
  let F : Stream → Stream := fun y => { y with st := .suspended, prior := y.st, cause := .bySuspend, susTag := contextTag y, svc := .none, ckptDue := true }
  let W := writeStream A (x.turned (noted s c x.id) c.ticket)
  have effect : takeEffect A (x.turned (noted s c x.id) c.ticket) c.noted = .ok (complete (W.onStream x.id F) c.noted 0 x.next 0 0) := by
    have one' : c.noted.ownerWide = false := one
    have st : ((x.turned (noted s c x.id) c.ticket).st == .suspended) = false := awake
    simp only [takeEffect, kind, one', suspendStream, st, Bool.false_eq_true, if_false]
    rfl
  have turnedW : W.stream? x.id = some (x.turned (noted s c x.id) c.ticket) :=
    (stream?_of_ctx (writeLines_rings A _ _ true).ctx x.id).trans turned
  clear_value W
  have left := stream_onStream F (fun _ => rfl) turnedW
  obtain ⟨t, O, next, comps, there, same⟩ := finish_taken fenced (.refl s) found waits rest hA front (by rw [opcode]; decide) effect left
    (alone_left c.ticket)
  have kept : Touches x.id (fun y => (y.st, y.prior, y.cause)) O (serve O x.id) := by
    refine serve_touches (.inl ⟨fun _ _ _ _ => rfl⟩) ⟨fun _ _ _ => rfl⟩ ⟨fun _ _ _ _ _ _ _ => rfl⟩ (.inr fun y found => ?_)
    rw [there] at found
    cases found
    exact ⟨StState.noConfusion, StState.noConfusion⟩
  obtain ⟨y, final, same'⟩ := kept.found there
  obtain ⟨e, mem, isFor⟩ := complete_answers (W.onStream x.id F) c 0 x.next 0 0
  exact ⟨t, y, row.trans next, ⟨e, comps e mem, isFor⟩, (same x.id).trans final, congrArg Prod.fst same', congrArg (fun p => p.2.1) same',
    congrArg (fun p => p.2.2) same'⟩

/-! ## CHECKPOINT -/

/-- A CHECKPOINT as it waits for its streams. -/
def Cmd.awaits (c : Cmd) (ids : List Nat) (n : Nat) : Cmd := { c with phase := .recorded, waits := ids, n0 := n }

theorem recordCkpt_one (waits : s.cmd? c.ticket = some c) (able : ((s.key? c.owner).isNone && withSlots s [x.id] != 0) = false) :
    recordCkpt s c [x.id] = recordFor (s.onCmd c.ticket fun c => c.awaits [x.id] (withSlots s [x.id])) (c.awaits [x.id] (withSlots s [x.id])) x.id := by
  unfold recordCkpt
  rw [if_neg (by simp), able, if_neg Bool.false_ne_true]
  have there := cmd_onCmd (fun d => d.awaits [x.id] (withSlots s [x.id])) (fun _ => rfl) waits
  show (match (s.onCmd c.ticket fun d => d.awaits [x.id] (withSlots s [x.id])).cmd? c.ticket with | some d => recordFor _ d x.id | none => _) = _
  rw [there]
  rfl

/-- One CHECKPOINT hears that the checkpoint of a stream is over. -/
def hears (id bytes : Nat) (s : State) (c : Cmd) : State :=
  if ((s.stream? id).map fun x => x.recorded.contains c.ticket).getD false then s
  else
    let c' := { c with waits := c.waits.filter (· != id), n1 := c.n1 + bytes }
    let s := s.onCmd c.ticket fun _ => c'
    if c'.waits.isEmpty then complete s c' Status.ok.code 0 c'.n0 c'.n1 else s

theorem ckptOver_eq (s : State) (id bytes : Nat) :
    ckptOver s id bytes = (s.rng.cmds.filter fun c => c.opcode == 0x41 && c.phase == .recorded && c.waits.contains id).foldl (hears id bytes) s := rfl

theorem hears_keeps (id bytes : Nat) (s : State) (c : Cmd) : (hears id bytes s c).ctx = s.ctx ∧ Fwd s (hears id bytes s c) := by
  unfold hears
  split
  · exact ⟨rfl, .refl s⟩
  · dsimp only
    split
    · exact ⟨rfl, complete_fwd (State.onCmd_fwd (.refl s))⟩
    · exact ⟨rfl, State.onCmd_fwd (.refl s)⟩

theorem hears_last {s : State} {d : Cmd} {id : Nat} (bytes : Nat) (waits : d.waits = [id])
    (free : ∀ y, s.stream? id = some y → y.recorded.contains d.ticket = false) :
    ∃ e ∈ (hears id bytes s d).rng.comps, e.IsFor d 0 0 d.n0 (d.n1 + bytes) := by
  have unlisted : ((s.stream? id).map fun x => x.recorded.contains d.ticket).getD false = false := by
    cases h : s.stream? id with
    | none => rfl
    | some y => exact free y h
  have done : (d.waits.filter (· != id)).isEmpty = true := by simp [waits]
  unfold hears
  rw [unlisted, if_neg Bool.false_ne_true]
  dsimp only
  rw [if_pos done]
  obtain ⟨e, isFor, posted⟩ := complete_posts (s.onCmd d.ticket fun _ => { d with waits := d.waits.filter (· != id), n1 := d.n1 + bytes })
    { d with waits := d.waits.filter (· != id), n1 := d.n1 + bytes } 0 0 d.n0 (d.n1 + bytes)
  have rng := congrArg State.rng posted
  have comps := congrArg Rng.comps rng
  exact ⟨e, (show _ = _ from comps) ▸ List.mem_append_right _ List.mem_cons_self, isFor⟩

/-- A CHECKPOINT that waits for one stream completes once that stream's checkpoint is over. -/
theorem ckptOver_answers {s : State} {d : Cmd} {id bytes : Nat} (mem : d ∈ s.rng.cmds) (op : d.opcode = 0x41) (phase : d.phase = .recorded)
    (waits : d.waits = [id]) (free : ∀ y, s.stream? id = some y → y.recorded.contains d.ticket = false) :
    ∃ e ∈ (ckptOver s id bytes).rng.comps, e.IsFor d 0 0 d.n0 (d.n1 + bytes) := by
  have among : d ∈ s.rng.cmds.filter fun c => c.opcode == 0x41 && c.phase == .recorded && c.waits.contains id :=
    List.mem_filter.mpr ⟨mem, by simp [op, phase, waits]⟩
  rw [ckptOver_eq]
  obtain ⟨before, after, parts⟩ := List.append_of_mem among
  rw [parts, List.foldl_append, List.foldl_cons]
  have ctx : (before.foldl (hears id bytes) s).ctx = s.ctx := foldl_keeps _ State.ctx (fun u c => (hears_keeps id bytes u c).1) _ s
  obtain ⟨e, posted, isFor⟩ := hears_last (s := before.foldl (hears id bytes) s) bytes waits fun y there => free y ((stream?_of_ctx ctx id).symm.trans there)
  have fwd : Fwd (hears id bytes (before.foldl (hears id bytes) s) d) (after.foldl (hears id bytes) (hears id bytes (before.foldl (hears id bytes) s) d)) :=
    foldl_fwd (fun u c h => h.trans (hears_keeps id bytes u c).2) (.refl _)
  exact ⟨e, fwd.comps e posted, isFor⟩

theorem takeCkpt_none {s : State} {x : Stream} (none : ckptSlot s x (x.ckptSerial + 1) = none) :
    takeCkpt s x = ckptOver ((s.onOwnPkr x.owner fun p => { p with skips := wrap32 (p.skips + 1) }).onStream x.id fun y =>
      { y with ckptDue := false, ckptSteps := 0, waitCkpt := false }) x.id 0 := by
  unfold takeCkpt
  extract_lets serial seq u w img v
  rw [none]

/-- The context of a stream as its checkpoint goes out. -/
def Stream.checkpoints (x y : Stream) (seq : Nat) : Stream :=
  { y with ckptSerial := x.ckptSerial + 1, ckptSteps := 0, ckptDue := false, ckptPend := y.ckptPend ++ [(x.ckptSerial + 1, seq, 32, false)]
           kept := ((x.ckptSerial + 1, x.image) :: y.kept).take 2 }

theorem takeCkpt_slot {s : State} {x y : Stream} {addr : Nat} {key : KeySlot} (slot : ckptSlot s x (x.ckptSerial + 1) = some addr)
    (keyed : s.key? x.owner = some key) (found : s.stream? x.id = some y) :
    (takeCkpt s x).stream? x.id = some (x.checkpoints y ((s.ownPkr x.owner).ring (!x.record)).next) := by
  have rings := writeLines_rings s x.owner (!x.record) true
  have keyW : (writeStream s x).key? x.owner = some key := (congrArg (fun l : Lan => (l.keys[x.owner]?).join) rings.lan).trans keyed
  have foundW : (writeStream s x).stream? x.id = some y := (stream?_of_ctx rings.ctx x.id).trans found
  unfold takeCkpt
  extract_lets serial seq u w img v
  have foundV : v.stream? x.id = some (x.checkpoints y seq) := stream_onStream (fun y => x.checkpoints y seq) (fun _ => rfl) foundW
  have keyW' : w.key? x.owner = some key := keyW
  rw [slot]
  dsimp only
  rw [keyW']
  clear_value w v
  refine (stream?_of_ctx ?_ x.id).trans foundV
  exact foldl_keeps _ State.ctx (fun s i => writeSecret_ctx ..) _ v

/-- A stream that takes its checkpoint for a CHECKPOINT. -/
def Stream.forCkpt (x : Stream) (k : Nat) (w : Bool) : Stream := { x with recorded := [k], waitQueue := w }

/-- A CHECKPOINT at the boundary of its one stream is taken up there. -/
theorem checkpoint_taken (h : s.Takes k 0x41 c x) (one : c.ownerWide = false) (rest : x.Resting)
    (able : ((s.key? c.owner).isNone && withSlots s [x.id] != 0) = false) :
    ∃ T w, (c.awaits [x.id] (withSlots s [x.id])) ∈ T.rng.cmds ∧ T.stream? x.id = some { x.forCkpt k w with recorded := [] } ∧ T.pkr = s.pkr ∧
      T.lan = s.lan ∧ ∀ b, (takeCkpt T (x.forCkpt k w)).stream? x.id = some b → b.recorded = [] →
        ∃ t O, exec (.checkpoint k) s = .next t ∧ (∀ e ∈ (takeCkpt T (x.forCkpt k w)).rng.comps, e ∈ t.rng.comps) ∧
          O.stream? x.id = some (b.unlists k) ∧ ∀ n, t.stream? n = (serve O x.id).stream? n := by
  obtain ⟨acc, found, -⟩ := takes_facts h
  obtain ⟨-, fenced, waits, ticket, opcode, -⟩ := accepted_facts acc
  subst ticket
  have row : exec (.checkpoint c.ticket) s = finish s (recordCkpt s c [x.id]) := by
    refine congrArg (finish s) ((runCmd_accepted h.1 _).trans ?_)
    rw [runCheckpoint, one, if_neg Bool.false_ne_true]
    exact withStream_takes h _
  rw [row, recordCkpt_one waits able]
  obtain ⟨d, hd⟩ : ∃ d, d = c.awaits [x.id] (withSlots s [x.id]) := ⟨_, rfl⟩
  have base : Fwd s (s.onCmd c.ticket fun c => c.awaits [x.id] (withSlots s [x.id])) := State.onCmd_fwd (.refl s)
  have waits' : (s.onCmd c.ticket fun c => c.awaits [x.id] (withSlots s [x.id])).cmd? c.ticket = some d :=
    hd ▸ cmd_onCmd (fun d => d.awaits [x.id] (withSlots s [x.id])) (fun _ => rfl) waits
  have found' : (s.onCmd c.ticket fun c => c.awaits [x.id] (withSlots s [x.id])).stream? x.id = some x := found
  have turnS : TurnOnly s (s.onCmd c.ticket fun c => c.awaits [x.id] (withSlots s [x.id])) := rfl
  have ticket : d.ticket = c.ticket := hd ▸ rfl
  have kind : d.noted.opcode = 0x41 := hd ▸ opcode
  have phase : d.noted = d := hd ▸ rfl
  rw [← hd]
  generalize (s.onCmd c.ticket fun c => c.awaits [x.id] (withSlots s [x.id])) = S at base waits' found' turnS ⊢
  rw [← ticket] at waits' ⊢
  obtain ⟨A, hA⟩ : ∃ A, inTurn (noted S d x.id) (x.noted d.ticket) = A := ⟨_, rfl⟩
  have turned := inTurn_stream (c := d) found' rest
  have cmd := inTurn_cmd (x := x) waits'
  have turn := inTurn_turn S d x
  rw [hA] at turned cmd turn
  have front : behindDraft A (x.turned (noted S d x.id) d.ticket) d.noted = false := by simp [behindDraft, kind]
  have effect : takeEffect A (x.turned (noted S d x.id) d.ticket) d.noted =
      .ok (takeCkpt (A.onStream x.id fun y => { y with recorded := y.recorded.filter (· != d.ticket) }) (x.turned (noted S d x.id) d.ticket)) := by
    simp only [takeEffect, kind]
    rfl
  have dropped := stream_onStream (fun y => { y with recorded := y.recorded.filter (· != d.ticket) }) (fun _ => rfl) turned
  refine ⟨A.onStream x.id fun y => { y with recorded := y.recorded.filter (· != d.ticket) },
    if hasTurn (noted S d x.id) (x.noted d.ticket) then false else x.waitQueue, ?_, ?_, turn.pkr.trans turnS.pkr, turn.lan.trans turnS.lan, fun b there empty => ?_⟩
  · rw [← phase]
    exact List.mem_of_find?_eq_some cmd
  · refine dropped.trans (congrArg some ?_)
    show ({ x.turned (noted S d x.id) d.ticket with recorded := [d.ticket].filter (· != d.ticket) } : Stream) = _
    rw [alone_left]
    rfl
  · exact finish_taken fenced base found' waits' rest hA front (fun e => absurd (kind.symm.trans e) (by decide)) effect there (by rw [empty]; rfl)

/-- A CHECKPOINT of a stream without slots is over at once. -/
theorem checkpoint_without (rest : x.Resting) (h : s.Takes k 0x41 c x) (one : c.ownerWide = false) (none : ∀ n, ckptSlot s x n = none) (zero : c.n1 = 0) :
    ∃ t, exec (.checkpoint k) s = .next t ∧ t.Answered c 0 0 0 0 := by
  obtain ⟨acc, found, -⟩ := takes_facts h
  obtain ⟨-, -, -, ticket, opcode, -⟩ := accepted_facts acc
  have slots : withSlots s [x.id] = 0 := by simp [withSlots, found, none]
  obtain ⟨T, w, mem, there, pkr, -, taken⟩ := checkpoint_taken h one rest (by rw [slots, bne_self_eq_false, Bool.and_false])
  have slot : ckptSlot T (x.forCkpt k w) ((x.forCkpt k w).ckptSerial + 1) = .none := by
    refine Eq.trans ?_ (none (x.ckptSerial + 1))
    unfold ckptSlot State.ownPkr
    rw [pkr]
    rfl
  have ckpt := takeCkpt_none slot
  have left : (takeCkpt T (x.forCkpt k w)).stream? x.id = some { x.forCkpt k w with recorded := [], ckptDue := false, ckptSteps := 0, waitCkpt := false } := by
    rw [ckpt, stream?_of_ctx (ckptOver_ctx ..)]
    exact stream_onStream (s := T.onOwnPkr x.owner fun p => { p with skips := wrap32 (p.skips + 1) })
      (fun y => { y with ckptDue := false, ckptSteps := 0, waitCkpt := false }) (fun _ => rfl) there
  obtain ⟨t, -, next, comps, -⟩ := taken _ left rfl
  obtain ⟨e, posted, isFor⟩ := ckptOver_answers (bytes := 0) (s := (T.onOwnPkr x.owner fun p => { p with skips := wrap32 (p.skips + 1) }).onStream x.id fun y =>
    { y with ckptDue := false, ckptSteps := 0, waitCkpt := false }) (d := c.awaits [x.id] (withSlots s [x.id])) (id := x.id) mem opcode rfl rfl fun y found => by
      have now := stream_onStream (s := T.onOwnPkr x.owner fun p => { p with skips := wrap32 (p.skips + 1) })
        (fun y => { y with ckptDue := false, ckptSteps := 0, waitCkpt := false }) (fun _ => rfl) there
      cases found.symm.trans now
      rfl
  refine ⟨t, next, e, comps e (ckpt ▸ posted), ?_⟩
  have n0 : (c.awaits [x.id] (withSlots s [x.id])).n0 = 0 := slots
  have n1 : (c.awaits [x.id] (withSlots s [x.id])).n1 + 0 = 0 := zero
  rw [n0, n1] at isFor
  exact isFor

/-- A CHECKPOINT writes the context with the next serial. -/
theorem checkpoint_with (rest : x.Resting) (h : s.Takes k 0x41 c x) (one : c.ownerWide = false) (pend : x.pendEpoch = none) {addr : Nat} {key : KeySlot}
    (slot : ckptSlot s x (x.ckptSerial + 1) = some addr) (hkey : s.key? x.owner = some key) :
    ∃ t y, exec (.checkpoint k) s = .next t ∧ t.stream? x.id = some y ∧ y.ckptSerial = x.ckptSerial + 1 ∧ y.ckptDue = false ∧
      y.ckptPend = x.ckptPend ++ [(x.ckptSerial + 1, ((s.ownPkr x.owner).ring (!x.record)).next, 32, false)] := by
  obtain ⟨-, -, -, -, owner⟩ := takes_facts h
  obtain ⟨T, w, -, there, pkr, lan, taken⟩ := checkpoint_taken h one rest (by rw [← owner, hkey]; rfl)
  have slotT : ckptSlot T (x.forCkpt k w) ((x.forCkpt k w).ckptSerial + 1) = some addr := by
    refine Eq.trans ?_ slot
    unfold ckptSlot State.ownPkr
    rw [pkr]
    rfl
  have keyT : T.key? (x.forCkpt k w).owner = some key := (congrArg (fun l : Lan => (l.keys[x.owner]?).join) lan).trans hkey
  have left := takeCkpt_slot slotT keyT there
  obtain ⟨t, O, next, -, foundO, same⟩ := taken _ left rfl
  have kept : Touches x.id (fun y => (y.ckptSerial, y.ckptDue, y.ckptPend)) O (serve O x.id) :=
    serve_undue ⟨fun _ _ _ => rfl⟩ ⟨⟨fun _ _ _ _ => rfl⟩, fun _ _ _ _ _ _ _ _ _ => rfl⟩ foundO pend rfl rfl
  obtain ⟨y, final, same'⟩ := kept.found foundO
  refine ⟨t, y, next, (same x.id).trans final, congrArg Prod.fst same', congrArg (fun p => p.2.1) same', (congrArg (fun p => p.2.2) same').trans ?_⟩
  have ring : T.ownPkr x.owner = s.ownPkr x.owner := congrArg (fun p : Pkr => getN p.owners x.owner) pkr
  show x.ckptPend ++ [(x.ckptSerial + 1, ((T.ownPkr x.owner).ring (!x.record)).next, 32, false)] = _
  rw [ring]

/-! ## STREAM_CLOSE -/

/-- The stream is being closed. -/
def Stream.closes (y : Stream) : Stream := { y with closing := true }

theorem find_dropStream (s : State) (n : Nat) : (s.dropStream n).stream? n = none := by
  refine List.find?_eq_none.mpr fun y mem named => ?_
  have other := (List.mem_filter.mp mem).2
  simp only [bne_iff_ne, ne_eq] at other
  exact other (beq_iff_eq.mp named)

theorem freeStream_gone (s : State) (x : Stream) : (freeStream s x).stream? x.id = none := find_dropStream _ x.id

theorem endRound_eqs (s : State) (t : Tree) : (endRound s t).eqs = s.eqs := rfl

theorem recs_onQueue {s : State} (m n : Nat) (f : EqQueue → EqQueue) (keeps : ∀ q, (f q).recs = q.recs) : ((s.onQueue m f).queue n).recs = (s.queue n).recs := by
  by_cases inside : m < s.eqs.qs.length
  · by_cases e : n = m
    · subst e
      rw [show (s.onQueue n f).queue n = f (s.queue n) from getN_modAt f inside]
      exact keeps _
    · rw [show (s.onQueue m f).queue n = s.queue n from getN_modAt_ne _ f e]
  · have out : modAt s.eqs.qs m f = s.eqs.qs := List.modify_eq_self (Nat.not_lt.mp inside)
    show (getN (modAt s.eqs.qs m f) n).recs = _
    rw [out]
    rfl

/-- A stream that is freed leaves the records of every queue. -/
theorem freeStream_recs (s : State) (x : Stream) (n : Nat) : ((freeStream s x).queue n).recs = (s.queue n).recs := by
  unfold freeStream
  extract_lets u v w z
  have first : u.eqs = s.eqs := by
    dsimp only [u]
    split <;> rfl
  have written : (writeStream u x).eqs = u.eqs := by
    have e := congrArg State.eqs (writeLines_rings u x.owner (!x.record) true)
    exact e
  have freed := recs_onQueue (s := writeStream u x) x.queue n (fun q => EqQueue.flow { q with
    resv := q.resv.filter (·.stream != x.id), waiters := q.waiters.filter (· != x.id) }) fun _ => rfl
  have later : z.eqs = v.eqs := rfl
  have here : v = (writeStream u x).onQueue x.queue fun q => EqQueue.flow { q with
    resv := q.resv.filter (·.stream != x.id), waiters := q.waiters.filter (· != x.id) } := rfl
  rw [← here] at freed
  clear_value z w v u
  show (getN z.eqs.qs n).recs = _
  rw [later]
  exact freed.trans (congrArg (fun e : Eqs => (getN e.qs n).recs) (written.trans first))

/-- What is published on a queue that its owner holds follows its records. -/
theorem publish_recs {s : State} {x : Stream} {rs : List (List Byte)} (owned : queueOwned s x = true) (inside : x.queue < s.eqs.qs.length)
    (whole : ∀ g ∈ (s.queue x.queue).resv, g.lost = false) : ((publish s x rs).queue x.queue).recs = (s.queue x.queue).recs ++ rs := by
  obtain ⟨E, hE⟩ : ∃ E, E = endWait s x := ⟨_, rfl⟩
  have facts : E.eqs.qs.length = s.eqs.qs.length ∧ ∃ ws, E.queue x.queue = { s.queue x.queue with waiters := ws } := by
    rw [hE]
    unfold endWait
    split
    · exact ⟨List.length_modify .., _, getN_modAt (fun q : EqQueue => { q with waiters := q.waiters.filter (· != x.id) }) inside⟩
    · exact ⟨rfl, _, rfl⟩
  obtain ⟨length, ws, queue⟩ := facts
  unfold publish
  rw [← hE]
  dsimp only
  split
  · next none =>
    rw [queue, List.isEmpty_iff.mp none, List.append_nil]
  · have owned' : queueOwned E x = true := by
      unfold queueOwned at owned ⊢
      rw [queue]
      exact owned
    have kept : (E.queue x.queue).resv.any (fun g => g.stream == x.id && g.lost) = false := by
      rw [queue, List.any_eq_false]
      intro g mem
      simp [whole g mem]
    rw [owned', if_pos rfl]
    have there := getN_modAt (l := E.eqs.qs) (n := x.queue) (fun q => EqQueue.flow { q.takeWm with
      resv := q.resv.filter (·.stream != x.id), recs := q.recs ++ (if q.resv.any fun g => g.stream == x.id && g.lost then [] else rs)
      records := wrap32 (q.records + (if q.resv.any fun g => g.stream == x.id && g.lost then [] else rs).length) }) (length.symm ▸ inside)
    refine (congrArg EqQueue.recs there).trans ?_
    show (E.queue x.queue).recs ++ (if (E.queue x.queue).resv.any _ then [] else rs) = _
    rw [kept, if_neg Bool.false_ne_true, queue]

/-- A STREAM_CLOSE publishes the held text and END, and frees the stream. -/
theorem close_resting (rest : x.Resting) (h : s.Takes k 0x25 c x) (soft : c.bit 16 0 = false) (tree : s.tree? x.id = none)
    (room : queueRoom s x (closeGroup x false) = true) :
    ∃ t, exec (.streamClose k) s = .next t ∧ t.stream? x.id = none ∧ t.Answered c 0 x.lastStep (if x.endReason = 0 then 6 else x.endReason) 0 ∧
      (queueOwned s x = true → x.queue < s.eqs.qs.length → (∀ g ∈ (s.queue x.queue).resv, g.lost = false) →
        (t.queue x.queue).recs = (s.queue x.queue).recs ++ closeGroup x false) := by
  obtain ⟨acc, found, -⟩ := takes_facts h
  obtain ⟨-, fenced, waits, ticket, opcode, -⟩ := accepted_facts acc
  rw [← ticket] at waits
  have row : exec (.streamClose k) s = finish s (recordFor (s.onStream x.id Stream.closes) c x.id) := by
    refine congrArg (finish s) ((runCmd_accepted h.1 _).trans ((withStream_takes h _).trans ?_))
    rw [soft, if_neg Bool.false_ne_true]
    rfl
  have found' : (s.onStream x.id Stream.closes).stream? x.id = some x.closes := stream_onStream Stream.closes (fun _ => rfl) found
  have base : Fwd s (s.onStream x.id Stream.closes) := State.onStream_fwd (.refl s)
  have stp : (s.onStream x.id Stream.closes).stp = s.stp := rfl
  have eqs : (s.onStream x.id Stream.closes).eqs = s.eqs := rfl
  have kind : c.noted.opcode = 0x25 := opcode
  have waits' : (s.onStream x.id Stream.closes).cmd? c.ticket = some c := waits
  have room' : queueRoom (s.onStream x.id Stream.closes) x.closes (closeGroup x false) = true := room
  generalize s.onStream x.id Stream.closes = S at row found' base stp eqs waits' room'
  obtain ⟨A, hA⟩ : ∃ A, inTurn (noted S c x.id) (x.closes.noted c.ticket) = A := ⟨_, rfl⟩
  have turned := inTurn_stream (x := x.closes) (c := c) found' rest
  have turn := inTurn_turn S c x.closes
  have roomA := inTurn_room (x := x.closes) (c := c) room'
  have queueA := inTurn_queue (s := S) c x.closes x.queue
  have lengthA := inTurn_queues S c x.closes
  rw [show x.closes.id = x.id from rfl] at *
  rw [hA] at turned turn roomA queueA lengthA
  have same : closeGroup (x.closes.turned (noted S c x.id) c.ticket) false = closeGroup x false := rfl
  have front : behindDraft A (x.closes.turned (noted S c x.id) c.ticket) c.noted = false := by
    have none : A.tree? (x.closes.turned (noted S c x.id) c.ticket).id = none :=
      ((turn.tree x.id).trans (congrArg (fun p : Stp => p.trees.find? fun t : Tree => t.stream == x.id) stp)).trans tree
    simp [behindDraft, none]
  obtain ⟨F, hF⟩ : ∃ F, F = freeStream (publish A (x.closes.turned (noted S c x.id) c.ticket) (closeGroup x false))
    (x.closes.turned (noted S c x.id) c.ticket) := ⟨_, rfl⟩
  have effect : takeEffect A (x.closes.turned (noted S c x.id) c.ticket) c.noted =
      .ok (complete F c.noted 0 x.lastStep (if x.endReason = 0 then 6 else x.endReason) 0) := by
    have soft' : c.noted.bit 16 0 = false := soft
    have list : (x.closes.turned (noted S c x.id) c.ticket).recorded.filter (· != c.noted.ticket) = [] := alone_left c.ticket
    simp only [takeEffect, kind, soft', closeStream, same, roomA, if_true, list, leaveRecorded, List.foldl_nil, ← hF]
    rfl
  have gone : F.stream? x.id = none := hF ▸ freeStream_gone _ (x.closes.turned (noted S c x.id) c.ticket)
  obtain ⟨t, O, next, comps, hO, final⟩ := finish_taken_any (x := x.closes) fenced base found' waits' rest hA front (by rw [opcode]; decide) effect
    fun y there => by cases gone.symm.trans there
  have octx : O.ctx = (F.onStream x.id (Stream.unlists c.ticket)).ctx := by rw [hO, outTurn_ctx]; rfl
  have ogone : O.stream? x.id = none := by
    rw [stream?_of_ctx octx, find_onStream F (Stream.unlists c.ticket) (fun _ => rfl), gone]
    rfl
  have served : serve O x.id = O := by
    rw [serve_eq, ogone]
  have final' : t.sansFab = O.sansFab := final.trans (congrArg State.sansFab served)
  have ctx := congrArg State.ctx final'
  have teqs := congrArg State.eqs final'
  obtain ⟨e, mem, isFor⟩ := complete_answers F c 0 x.lastStep (if x.endReason = 0 then 6 else x.endReason) 0
  refine ⟨t, row.trans next, (stream?_of_ctx (s := O) ctx x.id).trans ogone, ⟨e, comps e mem, isFor⟩, fun owned inside whole => ?_⟩
  have here : S.queue x.queue = s.queue x.queue := congrArg (fun e : Eqs => getN e.qs x.queue) eqs
  obtain ⟨ws, hq⟩ : ∃ ws, A.queue x.queue = { s.queue x.queue with waiters := ws } := by
    rcases queueA with q | ⟨-, q⟩
    · exact ⟨_, q.trans here⟩
    · exact ⟨[], q.trans (congrArg (fun q : EqQueue => { q with waiters := [] }) here)⟩
  have published := publish_recs (s := A) (x := x.closes.turned (noted S c x.id) c.ticket) (rs := closeGroup x false)
    (by unfold queueOwned at owned ⊢; rw [show (x.closes.turned (noted S c x.id) c.ticket).queue = x.queue from rfl, hq]; exact owned)
    (by rw [lengthA, congrArg (fun e : Eqs => e.qs.length) eqs]; exact inside)
    (by rw [show (x.closes.turned (noted S c x.id) c.ticket).queue = x.queue from rfl, hq]; exact whole)
  have freed : (F.queue x.queue).recs = _ := hF ▸ freeStream_recs _ (x.closes.turned (noted S c x.id) c.ticket) x.queue
  have out : (O.queue x.queue).recs = (F.queue x.queue).recs := by
    rw [hO]
    unfold outTurn
    split
    · exact recs_onQueue (s := F) _ _ _ fun _ => rfl
    · rfl
  have first : (A.queue x.queue).recs = (s.queue x.queue).recs := by rw [hq]
  exact (congrArg (fun e : Eqs => (getN e.qs x.queue).recs) teqs).trans (out.trans (freed.trans (published.trans (congrArg (· ++ closeGroup x false) first))))

end

/-- Settles O17. That a CHECKPOINT of a stream without slots completes at once is the model's choice (log entry 43). -/
theorem boundaryCommands : Obligations.BoundaryCommands := by
  unfold Obligations.BoundaryCommands
  intro s k c x rest
  exact ⟨fun h soft tree room => close_resting rest h soft tree room, fun h one fresh => epochSet_resting rest h one fresh,
    fun h one tree => suspend_resting rest h one tree, fun h one none zero => checkpoint_without rest h one none zero,
    fun h one pend addr key slot keyed => checkpoint_with rest h one pend slot keyed⟩

end Sys2Proof.Machine
end

section
/-! STREAM_PARAMS and PROMPT at a token boundary (02 R84, R85, 10 R381, R382). -/

namespace Sys2Proof.Machine

/-! ## STREAM_PARAMS -/

/-- The fields that STREAM_PARAMS can select. -/
def Stream.chosen (x : Stream) : (Word × Nat × Word × Word) × Option Nat × (Nat × Bool) × List (Nat × Word) × Option Nat × Option Nat :=
  ((x.temp, x.topK, x.topP, x.minP), x.maxNew, (x.deadPolicy, x.utf8Raw), x.bias, x.stop, x.aut)

/-- Fields that no group of STREAM_PARAMS names. -/
def Stream.unchosen (x : Stream) : (Nat × Nat × Nat × Nat) × StState × List Nat := ((x.id, x.next, x.seed, x.owner), x.st, x.recorded)

/-- What a STREAM_PARAMS selects, group by group (02 R84, R85). -/
theorem applyParams_fields (s : State) (c : Cmd) (bias : List (Nat × Word)) (x : Stream) :
    (applyParams s c bias x).chosen = (
      (if c.sel 0 then (c.word 24, c.le 22 2, c.word 28, c.word 32) else (x.temp, x.topK, x.topP, x.minP)),
      (if c.sel 1 then some (c.le 36 4) else x.maxNew), (if c.sel 2 then (c.b 18 % 4, c.bit 18 2) else (x.deadPolicy, x.utf8Raw)),
      (if c.sel 3 then bias else x.bias), (if c.sel 4 then (if c.bit 20 7 then none else some (c.b 19)) else x.stop),
      (if c.sel 5 then (if c.bit 20 6 then none else some (c.b 20 % 64)) else x.aut)) ∧
    (applyParams s c bias x).unchosen = x.unchosen := by
  unfold applyParams
  extract_lets a b d e f
  have ha : a.chosen = ((if c.sel 0 then (c.word 24, c.le 22 2, c.word 28, c.word 32) else (x.temp, x.topK, x.topP, x.minP)), x.chosen.2) ∧
      a.unchosen = x.unchosen := by
    dsimp only [a]
    split <;> exact ⟨rfl, rfl⟩
  have hb : b.chosen = (a.chosen.1, (if c.sel 1 then some (c.le 36 4) else a.chosen.2.1), a.chosen.2.2) ∧ b.unchosen = a.unchosen := by
    dsimp only [b]
    split <;> exact ⟨rfl, rfl⟩
  have hd : d.chosen = (b.chosen.1, b.chosen.2.1, (if c.sel 2 then (c.b 18 % 4, c.bit 18 2) else b.chosen.2.2.1), b.chosen.2.2.2) ∧
      d.unchosen = b.unchosen := by
    dsimp only [d]
    split <;> exact ⟨rfl, rfl⟩
  have he : e.chosen = (d.chosen.1, d.chosen.2.1, d.chosen.2.2.1, (if c.sel 3 then bias else d.chosen.2.2.2.1), d.chosen.2.2.2.2) ∧
      e.unchosen = d.unchosen := by
    dsimp only [e]
    split <;> exact ⟨rfl, rfl⟩
  have hf : f.chosen = (e.chosen.1, e.chosen.2.1, e.chosen.2.2.1, e.chosen.2.2.2.1,
      (if c.sel 4 then (if c.bit 20 7 then none else some (c.b 19)) else e.chosen.2.2.2.2.1), e.chosen.2.2.2.2.2) ∧ f.unchosen = e.unchosen := by
    dsimp only [f]
    split <;> exact ⟨rfl, rfl⟩
  have set : ∀ (y : Stream) (cs : ConfSet), (y.putSet cs).chosen = y.chosen ∧ (y.putSet cs).unchosen = y.unchosen := by
    intro y cs
    unfold Stream.putSet Stream.stageSet
    split <;> exact ⟨rfl, rfl⟩
  clear_value a b d e f
  have last : (f.chosen.1, f.chosen.2.1, f.chosen.2.2.1, f.chosen.2.2.2.1, f.chosen.2.2.2.2.1,
      (if c.sel 5 then (if c.bit 20 6 then none else some (c.b 20 % 64)) else f.chosen.2.2.2.2.2)) =
      ((if c.sel 0 then (c.word 24, c.le 22 2, c.word 28, c.word 32) else (x.temp, x.topK, x.topP, x.minP)),
      (if c.sel 1 then some (c.le 36 4) else x.maxNew), (if c.sel 2 then (c.b 18 % 4, c.bit 18 2) else (x.deadPolicy, x.utf8Raw)),
      (if c.sel 3 then bias else x.bias), (if c.sel 4 then (if c.bit 20 7 then none else some (c.b 19)) else x.stop),
      (if c.sel 5 then (if c.bit 20 6 then none else some (c.b 20 % 64)) else x.aut)) := by
    rw [hf.1, he.1, hd.1, hb.1, ha.1]
    rfl
  have kept : f.unchosen = x.unchosen := by rw [hf.2, he.2, hd.2, hb.2, ha.2]
  rw [← last, ← kept]
  split
  · split
    · obtain ⟨p, q⟩ := set { f with aut := none } []
      exact ⟨p, q⟩
    · obtain ⟨p, q⟩ := set { f with aut := some (c.b 20 % 64), spillSaid := false } (startSet (s.automaton (c.b 20 % 64)).img)
      exact ⟨p, q⟩
  · exact ⟨rfl, rfl⟩

theorem TurnOnly.fab {a b : State} (h : TurnOnly a b) : b.fab = a.fab := by
  have e := congrArg State.fab h
  exact e

theorem TurnOnly.aut {a b : State} (h : TurnOnly a b) : b.aut = a.aut := by
  have e := congrArg State.aut h
  exact e

theorem readBytes_fab {a b : State} (h : b.fab = a.fab) (who : Req) (addr len : Nat) : readBytes b who addr len = readBytes a who addr len := by
  have lines : lineOf b who = lineOf a who := funext fun l => lineOf_of_lines (congrArg Fab.lines h) who l
  unfold readBytes
  rw [lines]

/-- The bias table that a STREAM_PARAMS reads. -/
def readBias (s : State) (c : Cmd) : List (Nat × Word) :=
  match readBytes s (.command c.ticket) (c.le 40 8) (8 * (c.b 48 % 128)) with
  | .got bs => biasPairs bs
  | _ => []

/-- Groups that do not end the stream, nor release held text, take effect at once. -/
theorem effectParams_plain {s : State} {x : Stream} {c : Cmd} (steps : c.sel 1 = true → c.le 36 4 ≠ 0) (hold : x.text.hold = []) (st : x.st ≠ .deadEnd)
    (found : s.stream? x.id = some x) :
    ∃ B b, effectParams s x c = .ok (complete B c (if c.sel 5 && !c.bit 20 6 && (s.automaton (c.b 20 % 64)).spilled then 0x1001 else 0) x.next 0 0) ∧
      B.stream? x.id = some b ∧ b.chosen = (applyParams s c (readBias s c) x).chosen ∧ b.unchosen = x.unchosen := by
  have noEnd : (c.sel 1 && c.le 36 4 == 0 && x.endReason == 0) = false := by
    cases h : c.sel 1
    · rfl
    · simp [steps h]
  have group : paramsGroup x c = [] := by
    unfold paramsGroup
    rw [noEnd, if_neg Bool.false_ne_true, hold, ite_self]
    rfl
  obtain ⟨P, hP⟩ : ∃ P, P = endWait s x := ⟨_, rfl⟩
  have published : publish s x [] = P := by rw [hP]; rfl
  have aut : P.aut = s.aut := by
    rw [hP]
    unfold endWait
    split <;> rfl
  obtain ⟨w, there⟩ : ∃ w, P.stream? x.id = some { x with waitQueue := w } := by
    rw [hP]
    unfold endWait
    split
    · exact ⟨false, stream_onStream (s := s.onQueue x.queue fun q => { q with waiters := q.waiters.filter (· != x.id) })
        (fun y => { y with waitQueue := false }) (fun _ => rfl) found⟩
    · exact ⟨x.waitQueue, found⟩
  let F : Stream → Stream := fun y =>
    let y := { applyParams P c (readBias s c) y with ckptDue := true }
    if y.st == .deadEnd then { y with st := .running, rebuild := true } else y
  have same : ∀ y, (applyParams P c (readBias s c) y).id = y.id := fun y =>
    congrArg (fun k => k.1.1) (applyParams_fields P c (readBias s c) y).2
  have keeps : ∀ y, (F y).id = y.id := by
    intro y
    dsimp only [F]
    split <;> exact same y
  have left := stream_onStream F keeps there
  have now : F { x with waitQueue := w } = { applyParams P c (readBias s c) { x with waitQueue := w } with ckptDue := true } := by
    have awake : (applyParams P c (readBias s c) { x with waitQueue := w }).st = x.st :=
      congrArg (fun k => k.2.1) (applyParams_fields P c (readBias s c) { x with waitQueue := w }).2
    exact if_neg (by rw [show ({ applyParams P c (readBias s c) { x with waitQueue := w } with ckptDue := true } : Stream).st = _ from awake]; simpa using st)
  obtain ⟨chosen, unchosen⟩ := applyParams_fields P c (readBias s c) { x with waitQueue := w }
  refine ⟨P.onStream x.id F, _, ?_, left, ?_, ?_⟩
  · have noEnd' : (match (P.onStream x.id F).stream? x.id with
        | some y => if (c.sel 1 && c.le 36 4 == 0 && x.endReason == 0) = true then markEnd (P.onStream x.id F) y 3 y.next else P.onStream x.id F
        | none => P.onStream x.id F) = P.onStream x.id F := by
      rw [left, noEnd]
      rfl
    have code : (if (c.sel 5 && !c.bit 20 6) = true then bindStatus (P.onStream x.id F) (some (c.b 20 % 64)) else Status.ok).code =
        if c.sel 5 && !c.bit 20 6 && (s.automaton (c.b 20 % 64)).spilled then 0x1001 else 0 := by
      have auts : ((P.onStream x.id F).automaton (c.b 20 % 64)).spilled = (s.automaton (c.b 20 % 64)).spilled :=
        congrArg (fun a : Aut => (getN a.auts (c.b 20 % 64)).spilled) aut
      cases h : (c.sel 5 && !c.bit 20 6)
      · rfl
      · simp only [if_true, bindStatus, Option.map_some, Option.getD_some, auts, Bool.true_and]
        split <;> rfl
    unfold effectParams
    dsimp only
    rw [group, if_neg (by simp [queueRoom]), published, ← code]
    exact congrArg (fun t => Except.ok (complete t c
      (if (c.sel 5 && !c.bit 20 6) = true then bindStatus t (some (c.b 20 % 64)) else Status.ok).code x.next 0 0)) noEnd'
  · rw [now]
    exact chosen.trans (applyParams_fields s c (readBias s c) x).1.symm
  · rw [now]
    exact unchosen

/-- STREAM_PARAMS at a boundary takes the groups that it selects. -/
theorem params_resting {s : State} {k : Nat} {c : Cmd} {x : Stream} (h : s.Takes k 0x21 c x) (rest : x.Resting) (tree : s.tree? x.id = none)
    (st : x.st ≠ .deadEnd) (status : paramsStatus s x c = none)
    (table : c.sel 3 = true → ∃ bs, readBytes s (.command k) (c.le 40 8) (8 * (c.b 48 % 128)) = .got bs ∧ biasOk (s.vocOf x).v (biasPairs bs) = true)
    (steps : c.sel 1 = true → c.le 36 4 ≠ 0) (hold : x.text.hold = []) :
    ∃ t y, exec (.streamParams k) s = .next t ∧
      t.Answered c (if c.sel 5 && !c.bit 20 6 && (s.automaton (c.b 20 % 64)).spilled then 0x1001 else 0) x.next 0 0 ∧
      t.stream? x.id = some y ∧ y.chosen = (applyParams s c (readBias s c) x).chosen ∧ y.next = x.next ∧ y.seed = x.seed ∧ y.owner = x.owner := by
  obtain ⟨acc, found, -⟩ := takes_facts h
  obtain ⟨-, fenced, waits, ticket, opcode, -⟩ := accepted_facts acc
  rw [← ticket] at waits
  have row : exec (.streamParams k) s = finish s (recordFor s c x.id) := by
    refine congrArg (finish s) ((runCmd_accepted h.1 _).trans ((withStream_takes h _).trans ?_))
    simp only [status]
    cases three : c.sel 3
    · rfl
    · obtain ⟨bs, got, ok⟩ := table three
      rw [← ticket] at got
      simp only [got, ok, Bool.not_true, Bool.false_eq_true, if_false, if_true]
  obtain ⟨A, hA⟩ : ∃ A, inTurn (noted s c x.id) (x.noted c.ticket) = A := ⟨_, rfl⟩
  have turned := inTurn_stream (c := c) found rest
  have turn := inTurn_turn s c x
  rw [hA] at turned turn
  have kind : c.noted.opcode = 0x21 := opcode
  have front : behindDraft A (x.turned (noted s c x.id) c.ticket) c.noted = false := by
    have none : A.tree? (x.turned (noted s c x.id) c.ticket).id = none := (turn.tree x.id).trans tree
    simp [behindDraft, none]
  obtain ⟨B, b, effect, left, chosen, unchosen⟩ := effectParams_plain (s := A) (x := x.turned (noted s c x.id) c.ticket) (c := c.noted) steps hold st turned
  have effect' : takeEffect A (x.turned (noted s c x.id) c.ticket) c.noted = .ok _ := (by simp only [takeEffect, kind]; exact effect)
  obtain ⟨t, O, next, comps, there, same⟩ := finish_taken fenced (.refl s) found waits rest hA front (by rw [opcode]; decide) effect' left
    (by rw [show b.recorded = [c.ticket] from congrArg (fun k => k.2.2) unchosen]; exact alone_left _)
  obtain ⟨y, final, same'⟩ := (serve_lasting O x.id).found there
  obtain ⟨e, mem, isFor⟩ := complete_answers B c (if c.noted.sel 5 && !c.noted.bit 20 6 && (A.automaton (c.noted.b 20 % 64)).spilled then 0x1001 else 0) x.next 0 0
  have spilled : (A.automaton (c.b 20 % 64)).spilled = (s.automaton (c.b 20 % 64)).spilled := congrArg (fun a : Aut => (getN a.auts (c.b 20 % 64)).spilled) turn.aut
  have bias : readBias A c.noted = readBias s c := by
    unfold readBias
    rw [readBytes_fab turn.fab]
    rfl
  refine ⟨t, y, row.trans next, ⟨e, comps e mem, ?_⟩, (same x.id).trans final, ?_, ?_⟩
  · rw [← spilled]
    exact isFor
  · have last := congrArg Stream.chosen same'
    refine last.trans (chosen.trans ?_)
    rw [(applyParams_fields ..).1, (applyParams_fields ..).1, bias]
    rfl
  · have names := congrArg (fun y => y.unchosen.1) same'
    have old := congrArg Prod.fst unchosen
    have all := names.trans old
    exact ⟨congrArg (fun p => p.2.1) all, congrArg (fun p => p.2.2.1) all, congrArg (fun p => p.2.2.2) all⟩

end Sys2Proof.Machine
end

section
/-! PROMPT at a token boundary (10 R381, R382). -/

namespace Sys2Proof.Machine

/-! ## What taking the turn leaves a prompt to see -/

/-- What looks at no stream, ring or queue is as before the turn. -/
theorem TurnOnly.blind {α : Type} {a b : State} (h : TurnOnly a b) (f : State → α) (same : ∀ t ctx rng eqs, f { t with ctx := ctx, rng := rng, eqs := eqs } = f t) :
    f b = f a := (same b a.ctx a.rng a.eqs).symm.trans (congrArg f h)

theorem promptTokens_turn {a b : State} (h : TurnOnly a b) (x : Stream) (r : List Nat) (w : Bool) (c : Cmd) (bs : List Byte) :
    promptTokens b { x with recorded := r, waitQueue := w } c bs = promptTokens a x c bs :=
  h.blind (fun t => promptTokens t x c bs) fun t ctx rng eqs => by
    have entered : ∀ p q, (enterProgram { t with ctx := ctx, rng := rng, eqs := eqs } p q).turret p = (enterProgram t p q).turret p := by
      intro p q
      cases q <;> rfl
    unfold promptTokens
    dsimp only
    simp only [entered]
    rfl

theorem advanceSet_turn {a b : State} (h : TurnOnly a b) (x : Stream) (r : List Nat) (w : Bool) (ts : List Nat) :
    advanceSet b { x with recorded := r, waitQueue := w } ts = advanceSet a x ts :=
  h.blind (fun t => advanceSet t x ts) fun _ _ _ _ => rfl

theorem spillHere_turn {a b : State} (h : TurnOnly a b) (x : Stream) (r : List Nat) (w : Bool) (ls : List Nat) :
    spillHere b { x with recorded := r, waitQueue := w } ls = spillHere a x ls :=
  h.blind (fun t => spillHere t x ls) fun _ _ _ _ => rfl

/-- What a ring's floor depends on, of each stream. -/
def Stream.floorKey (x : Stream) : (Nat × Bool × Nat) × Nat := ((x.owner, x.record, x.id), x.ckptSeq)

theorem floorStreams_seqs (s : State) (o : Nat) (replay : Bool) : (floorStreams s o replay).map (·.ckptSeq) =
    ((s.ctx.streams.map Stream.floorKey).filter fun k =>
      k.1.1 == o && k.1.2.1 == !replay && !decide ((getN s.pkr.owners k.1.1).ckLog = 0 ∨ 2 ^ (getN s.pkr.owners k.1.1).ckLog < 8192 * k.1.2.2 + 8192)).map (·.2) := by
  unfold floorStreams
  rw [List.filter_map, List.map_map]
  refine congrArg (List.map _) (List.filter_congr fun x _ => ?_)
  unfold ckptSlot State.ownPkr Stream.floorKey
  dsimp only [Function.comp]
  split
  · next h => simp [h]
  · next h => simp [h]

theorem ringFloor_seqs (s : State) (o : Nat) (replay : Bool) : ringFloor s o replay =
    match (floorStreams s o replay).map (·.ckptSeq) with
    | [] => ((s.ownPkr o).ring replay).wseq
    | m :: r => r.foldl min m := by
  unfold ringFloor
  cases floorStreams s o replay with
  | nil => rfl
  | cons x r => exact List.foldl_map.symm

theorem ringRoom_of_keys {a b : State} (pkr : b.pkr = a.pkr) (keys : b.ctx.streams.map Stream.floorKey = a.ctx.streams.map Stream.floorKey)
    (o : Nat) (replay : Bool) (n : Nat) : ringRoom b o replay n = ringRoom a o replay n := by
  have seqs : (floorStreams b o replay).map (·.ckptSeq) = (floorStreams a o replay).map (·.ckptSeq) := by
    rw [floorStreams_seqs, floorStreams_seqs, pkr, keys]
  have floor : ringFloor b o replay = ringFloor a o replay := by
    rw [ringFloor_seqs, ringFloor_seqs, seqs]
    unfold State.ownPkr
    rw [pkr]
  unfold ringRoom retainMark State.ownPkr
  rw [floor, pkr]

theorem onStream_keys {α : Type} (g : Stream → α) (s : State) (id : Nat) {f : Stream → Stream} (same : ∀ y, g (f y) = g y) :
    (s.onStream id f).ctx.streams.map g = s.ctx.streams.map g := by
  refine (List.map_map ..).trans (List.map_congr_left fun y _ => ?_)
  dsimp only [Function.comp]
  split
  · exact same y
  · rfl

theorem inTurn_keys (s : State) (c : Cmd) (x : Stream) :
    (inTurn (noted s c x.id) (x.noted c.ticket)).ctx.streams.map Stream.floorKey = s.ctx.streams.map Stream.floorKey := by
  have first : (noted s c x.id).ctx.streams.map Stream.floorKey = s.ctx.streams.map Stream.floorKey :=
    onStream_keys Stream.floorKey (s.onCmd c.ticket fun c => { c with phase := .recorded }) x.id (f := Stream.lists c.ticket) fun _ => rfl
  unfold inTurn
  split
  · exact (onStream_keys Stream.floorKey ((noted s c x.id).onQueue x.queue fun q => { q with waiters := [] }) x.id
      (f := fun y => { y with waitQueue := false }) fun _ => rfl).trans first
  · exact first

/-- Bytes that have been read are not fetched again. -/
theorem fetchBytes_got {s : State} {who : Req} {addr len : Nat} {bs : List Byte} (got : readBytes s who addr len = .got bs) :
    fetchBytes s who addr len = s := by
  have here : ∀ l ∈ linesOf addr len, (lineOf s who l).isSome := by
    intro l mem
    unfold readBytes at got
    dsimp only at got
    split at got
    · cases got
    · split at got
      · cases got
      · next none =>
        have some : lineOf s who l ≠ Option.none := fun e => none (List.any_eq_true.mpr ⟨Option.none, List.mem_map.mpr ⟨l, mem, e⟩, rfl⟩)
        exact Option.isSome_iff_ne_none.mpr some
  unfold fetchBytes
  clear got
  generalize linesOf addr len = ls at here ⊢
  induction ls with
  | nil => rfl
  | cons l r ih =>
    have first : fetchLine s who l = s := by
      unfold fetchLine
      simp only [here l List.mem_cons_self, Bool.true_or, if_true]
    rw [List.foldl_cons, first]
    exact ih fun n mem => here n (List.mem_cons_of_mem _ mem)

/-! ## The commit of a prompt -/

/-- What a prompt sets, and the list of what is recorded. -/
def Stream.prompted (y : Stream) : Nat × Nat × List Nat := (y.next, y.gen, y.recorded)

theorem endWait_touches {α : Type} {g : Stream → α} (h : ∀ y w, g { y with waitQueue := w } = g y) (s : State) (x : Stream) :
    Touches x.id g s (endWait s x) := by
  unfold endWait
  split
  · exact (Touches.of_ctx rfl : Touches x.id g s (s.onQueue x.queue fun q => { q with waiters := q.waiters.filter (· != x.id) })).trans
      (.onStream _ (fun _ => rfl) fun y => h y false)
  · exact .refl s

theorem publish_touches {α : Type} {g : Stream → α} (h : ∀ y w said, g { y with waitQueue := w, queueSaid := said } = g y) (s : State) (x : Stream)
    (rs : List (List Byte)) : Touches x.id g s (publish s x rs) := by
  have waited : Touches x.id g s (endWait s x) := endWait_touches (fun y w => h y w y.queueSaid) s x
  unfold publish
  extract_lets w e
  have drops : Touches x.id g s e := waited.trans (.of_ctx rfl)
  clear_value e
  split
  · exact waited
  · split
    · exact waited.trans (.of_ctx rfl)
    · split
      · exact drops
      · exact (drops.trans (.onStream e (f := fun y => { y with queueSaid := true }) (fun _ => rfl) fun y => h y y.waitQueue true)).trans
          (.of_ctx (raiseHome_ctx ..))

theorem takeSpill_touches {α : Type} {g : Stream → α} (h : BlindToLookup g) (s : State) (id : Nat) : Touches id g s (takeSpill s id) := by
  unfold takeSpill
  extract_lets n
  split
  · exact .refl s
  · exact (Touches.of_ctx rfl : Touches id g s (s.onCry fun c => { c with linesDec := c.linesDec + n })).trans (dropSpill_touches h _ id)

theorem dropJob_ctx (s : State) (t : Nat) : (dropJob s t).ctx = s.ctx := rfl

theorem stage_ctx (s : State) (o : Nat) (replay : Bool) (es : List Staged) : (stage s o replay es).ctx = s.ctx := (writeLines_rings ..).ctx

theorem countRevoked_ctx (s : State) (x : Stream) (n : Nat) : (countRevoked s x n).ctx = s.ctx := by
  unfold countRevoked
  split <;> rfl

theorem raiseFrom_ctx (s : State) (p code stream step detail : Nat) : (raiseFrom s p code stream step detail).ctx = s.ctx :=
  show (raiseFrom s p code stream step detail).sansBel.ctx = s.sansBel.ctx by rw [raiseFrom_sansBel]

theorem programFaults_ctx (s : State) (p stream tag ring prog : Nat) (fs : List Tok.Fault3) :
    (programFaults s p stream tag ring prog fs).ctx = s.ctx := by
  unfold programFaults
  refine foldl_keeps _ State.ctx (fun t f => ?_) _ _
  exact (raiseFrom_ctx ..).trans (State.onTurret_ctx ..)

theorem programRan_ctx (s : State) (p stream tag ring : Nat) (prog : Tok.Prog) (fs : List Tok.Fault3) (retired : Nat) :
    (programRan s p stream tag ring prog fs retired).ctx = s.ctx := by
  have entered : (if retired = 0 ∧ fs.isEmpty then s else enterProgram s p prog).ctx = s.ctx := by
    split
    · rfl
    · cases prog <;> rfl
  unfold programRan
  exact (State.onTurret_ctx ..).trans ((programFaults_ctx ..).trans entered)

/-- A prompt whose tokens are known and find room is committed. -/
theorem commitPrompt_takes {s : State} {x : Stream} {c : Cmd} {ts : List Nat} {n : Nat} (found : s.stream? x.id = some x) (ckpt : x.waitCkpt = false)
    (spill : spillHere s x (if c.bit 16 3 = true then (advanceSet s x ts).read else []) = true)
    (room : queueRoom s x (textRecord true x.id x.lastStep (endText x.utf8Raw x.text)) = true) (ring : ringRoom s x.owner (!x.record) ts.length = true) :
    ∃ B b, commitPrompt s x c ts n = .ok (complete B c 0 (x.next + ts.length) ts.length n) ∧ B.stream? x.id = some b ∧
      b.prompted = (x.next + ts.length, 0, x.recorded) ∧ b.text = {} := by
  have read : (if c.bit 16 3 = true then advanceSet s x ts else { set := x.set }).read = if c.bit 16 3 = true then (advanceSet s x ts).read else [] := by
    split <;> rfl
  rw [← read] at spill
  unfold commitPrompt
  extract_lets g r v a1 a2 a3 es a4 a5
  have first : Touches x.id Stream.prompted s a1 := by
    dsimp only [a1]
    split
    · exact takeCkpt_touches ⟨fun _ _ _ _ _ _ _ => rfl⟩ s x
    · exact .refl s
  have second : Touches x.id Stream.prompted s a2 :=
    (first.trans (publish_touches (fun _ _ _ => rfl) a1 x g)).trans (takeSpill_touches ⟨fun _ _ _ _ => rfl⟩ _ x.id)
  have third : Touches x.id Stream.prompted s a3 := second.trans (stepEvents_touches ⟨fun _ _ _ _ => rfl⟩ a2 x (x.aut.getD 0) r x.next)
  obtain ⟨y, there, same⟩ := third.found found
  have next : y.next = x.next := congrArg (fun p => p.1) same
  have list : y.recorded = x.recorded := congrArg (fun p => p.2.2) same
  have put : ∀ (z : Stream) cs, (z.putSet cs).id = z.id ∧ (z.putSet cs).recorded = z.recorded := by
    intro z cs
    unfold Stream.putSet Stream.stageSet
    split <;> exact ⟨rfl, rfl⟩
  have four := find_onStream a3 (fun y => { (y.putSet r.set) with
      next := y.next + ts.length, token := ts.getLast?.or y.token, text := {}, gen := 0, waitRing := false, waitQueue := false
      ckptDue := true, ckptSteps := y.ckptSteps + ts.length, idleSaid := false
      armed := if y.st == .ended || (y.st == .suspended && y.prior == .ended) then some 0 else y.armed
      st := if y.st == .ended then .idle else y.st
      prior := if y.st == .suspended && y.prior == .ended then .idle else y.prior
      endReason := 0 }) (fun z => (put z r.set).1) x.id
  rw [there, Option.map_some] at four
  have ctx5 : (dropJob a5 c.ticket).ctx = a4.ctx := (dropJob_ctx ..).trans ((countRevoked_ctx ..).trans (stage_ctx ..))
  refine ⟨dropJob a5 c.ticket, _, ?_, (stream?_of_ctx ctx5 x.id).trans four, ?_, rfl⟩
  · rw [ckpt, spill, room, ring]
    rfl
  · unfold Stream.prompted
    dsimp only
    rw [(put y r.set).2, next, list]

/-- PROMPT at a boundary commits its tokens. -/
theorem prompt_resting {s : State} {k : Nat} {c : Cmd} {x : Stream} {bs : List Byte} {ts : List Nat} (h : s.Takes k 0x22 c x) (rest : x.Resting)
    (tree : s.tree? x.id = none) (slot : jobSlot s x.slot = none) (got : readBytes s (.command k) c.addr24 c.promptLen = .got bs)
    (tokens : (promptTokens s x c bs).ids = .ok ts) (ckpt : x.waitCkpt = false)
    (units : promptShared (promptTokens s x c bs) c.promptLen = true ∨ promptLong (promptTokens s x c bs) = true → s.job? k ≠ none)
    (area : promptLong (promptTokens s x c bs) = true → (x.home / 16, k) ∈ s.cup.longPiece)
    (spill : spillHere s x (if c.bit 16 3 = true then (advanceSet s x ts).read else []) = true)
    (steps : x.next + ts.length ≤ 0xFFFFFFFD) (entries : ts.length + 1024 ≤ ((s.ownPkr x.owner).ring (!x.record)).entries (!x.record))
    (room : queueRoom s x (textRecord true x.id x.lastStep (endText x.utf8Raw x.text)) = true) (ring : ringRoom s x.owner (!x.record) ts.length = true) :
    ∃ t y, exec (.prompt k) s = .next t ∧ t.Answered c 0 (x.next + ts.length) ts.length c.promptLen ∧
      t.stream? x.id = some y ∧ y.next = x.next + ts.length ∧ y.gen = 0 ∧ y.text = {} := by
  obtain ⟨acc, found, -⟩ := takes_facts h
  obtain ⟨-, fenced, waits, ticket, opcode, -⟩ := accepted_facts acc
  subst ticket
  have row : exec (.prompt c.ticket) s = finish s (recordFor s c x.id) := by
    refine congrArg (finish s) ((runCmd_accepted h.1 _).trans ((withStream_takes h _).trans ?_))
    rw [fetchBytes_got got]
  obtain ⟨A, hA⟩ : ∃ A, inTurn (noted s c x.id) (x.noted c.ticket) = A := ⟨_, rfl⟩
  have turned := inTurn_stream (c := c) found rest
  have turn := inTurn_turn s c x
  have roomA := inTurn_room (c := c) room
  have ringA := ringRoom_of_keys turn.pkr (inTurn_keys s c x) x.owner (!x.record) ts.length
  rw [hA] at turned turn roomA ringA
  have kind : c.noted.opcode = 0x22 := opcode
  have front : behindDraft A (x.turned (noted s c x.id) c.ticket) c.noted = false := by
    have none : A.tree? (x.turned (noted s c x.id) c.ticket).id = none := (turn.tree x.id).trans tree
    simp [behindDraft, none]
  obtain ⟨X, hX⟩ : ∃ X, X = x.turned (noted s c x.id) c.ticket := ⟨_, rfl⟩
  have tokensA : promptTokens A X c bs = promptTokens s x c bs := hX ▸ promptTokens_turn turn x ..
  have advanceA : advanceSet A X ts = advanceSet s x ts := hX ▸ advanceSet_turn turn x ..
  have spillA : spillHere A X (if c.bit 16 3 = true then (advanceSet A X ts).read else []) = true := by
    rw [advanceA, hX]
    exact (spillHere_turn turn x ..).trans spill
  have slotA : jobSlot A X.slot = none := by
    rw [hX]
    exact (turn.blind (fun t => jobSlot t x.slot) fun _ _ _ _ => rfl).trans slot
  have gotA : readBytes A (.command c.ticket) c.addr24 c.promptLen = .got bs := (readBytes_fab turn.fab ..).trans got
  have jobA : A.job? c.ticket = s.job? c.ticket := turn.blind (fun t => t.job? c.ticket) fun _ _ _ _ => rfl
  have cupA : A.cup = s.cup := turn.blind State.cup fun _ _ _ _ => rfl
  have ownA : A.ownPkr x.owner = s.ownPkr x.owner := turn.blind (fun t => t.ownPkr x.owner) fun _ _ _ _ => rfl
  have foundX : A.stream? X.id = some X := by rw [hX]; exact turned
  obtain ⟨B, b, commit, left, prompted, text⟩ := commitPrompt_takes (c := c.noted) (n := c.promptLen) foundX
    (by rw [hX]; exact ckpt) spillA (by rw [hX]; exact roomA) (by rw [hX]; exact ringA.trans ring)
  have left' : (promptRan (complete B c.noted 0 (X.next + ts.length) ts.length c.promptLen) X c.noted (promptTokens s x c bs)).stream? X.id = some b :=
    (stream?_of_ctx (programRan_ctx ..) _).trans left
  obtain ⟨e, mem, isFor⟩ := complete_answers B c 0 (X.next + ts.length) ts.length c.promptLen
  have mem' := (promptRan_fwd (x := X) (c := c.noted) (r := promptTokens s x c bs) (.refl (complete B c.noted 0 (X.next + ts.length) ts.length c.promptLen))).comps e mem
  generalize hE : promptRan (complete B c.noted 0 (X.next + ts.length) ts.length c.promptLen) X c.noted (promptTokens s x c bs) = E at left' mem'
  have effect : takeEffect A X c.noted = .ok E := by
    have same : effectPrompt A X c.noted = .ok E := by
      have notShared : ((promptShared (promptTokens s x c bs) c.promptLen || promptLong (promptTokens s x c bs)) && (s.job? c.ticket).isNone) = false := by
        cases shared : (promptShared (promptTokens s x c bs) c.promptLen || promptLong (promptTokens s x c bs))
        · rfl
        · rw [Bool.true_and, Option.isNone_eq_false_iff]
          exact Option.isSome_iff_ne_none.mpr (units (by rwa [Bool.or_eq_true] at shared))
      have inArea : (promptLong (promptTokens s x c bs) && !s.cup.longPiece.contains (X.home / 16, c.ticket)) = false := by
        cases long : promptLong (promptTokens s x c bs)
        · rfl
        · rw [Bool.true_and, Bool.not_eq_false', List.contains_iff_mem, hX]
          exact area long
      have fits : ¬ (0xFFFFFFFD < X.next + ts.length ∨ ((A.ownPkr X.owner).ring (!X.record)).entries (!X.record) < ts.length + 1024) := by
        rw [hX, show (x.turned (noted s c x.id) c.ticket).owner = x.owner from rfl, ownA]
        exact not_or.mpr ⟨Nat.not_lt.mpr steps, Nat.not_lt.mpr entries⟩
      unfold effectPrompt
      dsimp only
      rw [slotA]
      dsimp only
      rw [show readBytes A (.command c.noted.ticket) c.noted.addr24 c.noted.promptLen = .got bs from gotA]
      dsimp only
      rw [show promptTokens A X c.noted bs = promptTokens s x c bs from tokensA, show A.job? c.noted.ticket = s.job? c.ticket from jobA, cupA,
        if_neg (by rw [show c.noted.promptLen = c.promptLen from rfl, notShared]; exact Bool.false_ne_true),
        if_neg (by rw [show c.noted.ticket = c.ticket from rfl, inArea]; exact Bool.false_ne_true), tokens]
      dsimp only
      rw [if_neg fits, show c.noted.promptLen = c.promptLen from rfl, commit]
      exact congrArg Except.ok hE
    simp only [takeEffect, kind]
    exact same
  rw [hX] at effect left'
  have nextX : X.next = x.next := hX ▸ rfl
  obtain ⟨t, O, next, comps, there, same⟩ := finish_taken fenced (.refl s) found waits rest hA front (by rw [opcode]; decide) effect left'
    (by rw [show b.recorded = [c.ticket] from (congrArg (fun p => p.2.2) prompted).trans (hX ▸ rfl)]; exact alone_left _)
  obtain ⟨y, final, same'⟩ := (serve_lasting O x.id).found there
  refine ⟨t, y, row.trans next, ⟨e, comps e mem', nextX ▸ isFor⟩, (same x.id).trans final, ?_, ?_, ?_⟩
  · have last := congrArg Stream.next same'
    exact last.trans ((congrArg (fun p => p.1) prompted).trans (congrArg (· + ts.length) nextX))
  · have last := congrArg Stream.gen same'
    exact last.trans (congrArg (fun p => p.2.1) prompted)
  · have last := congrArg Stream.text same'
    exact last.trans text

/-- Settles O16, by the commit of a prompt and by the groups of STREAM_PARAMS. -/
theorem promptsAndParams : Obligations.PromptsAndParams := by
  unfold Obligations.PromptsAndParams
  refine ⟨fun s k c x bs ts h rest tree slot got tokens ckpt units area spill steps entries room ring =>
    prompt_resting h rest tree slot got tokens ckpt units area spill steps entries room ring, ?_⟩
  intro s k c x h rest tree st status table steps hold
  obtain ⟨acc, -, -⟩ := takes_facts h
  obtain ⟨-, -, -, ticket, -, -⟩ := accepted_facts acc
  obtain ⟨t, y, next, answered, final, chosen, nextS, seed, owner⟩ := params_resting h rest tree st status table steps hold
  rw [(applyParams_fields ..).1] at chosen
  unfold Stream.chosen at chosen
  simp only [Prod.mk.injEq] at chosen
  obtain ⟨sample, maxNew, dead, bias, stop, aut⟩ := chosen
  refine ⟨t, y, _, next, answered, rfl, final, nextS, seed, owner, ?_, ?_, ?_, ?_, maxNew, ?_, ?_, ?_, ?_, stop, aut⟩
  · rw [show y.temp = _ from congrArg (fun p => p.1) sample]; split <;> rfl
  · rw [show y.topK = _ from congrArg (fun p => p.2.1) sample]; split <;> rfl
  · rw [show y.topP = _ from congrArg (fun p => p.2.2.1) sample]; split <;> rfl
  · rw [show y.minP = _ from congrArg (fun p => p.2.2.2) sample]; split <;> rfl
  · rw [show y.deadPolicy = _ from congrArg (fun p => p.1) dead]; split <;> rfl
  · rw [show y.utf8Raw = _ from congrArg (fun p => p.2) dead]; split <;> rfl
  · intro unselected
    rw [bias, unselected]
    rfl
  · intro bs selected got
    subst ticket
    rw [bias, selected, if_pos rfl, readBias, got]

end Sys2Proof.Machine
end

section
/-! The output of TOKENIZE is the ids of its pieces in order, as far as they fit (04 R140, R171, R174). -/

namespace Sys2Proof.Machine

/-- What the pieces of a unit write, from output position n on: their ids in order, as far as the output goes. -/
theorem takePieces_takes (cap : Nat) (ps : List Tok.PieceOut) (n e : Nat) (room : n ≤ cap) :
    (takePieces cap ps n e).1 = (ps.flatMap (·.ids)).take (cap - n) ∧
      (takePieces cap ps n e).2.2.2 = decide (cap < n + (ps.flatMap (·.ids)).length) ∧
      (n + (ps.flatMap (·.ids)).length ≤ cap → (takePieces cap ps n e).2.1 = n + (ps.flatMap (·.ids)).length) := by
  induction ps generalizing n e with
  | nil => simp [takePieces, room]
  | cons p ps ih =>
    rw [takePieces, List.flatMap_cons, List.length_append]
    by_cases past : cap < n + p.ids.length
    · rw [if_pos past, List.take_append_of_le_length (by omega)]
      exact ⟨rfl, (decide_eq_true (by omega)).symm, fun fits => by omega⟩
    · rw [if_neg past]
      obtain ⟨taken, full, count⟩ := ih (n + p.ids.length) p.stop (by omega)
      refine ⟨?_, ?_, fun fits => ?_⟩
      · rw [List.take_append, List.take_of_length_le (by omega), Nat.sub_sub]
        exact congrArg (p.ids ++ ·) taken
      · rw [← Nat.add_assoc]
        exact full
      · rw [← Nat.add_assoc]
        exact count (by omega)

/-- The ids of the units of a TOKENIZE job, in order. -/
def unitIds (us : List (Nat × Tok.UnitOut)) : List Nat := us.flatMap fun u => u.2.pieces.flatMap (·.ids)

/-- The bytes that a plan writes, in unit order. -/
def JobPlan.bytes (p : JobPlan) : List Byte := p.units.flatMap fun u => u.out.flatMap Prod.snd

/-- The plan of the units that remain, from output position n on. -/
theorem tokenPlan_writes (cap len : Nat) (us : List (Nat × Tok.UnitOut)) (k n e : Nat) (good : ∀ u ∈ us, u.2.fail = none) (room : n ≤ cap) :
    (tokenPlan cap len true us k n e).bytes = ((unitIds us).take (cap - n)).flatMap (leBytes 4) ∧
      (n + (unitIds us).length ≤ cap → (tokenPlan cap len true us k n e).result = .ok ∧
        (tokenPlan cap len true us k n e).d0 = n + (unitIds us).length ∧ (tokenPlan cap len true us k n e).d1 = len) ∧
      (cap < n + (unitIds us).length → (tokenPlan cap len true us k n e).result = .outputFull ∧ (tokenPlan cap len true us k n e).d0 = cap) := by
  induction us generalizing k n e with
  | nil => simp [tokenPlan, unitIds, JobPlan.bytes, room]
  | cons u us ih =>
    obtain ⟨start, u⟩ := u
    obtain ⟨taken, full, count⟩ := takePieces_takes cap u.pieces n e room
    have fails : u.fail = none := good (start, u) List.mem_cons_self
    obtain ⟨ids, hids⟩ : ∃ ids, u.pieces.flatMap (·.ids) = ids := ⟨_, rfl⟩
    have split : unitIds ((start, u) :: us) = ids ++ unitIds us := hids ▸ rfl
    rw [hids] at taken full count
    rw [tokenPlan, if_neg (by simp), split, List.length_append]
    by_cases past : cap < n + ids.length
    · rw [if_pos (by rw [full]; exact decide_eq_true past), List.take_append_of_le_length (by omega)]
      refine ⟨?_, fun fits => by omega, fun _ => ⟨rfl, rfl⟩⟩
      simp [JobPlan.bytes, taken]
    · rw [if_neg (by rw [full, decide_eq_false past]; exact Bool.false_ne_true), fails, count (by omega)]
      obtain ⟨bytes, fits, overflows⟩ := ih (k + 1) (n + ids.length) (takePieces cap u.pieces n e).2.2.1 (fun v mem => good v (List.mem_cons_of_mem _ mem)) (by omega)
      refine ⟨?_, fun h => ?_, fun h => ?_⟩
      · rw [List.take_append, ← Nat.sub_sub, List.flatMap_append] at *
        rw [← bytes]
        simp [JobPlan.bytes, taken]
      · rw [← Nat.add_assoc] at h ⊢
        exact fits h
      · rw [← Nat.add_assoc] at h
        exact overflows h

/-- Settles O22, by induction on the units. -/
theorem tokenizeWritesIdsInOrder : Obligations.TokenizeWritesIdsInOrder := by
  unfold Obligations.TokenizeWritesIdsInOrder
  intro cap len us good
  obtain ⟨bytes, fits, overflows⟩ := tokenPlan_writes cap len us 0 0 0 good (Nat.zero_le _)
  simp only [Nat.zero_add, Nat.sub_zero] at bytes fits overflows
  exact ⟨bytes, fits, overflows⟩

end Sys2Proof.Machine
end

section
/-! COMMIT_CONFIG (02 R103 to R106, 10 R398). -/

namespace Sys2Proof.Machine

/-! ## What the areas of an owner taking effect write -/

/-- The rings aside. -/
def OwnerPkr.ringless (p : OwnerPkr) : OwnerPkr := { p with recRing := {}, rplRing := {} }

/-- Of the owners, at most the rings of one change. -/
structure RingsOf (o : Nat) (a b : State) : Prop where
  others : ∀ n, n ≠ o → b.ownPkr n = a.ownPkr n
  same : (b.ownPkr o).ringless = (a.ownPkr o).ringless
  len : b.pkr.owners.length = a.pkr.owners.length

theorem RingsOf.of_pkr {o : Nat} {a b : State} (h : b.pkr = a.pkr) : RingsOf o a b := by
  have owners : ∀ n, b.ownPkr n = a.ownPkr n := fun n => congrArg (fun p : Pkr => getN p.owners n) h
  exact ⟨fun n _ => owners n, by rw [owners], by rw [h]⟩

theorem RingsOf.trans {o : Nat} {a b c : State} (h : RingsOf o a b) (k : RingsOf o b c) : RingsOf o a c :=
  ⟨fun n e => (k.others n e).trans (h.others n e), k.same.trans h.same, k.len.trans h.len⟩

theorem RingsOf.foldl {α : Type} {o : Nat} {g : State → α → State} (k : ∀ s x, RingsOf o s (g s x)) (l : List α) (s : State) :
    RingsOf o s (l.foldl g s) := by
  induction l generalizing s with
  | nil => exact .of_pkr rfl
  | cons x r ih => exact (k s x).trans (ih (g s x))

theorem RingsOf.onOwnRing (s : State) (o : Nat) (replay : Bool) (f : OwnRing → OwnRing) : RingsOf o s (s.onOwnRing o replay f) := by
  refine ⟨fun n e => getN_modAt_ne _ _ e, ?_, List.length_modify ..⟩
  by_cases inside : o < s.pkr.owners.length
  · rw [State.onOwnRing, ownPkr_onOwnPkr _ inside]
    cases replay <;> rfl
  · have same : (s.onOwnRing o replay f).pkr = s.pkr :=
      congrArg (fun l => ({ s.pkr with owners := l } : Pkr)) (List.modify_eq_self (Nat.not_lt.mp inside))
    exact (RingsOf.of_pkr same).same

theorem writeRingLine_of (s : State) (o : Nat) (replay : Bool) (line tries : Nat) : RingsOf o s (writeRingLine s o replay line tries) := by
  unfold writeRingLine
  extract_lets r es stop bs hit u
  have hits : RingsOf o s u := .onOwnRing s o replay _
  clear_value u
  split
  · exact .of_pkr rfl
  · split
    · exact (RingsOf.of_pkr rfl : RingsOf o s (s.onCry fun c => { c with zeroDrops := wrap32 (c.zeroDrops + 1) })).trans (.onOwnRing ..)
    · exact hits.trans (.of_pkr rfl)

theorem writeLines_of (s : State) (o : Nat) (replay part : Bool) : RingsOf o s (writeLines s o replay part) :=
  .foldl (fun s l => writeRingLine_of s o replay l 0) _ _

/-- An owner's areas and rings as group 2 leaves them (10 R398). -/
def OwnerPkr.renewed (p : OwnerPkr) : OwnerPkr :=
  { p with
    recRing := { base := (p.area 0).1, sizeLog := (p.area 0).2 }, rplRing := { base := (p.area 1).1, sizeLog := (p.area 1).2 }
    ckBase := (p.area 2).1, ckLog := (p.area 2).2, head := 0, stgWritten := false }

theorem OwnerPkr.renewed_ringless {p q : OwnerPkr} (h : q.ringless = p.ringless) : q.renewed = p.renewed := by
  show ({ q.ringless with } : OwnerPkr).renewed = _
  rw [h]
  rfl

/-- Without an open stream, applying an owner's areas renews that owner and no other, and opens no stream. -/
structure Renews (o : Nat) (a b : State) : Prop where
  others : ∀ n, n ≠ o → b.ownPkr n = a.ownPkr n
  same : o < a.pkr.owners.length → b.ownPkr o = (a.ownPkr o).renewed
  len : b.pkr.owners.length = a.pkr.owners.length
  ctx : b.ctx = a.ctx

theorem applyAreas_renews {s : State} {o : Nat} (closed : ∀ x ∈ s.ctx.streams, x.owner ≠ o) : Renews o s (applyAreas s o) := by
  unfold applyAreas
  extract_lets w relabel f r
  have ringsW : RingsOf o s w := (writeLines_of s o false true).trans (writeLines_of _ o true true)
  have ctxW : w.ctx = s.ctx := ((writeLines_rings s o false true).trans (writeLines_rings _ o true true)).ctx
  clear_value w
  have ringsF : RingsOf o s f := ringsW.trans (.of_pkr rfl)
  have ctxF : f.ctx = s.ctx := ctxW
  have none : r.ctx.streams.filter (·.owner == o) = [] := by
    refine List.filter_eq_nil_iff.mpr fun x mem => ?_
    rw [beq_iff_eq]
    exact closed x (ctxF ▸ mem)
  rw [none]
  refine ⟨fun n e => (getN_modAt_ne _ _ e).trans (ringsF.others n e), fun inside => ?_, (List.length_modify ..).trans ringsF.len, ctxF⟩
  exact (ownPkr_onOwnPkr OwnerPkr.renewed (by rw [ringsF.len]; exact inside)).trans (OwnerPkr.renewed_ringless ringsF.same)

/-- So with the owners of a list. -/
theorem applyAreas_foldl {s : State} {o : Nat} (os : List Nat) (closed : ∀ n ∈ os, ∀ x ∈ s.ctx.streams, x.owner ≠ n) (once : os.Nodup)
    (inside : o < s.pkr.owners.length) :
    (os.foldl applyAreas s).ownPkr o = if o ∈ os then (s.ownPkr o).renewed else s.ownPkr o := by
  induction os generalizing s with
  | nil => rfl
  | cons n os ih =>
    obtain ⟨others, same, len, ctx⟩ := applyAreas_renews (closed n List.mem_cons_self)
    obtain ⟨fresh, once'⟩ := List.nodup_cons.mp once
    rw [List.foldl_cons, ih (fun m mem x here => closed m (List.mem_cons_of_mem _ mem) x (ctx ▸ here)) once' (len.symm ▸ inside)]
    by_cases e : o = n
    · subst e
      rw [if_neg fresh, if_pos List.mem_cons_self, same inside]
    · rw [others o e]
      simp [e]

theorem applyAreas_fwd {s0 s : State} {o : Nat} (h : Fwd s0 s) : Fwd s0 (applyAreas s o) := by
  unfold applyAreas
  exact foldl_fwd (fun _ _ c => boundary_fwd (State.onStream_fwd c)) (State.onOwnPkr_fwd (State.onFab_fwd (writeLines_fwd (writeLines_fwd h))))

/-! ## COMMIT_CONFIG -/

/-- The groups that a COMMIT_CONFIG selects. -/
def selectedGroups (s : State) (c : Cmd) : List Nat := (List.range 6).filter fun g => (c.le 16 4 == 0 || (c.le 16 4).testBit g) && groupWritten s g

theorem runCommit_bad {s : State} {c : Cmd} (bad : (selectedGroups s c).filter (fun g => !groupOk s g) ≠ []) :
    runCommit s c = complete s c Status.configInvalid.code 0 (bitmapOf ((selectedGroups s c).filter fun g => !groupOk s g)) :=
  if_neg fun e => bad (List.isEmpty_iff.mp e)

theorem runCommit_good {s : State} {c : Cmd} (good : (selectedGroups s c).filter (fun g => !groupOk s g) = []) :
    runCommit s c = complete ((selectedGroups s c).foldl applyGroup s) c Status.ok.code 0 (bitmapOf (selectedGroups s c)) :=
  if_pos (by
    show ((selectedGroups s c).filter fun g => !groupOk s g).isEmpty = true
    rw [good]
    rfl)

/-- What the groups besides group 2 leave. -/
def appliedGroups (s : State) (sel : Nat → Bool) : State :=
  let l1 := if sel 1 then { s.lan with
    ckTokens := { v := s.lan.ckTokens.stg, stg := s.lan.ckTokens.stg }, ckMs := { v := s.lan.ckMs.stg, stg := s.lan.ckMs.stg }
    g1Written := false } else s.lan
  let l3 := if sel 3 then { l1 with
    ringWdog := { v := s.lan.ringWdog.stg, stg := s.lan.ringWdog.stg }, idleTmo := { v := s.lan.idleTmo.stg, stg := s.lan.idleTmo.stg }
    deadline := { v := s.lan.deadline.stg, stg := s.lan.deadline.stg }
    turWdog := { v := s.lan.turWdog.stg, stg := s.lan.turWdog.stg }, g3Written := false } else l1
  { s with
    lan := l3
    eqs := if sel 0 then { s.eqs with qs := s.eqs.qs.map fun (q : EqQueue) =>
      if q.stgWritten then { q with newWm := some (q.highStg, q.lowStg), stgWritten := false } else q } else s.eqs
    bel := if sel 4 then { s.bel with routes := s.bel.routesStg, msgs := s.bel.msgsStg, stgWritten := false } else s.bel
    mem := if sel 5 then { s.mem with
      marchEn := s.mem.marchEnStg, marchPeriod := s.mem.marchPeriodStg, stgWritten := false } else s.mem }

section
variable (s : State) (on : Bool)

theorem applyGroup_watermarks : (if on = true then applyGroup s 0 else s) = s.onEqs fun e => if on then { e with qs := e.qs.map fun (q : EqQueue) =>
    if q.stgWritten then { q with newWm := some (q.highStg, q.lowStg), stgWritten := false } else q } else e := by
  cases on <;> rfl

theorem applyGroup_checkpoints : (if on = true then applyGroup s 1 else s) =
    s.onLan fun l => if on then { l with ckTokens := l.ckTokens.commit, ckMs := l.ckMs.commit, g1Written := false } else l := by
  cases on <;> rfl

theorem applyGroup_timers : (if on = true then applyGroup s 3 else s) = s.onLan fun l => if on then { l with
    ringWdog := l.ringWdog.commit, idleTmo := l.idleTmo.commit, deadline := l.deadline.commit, turWdog := l.turWdog.commit, g3Written := false } else l := by
  cases on <;> rfl

theorem applyGroup_messages : (if on = true then applyGroup s 4 else s) =
    s.onBel fun b => if on then { b with routes := b.routesStg, msgs := b.msgsStg, stgWritten := false } else b := by
  cases on <;> rfl

theorem applyGroup_march : (if on = true then applyGroup s 5 else s) =
    s.onMem fun m => if on then { m with marchEn := m.marchEnStg, marchPeriod := m.marchPeriodStg, stgWritten := false } else m := by
  cases on <;> rfl

end

theorem foldl_applyGroup {s : State} {sel : Nat → Bool} (two : sel 2 = false) : ((List.range 6).filter sel).foldl applyGroup s = appliedGroups s sel := by
  rw [List.foldl_filter, show List.range 6 = [0, 1, 2, 3, 4, 5] from rfl]
  simp only [List.foldl_cons, List.foldl_nil, two, Bool.false_eq_true, if_false, applyGroup_watermarks, applyGroup_checkpoints, applyGroup_timers,
    applyGroup_messages, applyGroup_march]
  cases one : sel 1 <;> simp only [appliedGroups, one] <;> rfl

theorem applyGroup_areas (s : State) : [2].foldl applyGroup s = ((List.range 64).filter fun o => (s.ownPkr o).stgWritten).foldl applyAreas s := by
  rw [List.foldl_cons, List.foldl_nil, applyGroup]

theorem commitConfig_row {s : State} {k : Nat} {c : Cmd} (h : s.Accepted k 0x02 c) : exec (.commitConfig k) s = finish s (runCommit s c) :=
  congrArg (finish s) (runCmd_accepted h _)

/-- A selected group that fails its check. -/
theorem commitConfig_bad {s : State} {k : Nat} {c : Cmd} (h : s.Accepted k 0x02 c) {sel : Nat → Bool}
    (groups : selectedGroups s c = (List.range 6).filter sel) (some : ∃ g < 6, sel g = true ∧ groupOk s g = false) :
    ∃ t, exec (.commitConfig k) s = .next t ∧ { t with rng := s.rng }.sansFab = s.sansFab ∧
      Completed s t c 0x2018 0 (bitmapOf ((List.range 6).filter fun g => sel g && !groupOk s g)) 0 := by
  obtain ⟨-, fenced, -⟩ := accepted_facts h
  obtain ⟨g, low, selected, fails⟩ := some
  have bad : (selectedGroups s c).filter (fun g => !groupOk s g) = (List.range 6).filter fun g => sel g && !groupOk s g := by
    rw [groups, List.filter_filter]
    exact List.filter_congr fun _ _ => Bool.and_comm ..
  have there : (selectedGroups s c).filter (fun g => !groupOk s g) ≠ [] := by
    rw [bad]
    exact List.ne_nil_of_mem (List.mem_filter.mpr ⟨List.mem_range.mpr low, by rw [selected, fails]; rfl⟩)
  rw [commitConfig_row h, runCommit_bad there, bad]
  obtain ⟨t, next, done, same⟩ := finish_complete (s := s) (B := s) (c := c) (status := 0x2018) (step := 0)
    (d0 := bitmapOf ((List.range 6).filter fun g => sel g && !groupOk s g)) (d1 := 0) fenced rfl rfl rfl rfl
  exact ⟨t, next, same, done⟩

/-- Selected groups that pass their checks, group 2 not among them. -/
theorem commitConfig_good {s : State} {k : Nat} {c : Cmd} (h : s.Accepted k 0x02 c) {sel : Nat → Bool}
    (groups : selectedGroups s c = (List.range 6).filter sel) (good : ∀ g < 6, sel g = true → groupOk s g = true) (two : sel 2 = false) :
    ∃ t, exec (.commitConfig k) s = .next t ∧ Completed s t c 0 0 (bitmapOf ((List.range 6).filter sel)) 0 ∧
      { t with rng := s.rng }.sansFab = { appliedGroups s sel with rng := s.rng }.sansFab := by
  obtain ⟨-, fenced, -⟩ := accepted_facts h
  have none : (selectedGroups s c).filter (fun g => !groupOk s g) = [] := by
    refine List.filter_eq_nil_iff.mpr fun g mem => ?_
    obtain ⟨low, selected⟩ := List.mem_filter.mp (groups ▸ mem)
    simp [good g (List.mem_range.mp low) selected]
  rw [commitConfig_row h, runCommit_good none, groups, foldl_applyGroup two]
  have on : (appliedGroups s sel).lan.fenced = false := by
    rw [← fenced]
    unfold appliedGroups
    cases sel 1 <;> cases sel 3 <;> rfl
  exact finish_complete (s := s) (B := appliedGroups s sel) on rfl rfl rfl rfl

/-- Group 2 for an owner without open streams. -/
theorem commitConfig_areas {s : State} {k o : Nat} {c : Cmd} (h : s.Accepted k 0x02 c) (mask : c.le 16 4 = 4) (ok : groupOk s 2 = true) (small : o < 64)
    (inside : o < s.pkr.owners.length) (staged : (s.ownPkr o).stgWritten = true) (others : ∀ x ∈ s.ctx.streams, (s.ownPkr x.owner).stgWritten = false) :
    ∃ t, exec (.commitConfig k) s = .next t ∧ t.Answered c 0 0 4 0 ∧ t.ownPkr o = (s.ownPkr o).renewed := by
  obtain ⟨-, fenced, -⟩ := accepted_facts h
  have written : groupWritten s 2 = true := by
    refine List.any_eq_true.mpr ⟨s.ownPkr o, ?_, staged⟩
    rw [State.ownPkr, getN_eq_getElem inside]
    exact List.getElem_mem inside
  have groups : selectedGroups s c = [2] := by
    unfold selectedGroups
    rw [mask, show List.range 6 = [0, 1, 2, 3, 4, 5] from rfl]
    simp [written, Nat.testBit]
  have none : (selectedGroups s c).filter (fun g => !groupOk s g) = [] := by
    rw [groups]
    simp [ok]
  obtain ⟨os, hos⟩ : ∃ os, os = (List.range 64).filter fun o => (s.ownPkr o).stgWritten := ⟨_, rfl⟩
  have bits : bitmapOf [2] = 4 := by decide
  rw [commitConfig_row h, runCommit_good none, groups, applyGroup_areas, ← hos, bits]
  have closed : ∀ n ∈ os, ∀ x ∈ s.ctx.streams, x.owner ≠ n := by
    rintro n mem x here rfl
    rw [hos] at mem
    exact Bool.false_ne_true ((others x here).symm.trans (List.mem_filter.mp mem).2)
  have once : os.Nodup := hos ▸ List.nodup_range.filter _
  have renewed := applyAreas_foldl os closed once inside
  rw [if_pos (by rw [hos]; exact List.mem_filter.mpr ⟨List.mem_range.mpr small, staged⟩)] at renewed
  have fwd : Fwd s (os.foldl applyAreas s) := foldl_fwd (fun _ _ h => applyAreas_fwd h) (.refl s)
  generalize os.foldl applyAreas s = B at renewed fwd ⊢
  obtain ⟨e, isFor, posted⟩ := complete_posts B c 0 0 4 0
  obtain ⟨t, next, same⟩ := finish_to (s := s) (E := complete B c 0 0 4 0) ((congrArg Lan.fenced fwd.lan).trans fenced) fwd.pending fwd.variant
  have all := same.trans posted
  have rng := congrArg State.rng all
  have comps : t.rng.comps = B.rng.comps ++ [e] := congrArg Rng.comps rng
  have pkr : t.pkr = B.pkr := by
    have kept := congrArg State.pkr all
    exact kept
  have own : t.ownPkr o = B.ownPkr o := congrArg (fun p : Pkr => getN p.owners o) pkr
  exact ⟨t, next, ⟨e, by rw [comps]; exact List.mem_append_right _ List.mem_cons_self, isFor⟩, own.trans renewed⟩

/-- Settles O9. That DETAIL0 is a bitmap of groups, and that group 2 sets PKR_REC_HEAD to 0, is the model's choice (log entries 89 and 68). -/
theorem commitConfig : Obligations.CommitConfig := by
  unfold Obligations.CommitConfig
  refine ⟨fun s k c h => ⟨fun some => ?_, fun good two => ?_⟩, fun s k o c h mask ok small inside staged others => ?_⟩
  · exact commitConfig_bad h rfl some
  · obtain ⟨t, next, done, same⟩ := commitConfig_good h rfl good two
    exact ⟨t, next, done, congrArg (fun z : State => { z with rng := t.rng }) same⟩
  · exact commitConfig_areas h mask ok small inside staged others

end Sys2Proof.Machine
end

section
/-! Units of bulk jobs: their writes, their staging pieces, long-piece areas (04 R168 to R173). -/

namespace Sys2Proof.Machine

/-! ## What staging and posting units leave -/

/-- Jobs, Cupola and turrets aside, a state is as it was. -/
def WorkOnly (a b : State) : Prop := { b with job := a.job, cup := a.cup, tur := a.tur } = a

theorem WorkOnly.trans {a b c : State} (h : WorkOnly a b) (k : WorkOnly b c) : WorkOnly a c := by
  unfold WorkOnly at *
  rw [← congrArg (fun t : State => ({ t with job := a.job, cup := a.cup, tur := a.tur } : State)) k] at h
  exact h

theorem WorkOnly.foldl {α : Type} {g : State → α → State} (k : ∀ s x, WorkOnly s (g s x)) (l : List α) (s : State) : WorkOnly s (l.foldl g s) := by
  induction l generalizing s with
  | nil => rfl
  | cons x r ih => exact (k s x).trans (ih (g s x))

section
variable {a b : State} (h : WorkOnly a b)
include h

theorem WorkOnly.lan : b.lan = a.lan := by
  have e := congrArg State.lan h
  exact e

theorem WorkOnly.pending : b.pending = a.pending := by
  have e := congrArg State.pending h
  exact e

theorem WorkOnly.variant : b.variant = a.variant := by
  have e := congrArg State.variant h
  exact e

theorem WorkOnly.rng : b.rng = a.rng := by
  have e := congrArg State.rng h
  exact e

theorem WorkOnly.fab : b.fab = a.fab := by
  have e := congrArg State.fab h
  exact e

end

theorem job?_of_job {a b : State} (h : b.job = a.job) (k : Nat) : b.job? k = a.job? k := by
  unfold State.job?
  rw [h]

theorem job_onJobOf (s : State) (k : Nat) {f : Job → Job} (keeps : ∀ j, (f j).ticket = j.ticket) : (s.onJobOf k f).job? k = (s.job? k).map f :=
  find?_modWhere (p := fun j : Job => j.ticket == k) (fun j h => by rw [keeps]; exact h) _

/-- How far the output of a job has come. -/
def Job.place (j : Job) : Nat × Nat × Nat := (j.nextUnit, j.addr, j.input)

/-- A change of units leaves how far the output has come. -/
theorem place_onJobOf {s : State} (k t : Nat) {f : Job → Job} (keeps : ∀ j, (f j).ticket = j.ticket) (still : ∀ j, (f j).place = j.place) :
    ((s.onJobOf t f).job? k).map Job.place = (s.job? k).map Job.place := by
  by_cases e : t = k
  · subst e
    rw [job_onJobOf s t keeps, Option.map_map]
    exact congrArg (Option.map · (s.job? t)) (funext still)
  · have other : (s.onJobOf t f).job? k = s.job? k := find?_modWhere_other (q := fun j : Job => j.ticket == k)
      (fun j h => by simp [keeps, beq_iff_eq.mp h, e]) _
    rw [other]

theorem stageUnits_work (s : State) (t : Nat) :
    WorkOnly s (stageUnits s t) ∧ ∀ k, ((stageUnits s t).job? k).map Job.place = (s.job? k).map Job.place := by
  unfold stageUnits
  split
  · exact ⟨rfl, fun _ => rfl⟩
  · refine ⟨.foldl (fun s n => ?_) _ _, fun k => foldl_keeps _ (fun s : State => (s.job? k).map Job.place) (fun s n => ?_) _ _⟩
    · dsimp only
      split <;> rfl
    · dsimp only
      split
      · rfl
      · exact place_onJobOf k t (fun _ => rfl) fun _ => rfl

theorem postUnits_work (s : State) (t : Nat) :
    WorkOnly s (postUnits s t) ∧ ∀ k, ((postUnits s t).job? k).map Job.place = (s.job? k).map Job.place := by
  unfold postUnits
  split
  · exact ⟨rfl, fun _ => rfl⟩
  · next j _ =>
    extract_lets due u v
    have ungated : WorkOnly s u ∧ u.job = s.job := by
      dsimp only [u]
      split <;> exact ⟨rfl, rfl⟩
    clear_value u
    have appended : WorkOnly u v ∧ v.job = u.job := ⟨rfl, rfl⟩
    clear_value v
    have same : v.job = s.job := appended.2.trans ungated.2
    refine ⟨(ungated.1.trans appended.1).trans rfl, fun k => ?_⟩
    rw [place_onJobOf (s := v) k t (f := fun j' => { j' with units := due.foldl (fun us n => modAt us n fun u => { u with posted := true }) j'.units })
      (fun _ => rfl) fun _ => rfl]
    exact congrArg (Option.map Job.place) (job?_of_job same k)

/-! ## UNIT_OUTPUT_WRITE -/

theorem unitOutput_busy {s : State} {k : Nat} (busy : jobQuiet s k = false) : unitOutput s k = s := by
  unfold unitOutput
  split
  · rfl
  · split
    · rfl
    · simp [busy]

/-- A job with a line in flight does not end. -/
theorem jobEnd_busy {s : State} {k : Nat} (busy : jobQuiet s k = false) : jobEnd s k = s := by
  unfold jobEnd
  split
  · rfl
  · simp [busy]

theorem jobQuiet_queued {s : State} {k n addr : Nat} {bs : List Byte} (some : bs ≠ []) : jobQuiet (writeBytes s (.jobLine k n) addr bs) k = false := by
  have lines : linesOf addr bs.length ≠ [] := by
    unfold linesOf
    rw [if_neg (by simpa using some)]
    simp
  obtain ⟨l, mem⟩ := List.exists_mem_of_ne_nil _ lines
  unfold jobQuiet
  dsimp only
  rw [Bool.and_eq_false_iff, Bool.not_eq_false', Bool.not_eq_false']
  exact .inr (List.any_eq_true.mpr ⟨_, List.mem_append_right _ (List.mem_map_of_mem mem), beq_self_eq_true k⟩)

/-- The write of a unit with bytes to write. -/
theorem writeUnit_writes {s : State} {k n : Nat} {j : Job} {u : JobUnit} {bs : List Byte} (job : s.job? k = some j) (out : u.out = [(n, bs)]) (some : bs ≠ []) :
    WorkOnly (writeBytes s (.jobLine k n) j.addr bs) (writeUnit s j u) ∧
      ((writeUnit s j u).job? k).map Job.place = .some (j.nextUnit + 1, j.addr + bs.length, j.input - u.input) := by
  have ticket : j.ticket = k := by simpa using List.find?_some job
  unfold writeUnit
  rw [out, ticket]
  extract_lets w a b c
  have written : w = (writeBytes s (.jobLine k n) j.addr bs, j.addr + bs.length) := rfl
  clear_value w
  subst written
  have workA : WorkOnly (writeBytes s (.jobLine k n) j.addr bs) a := rfl
  have jobA : a.job? k = .some j := job
  have fabA : a.fab = (writeBytes s (.jobLine k n) j.addr bs).fab := rfl
  clear_value a
  have workB : WorkOnly a b := rfl
  have placeB : (b.job? k).map Job.place = .some (j.nextUnit + 1, j.addr + bs.length, j.input - u.input) := by
    have moved := job_onJobOf a k (f := fun j' => { j' with
      addr := j.addr + bs.length, nextUnit := j'.nextUnit + 1, input := j'.input - u.input
      units := modAt j'.units j'.nextUnit fun u => { u with pieces := 0, suspended := false, out := [] } }) fun _ => rfl
    rw [jobA] at moved
    exact congrArg (Option.map Job.place) moved
  clear_value b
  have workC : WorkOnly b c := rfl
  have placeC : (c.job? k).map Job.place = (b.job? k).map Job.place := rfl
  clear_value c
  obtain ⟨workS, placeS⟩ := stageUnits_work c k
  obtain ⟨workP, placeP⟩ := postUnits_work (stageUnits c k) k
  have work := (((workA.trans workB).trans workC).trans workS).trans workP
  have busy : jobQuiet (postUnits (stageUnits c k) k) k = false := by
    have queued := jobQuiet_queued (s := s) (k := k) (n := n) (addr := j.addr) some
    unfold jobQuiet at queued ⊢
    rw [work.fab]
    exact queued
  rw [jobEnd_busy busy]
  exact ⟨work, (placeP k).trans ((placeS k).trans (placeC.trans placeB))⟩

/-- A unit that holds no area is written at once. -/
theorem unitOutput_writes {s : State} {k : Nat} {j : Job} {u : JobUnit} (job : s.job? k = some j) (unit : j.units[j.nextUnit]? = some u)
    (reading : j.reading = false) (good : j.errUnit = none) (quiet : jobQuiet s k = true) (short : u.longPiece = false) :
    unitOutput s k = writeUnit s j u := by
  unfold unitOutput
  rw [job]
  dsimp only
  rw [unit]
  simp [reading, good, quiet, short]

/-- A unit with a long piece whose cluster's area another holds is not written. -/
theorem unitOutput_waits {s : State} {k : Nat} {j : Job} {u : JobUnit} (job : s.job? k = some j) (unit : j.units[j.nextUnit]? = some u)
    (long : u.longPiece = true) (away : (j.cluster, j.ticket) ∉ s.cup.longPiece) (held : ∃ w ∈ s.cup.longPiece, w.1 = j.cluster) :
    WorkOnly s (unitOutput s k) ∧ (unitOutput s k).job = s.job := by
  have asked : WorkOnly s (askArea s j) ∧ (askArea s j).job = s.job ∧ (askArea s j).cup.longPiece = s.cup.longPiece := by
    unfold askArea
    extract_lets w a
    have listed : WorkOnly s a ∧ a.job = s.job ∧ a.cup.longPiece = s.cup.longPiece := by
      dsimp only [a]
      split <;> exact ⟨rfl, rfl, rfl⟩
    clear_value a
    obtain ⟨workA, jobA, pieceA⟩ := listed
    have taken : a.cup.longPiece.any (·.1 == j.cluster) = true := by
      obtain ⟨w, mem, e⟩ := held
      exact List.any_eq_true.mpr ⟨w, pieceA.symm ▸ mem, beq_iff_eq.mpr e⟩
    have same : grantArea a j.cluster = a := by
      unfold grantArea
      split
      · rfl
      · exact if_pos taken
    rw [same]
    exact ⟨workA, jobA, pieceA⟩
  unfold unitOutput
  rw [job]
  dsimp only
  rw [unit]
  dsimp only
  split
  · exact ⟨rfl, rfl⟩
  · rw [long, if_neg (by simp), asked.2.2, if_neg (by simpa using away)]
    exact ⟨asked.1, asked.2.1⟩

/-! ## Room in the Cupola -/

theorem cupRoom_work {n : Nat} : ∀ {k : Nat} {s t : State}, cupRoom n k s = some t → WorkOnly s t
  | k, s, t, h => by
    unfold cupRoom at h
    split at h
    · cases h
      rfl
    · split at h
      · cases h
      · split at h
        · cases h
        · exact WorkOnly.trans (by rfl) (cupRoom_work h)

/-- The area goes to the first that waits for it. -/
theorem grantArea_grants {s s1 : State} {g : Nat} {w : Nat × Nat} (first : s.cup.longWait.find? (·.1 == g) = some w)
    (free : ∀ v ∈ s.cup.longPiece, v.1 ≠ g) (room : makeRoom s longArea = some s1) :
    WorkOnly s (grantArea s g) ∧ (grantArea s g).cup.longPiece = s1.cup.longPiece ++ [w] ∧
      (grantArea s g).cup.longWait = s1.cup.longWait.filter (· != w) := by
  have none : ¬ s.cup.longPiece.any (·.1 == g) = true := by
    rw [List.any_eq_true]
    rintro ⟨v, mem, e⟩
    exact free v mem (beq_iff_eq.mp e)
  have work : WorkOnly s s1 := cupRoom_work room
  unfold grantArea
  rw [first]
  dsimp only
  rw [if_neg none, room]
  exact ⟨work.trans rfl, rfl, rfl⟩

/-- Settles O23. That a unit is written whether or not it was taken, and that the area goes to the first that waits, is the model's choice
(log entries 50 and 51). -/
theorem unitsWrittenInOrder : Obligations.UnitsWrittenInOrder := by
  unfold Obligations.UnitsWrittenInOrder
  intro s k j carry job
  obtain ⟨stepping, fenced⟩ := carrying_iff.mp carry
  have output : exec (.unitOutputWrite k) s = finish s (unitOutput s k) := congrArg (finish s) (if_pos stepping)
  refine ⟨fun busy => ?_, fun u n bs unit reading good quiet short out some => ?_, fun u unit long reading good away held => ?_, fun n u unit waits => ?_,
    fun g w s1 first free room => ?_⟩
  · rw [output, unitOutput_busy busy]
    exact finish_unchanged fenced
  · obtain ⟨work, place⟩ := writeUnit_writes job out some
    rw [← unitOutput_writes job unit reading good quiet short] at work place
    have on : (unitOutput s k).lan.fenced = false := (congrArg Lan.fenced work.lan).trans fenced
    obtain ⟨t, next, same⟩ := finish_to (s := s) on work.pending work.variant
    have jobs : t.job = (unitOutput s k).job := by
      have e := congrArg State.job same
      exact e
    have place' : (t.job? k).map Job.place = .some (j.nextUnit + 1, j.addr + bs.length, j.input - u.input) :=
      (congrArg (Option.map Job.place) (job?_of_job jobs k)).trans place
    obtain ⟨j', found, e⟩ := Option.map_eq_some_iff.mp place'
    refine ⟨t, j', output ▸ next, found, congrArg (·.1) e, congrArg (·.2.1) e, congrArg (·.2.2) e, fun l mem => ?_, ?_, ?_⟩
    · have queued : (unitOutput s k).WriteQueued (lineRequest s (.jobLine k n) j.addr bs l) :=
        (writeBytes_writeQueued mem).of_fab (congrArg Fab.stores work.fab) (congrArg Fab.waiting work.fab)
      obtain ⟨r, there, untagged⟩ := finish_writeQueued on next queued
      refine ⟨r, there, ?_, ?_, ?_⟩
      · have e := congrArg FabReq.line untagged
        exact e
      · have e := congrArg FabReq.who untagged
        exact e
      · have e := congrArg FabReq.data untagged
        exact e
    · have e := congrArg State.rng same
      have rng : t.rng = (unitOutput s k).rng := e
      exact rng.trans work.rng
    · have rest := congrArg (fun z : State => { z with job := s.job, cup := s.cup, tur := s.tur }) same
      exact rest.trans (congrArg State.sansFab work)
  · obtain ⟨work, kept⟩ := unitOutput_waits job unit long away held
    obtain ⟨t, next, same⟩ := finish_to (s := s) ((congrArg Lan.fenced work.lan).trans fenced) work.pending work.variant
    have jobs : t.job = (unitOutput s k).job := by
      have e := congrArg State.job same
      exact e
    have rng : t.rng = (unitOutput s k).rng := by
      have e := congrArg State.rng same
      exact e
    exact ⟨t, output ▸ next, (job?_of_job (jobs.trans kept) k).trans job, rng.trans work.rng⟩
  · have row : exec (.stagingPieceFree k n) s = finish s (resumeUnit s k n) := congrArg (finish s) (if_pos stepping)
    have there : getN j.units n = u := by rw [getN, List.getD_eq_getElem?_getD, unit]; rfl
    have resumed : resumeUnit s k n = s.onJobOf k fun j => { j with units := modAt j.units n fun v => { v with
        pieces := u.pieces + min (unitNeed u - u.pieces) (freePieces s)
        suspended := decide (u.pieces + min (unitNeed u - u.pieces) (freePieces s) < unitNeed v) && decide (j.nextUnit < n) } } := by
      unfold resumeUnit
      rw [job]
      dsimp only
      rw [there, if_neg (by simp [waits])]
    rw [row, resumed]
    exact finish_to (s := s) fenced rfl rfl
  · have row : exec (.longPieceAreaGrant g) s = finish s (grantArea s g) := congrArg (finish s) (if_pos stepping)
    obtain ⟨work, piece, waits⟩ := grantArea_grants first free room
    obtain ⟨t, next, same⟩ := finish_to (s := s) ((congrArg Lan.fenced work.lan).trans fenced) work.pending work.variant
    have cup : t.cup = (grantArea s g).cup := by
      have e := congrArg State.cup same
      exact e
    have rng : t.rng = (grantArea s g).rng := by
      have e := congrArg State.rng same
      exact e
    exact ⟨t, row ▸ next, by rw [cup, piece], by rw [cup, waits], rng.trans work.rng⟩

end Sys2Proof.Machine
end

section
/-! Turret quarantine: what the spare takes over (14 R510, R511, 13 R472). -/

namespace Sys2Proof.Machine

/-! ## Work that passes from one turret to another -/

/-- No job is led by turret p. -/
def State.Unled (p : Nat) (s : State) : Prop := ∀ j ∈ s.job.js, j.lead ≠ p

/-- Jobs and the Cupola may change, but turret p leads no more of them. -/
structure Unposted (p : Nat) (a b : State) : Prop where
  work : WorkOnly a b
  tur : b.tur = a.tur
  unled : a.Unled p → b.Unled p

section
variable {p : Nat}

theorem Unposted.refl (a : State) : Unposted p a a := ⟨rfl, rfl, id⟩

theorem Unposted.trans {a b c : State} (h : Unposted p a b) (k : Unposted p b c) : Unposted p a c :=
  ⟨h.work.trans k.work, k.tur.trans h.tur, k.unled ∘ h.unled⟩

theorem Unposted.foldl {α : Type} {g : State → α → State} (k : ∀ s x, Unposted p s (g s x)) (l : List α) (s : State) : Unposted p s (l.foldl g s) := by
  induction l generalizing s with
  | nil => exact .refl s
  | cons x r ih => exact (k s x).trans (ih (g s x))

theorem Unposted.onJobOf (s : State) (t : Nat) {f : Job → Job} (keeps : ∀ j, (f j).lead = j.lead) : Unposted p s (s.onJobOf t f) := by
  refine ⟨rfl, rfl, fun none j mem => ?_⟩
  obtain ⟨i, there, rfl⟩ := List.mem_map.mp mem
  split
  · rw [keeps]
    exact none i there
  · exact none i there

theorem stageUnits_unposted (s : State) (t : Nat) : Unposted p s (stageUnits s t) := by
  unfold stageUnits
  split
  · exact .refl s
  · refine .foldl (fun s n => ?_) _ s
    dsimp only
    split
    · exact .refl s
    · exact .onJobOf s t fun _ => rfl

theorem unpost_unposted (s : State) (us : List UnitRef) : Unposted p s (unpost s us) :=
  .foldl (fun s u => by
    split
    · exact ⟨rfl, rfl, id⟩
    · exact .onJobOf s u.ticket fun _ => rfl) us s

theorem discardUnit_unposted (s : State) (u : UnitRef) : Unposted p s (discardUnit s u) := by
  unfold discardUnit
  split
  · exact .refl s
  · exact .onJobOf s u.ticket fun _ => rfl

end

/-- Of a turret, at most its lane and the unit that it holds change. -/
def LanesOnly (a b : State) : Prop := ∀ k, (b.turret k).bare = (a.turret k).bare

theorem dropJobs_lanes {α : Type} (f : α → Nat) (l : List α) (s : State) :
    WorkOnly s (l.foldl (fun s x => dropJob s (f x)) s) ∧ LanesOnly s (l.foldl (fun s x => dropJob s (f x)) s) ∧
      (l.foldl (fun s x => dropJob s (f x)) s).tur.ts.length = s.tur.ts.length :=
  ⟨.foldl (g := fun s x => dropJob s (f x)) (fun _ _ => rfl) l s, fun k => (SameAt.foldl (fun s x => dropJob_same k s (f x)) l s).turret,
    (SameAt.foldl (fun s x => dropJob_same 0 s (f x)) l s).len⟩

/-- What turret p's successor q has after the work has passed. -/
structure PassedWork (s t : State) (p q : Nat) : Prop where
  work : WorkOnly s t
  unled : t.Unled p
  here : t.turret p = (s.turret p).bare
  activeNo : (t.turret q).activeNo = (s.turret q).activeNo
  spare : (t.turret q).spare = (s.turret q).spare
  gated : (s.turret q).gated = false → (t.turret q).gated = false

theorem passWork_passes {s : State} {p q : Nat} (hp : p < s.tur.ts.length) (hq : q < s.tur.ts.length) (apart : q ≠ p) :
    PassedWork s (passWork s p q) p q ∧ ((∀ j ∈ s.job.js, j.lead = p → j.prompt = false) →
      ((passWork s p q).turret q).lane =
        ((s.turret p).taken.toList ++ (s.turret p).lane).take (64 - (s.turret q).lane.length) ++ (s.turret q).lane ∧
      ∀ k, k ≠ p → k ≠ q → (passWork s p q).turret k = s.turret k) := by
  unfold passWork
  extract_lets w0 t mine room w1 w2 w3 w4
  obtain ⟨work0, lanes0, len0⟩ := dropJobs_lanes (fun j : Job => j.ticket) (s.job.js.filter fun j => j.lead == p && j.prompt) s
  have plain0 : (∀ j ∈ s.job.js, j.lead = p → j.prompt = false) → w0 = s := by
    intro plain
    have none : (s.job.js.filter fun j => j.lead == p && j.prompt) = [] := by
      refine List.filter_eq_nil_iff.mpr fun j mem => ?_
      simpa using plain j mem
    dsimp only [w0]
    rw [none]
    rfl
  have work0 : WorkOnly s w0 := work0
  have lanes0 : LanesOnly s w0 := lanes0
  have len0 : w0.tur.ts.length = s.tur.ts.length := len0
  clear_value w0
  have work1 : WorkOnly w0 w1 := rfl
  have tur1 : w1.tur = w0.tur := rfl
  have unled1 : w1.Unled p := by
    intro j mem
    obtain ⟨i, -, rfl⟩ := List.mem_map.mp mem
    split
    · exact apart
    · next other => exact fun e => other (beq_iff_eq.mpr e)
  clear_value w1
  have work2 : WorkOnly w1 w2 := rfl
  have tur2 : w2.tur = w0.tur := tur1
  have unled2 : w2.Unled p := unled1
  clear_value w2
  have work3 : WorkOnly w2 w3 := rfl
  have unled3 : w3.Unled p := unled2
  have turret2 : ∀ k, w2.turret k = w0.turret k := fun k => congrArg (fun t : Tur => getN t.ts k) tur2
  have inP : p < w2.tur.ts.length := by rw [tur2, len0]; exact hp
  have inQ : q < (w2.onTurret p fun u => { u with lane := [], taken := none }).tur.ts.length := by rw [onTurret_length, tur2, len0]; exact hq
  have here3 : w3.turret p = (w0.turret p).bare := by
    refine (turret_onTurret_ne _ q p _ (Ne.symm apart)).trans ?_
    rw [turret_onTurret _ _ _ inP, turret2]
    rfl
  have there3 : w3.turret q = { w0.turret q with lane := mine.take room ++ (w0.turret q).lane, gated := if mine.isEmpty then (w0.turret q).gated else false } := by
    refine (turret_onTurret _ q _ inQ).trans ?_
    rw [turret_onTurret_ne _ _ _ _ apart, turret2]
  have others3 : ∀ k, k ≠ p → k ≠ q → w3.turret k = w0.turret k := fun k kp kq =>
    (turret_onTurret_ne _ q k _ kq).trans ((turret_onTurret_ne _ p k _ kp).trans (turret2 k))
  clear_value w3
  have post4 : Unposted p w3 w4 := (unpost_unposted w3 (mine.drop room)).trans (.foldl (fun s u => discardUnit_unposted s u) _ _)
  clear_value w4
  have post5 : Unposted p w3 (t.taken.toList.foldl (fun s (u : UnitRef) => stageUnits s u.ticket) w4) :=
    post4.trans (.foldl (fun s (u : UnitRef) => stageUnits_unposted s u.ticket) _ _)
  generalize t.taken.toList.foldl (fun s (u : UnitRef) => stageUnits s u.ticket) w4 = w5 at post5
  have turret5 : ∀ k, w5.turret k = w3.turret k := fun k => congrArg (fun t : Tur => getN t.ts k) post5.tur
  refine ⟨⟨(((work0.trans work1).trans work2).trans work3).trans post5.work, post5.unled unled3, ?_, ?_, ?_, fun open_ => ?_⟩, fun plain => ?_⟩
  · rw [turret5, here3, lanes0]
  · rw [turret5, there3]
    have e := congrArg Turret.activeNo (lanes0 q)
    exact e
  · rw [turret5, there3]
    have e := congrArg Turret.spare (lanes0 q)
    exact e
  · rw [turret5, there3]
    have gate : (w0.turret q).gated = (s.turret q).gated := by
      have e := congrArg Turret.gated (lanes0 q)
      exact e
    dsimp only
    rw [gate, open_, ite_self]
  · have same := plain0 plain
    refine ⟨?_, fun k kp kq => ?_⟩
    · rw [turret5, there3, ← same]
      rfl
    · rw [turret5, others3 k kp kq, same]

/-! ## The fault -/

/-- A turret at its fault, before its work passes on. -/
def fallen (s : State) (p prog pc code : Nat) : State :=
  (turretReset (raiseFrom s p 0x0401 0 0 (p + 65536 * prog + 16777216 * (pc % 4096) + 1099511627776 * code)) p).onTurret p fun t => { t with
    quarantined := true, gated := true, activeNo := none
    fault := if code < 0xFE then code + 256 * prog + 65536 * (pc % 4096) else 0 }

/-- What is at the turret, and what stays. -/
structure Fallen (s t : State) (p : Nat) : Prop where
  here : (t.turret p).quarantined = true ∧ (t.turret p).lane = (s.turret p).lane ∧ (t.turret p).taken = (s.turret p).taken
  others : ∀ k, k ≠ p → t.turret k = s.turret k
  len : t.tur.ts.length = s.tur.ts.length
  words : ∀ w ∈ t.mem.words, w.1 / 8388608 = 6 → w.1 / 16384 % 512 ≠ p
  job : t.job = s.job
  ctx : t.ctx = s.ctx

theorem fallen_falls {s : State} {p : Nat} (prog pc code : Nat) (h : p < s.tur.ts.length) : Fallen s (fallen s p prog pc code) p := by
  unfold fallen
  have keep : (raiseFrom s p 0x0401 0 0 (p + 65536 * prog + 16777216 * (pc % 4096) + 1099511627776 * code)).sansBel = s.sansBel := raiseFrom_sansBel ..
  generalize raiseFrom s p 0x0401 0 0 (p + 65536 * prog + 16777216 * (pc % 4096) + 1099511627776 * code) = u at keep
  have tur : u.tur = s.tur := show u.sansBel.tur = s.sansBel.tur by rw [keep]
  have job : u.job = s.job := show u.sansBel.job = s.sansBel.job by rw [keep]
  have ctx : u.ctx = s.ctx := show u.sansBel.ctx = s.sansBel.ctx by rw [keep]
  have turret : ∀ k, u.turret k = s.turret k := fun k => congrArg (fun t : Tur => getN t.ts k) tur
  obtain ⟨v, hv⟩ : ∃ v, v = turretReset u p := ⟨_, rfl⟩
  have lenV : v.tur.ts.length = s.tur.ts.length := by rw [hv, ← tur]; exact onTurret_length ..
  have hereV : v.turret p = (s.turret p).local := by
    rw [hv]
    exact (turret_onTurret u p Turret.local (tur ▸ h)).trans (congrArg Turret.local (turret p))
  have othersV : ∀ k, k ≠ p → v.turret k = s.turret k := fun k ne => by
    rw [hv]
    exact (turret_onTurret_ne u p k Turret.local ne).trans (turret k)
  have wordsV : ∀ w ∈ v.mem.words, w.1 / 8388608 = 6 → w.1 / 16384 % 512 ≠ p := by
    rw [hv]
    intro w mem store e
    have kept := (List.mem_filter.mp mem).2
    simp [store, e] at kept
  have jobV : v.job = s.job := by rw [hv]; exact job
  have ctxV : v.ctx = s.ctx := by rw [hv]; exact ctx
  rw [← hv]
  clear hv
  refine ⟨?_, fun k ne => (turret_onTurret_ne v p k _ ne).trans (othersV k ne), (onTurret_length ..).trans lenV, wordsV, jobV, ctxV⟩
  rw [turret_onTurret _ _ _ (lenV ▸ h), hereV]
  exact ⟨rfl, rfl, rfl⟩

/-- The spare that was first is still first once turret p is quarantined. -/
theorem spareOf_fallen {s t : State} {p q : Nat} (h : Fallen s t p) (spare : spareOf s (p / 17) = some q) (apart : q ≠ p) : spareOf t (p / 17) = some q := by
  unfold spareOf at spare ⊢
  obtain ⟨found, l1, l2, split, before⟩ := List.find?_eq_some_iff_append.mp spare
  refine List.find?_eq_some_iff_append.mpr ⟨?_, l1, l2, split, fun k mem => ?_⟩
  · dsimp only
    rw [h.len, h.others q apart]
    exact found
  · by_cases e : k = p
    · subst e
      simp [h.here.1]
    · dsimp only
      rw [h.len, h.others k e]
      exact before k mem

theorem spareOf_inside {s : State} {k q : Nat} (spare : spareOf s k = some q) : q < s.tur.ts.length := by
  have found := List.find?_some spare
  simp only [Bool.and_eq_true, decide_eq_true_eq] at found
  exact found.1.1.1

/-- A fault of a turret with an active number and a spare. -/
theorem turretFault_spared {s : State} {p q n : Nat} (prog pc code : Nat) (h : p < s.tur.ts.length) (whole : (s.turret p).quarantined = false)
    (active : (s.turret p).activeNo = some n) (spare : spareOf s (p / 17) = some q) (apart : q ≠ p) :
    turretFault s p prog pc code =
      passWork ((fallen s p prog pc code).onTurret q fun u => { u with activeNo := some n, spare := false, gated := false }) p q := by
  have spareF := spareOf_fallen (fallen_falls prog pc code h) spare apart
  unfold fallen at spareF ⊢
  unfold turretFault
  simp only [whole, active, spareF, Nat.not_le.mpr h, decide_false, Bool.or_self, Bool.false_eq_true, if_false]

/-- What the watchdog leaves. -/
theorem turretFault_replaced {s : State} {p q n : Nat} (prog pc : Nat) (h : p < s.tur.ts.length) (whole : (s.turret p).quarantined = false)
    (active : (s.turret p).activeNo = some n) (spare : spareOf s (p / 17) = some q) (apart : q ≠ p) {t : State} (ht : t = turretFault s p prog pc 0xFE) :
    t.turret p = { usable := (s.turret p).usable, spare := (s.turret p).spare, quarantined := true, gated := true } ∧
      (∀ w ∈ t.mem.words, w.1 / 8388608 = 6 → w.1 / 16384 % 512 ≠ p) ∧
      (t.turret q).activeNo = some n ∧ (t.turret q).spare = false ∧ (t.turret q).gated = false ∧ t.Unled p ∧
      ((∀ j ∈ s.job.js, j.lead = p → j.prompt = false) →
        (t.turret q).lane = ((s.turret p).taken.toList ++ (s.turret p).lane).take (64 - (s.turret q).lane.length) ++ (s.turret q).lane ∧
        ∀ k, k ≠ p → k ≠ q → t.turret k = s.turret k) ∧ t.ctx = s.ctx := by
  have fault := fallen_falls prog pc 0xFE h
  obtain ⟨bare, -⟩ := turretFault_at (prog := prog) (pc := pc) (code := 0xFE) h whole
  rw [← ht, if_neg (by decide)] at bare
  rw [turretFault_spared prog pc 0xFE h whole active spare apart] at ht
  have inside := spareOf_inside spare
  generalize fallen s p prog pc 0xFE = u at fault ht
  obtain ⟨v, hv⟩ : ∃ v, v = u.onTurret q fun u => { u with activeNo := some n, spare := false, gated := false } := ⟨_, rfl⟩
  have lenV : v.tur.ts.length = s.tur.ts.length := hv ▸ (onTurret_length ..).trans fault.len
  have turretQ : v.turret q = { s.turret q with activeNo := some n, spare := false, gated := false } := by
    rw [hv, turret_onTurret _ _ _ (fault.len ▸ inside), fault.others q apart]
  have others : ∀ k, k ≠ q → v.turret k = u.turret k := fun k ne => by rw [hv, turret_onTurret_ne _ _ _ _ ne]
  have job : v.job = s.job := by rw [hv]; exact fault.job
  have ctx : v.ctx = s.ctx := by rw [hv]; exact fault.ctx
  have mem : v.mem = u.mem := by rw [hv]; rfl
  rw [← hv] at ht
  obtain ⟨passed, plain⟩ := passWork_passes (s := v) (lenV.symm ▸ h) (lenV.symm ▸ inside) apart
  rw [← ht] at passed plain
  have ctxT : t.ctx = v.ctx := by
    have e := congrArg State.ctx passed.work
    exact e
  have memT : t.mem = v.mem := by
    have e := congrArg State.mem passed.work
    exact e
  refine ⟨?_, by rw [memT, mem]; exact fault.words, ?_, ?_, passed.gated (by rw [turretQ]), passed.unled, fun none => ?_, ctxT.trans ctx⟩
  · rw [passed.here] at bare ⊢
    exact bare
  · rw [passed.activeNo, turretQ]
  · rw [passed.spare, turretQ]
  · obtain ⟨lane, rest⟩ := plain (job ▸ none)
    refine ⟨?_, fun k kp kq => ?_⟩
    · rw [lane, others p (Ne.symm apart), fault.here.2.1, fault.here.2.2, turretQ]
    · rw [rest k kp kq, others k kq, fault.others k kp]

/-- Settles O42. The order and the room of the lane at a takeover, and that code 0xFE leaves TUR_FAULT 0, is the model's reading (log entries 98
and 97). -/
theorem turretFaults : Obligations.TurretFaults := by
  unfold Obligations.TurretFaults
  intro s p serving
  refine ⟨fun i n q runs inv role active spare apart => ?_, fun runs inv idle taken lane home lead board => ?_⟩
  · have facts := runs
    simp only [turretRuns, Bool.and_eq_true, decide_eq_true_eq, Bool.not_eq_true'] at facts
    obtain ⟨⟨⟨⟨-, inside⟩, -⟩, whole⟩, -⟩ := facts
    have row : exec (.turretWatchdogExpire p) s = finish s (turretFault s p i.prog (s.turret p).core.pc 0xFE) := by
      refine congrArg (finish s) ?_
      simp only [turretWatchdog, inv, runs, role, beq_self_eq_true, Bool.and_self, if_true]
    obtain ⟨-, lan, pending, variant, raised⟩ := turretFault_at (prog := i.prog) (pc := (s.turret p).core.pc) (code := 0xFE) inside whole
    rw [row]
    obtain ⟨u, hu⟩ : ∃ u, u = turretFault s p i.prog (s.turret p).core.pc 0xFE := ⟨_, rfl⟩
    obtain ⟨here, words, number, spared, gate, unled, plain, ctx⟩ := turretFault_replaced i.prog _ inside whole active spare apart hu
    rw [← hu] at lan pending variant raised ⊢
    obtain ⟨t, next, same⟩ := finish_to (s := s) (E := u) (by rw [lan]; exact serving.2) pending variant
    obtain ⟨-, -, -, lanT, -, -, -, -, ctxT, -, -, -, -, -, jobT, turT, memT, -, belT, -⟩ := sansFab_ext same
    have turret : ∀ k, t.turret k = u.turret k := fun k => congrArg (fun t : Tur => getN t.ts k) turT
    refine ⟨t, next, (turret p).trans here, ?_, memT ▸ words, by rw [turret]; exact number, by rw [turret]; exact spared, by rw [turret]; exact gate,
      jobT ▸ unled, fun none => ?_, ctxT.trans ctx, ?_⟩
    · rw [lanT, lan]
      exact insertBy_mem ..
    · obtain ⟨laneQ, rest⟩ := plain none
      exact ⟨by rw [turret]; exact laneQ, fun k kp kq => (turret k).trans (rest k kp kq)⟩
    · unfold RaisedFrom at raised ⊢
      rw [belT]
      exact raised
  · have row : exec (.idleClockGate p) s = finish s (s.onTurret p fun u => { u with gated := true }) := by
      refine congrArg (finish s) ?_
      simp only [gateIdle, serving.1, runs, inv, idle, taken, lane, home, lead, board, Option.isNone_none, List.isEmpty_nil, Bool.and_self, if_true]
    rw [row]
    exact finish_to (s := s) serving.2 rfl rfl

end Sys2Proof.Machine
end

section
/-! Restores of contexts and repairs of images (14 R515, R521, R522). -/

namespace Sys2Proof.Machine

/-- An event raised between two states is raised between states that agree with them about the log. -/
theorem raised_between {a b s t : State} {u : Src} {code stream step detail : Nat} (h : Raised a b u code stream step detail) (bel : a.bel = s.bel)
    (lan : a.lan = s.lan) (variant : a.variant = s.variant) (bel' : t.bel = b.bel) : Raised s t u code stream step detail := by
  unfold Raised RaisedFrom at h ⊢
  rw [bel, lan, variant] at h
  rw [bel']
  exact h

theorem mendWords_memory (s : State) (p : Nat → Bool) :
    { mendWords s p with mem := s.mem } = s ∧ (mendWords s p).mem.repairs = s.mem.repairs := by
  have rest := foldl_keeps (fun (s : State) (w : Nat × RawWord) => putWhole s w.1 w.2.value) (fun t : State => { t with mem := s.mem }) (fun _ _ => rfl)
    (s.mem.words.filter fun w => p (w.1 / 16)) s
  have repairs := foldl_keeps (fun (s : State) (w : Nat × RawWord) => putWhole s w.1 w.2.value) (fun t : State => t.mem.repairs) (fun _ _ => rfl)
    (s.mem.words.filter fun w => p (w.1 / 16)) s
  exact ⟨rest, repairs⟩

/-! ## CONTEXT_RESTORE_DONE -/

theorem contextRestoreDone_row {s : State} {n : Nat} {x : Stream} (serving : s.Serving) (found : s.stream? n = some x) (restoring : x.restoring = true) :
    exec (.contextRestoreDone n) s = finish s (runRestore s x) := by
  have stepping : s.stepping = true := by
    unfold State.stepping
    rw [serving.1, Bool.true_or]
  refine congrArg (finish s) ?_
  rw [found]
  simp only [stepping, restoring, Bool.and_self, if_true]

/-- A restore with no ring entry behind its slot. -/
theorem runRestore_plain {s : State} {x : Stream} {k : Kept} (have_ : slotsMissing s x = false) (best : bestSlot s x = some k) (spill : x.spill = [])
    (written : ((s.ownPkr x.owner).ring (!x.record)).wseq ≤ wholeSeq ((s.ownPkr x.owner).ring (!x.record)).next k.seq)
    (staged : ((s.ownPkr x.owner).ring (!x.record)).staged = []) :
    runRestore s x = restored (countReads s { read := [] }) x (contextOf x k) k 0 := by
  obtain ⟨seq, hseq⟩ : ∃ seq, seq = wholeSeq ((s.ownPkr x.owner).ring (!x.record)).next k.seq := ⟨_, rfl⟩
  rw [← hseq] at written
  have lines : replayLines ((s.ownPkr x.owner).ring (!x.record)) (!x.record) seq = [] := if_pos written
  have entries : replayEntries s x seq = [] := by
    unfold replayEntries
    simp only [staged, Nat.sub_eq_zero_of_le written, List.range_zero, List.map_nil, List.filter_nil, List.append_nil]
  have here : spillHere s (contextOf x k) [] = true := by
    have none : (contextOf x k).spill = [] := spill
    unfold spillHere spillNeeds
    rw [none]
    split <;> rfl
  unfold runRestore
  simp only [have_, best, ← hseq, lines, entries, List.any_nil, Bool.false_eq_true, if_false, replayAll, here, if_true]

/-- The restored stream, with a step in flight, goes on as it is. -/
theorem restored_away {s : State} {x y : Stream} {k : Kept} (found : s.stream? x.id = some x) (id : y.id = x.id) (due : y.endDue = 0)
    (away : ({ y with restoring := false } : Stream).atBoundary = false) :
    (restored s x y k 0).stream? x.id = some { y with restoring := false } ∧
      (restored s x y k 0).ctx.recovered = satAdd s.ctx.recovered 1 65535 ∧ Raised s (restored s x y k 0) .context 0x0701 x.id y.next k.serial ∧
      (restored s x y k 0).lan = s.lan ∧ (restored s x y k 0).pending = s.pending ∧ (restored s x y k 0).variant = s.variant := by
  unfold restored
  extract_lets a b c
  have there : a.stream? x.id = some { y with restoring := false } :=
    (find?_modWhere (p := fun z : Stream => z.id == x.id) (f := fun _ => { y with restoring := false }) (fun _ _ => beq_iff_eq.mpr id) _).trans
      (congrArg (Option.map fun _ => _) found)
  have bel : a.bel = s.bel := rfl
  have lan : a.lan = s.lan := rfl
  have variant : a.variant = s.variant := rfl
  have pending : a.pending = s.pending := rfl
  have recovered : a.ctx.recovered = s.ctx.recovered := rfl
  obtain ⟨mended, -⟩ := mendWords_memory a fun key => (storeLine a.variant key).1 == 0 && (storeLine a.variant key).2 / 32 == x.id
  have mended : { b with mem := a.mem } = a := mended
  clear_value a b
  have ctxB : b.ctx = a.ctx := by
    have e := congrArg State.ctx mended
    exact e
  have belB : b.bel = a.bel := by
    have e := congrArg State.bel mended
    exact e
  have lanB : b.lan = a.lan := by
    have e := congrArg State.lan mended
    exact e
  have variantB : b.variant = a.variant := by
    have e := congrArg State.variant mended
    exact e
  have pendingB : b.pending = a.pending := by
    have e := congrArg State.pending mended
    exact e
  have raised : Raised (b.onCtx fun c => { c with recovered := satAdd c.recovered 1 65535 }) c .context 0x0701 x.id y.next (k.serial + 4294967296 * 0) :=
    raiseBy_raised ..
  have keep : c.sansBel = (b.onCtx fun c => { c with recovered := satAdd c.recovered 1 65535 }).sansBel := raiseBy_sansBel ..
  clear_value c
  have ctxC : c.ctx = { b.ctx with recovered := satAdd b.ctx.recovered 1 65535 } := by
    have e := congrArg State.ctx keep
    exact e
  have lanC : c.lan = b.lan := by
    have e := congrArg State.lan keep
    exact e
  have variantC : c.variant = b.variant := by
    have e := congrArg State.variant keep
    exact e
  have pendingC : c.pending = b.pending := by
    have e := congrArg State.pending keep
    exact e
  have thereC : c.stream? x.id = some { y with restoring := false } := by
    have streams : c.ctx.streams = a.ctx.streams := by rw [ctxC, ctxB]
    exact (congrArg (List.find? fun z : Stream => z.id == x.id) streams).trans there
  have same : tryEnd c x.id = c := by
    unfold tryEnd
    rw [thereC]
    dsimp only
    rw [if_pos due]
    refine boundary_away fun z h => ?_
    rw [thereC] at h
    cases h
    exact away
  rw [same]
  refine ⟨thereC, ?_, ?_, (lanC.trans lanB).trans lan, (pendingC.trans pendingB).trans pending, (variantC.trans variantB).trans variant⟩
  · rw [ctxC, ctxB, recovered]
  · exact raised_between raised (belB.trans bel) (lanB.trans lan) (variantB.trans variant) rfl

/-- A restore whose better slot is read. -/
theorem contextRestoreDone_restores {s : State} {n : Nat} {x : Stream} {k : Kept} (serving : s.Serving) (found : s.stream? n = some x)
    (restoring : x.restoring = true) (have_ : slotsMissing s x = false) (due : x.endDue = 0) (spill : x.spill = []) (best : bestSlot s x = some k)
    (written : ((s.ownPkr x.owner).ring (!x.record)).wseq ≤ wholeSeq ((s.ownPkr x.owner).ring (!x.record)).next k.seq)
    (staged : ((s.ownPkr x.owner).ring (!x.record)).staged = []) (away : x.svc = .open) :
    ∃ t, exec (.contextRestoreDone n) s = .next t ∧ t.stream? n = some { contextOf x k with restoring := false } ∧
      t.ctx.recovered = satAdd s.ctx.recovered 1 65535 ∧ Raised s t .context 0x0701 n k.next k.serial := by
  obtain rfl := stream_id found
  rw [contextRestoreDone_row serving found restoring, runRestore_plain have_ best spill written staged]
  have step : ({ contextOf x k with restoring := false } : Stream).atBoundary = false := by
    have svc : ({ contextOf x k with restoring := false } : Stream).svc = .open := away
    unfold Stream.atBoundary
    rw [svc]
    rfl
  obtain ⟨there, recovered, raised, lan, pending, variant⟩ :=
    restored_away (s := countReads s { read := [] }) (x := x) (y := contextOf x k) (k := k) found rfl due step
  generalize restored (countReads s { read := [] }) x (contextOf x k) k 0 = u at there recovered raised lan pending variant
  obtain ⟨t, next, same⟩ := finish_to (s := s) (E := u) ((congrArg Lan.fenced lan).trans serving.2) pending variant
  have ctx : t.ctx = u.ctx := by
    have e := congrArg State.ctx same
    exact e
  have bel : t.bel = u.bel := by
    have e := congrArg State.bel same
    exact e
  exact ⟨t, next, (stream?_of_ctx ctx x.id).trans there, (congrArg Ctx.recovered ctx).trans recovered, raised_between raised rfl rfl rfl bel⟩

/-! ## A lost stream -/

/-- The count of lost streams is not the housekeeping's to change. -/
theorem takeCkpt_lost (s : State) (x : Stream) : (takeCkpt s x).ctx.lost = s.ctx.lost := by
  unfold takeCkpt
  extract_lets serial seq u w img v
  have written : w.ctx.lost = s.ctx.lost := congrArg Ctx.lost (writeLines_rings ..).ctx
  have missed : u.ctx.lost = s.ctx.lost := rfl
  have imaged : v.ctx.lost = w.ctx.lost := rfl
  clear_value u w v
  split
  · exact (congrArg Ctx.lost (ckptOver_ctx ..)).trans missed
  · split
    · exact (congrArg Ctx.lost (ckptOver_ctx ..)).trans written
    · refine (foldl_keeps _ (fun t : State => t.ctx.lost) (fun t i => ?_) _ v).trans (imaged.trans written)
      exact congrArg Ctx.lost (writeSecret_ctx ..)

/-- A still stream is served by housekeeping alone. -/
theorem serve_still {s : State} {id : Nat} {x : Stream} (found : s.stream? id = some x) (still : x.Still) :
    HouseOnly s (serve s id) ∧ (serve s id).ctx.lost = s.ctx.lost := by
  obtain rfl := stream_id found
  rw [serve_eq, found]
  dsimp only
  split
  · exact ⟨.refl s, rfl⟩
  · obtain ⟨R, hR⟩ : ∃ R, R = resultControl (takeEpoch s x) x.id := ⟨_, rfl⟩
    have house : HouseOnly s R := hR ▸ (takeEpoch_house s x).trans (resultControl_house ..)
    have lost : R.ctx.lost = s.ctx.lost := by
      have epoch : (takeEpoch s x).ctx.lost = s.ctx.lost := by
        unfold takeEpoch
        split
        · rfl
        · split <;> rfl
      rw [hR]
      exact epoch
    have st : Touches x.id Stream.st s R :=
      hR ▸ (takeEpoch_touches ⟨fun _ _ _ _ => rfl⟩ s x).trans (resultControl_touches ⟨fun _ _ _ => rfl⟩ _ _)
    obtain ⟨z, foundR, same⟩ := st.found found
    rw [← hR, serveOn, foundR]
    dsimp only
    have turned : HouseOnly s (ckptTurn R z) := house.trans (ckptTurn_house ..)
    have lostT : (ckptTurn R z).ctx.lost = s.ctx.lost := by
      refine Eq.trans ?_ lost
      unfold ckptTurn
      split
      · exact takeCkpt_lost R z
      · rfl
    have turn := ckptTurn_touches (g := Stream.st) ⟨fun _ _ _ _ _ _ _ => rfl⟩ R z
    rw [stream_id foundR] at turn
    obtain ⟨y, foundC, sameC⟩ := turn.found foundR
    rw [foundC]
    dsimp only
    have stillY : y.Still := by
      unfold Stream.Still
      rw [sameC, same]
      exact still
    rw [goOn_still stillY, ite_self]
    exact ⟨turned, lostT⟩

/-- A still stream with nothing recorded has housekeeping alone at its boundary; the block raises nothing. -/
theorem boundary_still {s : State} {id : Nat} {x : Stream} (found : s.stream? id = some x) (none : x.recorded = [])
    (due : x.endDue = 0) (zero : x.zeroing = false) (still : x.Still) :
    HouseOnly s (boundary s id) ∧ (boundary s id).ctx.lost = s.ctx.lost ∧ ∃ y, (boundary s id).stream? id = some y ∧ y.unkept = x.unkept := by
  rw [boundary_serves found none due zero]
  obtain ⟨house, lost⟩ := serve_still found still
  have touches : Touches id Stream.unkept s (serve s id) :=
    serve_touches (.inl ⟨fun _ _ _ _ => rfl⟩) ⟨fun _ _ _ => rfl⟩ ⟨fun _ _ _ _ _ _ _ => rfl⟩ (.inr fun y there => by
      rw [found] at there
      cases there
      exact still)
  exact ⟨house, lost, touches.found found⟩

/-- What losing a stream sets. -/
def Stream.loses (y : Stream) : Stream :=
  { y with
    restoring := false, lost := true, prior := if y.st == .suspended then y.prior else y.st, st := .suspended
    svc := .none, held := [], pagesResv := 0, endDue := 0, endOut := false, ckptDue := false, waitQueue := false, waitRing := false
    waitCkpt := false, waitCup := false, waitPages := false }

/-- A stream gives up what it holds: its selection units, its spilled lines, its reservation, its waits for the tree pool. -/
def givesUp (s : State) (x : Stream) : State :=
  (releaseResv (dropSpill (dropAllUnits s x.id) x.id) x).onStp fun p => { p with waiting := p.waiting.filter (·.stream != x.id) }

/-- A loss is counted and reported. -/
def lossSaid (s : State) (x : Stream) (detail : Nat) : State :=
  raiseBy (s.onCtx fun c => { c with lost := satAdd c.lost 1 65535 }) .context 0x0702 x.id x.next detail

/-- The loss of a stream with nothing recorded and no tree. -/
theorem loseStream_eq {s : State} {x : Stream} (detail : Nat) (alone : x.recorded = []) (tree : (lossSaid s x detail).tree? x.id = none) :
    loseStream s x detail = tryEnd ((givesUp ((dropLines (lossSaid s x detail) (.restore x.id)).onStream x.id fun y => { y with
      recorded := y.recorded.filter fun t => !([] : List Nat).contains t }) x).onStream x.id Stream.loses) x.id := by
  unfold loseStream
  extract_lets a b others d e f g
  have noOthers : others = [] := by
    dsimp only [others]
    rw [alone]
    rfl
  have listed : d = b.onStream x.id fun y => { y with recorded := y.recorded.filter fun t => !([] : List Nat).contains t } := by
    dsimp only [d]
    rw [noOthers]
    rfl
  have noTree : e = d := by
    have none : d.tree? x.id = none := by
      rw [listed]
      exact tree
    dsimp only [e]
    rw [none]
  have last : g = givesUp e x := rfl
  rw [last, noTree, listed]
  rfl

/-- What a loss says besides the stream, of a later state. -/
def LossKept (a b : State) : Prop := b.ctx.lost = a.ctx.lost ∧ b.bel = a.bel ∧ b.lan = a.lan ∧ b.pending = a.pending ∧ b.variant = a.variant

theorem LossKept.trans {a b c : State} (h : LossKept a b) (k : LossKept b c) : LossKept a c := by
  obtain ⟨h1, h2, h3, h4, h5⟩ := h
  obtain ⟨k1, k2, k3, k4, k5⟩ := k
  exact ⟨k1.trans h1, k2.trans h2, k3.trans h3, k4.trans h4, k5.trans h5⟩

theorem dropAllUnits_kept (s : State) (id : Nat) : LossKept s (dropAllUnits s id) := ⟨rfl, rfl, rfl, rfl, rfl⟩

theorem dropSpill_kept (s : State) (id : Nat) : LossKept s (dropSpill s id) := ⟨rfl, rfl, rfl, rfl, rfl⟩

theorem releaseResv_kept (s : State) (x : Stream) : LossKept s (releaseResv s x) := ⟨rfl, rfl, rfl, rfl, rfl⟩

theorem onStp_kept (s : State) (f : Stp → Stp) : LossKept s (s.onStp f) := ⟨rfl, rfl, rfl, rfl, rfl⟩

theorem givesUp_kept (s : State) (x : Stream) : LossKept s (givesUp s x) :=
  (dropAllUnits_kept s x.id).trans ((dropSpill_kept _ x.id).trans ((releaseResv_kept _ x).trans (onStp_kept ..)))

theorem givesUp_stream {s : State} {x z : Stream} (found : s.stream? x.id = some z) : (givesUp s x).stream? x.id = some { z with spill := [] } :=
  stream_onStream (s := dropAllUnits s x.id) (fun y => { y with spill := [] }) (fun _ => rfl) found

/-- What a loss leaves besides the stream. -/
structure LossSaid (s t : State) (x : Stream) (detail : Nat) : Prop where
  lost : t.ctx.lost = satAdd s.ctx.lost 1 65535
  raised : Raised s t .context 0x0702 x.id x.next detail
  lan : t.lan = s.lan
  pending : t.pending = s.pending
  variant : t.variant = s.variant

theorem lossSaid_says (s : State) (x : Stream) (detail : Nat) :
    LossSaid s (lossSaid s x detail) x detail ∧ (lossSaid s x detail).stream? x.id = s.stream? x.id ∧ (lossSaid s x detail).stp = s.stp := by
  unfold lossSaid
  have raised : Raised (s.onCtx fun c => { c with lost := satAdd c.lost 1 65535 })
      (raiseBy (s.onCtx fun c => { c with lost := satAdd c.lost 1 65535 }) .context 0x0702 x.id x.next detail) .context 0x0702 x.id x.next detail :=
    raiseBy_raised ..
  have keep : (raiseBy (s.onCtx fun c => { c with lost := satAdd c.lost 1 65535 }) .context 0x0702 x.id x.next detail).sansBel =
      (s.onCtx fun c => { c with lost := satAdd c.lost 1 65535 }).sansBel := raiseBy_sansBel ..
  generalize raiseBy (s.onCtx fun c => { c with lost := satAdd c.lost 1 65535 }) .context 0x0702 x.id x.next detail = a at raised keep
  have ctx : a.ctx = (s.onCtx fun c => { c with lost := satAdd c.lost 1 65535 }).ctx := by
    have e := congrArg State.ctx keep
    exact e
  refine ⟨⟨congrArg Ctx.lost ctx, raised_between raised rfl rfl rfl rfl, ?_, ?_, ?_⟩, stream?_of_ctx ctx x.id, ?_⟩
  · have e := congrArg State.lan keep
    exact e
  · have e := congrArg State.pending keep
    exact e
  · have e := congrArg State.variant keep
    exact e
  · have e := congrArg State.stp keep
    exact e

/-- A stream is lost, with nothing recorded against it. -/
theorem loseStream_loses {s : State} {x : Stream} (detail : Nat) (found : s.stream? x.id = some x) (alone : x.recorded = []) (zero : x.zeroing = false)
    (tree : s.tree? x.id = none) :
    LossSaid s (loseStream s x detail) x detail ∧ ∃ y, (loseStream s x detail).stream? x.id = some y ∧
      y.lost = true ∧ y.st = .suspended ∧ y.restoring = false ∧ y.held = [] ∧ y.svc = .none := by
  obtain ⟨⟨lost, raised, lan, pending, variant⟩, foundA, stp⟩ := lossSaid_says s x detail
  have noTree : (lossSaid s x detail).tree? x.id = none := by
    unfold State.tree? at tree ⊢
    rw [stp]
    exact tree
  rw [loseStream_eq detail alone noTree]
  generalize lossSaid s x detail = a at lost raised lan pending variant foundA
  have listed := stream_onStream (s := dropLines a (.restore x.id)) (fun y => { y with recorded := y.recorded.filter fun t => !([] : List Nat).contains t })
    (fun _ => rfl) (foundA.trans found)
  obtain ⟨d, hd⟩ : ∃ d, d = (dropLines a (.restore x.id)).onStream x.id fun y => { y with
    recorded := y.recorded.filter fun t => !([] : List Nat).contains t } := ⟨_, rfl⟩
  have restD : d.ctx.lost = a.ctx.lost ∧ d.bel = a.bel ∧ d.lan = a.lan ∧ d.pending = a.pending ∧ d.variant = a.variant := by
    rw [hd]
    exact ⟨rfl, rfl, rfl, rfl, rfl⟩
  rw [← hd] at listed ⊢
  clear hd
  have thereG := givesUp_stream listed
  have aloneG : (x.recorded.filter fun t => !([] : List Nat).contains t) = [] := by rw [alone, List.filter_nil]
  have restG := givesUp_kept d x
  generalize givesUp d x = g at thereG restG ⊢
  have last := stream_onStream Stream.loses (fun _ => rfl) thereG
  have ended : tryEnd (g.onStream x.id Stream.loses) x.id = boundary (g.onStream x.id Stream.loses) x.id := by
    unfold tryEnd
    rw [last]
    exact if_pos rfl
  obtain ⟨house, lostE, y, final, same⟩ := boundary_still last aloneG rfl zero ⟨nofun, nofun⟩
  rw [← ended] at house lostE final
  generalize tryEnd (g.onStream x.id Stream.loses) x.id = u at house lostE final
  obtain ⟨lostD, belD, lanD, pendingD, variantD⟩ := restD
  obtain ⟨lostG, belG, lanG, pendingG, variantG⟩ := restG
  have bel : u.bel = g.bel := by
    have e := congrArg State.bel house
    exact e
  have lanE : u.lan = g.lan := by
    have e := congrArg State.lan house
    exact e
  have pendingE : u.pending = g.pending := by
    have e := congrArg State.pending house
    exact e
  have variantE : u.variant = g.variant := by
    have e := congrArg State.variant house
    exact e
  refine ⟨⟨lostE.trans (lostG.trans (lostD.trans lost)), raised_between raised rfl rfl rfl (bel.trans (belG.trans belD)),
    lanE.trans (lanG.trans (lanD.trans lan)), pendingE.trans (pendingG.trans (pendingD.trans pending)),
    variantE.trans (variantG.trans (variantD.trans variant))⟩, y, final, ?_, ?_, ?_, ?_, ?_⟩
  · have e := congrArg Stream.lost same
    exact e
  · have e := congrArg Stream.st same
    exact e
  · have e := congrArg Stream.restoring same
    exact e
  · have e := congrArg Stream.held same
    exact e
  · have e := congrArg Stream.svc same
    exact e

/-- A restore with no good slot. -/
theorem contextRestoreDone_loses {s : State} {n : Nat} {x : Stream} (serving : s.Serving) (found : s.stream? n = some x)
    (restoring : x.restoring = true) (have_ : slotsMissing s x = false) (alone : x.recorded = []) (zero : x.zeroing = false) (best : bestSlot s x = none)
    (tree : s.tree? n = none) :
    ∃ t y, exec (.contextRestoreDone n) s = .next t ∧ t.stream? n = some y ∧ y.lost = true ∧ y.st = .suspended ∧ y.restoring = false ∧ y.held = [] ∧
      y.svc = .none ∧ t.ctx.lost = satAdd s.ctx.lost 1 65535 ∧ Raised s t .context 0x0702 n x.next 0 := by
  obtain rfl := stream_id found
  have row : runRestore s x = loseStream s x 0 := by
    unfold runRestore
    simp only [have_, best, Bool.false_eq_true, if_false]
  rw [contextRestoreDone_row serving found restoring, row]
  obtain ⟨⟨count, raised, lan, pending, variant⟩, y, there, lost, st, restored, held, svc⟩ := loseStream_loses 0 found alone zero tree
  generalize loseStream s x 0 = u at there count raised lan pending variant
  obtain ⟨t, next, same⟩ := finish_to (s := s) (E := u) ((congrArg Lan.fenced lan).trans serving.2) pending variant
  have ctx : t.ctx = u.ctx := by
    have e := congrArg State.ctx same
    exact e
  have bel : t.bel = u.bel := by
    have e := congrArg State.bel same
    exact e
  exact ⟨t, y, next, (stream?_of_ctx ctx x.id).trans there, lost, st, restored, held, svc, (congrArg Ctx.lost ctx).trans count,
    raised_between raised rfl rfl rfl bel⟩

end Sys2Proof.Machine
end

section
/-! Repairs of images (14 R515). -/

namespace Sys2Proof.Machine

/-- Jobs, commands, records, the fabric and the work they leave aside, a state is as it was. -/
def JobsDone (a b : State) : Prop := { b with job := a.job, cup := a.cup, tur := a.tur, pkr := a.pkr, rng := a.rng, fab := a.fab } = a

theorem JobsDone.trans {a b c : State} (h : JobsDone a b) (k : JobsDone b c) : JobsDone a c := by
  unfold JobsDone at *
  rw [← congrArg (fun t : State => ({ t with job := a.job, cup := a.cup, tur := a.tur, pkr := a.pkr, rng := a.rng, fab := a.fab } : State)) k] at h
  exact h

theorem JobsDone.foldl {α : Type} {g : State → α → State} (k : ∀ s x, JobsDone s (g s x)) (l : List α) (s : State) : JobsDone s (l.foldl g s) := by
  induction l generalizing s with
  | nil => rfl
  | cons x r ih => exact (k s x).trans (ih (g s x))

theorem completeTicket_done (s : State) (t : Nat) (st : Status) (step d0 d1 : Nat) : JobsDone s (completeTicket s t st step d0 d1) := by
  unfold completeTicket JobsDone
  split <;> rfl

theorem jobEnd_done (s : State) (t : Nat) : JobsDone s (jobEnd s t) := by
  unfold jobEnd
  split
  · rfl
  · split
    · rfl
    · extract_lets a b e c
      have first : JobsDone s a := rfl
      clear_value a
      have second : JobsDone a b := rfl
      clear_value b
      have third : JobsDone b c := by
        dsimp only [c]
        split <;> rfl
      exact ((first.trans second).trans third).trans (completeTicket_done ..)

theorem failJobs_done (s : State) (kind id owner : Nat) : JobsDone s (failJobs s kind id owner) := by
  unfold failJobs
  refine .foldl (fun s j => ?_) _ s
  exact JobsDone.trans (b := s.onJobOf j.ticket _) rfl (jobEnd_done ..)

/-- Items, memory and the Lantern stay. -/
def ItemsKept (a b : State) : Prop :=
  b.voc = a.voc ∧ b.aut = a.aut ∧ b.mem = a.mem ∧ b.lan = a.lan ∧ b.pending = a.pending ∧ b.variant = a.variant

theorem ItemsKept.trans {a b c : State} (h : ItemsKept a b) (k : ItemsKept b c) : ItemsKept a c := by
  obtain ⟨h1, h2, h3, h4, h5, h6⟩ := h
  obtain ⟨k1, k2, k3, k4, k5, k6⟩ := k
  exact ⟨k1.trans h1, k2.trans h2, k3.trans h3, k4.trans h4, k5.trans h5, k6.trans h6⟩

theorem JobsDone.items {a b : State} (h : JobsDone a b) : ItemsKept a b ∧ b.bel = a.bel := by
  cases a
  cases b
  simp only [JobsDone, State.mk.injEq] at h
  simp_all [ItemsKept]

theorem ItemsKept.of_sansBel {a b : State} (h : b.sansBel = a.sansBel) : ItemsKept a b := by
  cases a
  cases b
  simp only [State.sansBel, State.mk.injEq] at h
  simp_all [ItemsKept]

/-- An item with an image is listed; faulted, it has none. -/
theorem faultItem_faults {s : State} {kind id owner : Nat} {e : Nat × Nat × List Byte} (low : kind < 4) (there : itemImage s kind id owner = some e) :
    itemImage (faultItem s kind id owner) kind id owner = none ∧
      (kind = 0 → id < s.voc.slots.length → ((faultItem s kind id owner).slot id).st = .faulted) ∧
      (kind = 1 → id < s.aut.auts.length → ((faultItem s kind id owner).automaton id).st = .faulted) ∧
      (kind = 2 → ∃ p, (faultItem s kind id owner).stop? owner id = some p ∧ p.st = .faulted) ∧
      (kind = 3 → ∃ p, (faultItem s kind id owner).program? id = some p ∧ p.st = .faulted) := by
  match kind, low with
  | 0, _ =>
    have inside : id < s.voc.slots.length := by
      refine Nat.lt_of_not_le fun out => ?_
      have none : s.slot id = default := getN_of_length_le out
      simp [itemImage, none] at there
      exact absurd there.1 (by decide)
    have now : ((faultItem s 0 id owner).slot id) = { s.slot id with st := .faulted } := getN_modAt (fun x : Slot => { x with st := .faulted }) inside
    refine ⟨?_, fun _ _ => by rw [now], nofun, nofun, nofun⟩
    unfold itemImage
    simp only [now]
    rfl
  | 1, _ =>
    have inside : id < s.aut.auts.length := by
      refine Nat.lt_of_not_le fun out => ?_
      have none : s.automaton id = default := getN_of_length_le out
      simp [itemImage, none] at there
      exact absurd there.1 (by decide)
    have now : ((faultItem s 1 id owner).automaton id) = { s.automaton id with st := .faulted } :=
      getN_modAt (fun a : Automaton => { a with st := .faulted }) inside
    refine ⟨?_, nofun, fun _ _ => by rw [now], nofun, nofun⟩
    unfold itemImage
    simp only [now]
    rfl
  | 2, _ =>
    obtain ⟨p, found, -⟩ := Option.bind_eq_some_iff.mp there
    have now : (faultItem s 2 id owner).stop? owner id = some { p with st := .faulted } :=
      (find?_modWhere (p := fun p : StopSet => p.owner == owner && p.id == id) (f := fun p => { p with st := .faulted }) (fun _ h => h) s.aut.stops).trans
        (congrArg (Option.map fun p : StopSet => { p with st := .faulted }) found)
    refine ⟨?_, nofun, nofun, fun _ => ⟨_, now, rfl⟩, nofun⟩
    unfold itemImage
    simp only [now]
    rfl
  | 3, _ =>
    obtain ⟨p, found, -⟩ := Option.bind_eq_some_iff.mp there
    have now : (faultItem s 3 id owner).program? id = some { p with st := .faulted } :=
      (find?_modWhere (p := fun p : Program => p.id == id) (f := fun p => { p with st := .faulted }) (fun _ h => h) s.aut.progs).trans
        (congrArg (Option.map fun p : Program => { p with st := .faulted }) found)
    refine ⟨?_, nofun, nofun, nofun, fun _ => ⟨_, now, rfl⟩⟩
    unfold itemImage
    simp only [now]
    rfl

/-- What an item's image depends on. -/
theorem itemImage_of {a b : State} (voc : b.voc = a.voc) (aut : b.aut = a.aut) (kind id owner : Nat) : itemImage b kind id owner = itemImage a kind id owner := by
  unfold itemImage State.slot State.automaton State.stop? State.program?
  rw [voc, aut]

/-- A repair that ends is over. -/
def repairEnded (s : State) (kind id owner : Nat) : State :=
  dropLines (s.onMem fun m => { m with repairs := m.repairs.filter (· != (kind, id, owner)) }) (.repair kind id owner)

theorem repairEnded_over (s : State) (kind id owner : Nat) : (kind, id, owner) ∉ (repairEnded s kind id owner).mem.repairs := by
  intro mem
  simpa using (List.mem_filter.mp mem).2

/-- A good image: nothing but words of memory is written. -/
theorem repairOver_good (s : State) (kind id owner : Nat) :
    { repairOver s kind id owner true with mem := s.mem }.sansFab = s.sansFab ∧ (kind, id, owner) ∉ (repairOver s kind id owner true).mem.repairs := by
  obtain ⟨rest, repairs⟩ := mendWords_memory (repairEnded s kind id owner) fun key =>
    let l := storeLine (repairEnded s kind id owner).variant key
    decide (1 ≤ l.1) && decide (l.1 ≤ 3) && imageItem (repairEnded s kind id owner) l.1 l.2 == some (kind, id, owner)
  have row : repairOver s kind id owner true = mendWords (repairEnded s kind id owner) fun key =>
    let l := storeLine (repairEnded s kind id owner).variant key
    decide (1 ≤ l.1) && decide (l.1 ≤ 3) && imageItem (repairEnded s kind id owner) l.1 l.2 == some (kind, id, owner) := rfl
  rw [row]
  refine ⟨?_, repairs ▸ repairEnded_over s kind id owner⟩
  exact (congrArg (fun t : State => ({ t with mem := s.mem } : State).sansFab) rest).trans rfl

/-- The unit that reports a repair that failed (16 Table 16.9). -/
def repairSrc (kind : Nat) : Src := if kind = 0 then .vocab else .automata

/-- A bad image: the item is faulted, and IMAGE_REPAIR_FAILED raised. -/
theorem repairOver_bad {s : State} {kind id owner : Nat} :
    ∃ b, JobsDone b (repairOver s kind id owner false) ∧ b.sansBel = (faultItem (repairEnded s kind id owner) kind id owner).sansBel ∧
      Raised s b (repairSrc kind) 0x0603 0 0 (kind + 256 * id + if kind = 2 then 65536 * owner else 0) := by
  have base : ∃ f, faultItem (repairEnded s kind id owner) kind id owner = f ∧ f.bel = s.bel ∧ f.lan = s.lan ∧ f.variant = s.variant := by
    refine ⟨_, rfl, ?_⟩
    unfold faultItem
    split <;> exact ⟨rfl, rfl, rfl⟩
  obtain ⟨f, hf, bel, lan, variant⟩ := base
  have row : repairOver s kind id owner false = failJobs (raiseBy (faultItem (repairEnded s kind id owner) kind id owner) (repairSrc kind) 0x0603 0 0
      (kind + 256 * id + if kind = 2 then 65536 * owner else 0)) kind id owner := rfl
  rw [row, hf]
  exact ⟨_, failJobs_done .., raiseBy_sansBel .., raised_between (raiseBy_raised ..) bel lan variant rfl⟩

/-- Settles O41. -/
theorem restoreAndRepair : Obligations.RestoreAndRepair := by
  unfold Obligations.RestoreAndRepair
  intro s serving
  have stepping : s.stepping = true := by
    unfold State.stepping
    rw [serving.1, Bool.true_or]
  refine ⟨fun n x found restoring have_ alone due zero spill => ⟨fun k best written staged away => ?_, fun best tree => ?_⟩,
    fun kind id owner e bs low repairing there got => ?_⟩
  · exact contextRestoreDone_restores serving found restoring have_ due spill best written staged away
  · exact contextRestoreDone_loses serving found restoring have_ alone zero best tree
  · have row : exec (.imageRepairDone kind id owner) s = finish s (repairOver s kind id owner (computedDigest bs == e.2.2)) := by
      refine congrArg (finish s) ((if_pos stepping).trans ?_)
      unfold runRepair
      simp only [repairing, Bool.not_true, Bool.false_eq_true, if_false, there, got]
    rw [row]
    by_cases good : computedDigest bs = e.2.2
    · rw [beq_iff_eq.mpr good]
      obtain ⟨rest, ended⟩ := repairOver_good s kind id owner
      generalize repairOver s kind id owner true = u at rest ended
      obtain ⟨variant, pending, -, lan, rng, voc, aut, -, -, -, -, -, -, -, -, -, -, -, bel, -⟩ := sansFab_ext rest
      obtain ⟨t, next, same⟩ := finish_to (s := s) (E := u) ((congrArg Lan.fenced lan).trans serving.2) pending variant
      obtain ⟨-, -, -, -, rngT, vocT, autT, -, -, -, -, -, -, -, -, -, memT, -, belT, -⟩ := sansFab_ext same
      exact ⟨t, next, memT ▸ ended, fun _ => ⟨autT.trans aut, vocT.trans voc, belT.trans bel, rngT.trans rng⟩, fun bad => absurd good bad⟩
    · rw [beq_eq_false_iff_ne.mpr good]
      obtain ⟨b, done, sans, raised⟩ := repairOver_bad (s := s) (kind := kind) (id := id) (owner := owner)
      have thereE : itemImage (repairEnded s kind id owner) kind id owner = some e := (itemImage_of rfl rfl kind id owner).trans there
      obtain ⟨none, slot, automaton, stop, program⟩ := faultItem_faults low thereE
      generalize repairOver s kind id owner false = u at done
      have base : ∃ f, faultItem (repairEnded s kind id owner) kind id owner = f ∧ f.mem = (repairEnded s kind id owner).mem ∧ f.lan = s.lan ∧
          f.pending = s.pending ∧ f.variant = s.variant := by
        refine ⟨_, rfl, ?_⟩
        unfold faultItem
        split <;> exact ⟨rfl, rfl, rfl, rfl⟩
      obtain ⟨f, hf, memF, lanF, pendingF, variantF⟩ := base
      rw [hf] at none slot automaton stop program sans
      have over_ := repairEnded_over s kind id owner
      obtain ⟨kept, belU⟩ := done.items
      obtain ⟨voc, aut, mem, lan, pending, variant⟩ := (ItemsKept.of_sansBel sans).trans kept
      obtain ⟨t, next, same⟩ := finish_to (s := s) (E := u) (by rw [lan, lanF]; exact serving.2) (pending.trans pendingF) (variant.trans variantF)
      obtain ⟨-, -, -, -, -, vocT, autT, -, -, -, -, -, -, -, -, -, memT, -, belT, -⟩ := sansFab_ext same
      have voc := vocT.trans voc
      have aut := autT.trans aut
      refine ⟨t, next, ?_, fun good' => absurd good' good, fun _ => ⟨?_, fun z l => ?_, fun z l => ?_, fun z => ?_, fun z => ?_, ?_⟩⟩
      · rw [memT, mem, memF]
        exact over_
      · exact (itemImage_of voc aut kind id owner).trans none
      · unfold State.slot
        rw [voc]
        exact slot z l
      · unfold State.automaton
        rw [aut]
        exact automaton z l
      · unfold State.stop?
        rw [aut]
        exact stop z
      · unfold State.program?
        rw [aut]
        exact program z
      · exact raised_between raised rfl rfl rfl (belT.trans belU)

end Sys2Proof.Machine
end

section
/-! OWNER_KEY and OWNER_RELEASE (12 R455, R460, R461, Table 12.6). -/

namespace Sys2Proof.Machine

/-! ## The key port -/

section
variable {s : State} {k : Nat} {c : Cmd}

theorem keyWaiter_waits (unwrap : s.cry.unwrap = some k) (there : s.cmd? k = some c) : keyWaiter s = some c := by
  unfold keyWaiter
  rw [unwrap]
  exact there

theorem dukKeyValid_row (duk : List Byte) (carry : s.carrying = true) (unwrap : s.cry.unwrap = some k) (there : s.cmd? k = some c) :
    exec (.dukKeyValid duk) s = finish s (unwrapKey (sawDuk true s) c duk) := by
  refine congrArg (finish s) ?_
  rw [keyWaiter_waits unwrap there]
  exact if_pos carry

theorem dukTimeout_row (stepping : s.stepping = true) (unwrap : s.cry.unwrap = some k) (there : s.cmd? k = some c) :
    exec .dukTimeout s = finish s (keyFault (sawDuk false s) c 0) := by
  refine congrArg (finish s) ?_
  rw [keyWaiter_waits unwrap there]
  exact if_pos stepping

/-- A fault of the key port. -/
theorem finish_keyFault (fenced : s.lan.fenced = false) (valid : Bool) (cause : Nat) :
    ∃ t, finish s (keyFault (sawDuk valid s) c cause) = .next t ∧ Completed s t c 0x2014 0 0 0 ∧
      { t with rng := s.rng }.sansFab = { s with cry := { s.cry with
        unwrap := none, dukSeen := valid, keyFaults := wrap32 (s.cry.keyFaults + 1), keyFaultLast := c.owner + 64 * cause } }.sansFab :=
  finish_complete (s := s) (B := (sawDuk valid s).onCry fun y => { y with
    unwrap := none, keyFaults := wrap32 (y.keyFaults + 1), keyFaultLast := c.owner + 64 * cause }) fenced rfl rfl rfl rfl

/-- What a key that the port presents does with a blob (Table 12.6). -/
theorem unwrapKey_outcome {blob duk : List Byte} (got : readBytes s (.command c.ticket) c.addr24 72 = .got blob) :
    unwrapKey s c duk =
      if (kwUnwrap duk blob).1 ≠ List.replicate 8 (0xA6 : Byte) then keyFault s c 1
      else if (kwUnwrap duk blob).2.take 32 = (kwUnwrap duk blob).2.drop 32 then keyFault s c 2
      else complete ((s.onLan fun l => { l with
        keys := setAt l.keys c.owner (some { key := (kwUnwrap duk blob).2, fp := getLE (sha256 blob) 0 8 }) }).onCry fun y => { y with unwrap := none })
        c Status.ok.code := by
  unfold unwrapKey
  rw [got]

end

/-! ## What closing an owner's streams leaves -/

/-- No stream is opened or given to another owner; FIN_RESULT_CTL and the automata stay. -/
structure Closes (a b : State) : Prop where
  streams : ∀ z ∈ b.ctx.streams, ∃ w ∈ a.ctx.streams, w.id = z.id ∧ w.owner = z.owner
  ctl : b.fin.resultCtl = a.fin.resultCtl
  aut : b.aut = a.aut

theorem Closes.of_ctx {a b : State} (ctx : b.ctx = a.ctx) (ctl : b.fin.resultCtl = a.fin.resultCtl) (aut : b.aut = a.aut) : Closes a b :=
  ⟨fun z mem => ⟨z, ctx ▸ mem, rfl, rfl⟩, ctl, aut⟩

theorem Closes.trans {a b c : State} (h : Closes a b) (k : Closes b c) : Closes a c := by
  refine ⟨fun z mem => ?_, k.ctl.trans h.ctl, k.aut.trans h.aut⟩
  obtain ⟨w, memW, id, owner⟩ := k.streams z mem
  obtain ⟨v, memV, id', owner'⟩ := h.streams w memW
  exact ⟨v, memV, id'.trans id, owner'.trans owner⟩

theorem Closes.onStream (s : State) (n : Nat) {f : Stream → Stream} (id : ∀ y, (f y).id = y.id) (owner : ∀ y, (f y).owner = y.owner) :
    Closes s (s.onStream n f) := by
  refine ⟨fun z mem => ?_, rfl, rfl⟩
  obtain ⟨w, memW, rfl⟩ := List.mem_map.mp mem
  refine ⟨w, memW, ?_⟩
  split
  · exact ⟨(id w).symm, (owner w).symm⟩
  · exact ⟨rfl, rfl⟩

theorem endRound_closes (s : State) (t : Tree) : Closes s (endRound s t) := by
  unfold endRound
  extract_lets a b
  have dropped : Closes s a := .of_ctx rfl rfl rfl
  clear_value a
  have freed : Closes a b := .onStream a t.stream (f := fun y => { y with pagesResv := 0 }) (fun _ => rfl) fun _ => rfl
  clear_value b
  exact (dropped.trans freed).trans (.of_ctx rfl rfl rfl)

theorem dropSpill_closes (s : State) (id : Nat) : Closes s (dropSpill s id) :=
  (Closes.onStream s id (f := fun y => { y with spill := [] }) (fun _ => rfl) fun _ => rfl).trans (.of_ctx rfl rfl rfl)

theorem emitToken_closes (s : State) (stream step token flags : Nat) : Closes s (emitToken s stream step token flags) := by
  unfold emitToken
  split
  · exact .of_ctx rfl rfl rfl
  · exact .of_ctx rfl rfl rfl

theorem releaseResv_closes (s : State) (x : Stream) : Closes s (releaseResv s x) := .of_ctx rfl rfl rfl

theorem haltStream_closes {s : State} {x : Stream} (alone : x.recorded = []) : Closes s (haltStream s x) := by
  unfold haltStream
  rw [alone]
  extract_lets a b d e f g
  have first : Closes s a := .onStream s x.id (f := fun y => { y with recorded := [] }) (fun _ => rfl) fun _ => rfl
  have same : b = a := rfl
  clear_value b
  subst same
  clear_value a
  have ended : Closes a d := by
    dsimp only [d]
    split
    · exact (endRound_closes ..).trans (emitToken_closes ..)
    · exact .of_ctx rfl rfl rfl
  clear_value d
  have dropped : Closes d e := (Closes.of_ctx rfl rfl rfl : Closes d (dropAllUnits d x.id)).trans (dropSpill_closes ..)
  clear_value e
  have fin : Closes e f := .of_ctx rfl rfl rfl
  clear_value f
  have stp : Closes f g := .of_ctx rfl rfl rfl
  clear_value g
  refine ((((first.trans ended).trans dropped).trans fin).trans stp).trans (Closes.trans ?_ (releaseResv_closes ..))
  exact .onStream g x.id (fun _ => rfl) fun _ => rfl

theorem publish_closes (s : State) (x : Stream) (rs : List (List Byte)) : Closes s (publish s x rs) := by
  unfold publish
  extract_lets w e
  have waited : Closes s w := by
    dsimp only [w]
    unfold endWait
    split
    · exact (Closes.of_ctx rfl rfl rfl : Closes s (s.onQueue x.queue fun q => { q with waiters := q.waiters.filter (· != x.id) })).trans
        (.onStream _ x.id (f := fun y => { y with waitQueue := false }) (fun _ => rfl) fun _ => rfl)
    · exact .of_ctx rfl rfl rfl
  have drops : Closes w e := .of_ctx rfl rfl rfl
  clear_value e w
  split
  · exact waited
  · split
    · exact waited.trans (.of_ctx rfl rfl rfl)
    · split
      · exact waited.trans drops
      · refine (waited.trans drops).trans ((Closes.onStream e x.id (f := fun y => { y with queueSaid := true }) (fun _ => rfl) fun _ => rfl).trans ?_)
        have keep := raiseFrom_sansBel (e.onStream x.id fun y => { y with queueSaid := true }) ((e.onStream x.id fun y => { y with queueSaid := true }).physOf x.home)
          0x0A04 x.id x.next (x.queue + 256 * x.owner)
        unfold raiseHome
        generalize raiseFrom (e.onStream x.id fun y => { y with queueSaid := true }) _ _ _ _ _ = r at keep
        have ctx : r.ctx = (e.onStream x.id fun y => { y with queueSaid := true }).ctx := by
          have k := congrArg State.ctx keep
          exact k
        have fin : r.fin = (e.onStream x.id fun y => { y with queueSaid := true }).fin := by
          have k := congrArg State.fin keep
          exact k
        have aut : r.aut = (e.onStream x.id fun y => { y with queueSaid := true }).aut := by
          have k := congrArg State.aut keep
          exact k
        exact .of_ctx ctx (congrArg Machine.Fin.resultCtl fin) aut

/-- A stream that is freed is gone. -/
theorem freeStream_closes (s : State) (x : Stream) : Closes s (freeStream s x) ∧ ∀ z ∈ (freeStream s x).ctx.streams, z.id ≠ x.id := by
  unfold freeStream
  extract_lets a b d e
  have ended : Closes s a := by
    dsimp only [a]
    split
    · exact endRound_closes ..
    · exact .of_ctx rfl rfl rfl
  clear_value a
  have written : Closes a (writeStream a x) := by
    have rings := writeLines_rings a x.owner (!x.record) true
    have fin : (writeStream a x).fin = a.fin := by
      have k := congrArg State.fin rings
      exact k
    have aut : (writeStream a x).aut = a.aut := by
      have k := congrArg State.aut rings
      exact k
    exact .of_ctx rings.ctx (congrArg Machine.Fin.resultCtl fin) aut
  have released : Closes a b := written.trans (releaseResv_closes ..)
  clear_value b
  have units : Closes b d := .of_ctx rfl rfl rfl
  clear_value d
  have trees : Closes d e := .of_ctx rfl rfl rfl
  clear_value e
  refine ⟨(((ended.trans released).trans units).trans trees).trans ⟨fun z mem => ⟨z, (List.mem_filter.mp mem).1, rfl, rfl⟩, rfl, rfl⟩, fun z mem => ?_⟩
  simpa using (List.mem_filter.mp mem).2

/-- The close of one stream by a release. -/
def releaseStream (s : State) (x : Stream) : State :=
  match (haltStream s x).stream? x.id with
  | some y => freeStream (publish (haltStream s x) y (closeGroup y true)) y
  | none => haltStream s x

theorem releaseStream_closes {s : State} {x : Stream} (alone : x.recorded = []) :
    Closes s (releaseStream s x) ∧ ∀ z ∈ (releaseStream s x).ctx.streams, z.id ≠ x.id := by
  have halted := haltStream_closes (s := s) alone
  unfold releaseStream
  generalize haltStream s x = h at halted ⊢
  split
  · next y found =>
    have id := stream_id found
    obtain ⟨freed, gone⟩ := freeStream_closes (publish h y (closeGroup y true)) y
    exact ⟨(halted.trans (publish_closes ..)).trans freed, fun z mem => id ▸ gone z mem⟩
  · next none =>
    refine ⟨halted, fun z mem e => ?_⟩
    have other := List.find?_eq_none.mp none z mem
    exact other (beq_iff_eq.mpr e)

theorem releaseStreams_close (l : List Stream) (s : State) (alone : ∀ x ∈ l, x.recorded = []) :
    Closes s (l.foldl releaseStream s) ∧ ∀ z ∈ (l.foldl releaseStream s).ctx.streams, ∀ x ∈ l, z.id ≠ x.id := by
  induction l generalizing s with
  | nil => exact ⟨.of_ctx rfl rfl rfl, fun _ _ _ here => absurd here List.not_mem_nil⟩
  | cons x r ih =>
    obtain ⟨first, gone⟩ := releaseStream_closes (s := s) (alone x List.mem_cons_self)
    obtain ⟨rest, others⟩ := ih (releaseStream s x) fun y mem => alone y (List.mem_cons_of_mem _ mem)
    refine ⟨first.trans rest, fun z mem y here => ?_⟩
    rcases List.mem_cons.mp here with rfl | here
    · obtain ⟨w, memW, id, -⟩ := rest.streams z mem
      exact id ▸ gone w memW
    · exact others z mem y here

/-! ## The automata -/

/-- An automaton that is not an owner's own. -/
def Automaton.notOf (o : Nat) (a : Automaton) : Prop := a.st ≠ .empty → a.shared = false → a.owner ≠ o

/-- The drop of automaton n by a release. -/
def releaseAutomaton (o : Nat) (s : State) (n : Nat) : State :=
  if (s.automaton n).st != .empty && !(s.automaton n).shared && (s.automaton n).owner == o then dropCupOf (s.onAutomaton n Automaton.freed) n else s

/-- Automata, the Cupola and turrets aside, a state is as it was. -/
def AutomataOnly (a b : State) : Prop := { b with aut := a.aut, cup := a.cup, tur := a.tur } = a

theorem AutomataOnly.trans {a b c : State} (h : AutomataOnly a b) (k : AutomataOnly b c) : AutomataOnly a c := by
  unfold AutomataOnly at *
  rw [← congrArg (fun t : State => ({ t with aut := a.aut, cup := a.cup, tur := a.tur } : State)) k] at h
  exact h

theorem releaseAutomaton_only (o : Nat) (s : State) (n : Nat) :
    AutomataOnly s (releaseAutomaton o s n) ∧ (releaseAutomaton o s n).aut.auts.length = s.aut.auts.length ∧
      (∀ i, i ≠ n → (releaseAutomaton o s n).automaton i = s.automaton i) ∧
      (n < s.aut.auts.length → ((releaseAutomaton o s n).automaton n).notOf o) := by
  unfold releaseAutomaton
  split
  · refine ⟨rfl, List.length_modify .., fun i e => getN_modAt_ne _ _ e, fun inside => ?_⟩
    have freed : ((dropCupOf (s.onAutomaton n Automaton.freed) n).automaton n) = (s.automaton n).freed := getN_modAt Automaton.freed inside
    rw [freed]
    exact fun some => absurd rfl some
  · next other =>
    refine ⟨rfl, rfl, fun _ _ => rfl, fun _ some own mine => other ?_⟩
    simp [some, own, mine]

theorem releaseAutomata_only (o : Nat) (s : State) (k : Nat) :
    AutomataOnly s ((List.range k).foldl (releaseAutomaton o) s) ∧ ((List.range k).foldl (releaseAutomaton o) s).aut.auts.length = s.aut.auts.length ∧
      ∀ i < k, i < s.aut.auts.length → (((List.range k).foldl (releaseAutomaton o) s).automaton i).notOf o := by
  induction k with
  | zero => exact ⟨rfl, rfl, nofun⟩
  | succ k ih =>
    obtain ⟨only, len, done⟩ := ih
    rw [List.range_succ, List.foldl_append, List.foldl_cons, List.foldl_nil]
    generalize (List.range k).foldl (releaseAutomaton o) s = t at only len done
    obtain ⟨only', len', others, here⟩ := releaseAutomaton_only o t k
    refine ⟨only.trans only', len'.trans len, fun i low inside => ?_⟩
    by_cases e : i = k
    · subst e
      exact here (len.symm ▸ inside)
    · rw [others i e]
      exact done i (by omega) inside

/-! ## The scrub -/

/-- An entry that is not listed, given its default value, changes nothing. -/
theorem sput_absent {α : Type} [DecidableEq α] (z : α) {l : List (Nat × α)} {a : Nat} (absent : ∀ w ∈ l, w.1 ≠ a) : sput z l a z = l := by
  induction l with
  | nil => exact if_pos rfl
  | cons w l ih =>
    obtain ⟨k, v⟩ := w
    have here : k ≠ a := absent (k, v) List.mem_cons_self
    rw [sput, if_pos rfl, if_neg (Ne.symm here), ih fun w mem => absent w (List.mem_cons_of_mem _ mem), ite_self]

/-- What the scrub leaves: of an owner no tag, and without an armed injection exactly the words of other lines. -/
theorem scrubLines_scrubs (s : State) (o : Nat) :
    (∃ m, scrubLines s o = { s with mem := m }) ∧ (scrubLines s o).mem.tags = s.mem.tags.filter (fun g => g.2.toNat % 128 != o) ∧
      (s.mem.injArm = false → (scrubLines s o).mem.words =
        s.mem.words.filter fun w => !((s.mem.tags.filter fun t => t.2.toNat % 128 == o).any fun t => t.1 == w.1 / 16)) := by
  unfold scrubLines
  extract_lets mine u
  split
  · next t found =>
    refine ⟨⟨_, rfl⟩, rfl, fun off => ?_⟩
    have inj : u.mem.injArm = false := off
    have words : (putWhole u (t.1 * 16) 0).mem.words = sput {} u.mem.words (t.1 * 16) {} := by
      show sput {} u.mem.words (t.1 * 16) { value := 0, err := if (u.mem.injArm && _) = true then _ else 0 } = _
      rw [inj, Bool.false_and, if_neg Bool.false_ne_true]
    refine words.trans (sput_absent _ fun w mem e => ?_)
    have kept := (List.mem_filter.mp mem).2
    have hit : (mine.any fun t => t.1 == w.1 / 16) = true := by
      refine List.any_eq_true.mpr ⟨t, List.mem_of_find?_eq_some found, ?_⟩
      rw [e, Nat.mul_div_cancel _ (by decide)]
      exact beq_self_eq_true _
    rw [hit] at kept
    cases kept
  · exact ⟨⟨_, rfl⟩, rfl, fun _ => rfl⟩

/-! ## OWNER_RELEASE -/

/-- What a release leaves of the items of an owner. -/
structure ItemsReleased (s t : State) (o : Nat) : Prop where
  streams : ∀ x ∈ t.ctx.streams, x.owner ≠ o
  auts : ∀ a ∈ t.aut.auts, a.notOf o
  stops : ∀ p ∈ t.aut.stops, p.owner ≠ o
  queues : ∀ q ∈ t.eqs.qs, q.owner = o → q.recs = [] ∧ q.resv = []
  ctl : t.fin.resultCtl = s.fin.resultCtl

theorem releaseItems_released {s : State} {o : Nat} (alone : ∀ x ∈ s.ctx.streams, x.owner = o → x.recorded = []) (few : s.aut.auts.length ≤ 64) :
    ItemsReleased s (releaseItems s o) o := by
  have aloneF : ∀ x ∈ s.ctx.streams.filter (·.owner == o), x.recorded = [] := fun x mem => by
    obtain ⟨here, mine⟩ := List.mem_filter.mp mem
    exact alone x here (beq_iff_eq.mp mine)
  obtain ⟨closes, gone⟩ := releaseStreams_close (s.ctx.streams.filter (·.owner == o)) s aloneF
  have row : releaseItems s o = (((List.range 64).foldl (releaseAutomaton o) ((s.ctx.streams.filter (·.owner == o)).foldl releaseStream s)).onAut fun a =>
      { a with stops := a.stops.filter (·.owner != o) }).onEqs fun e => { e with
        qs := modWhere e.qs (·.owner == o) fun q => { q with recs := [], partRead := 0, resv := [], xoff := false } } := rfl
  rw [row]
  clear row
  generalize (s.ctx.streams.filter (·.owner == o)).foldl releaseStream s = a at closes gone
  obtain ⟨only, len, auts⟩ := releaseAutomata_only o a 64
  generalize (List.range 64).foldl (releaseAutomaton o) a = b at only len auts
  have ctx : b.ctx = a.ctx := by
    have e := congrArg State.ctx only
    exact e
  have fin : b.fin = a.fin := by
    have e := congrArg State.fin only
    exact e
  refine ⟨fun x mem mine => ?_, fun x mem => ?_, fun p mem => ?_, fun q mem mine => ?_, (congrArg Machine.Fin.resultCtl fin).trans closes.ctl⟩
  · have mem : x ∈ a.ctx.streams := ctx ▸ mem
    obtain ⟨w, here, id, owner⟩ := closes.streams x mem
    exact gone x mem w (List.mem_filter.mpr ⟨here, beq_iff_eq.mpr (owner.trans mine)⟩) id.symm
  · obtain ⟨i, inside, rfl⟩ := List.getElem_of_mem (show x ∈ b.aut.auts from mem)
    have small : i < a.aut.auts.length := len ▸ inside
    have done := auts i (Nat.lt_of_lt_of_le small (by rw [closes.aut]; exact few)) small
    rwa [State.automaton, getN_eq_getElem inside] at done
  · simpa using (List.mem_filter.mp (show p ∈ b.aut.stops.filter (·.owner != o) from mem)).2
  · obtain ⟨r, -, rfl⟩ := List.mem_map.mp mem
    split
    · exact ⟨rfl, rfl⟩
    · next other =>
      rw [if_neg other] at mine
      exact absurd (beq_iff_eq.mpr mine) other

/-- A command that executes keeps its owner and ticket. -/
theorem executing_names {s : State} {k : Nat} {d : Cmd} (mem : d ∈ (executing s k).rng.cmds) :
    ∃ e ∈ s.rng.cmds, d.owner = e.owner ∧ d.ticket = e.ticket := by
  obtain ⟨e, here, rfl⟩ := List.mem_map.mp mem
  refine ⟨e, here, ?_⟩
  split <;> exact ⟨rfl, rfl⟩

/-- With no other command of the owner, a release runs at once. -/
theorem runRelease_alone {s : State} {c : Cmd} (mine : ∀ d ∈ s.rng.cmds, d.owner = c.owner → d.ticket = c.ticket) :
    runRelease s c = complete (releaseOwner (scrubLines (releaseItems (executing s c.ticket) c.owner) c.owner) c.owner) c Status.ok.code 0
      (taggedBytes (executing s c.ticket) c.owner + ownedBytes (executing s c.ticket) c.owner) 0 := by
  have early : (if c.phase == .dispatched then s.rng.cmds.filter fun d =>
      d.owner == c.owner && d.ticket != c.ticket && (d.phase == .fetched || d.phase == .dispatched) else []) = [] := by
    split
    · refine List.filter_eq_nil_iff.mpr fun d mem => ?_
      intro h
      simp only [Bool.and_eq_true, beq_iff_eq, bne_iff_ne] at h
      exact h.1.2 (mine d mem h.1.1)
    · rfl
  have waits : (executing s c.ticket).rng.cmds.any (releaseWaits c.owner c.ticket) = false := by
    refine Bool.eq_false_iff.mpr fun h => ?_
    obtain ⟨d, mem, waits⟩ := List.any_eq_true.mp h
    obtain ⟨e, here, owner, ticket⟩ := executing_names mem
    simp only [releaseWaits, Bool.and_eq_true, beq_iff_eq, bne_iff_ne] at waits
    exact waits.1.1.2 (ticket.trans (mine e here (owner.symm.trans waits.1.1.1)))
  unfold runRelease
  dsimp only
  rw [early, List.foldl_nil]
  exact if_neg (by rw [waits]; exact Bool.false_ne_true)

/-- Steps 6 and 7 of a release. -/
theorem releaseOwner_fields (s : State) (o : Nat) :
    (releaseOwner s o).lan = { s.lan with keys := setAt s.lan.keys o none } ∧ (releaseOwner s o).fin.resultCtl = setAt s.fin.resultCtl o 0 ∧
      (releaseOwner s o).ctx.streams = s.ctx.streams ∧ (releaseOwner s o).owner o = {} ∧
      ((releaseOwner s o).ownPkr o).recRing.sizeLog = 0 ∧ ((releaseOwner s o).ownPkr o).rplRing.sizeLog = 0 ∧ ((releaseOwner s o).ownPkr o).ckLog = 0 ∧
      (releaseOwner s o).pending = s.pending ∧ (releaseOwner s o).variant = s.variant ∧ (releaseOwner s o).aut = s.aut ∧
      (releaseOwner s o).eqs = s.eqs ∧ (releaseOwner s o).mem = s.mem := by
  have owner : (releaseOwner s o).owner o = {} := by
    by_cases inside : o < s.ctx.owners.length
    · exact getN_modAt (fun _ : OwnerEpoch => {}) inside
    · exact getN_of_length_le (Nat.le_trans (Nat.le_of_eq (List.length_modify ..)) (Nat.not_lt.mp inside))
  have pkr : ((releaseOwner s o).ownPkr o).recRing.sizeLog = 0 ∧ ((releaseOwner s o).ownPkr o).rplRing.sizeLog = 0 ∧
      ((releaseOwner s o).ownPkr o).ckLog = 0 := by
    by_cases inside : o < s.pkr.owners.length
    · have own : (releaseOwner s o).ownPkr o = { stg := List.replicate 9 0, ckpts := (s.ownPkr o).ckpts, skips := (s.ownPkr o).skips } :=
        getN_modAt (fun p : OwnerPkr => { stg := List.replicate 9 0, ckpts := p.ckpts, skips := p.skips }) inside
      rw [own]
      exact ⟨rfl, rfl, rfl⟩
    · have own : (releaseOwner s o).ownPkr o = default :=
        getN_of_length_le (Nat.le_trans (Nat.le_of_eq (List.length_modify ..)) (Nat.not_lt.mp inside))
      rw [own]
      exact ⟨rfl, rfl, rfl⟩
  obtain ⟨rec, rpl, ck⟩ := pkr
  exact ⟨rfl, rfl, rfl, owner, rec, rpl, ck, rfl, rfl, rfl, rfl, rfl⟩

/-- OWNER_RELEASE with no other command of the owner in flight. -/
theorem ownerRelease_releases {s : State} {k : Nat} {c : Cmd} (h : s.Accepted k 0x19 c) (mine : ∀ d ∈ s.rng.cmds, d.owner = c.owner → d.ticket = c.ticket)
    (alone : ∀ x ∈ s.ctx.streams, x.owner = c.owner → x.recorded = []) (few : s.aut.auts.length ≤ 64) :
    ∃ t u d0, exec (.ownerRelease k) s = .next t ∧ t.Answered c 0 0 d0 0 ∧ ItemsReleased s u c.owner ∧
      t.ctx = (releaseOwner (scrubLines u c.owner) c.owner).ctx ∧ t.aut = u.aut ∧ t.lan = { s.lan with keys := setAt s.lan.keys c.owner none } ∧
      t.pkr = (releaseOwner (scrubLines u c.owner) c.owner).pkr ∧ t.eqs = u.eqs ∧ t.mem = (scrubLines u c.owner).mem ∧ u.mem = s.mem ∧
      (scrubLines u c.owner).ctx = u.ctx ∧ t.fin.resultCtl = setAt s.fin.resultCtl c.owner 0 := by
  obtain ⟨-, fenced, -⟩ := accepted_facts h
  have row : exec (.ownerRelease k) s = finish s (runRelease s c) := congrArg (finish s) (runCmd_accepted h _)
  rw [row, runRelease_alone mine]
  have items : ItemsReleased s (releaseItems (executing s c.ticket) c.owner) c.owner := by
    obtain ⟨streams, auts, stops, queues, ctl⟩ := releaseItems_released (s := executing s c.ticket) alone few
    exact ⟨streams, auts, stops, queues, ctl⟩
  have fwd : Fwd s (releaseItems (executing s c.ticket) c.owner) := releaseItems_fwd (executing_fwd (.refl s))
  generalize releaseItems (executing s c.ticket) c.owner = u at items fwd
  generalize taggedBytes (executing s c.ticket) c.owner + ownedBytes (executing s c.ticket) c.owner = d0
  obtain ⟨⟨m, scrubbed⟩, -⟩ := scrubLines_scrubs u c.owner
  obtain ⟨lan, ctl, -, -, -, -, -, pending, variant, aut, eqs, mem⟩ := releaseOwner_fields (scrubLines u c.owner) c.owner
  have lanU : (scrubLines u c.owner).lan = s.lan := by rw [scrubbed]; exact fwd.lan
  have pendingU : (scrubLines u c.owner).pending = s.pending := by rw [scrubbed]; exact fwd.pending
  have variantU : (scrubLines u c.owner).variant = s.variant := by rw [scrubbed]; exact fwd.variant
  have autU : (scrubLines u c.owner).aut = u.aut := by rw [scrubbed]
  have eqsU : (scrubLines u c.owner).eqs = u.eqs := by rw [scrubbed]
  have ctxU : (scrubLines u c.owner).ctx = u.ctx := by rw [scrubbed]
  have finU : (scrubLines u c.owner).fin = u.fin := by rw [scrubbed]
  rw [lanU] at lan
  obtain ⟨B, hB⟩ : ∃ B, B = releaseOwner (scrubLines u c.owner) c.owner := ⟨_, rfl⟩
  rw [← hB] at lan ctl pending variant aut eqs mem ⊢
  obtain ⟨e, isFor, posted⟩ := complete_posts B c 0 0 d0 0
  obtain ⟨t, next, same⟩ := finish_to (s := s) (E := complete B c 0 0 d0 0) (show B.lan.fenced = false by rw [lan]; exact fenced)
    (pending.trans pendingU) (variant.trans variantU)
  obtain ⟨-, -, -, lanT, rngT, -, autT, -, ctxT, -, finT, -, pkrT, eqsT, -, -, memT, -⟩ := sansFab_ext (same.trans posted)
  have comps : t.rng.comps = B.rng.comps ++ [e] := congrArg Rng.comps rngT
  have ctxB : t.ctx = B.ctx := ctxT
  have pkrB : t.pkr = B.pkr := pkrT
  refine ⟨t, u, d0, next, ⟨e, by rw [comps]; exact List.mem_append_right _ List.mem_cons_self, isFor⟩, items, hB ▸ ctxB, autT.trans (aut.trans autU), lanT.trans lan,
    hB ▸ pkrB, eqsT.trans (eqs.trans eqsU), memT.trans mem, fwd.mem, ctxU, ?_⟩
  exact (congrArg Machine.Fin.resultCtl finT).trans (ctl.trans (by rw [finU, items.ctl]))

/-- Settles O12. -/
theorem ownerKeysAndRelease : Obligations.OwnerKeysAndRelease := by
  unfold Obligations.OwnerKeysAndRelease
  refine ⟨fun s k c => ⟨fun h held => ?_, fun blob h free aligned got idle => ?_, fun blob duk carry unwrap there got => ?_, fun carry unwrap there => ?_⟩,
    fun s k c h mine alone few => ?_⟩
  · have row : exec (.ownerKey k) s = finish s (reject s c .idBusy) :=
      congrArg (finish s) ((runCmd_accepted h _).trans (if_pos (Option.isSome_iff_ne_none.mpr held)))
    rw [row]
    exact finish_refused h .idBusy 0
  · have row : exec (.ownerKey k) s = finish s ((executing s c.ticket).onCry fun y => { y with unwrap := some c.ticket }) := by
      refine congrArg (finish s) ((runCmd_accepted h _).trans ?_)
      unfold runOwnerKey
      simp only [free, aligned, got, idle, Option.isSome_none, ne_eq, not_true_eq_false, Bool.false_eq_true, if_false]
    rw [row]
    exact finish_to (s := s) (accepted_facts h).2.1 rfl rfl
  · obtain ⟨-, fenced⟩ := carrying_iff.mp carry
    have outcome := unwrapKey_outcome (s := sawDuk true s) (duk := duk) got
    intro u
    refine ⟨fun good apart => ?_, fun cause causes => ?_⟩
    · rw [dukKeyValid_row duk carry unwrap there, outcome, if_neg (not_not_intro good), if_neg apart]
      exact finish_complete (s := s) (B := ((sawDuk true s).onLan fun l => { l with
        keys := setAt l.keys c.owner (some { key := (kwUnwrap duk blob).2, fp := getLE (sha256 blob) 0 8 }) }).onCry fun y => { y with unwrap := none })
        fenced rfl rfl rfl rfl
    · rw [dukKeyValid_row duk carry unwrap there, outcome]
      rcases causes with ⟨rfl, bad⟩ | ⟨rfl, good, equal⟩
      · rw [if_pos bad]
        exact finish_keyFault fenced true 1
      · rw [if_neg (not_not_intro good), if_pos equal]
        exact finish_keyFault fenced true 2
  · obtain ⟨stepping, fenced⟩ := carrying_iff.mp carry
    rw [dukTimeout_row stepping unwrap there]
    exact finish_keyFault fenced false 0
  · obtain ⟨t, u, d0, next, answered, items, ctx, aut, lan, pkr, eqs, mem, memU, ctxU, ctl⟩ := ownerRelease_releases h mine alone few
    obtain ⟨-, -, streams, owner, rec, rpl, ck, -⟩ := releaseOwner_fields (scrubLines u c.owner) c.owner
    obtain ⟨-, tags, words⟩ := scrubLines_scrubs u c.owner
    have own : t.ownPkr c.owner = (releaseOwner (scrubLines u c.owner) c.owner).ownPkr c.owner := congrArg (fun p : Pkr => getN p.owners c.owner) pkr
    refine ⟨t, d0, next, answered, fun x here => ?_, fun a here => ?_, fun p here => ?_, ?_, ?_, ?_, ?_, ?_, fun q here => ?_, ?_, fun off w here => ?_, ctl⟩
    · rw [ctx, streams, ctxU] at here
      exact items.streams x here
    · exact items.auts a (aut ▸ here)
    · exact items.stops p (aut ▸ here)
    · rw [lan]
    · exact (congrArg (fun x : Ctx => getN x.owners c.owner) ctx).trans owner
    · rw [own]; exact rec
    · rw [own]; exact rpl
    · rw [own]; exact ck
    · exact items.queues q (eqs ▸ here)
    · rw [mem, tags, memU]
    · rw [mem, words (by rw [memU]; exact off), memU, List.mem_filter]
      simp only [here, true_and, Bool.not_eq_true', List.any_eq_false, List.mem_filter, beq_iff_eq]
      exact ⟨fun none g listed mine' => none g ⟨listed, mine'⟩, fun none g ⟨listed, mine'⟩ => none g listed mine'⟩

end Sys2Proof.Machine
end

section
/-! LOAD_PROGRAM and LOAD_STOPSET with the image read (07 R288 to R290, 05 R192 to R194). -/

namespace Sys2Proof.Machine

/-- A load whose header has passed and whose image is read. -/
theorem loadOn_read {s : State} {k op : Nat} {c : Cmd} (h : s.Executing k op c) (one : c.n0 = 1) {img : List Byte}
    (got : readBytes s (.command c.ticket) c.addr24 c.len32 = .got img) (hdr : Nat) (fail : State → State) (header image : State → Cmd → List Byte → State) :
    loadOn s c hdr fail header image = image s c img := by
  obtain ⟨-, -, there, ticket, -, -⟩ := executing_facts h
  subst ticket
  unfold loadOn withBytes
  simp only [one, Nat.one_ne_zero, if_false, there, got]

theorem jobNames_none {s : State} {p : Job → Bool} (none : ∀ j ∈ s.job.js, p j = false) : jobNames s p = false :=
  List.any_eq_false.mpr fun j mem => by rw [none j mem]; exact Bool.false_ne_true

/-! ## LOAD_PROGRAM -/

section
variable {s : State} {k : Nat} {c : Cmd}

/-- An item that has a footprint, and is found first, is found without those that have none. -/
theorem find?_filter_kept {α : Type} {p q : α → Bool} {x : α} : ∀ {l : List α}, l.find? p = some x → q x = true → (l.filter q).find? p = some x
  | [], found, _ => by cases found
  | y :: l, found, keeps => by
    by_cases hp : p y = true
    · rw [List.find?_cons_of_pos hp] at found
      cases found
      rw [List.filter_cons_of_pos keeps, List.find?_cons_of_pos hp]
    · rw [List.find?_cons_of_neg hp] at found
      have rest := find?_filter_kept found keeps
      by_cases hq : q y = true
      · rw [List.filter_cons_of_pos hq, List.find?_cons_of_neg hp, rest]
      · rw [List.filter_cons_of_neg hq, rest]

theorem loadProgram_row (h : s.Executing k 0x14 c) : exec (.loadProgram k) s = finish s (runLoadProgram s c) :=
  congrArg (finish s) (runCmd_executing h _)

theorem runLoadProgram_unloads (h : s.Executing k 0x14 c) (zero : c.len32 = 0) : runLoadProgram s c = progUnload s c := by
  obtain ⟨-, -, -, -, -, phase⟩ := executing_facts h
  have late : (c.phase == .dispatched) = false := by rw [phase]; rfl
  unfold runLoadProgram
  simp only [late, zero, Bool.false_and, Bool.false_eq_true, if_false, if_true]

theorem runLoadProgram_read (h : s.Executing k 0x14 c) (some : 0 < c.len32) (one : c.n0 = 1) {img : List Byte}
    (got : readBytes s (.command c.ticket) c.addr24 c.len32 = .got img) : runLoadProgram s c = progImage s c img := by
  obtain ⟨-, -, -, -, -, phase⟩ := executing_facts h
  have late : (c.phase == .dispatched) = false := by rw [phase]; rfl
  have late' : (c.phase != .dispatched) = true := by rw [phase]; rfl
  unfold runLoadProgram
  simp only [late, late', Nat.ne_of_gt some, Bool.false_and, Bool.false_eq_true, if_false, if_true]
  exact loadOn_read h one got ..

/-- A load that fails keeps the program that was loaded. -/
theorem progFail_keeps (fenced : s.lan.fenced = false) (st : Status) :
    ∃ t, finish s (progFail s c st) = .next t ∧ Completed s t c st.code 0 0 0 ∧
      ∀ p, s.program? (c.b 16) = some p → p.foot ≠ 0 → p.st = .loaded → p.resv = 0 → t.program? (c.b 16) = some p := by
  obtain ⟨B, hB⟩ : ∃ B, B = (s.onAut fun a => { a with progs := a.progs.filter fun p => !(p.id == c.b 16 && p.foot == 0) }).onProgram (c.b 16) fun p =>
    { p with resv := 0, st := if p.st == .loading then .loaded else p.st } := ⟨_, rfl⟩
  have row : progFail s c st = complete B c st.code 0 0 0 := hB ▸ rfl
  have same : B.lan = s.lan ∧ B.pending = s.pending ∧ B.variant = s.variant ∧ B.rng = s.rng := by rw [hB]; exact ⟨rfl, rfl, rfl, rfl⟩
  obtain ⟨lan, pending, variant, rng⟩ := same
  obtain ⟨t, next, done, rest⟩ := finish_complete (s := s) (B := B) (c := c) (status := st.code) (step := 0) (d0 := 0) (d1 := 0) (by rw [lan]; exact fenced)
    pending variant (by rw [rng]) (by rw [rng])
  refine ⟨t, row ▸ next, done, fun p found foot loaded resv => ?_⟩
  have aut : t.aut = B.aut := by
    have e := congrArg State.aut rest
    exact e
  have kept : (s.aut.progs.filter fun p => !(p.id == c.b 16 && p.foot == 0)).find? (·.id == c.b 16) = some p :=
    find?_filter_kept found (by simp [foot])
  have now : B.program? (c.b 16) = some { p with resv := 0, st := if p.st == .loading then .loaded else p.st } := by
    rw [hB]
    exact (find?_modWhere (p := fun p : Program => p.id == c.b 16) (f := fun p => { p with resv := 0, st := if p.st == .loading then .loaded else p.st })
      (fun _ h => h) _).trans (congrArg (Option.map _) kept)
  have whole : ({ p with resv := 0, st := if p.st == .loading then .loaded else p.st } : Program) = p := by
    rw [loaded, ← resv, if_neg (by decide), ← loaded]
  unfold State.program? at now ⊢
  rw [aut, now, whole]

/-! ## LOAD_STOPSET -/

theorem loadStopset_row (h : s.Executing k 0x15 c) : exec (.loadStopset k) s = finish s (runLoadStop s c) :=
  congrArg (finish s) (runCmd_executing h _)

theorem runLoadStop_unloads (h : s.Executing k 0x15 c) (zero : c.len32 = 0) : runLoadStop s c = stopUnload s c := by
  obtain ⟨-, -, -, -, -, phase⟩ := executing_facts h
  have late : (c.phase == .dispatched) = false := by rw [phase]; rfl
  unfold runLoadStop
  simp only [late, zero, Bool.false_and, Bool.false_eq_true, if_false, if_true]

theorem runLoadStop_read (h : s.Executing k 0x15 c) (some : 0 < c.len32) (one : c.n0 = 1) {img : List Byte}
    (got : readBytes s (.command c.ticket) c.addr24 c.len32 = .got img) : runLoadStop s c = stopImageRead s c img := by
  obtain ⟨-, -, -, -, -, phase⟩ := executing_facts h
  have late : (c.phase == .dispatched) = false := by rw [phase]; rfl
  have late' : (c.phase != .dispatched) = true := by rw [phase]; rfl
  unfold runLoadStop
  simp only [late, late', Nat.ne_of_gt some, Bool.false_and, Bool.false_eq_true, if_false, if_true]
  exact loadOn_read h one got ..

/-- A load that fails keeps the stop set that was loaded. -/
theorem stopFail_keeps (fenced : s.lan.fenced = false) (st : Status) :
    ∃ t, finish s (stopFail s c st) = .next t ∧ Completed s t c st.code 0 0 0 ∧
      ∀ p, s.stop? c.owner (c.b 16) = some p → p.foot ≠ 0 → p.st = .loaded → p.resv = 0 → t.stop? c.owner (c.b 16) = some p := by
  obtain ⟨A, hA⟩ : ∃ A, A = if ((s.stop? c.owner (c.b 16)).map fun p => p.foot == 0).getD false then removeStop s c.owner (c.b 16) else s := ⟨_, rfl⟩
  have kept : A.lan = s.lan ∧ A.pending = s.pending ∧ A.variant = s.variant ∧ A.rng = s.rng := by
    rw [hA]
    split <;> exact ⟨rfl, rfl, rfl, rfl⟩
  have row : stopFail s c st = complete (A.onStop c.owner (c.b 16) fun p => { p with resv := 0, st := if p.st == .loading then .loaded else p.st })
      c st.code 0 0 0 := hA ▸ rfl
  obtain ⟨lan, pending, variant, rng⟩ := kept
  obtain ⟨t, next, done, rest⟩ := finish_complete (s := s)
    (B := A.onStop c.owner (c.b 16) fun p => { p with resv := 0, st := if p.st == .loading then .loaded else p.st }) (c := c) (status := st.code)
    (step := 0) (d0 := 0) (d1 := 0) (show A.lan.fenced = false by rw [lan]; exact fenced) pending variant
    (show A.rng.cmds.filter _ = _ by rw [rng]) (show ({ A.rng with cmds := s.rng.cmds } : Rng) = s.rng by rw [rng])
  refine ⟨t, row ▸ next, done, fun p found foot loaded resv => ?_⟩
  have whole : A = s := by
    rw [hA, found]
    exact if_neg (by simpa using foot)
  have aut : t.aut = (s.onStop c.owner (c.b 16) fun p => { p with resv := 0, st := if p.st == .loading then .loaded else p.st }).aut := by
    have e := congrArg State.aut rest
    rw [← whole]
    exact e
  have now : (s.onStop c.owner (c.b 16) fun p => { p with resv := 0, st := if p.st == .loading then .loaded else p.st }).stop? c.owner (c.b 16) =
      some { p with resv := 0, st := if p.st == .loading then .loaded else p.st } :=
    (find?_modWhere (p := fun p : StopSet => p.owner == c.owner && p.id == c.b 16) (f := fun p => { p with
      resv := 0, st := if p.st == .loading then .loaded else p.st }) (fun _ h => h) _).trans (congrArg (Option.map _) found)
  have same : ({ p with resv := 0, st := if p.st == .loading then .loaded else p.st } : StopSet) = p := by
    rw [loaded, ← resv, if_neg (by decide), ← loaded]
  unfold State.stop? at now ⊢
  rw [aut, now, same]

end

/-- Settles O11. That the image of a stop set to which a stream is bound takes no effect is the model's choice (log entry 82). -/
theorem programsAndStopSets : Obligations.ProgramsAndStopSets := by
  unfold Obligations.ProgramsAndStopSets
  intro s k c n
  refine ⟨fun h unnamed => ⟨fun img some one got => ⟨fun bad => ?_, fun good body => ?_⟩, fun zero => ?_⟩,
    fun h unnamed => ⟨fun img some one got => ⟨fun bad => ?_, fun good form bound => ?_, fun good form bound => ?_⟩, fun zero => ?_⟩⟩
  · obtain ⟨-, fenced, -⟩ := executing_facts h
    have row : progImage s c img = progFail s c .digestMismatch := if_pos bad
    rw [loadProgram_row h, runLoadProgram_read h some one got, row]
    exact progFail_keeps fenced .digestMismatch
  · obtain ⟨-, fenced, -⟩ := executing_facts h
    have none : jobNames s (·.prog == Option.some (c.b 16)) = false := jobNames_none fun j mem => beq_eq_false_iff_ne.mpr (unnamed j mem)
    have row : progImage s c img = complete (s.onProgram (c.b 16) fun _ => parseProg img (c.b 16) c.addr24) c Status.ok.code 0 (progFootprint img) := by
      unfold progImage
      simp only [good, body, none, ne_eq, not_true_eq_false, Bool.not_true, Bool.false_eq_true, if_false]
    rw [loadProgram_row h, runLoadProgram_read h some one got, row]
    exact finish_complete (s := s) (B := s.onProgram (c.b 16) fun _ => parseProg img (c.b 16) c.addr24) fenced rfl rfl rfl rfl
  · obtain ⟨-, fenced, -⟩ := executing_facts h
    have none : jobNames s (·.prog == Option.some (c.b 16)) = false := jobNames_none fun j mem => beq_eq_false_iff_ne.mpr (unnamed j mem)
    have row : progUnload s c = complete (s.onAut fun a => { a with progs := a.progs.filter (·.id != c.b 16) }) c Status.ok.code :=
      if_neg (by rw [none]; exact Bool.false_ne_true)
    rw [loadProgram_row h, runLoadProgram_unloads h zero, row]
    exact finish_complete (s := s) (B := s.onAut fun a => { a with progs := a.progs.filter (·.id != c.b 16) }) fenced rfl rfl rfl rfl
  · obtain ⟨-, fenced, -⟩ := executing_facts h
    have row : stopImageRead s c img = stopFail s c .digestMismatch := if_pos bad
    rw [loadStopset_row h, runLoadStop_read h some one got, row]
    exact stopFail_keeps fenced .digestMismatch
  · obtain ⟨-, fenced, -⟩ := executing_facts h
    obtain ⟨replace, x, mem, owner, stop⟩ := bound
    have held : stopBound s c.owner (c.b 16) = true := List.any_eq_true.mpr ⟨x, mem, by rw [owner, stop]; simp [n]⟩
    have row : stopImageRead s c img = stopFail s c .inUse := by
      unfold stopImageRead
      simp only [good, form, replace, held, ne_eq, not_true_eq_false, Bool.not_true, Bool.false_eq_true, if_false, Bool.and_self, if_true]
    rw [loadStopset_row h, runLoadStop_read h some one got, row]
    exact stopFail_keeps fenced .inUse
  · obtain ⟨-, fenced, -⟩ := executing_facts h
    have none : jobNames s (·.stop == Option.some (c.owner, c.b 16)) = false := jobNames_none fun j mem => beq_eq_false_iff_ne.mpr (unnamed j mem)
    have free : (c.bit 17 0 && stopBound s c.owner (c.b 16)) = false := by
      refine Bool.eq_false_iff.mpr fun held => bound ?_
      obtain ⟨replace, held⟩ := Bool.and_eq_true_iff.mp held
      obtain ⟨x, mem, binds⟩ := List.any_eq_true.mp held
      simp only [Bool.and_eq_true, beq_iff_eq] at binds
      exact ⟨replace, x, mem, binds.1, binds.2⟩
    have row : stopImageRead s c img = complete (s.onStop c.owner (c.b 16) fun _ => parseStop img c.owner (c.b 16) c.addr24) c Status.ok.code 0 (stopFootprint img) := by
      unfold stopImageRead
      simp only [good, form, free, none, ne_eq, not_true_eq_false, Bool.not_true, Bool.false_eq_true, if_false]
    rw [loadStopset_row h, runLoadStop_read h some one got, row]
    exact finish_complete (s := s) (B := s.onStop c.owner (c.b 16) fun _ => parseStop img c.owner (c.b 16) c.addr24) fenced rfl rfl rfl rfl
  · obtain ⟨-, fenced, -⟩ := executing_facts h
    have none : jobNames s (·.stop == Option.some (c.owner, c.b 16)) = false := jobNames_none fun j mem => beq_eq_false_iff_ne.mpr (unnamed j mem)
    have row : stopUnload s c = complete (removeStop s c.owner (c.b 16)) c Status.ok.code := if_neg (by rw [none]; exact Bool.false_ne_true)
    rw [loadStopset_row h, runLoadStop_unloads h zero, row]
    exact finish_complete (s := s) (B := removeStop s c.owner (c.b 16)) fenced rfl rfl rfl rfl

end Sys2Proof.Machine
end

section
/-! LOAD_AUTOMATON with its image read (06 R235 to R240). -/

namespace Sys2Proof.Machine

/-! The load takes the owner of the automaton from the dispatch, not from the command whose image is read: a state in which the automaton was
reserved for another owner keeps that owner. -/

/-- An automaton image of one accepting state that loops on "a", for a vocabulary of two tokens. -/
def loopImage : List Byte :=
  leBytes 512 (([(0, 0x5541594E), (4, 1), (6, 256), (8, 512), (16, 0x8be6100c915ca6faf6db5b9805a335a470239d37f7e02b2c0f268c123c2d382a), (50, 1),
    (52, 1), (60, 1), (68, 2), (112, 256), (116, 128), (120, 1), (128, 384), (132, 128), (136, 1), (260, 1), (262, 1), (264, 0xFFFFFFFF),
    (384, 0x461)].map fun f : Nat × Nat => f.2 * 256 ^ f.1).sum)

/-- A LOAD_AUTOMATON of owner 0 for automaton 0, whose header has passed. -/
def loopLoad : Cmd := { ticket := 1, ent := leBytes 64 (0x12 + 512 * 256 ^ 32), phase := .executing, n0 := 1 }

/-- The block with the command, its image, a vocabulary of two tokens in slot 0, and automaton 0 reserved for owner 1. -/
def loopState : State :=
  { State.reset with
    lan := { State.reset.lan with blk := .ready, act := .idle, iso := false }
    rng := { State.reset.rng with cmds := [loopLoad] }
    voc := { State.reset.voc with slots := modAt State.reset.voc.slots 0 fun _ => { st := .loaded, img := { v := 2 } } }
    aut := { State.reset.aut with auts := modAt State.reset.aut.auts 0 fun a => { a with owner := 1 } }
    fab := { lines := (List.range 4).map fun l => (.command 1, l, some (slice loopImage (128 * l) 128)) } }

theorem loopState_executing : loopState.Executing 1 0x12 loopLoad := by
  unfold State.Executing
  decide +kernel

theorem loopState_image : readBytes loopState (.command loopLoad.ticket) loopLoad.addr24 loopLoad.len32 = .got loopImage := by decide +kernel

theorem loopImage_good : computedDigest loopImage = imgDigest loopImage ∧ autBodyOk loopImage (loopState.slot (loopLoad.b 18 % 8)).img = true := by
  decide +kernel

theorem loopState_plain : loopLoad.b 16 % 64 < loopState.aut.auts.length ∧ (loopState.automaton (loopLoad.b 16 % 64)).spilled = false ∧
    loopLoad.bit 17 0 = false ∧ ∀ e ∈ loopState.cup.entries, e.fillFor = none := by decide +kernel

/-- The state that an outcome goes on with. -/
def outcomeState (o : Host.Outcome State Fault Refusal) : Option State :=
  match o with
  | .next t => some t
  | _ => none

/-- The load leaves the owner that automaton 0 had. -/
theorem loopState_owner : ((outcomeState (exec (.loadAutomaton 1) loopState)).map fun t => (getN t.aut.auts 0).owner) = some 1 := by decide +kernel

/-- Refutes O10: a good image does not set the automaton's OWNER, which the dispatch of the load sets; read in a state whose automaton 0 is another
owner's, it leaves that owner. -/
theorem not_slotsAndAutomata : ¬ Obligations.SlotsAndAutomata := by
  unfold Obligations.SlotsAndAutomata
  rintro ⟨-, automata⟩
  obtain ⟨load, -⟩ := automata loopState 1 loopLoad
  obtain ⟨inside, whole, plain, free⟩ := loopState_plain
  obtain ⟨digest, body⟩ := loopImage_good
  obtain ⟨t, next, -, -, aut⟩ := load loopImage loopState_executing rfl inside loopState_image digest body whole plain free
  have owner := loopState_owner
  rw [next] at owner
  have kept : (getN t.aut.auts 0).owner = 1 := Option.some.inj owner
  obtain ⟨v, auts, claim⟩ : ∃ v, t.aut.auts = modAt loopState.aut.auts (loopLoad.b 16 % 64) (fun _ => v) ∧ v.owner = loopLoad.owner :=
    ⟨_, congrArg Aut.auts aut, rfl⟩
  have zero : loopLoad.b 16 % 64 = 0 := by decide +kernel
  rw [zero] at auts inside
  have claimed : (getN t.aut.auts 0).owner = loopLoad.owner := by
    rw [auts, getN_modAt (fun _ => v) inside, claim]
  exact absurd (kept.symm.trans claimed) (by decide +kernel)

end Sys2Proof.Machine
end

section
/-! STEP_DEADLINE_EXPIRE (08 R317, 14 R506). -/

namespace Sys2Proof.Machine

/-- A selection unit that fails: counted, reported, without its sources. -/
def unitFailed (s : State) (u : SelUnit) (reason : Nat) : State :=
  (raiseBy (s.onFin fun f => { f with evFail := satAdd f.evFail 1 255, failLast := u.stream + 16384 * reason + 65536 * u.node })
    .finial 0x0101 u.stream u.step (reason + 256 * u.node)).onUnit u.stream u.step u.node fun u => { u with st := .failed, sources := [], list := [] }

/-- What a failed unit leaves besides itself. -/
structure UnitFailed (s t : State) (u : SelUnit) (reason : Nat) : Prop where
  ctx : t.ctx = s.ctx
  stp : t.stp = s.stp
  lan : t.lan = s.lan
  pending : t.pending = s.pending
  variant : t.variant = s.variant
  egress : t.fin.egress = s.fin.egress
  failLast : t.fin.failLast = u.stream + 16384 * reason + 65536 * u.node
  raised : Raised s t .finial 0x0101 u.stream u.step (reason + 256 * u.node)

theorem unitFailed_fails (s : State) (u : SelUnit) (reason : Nat) : UnitFailed s (unitFailed s u reason) u reason := by
  unfold unitFailed
  obtain ⟨a, ha⟩ : ∃ a, a = s.onFin fun f => { f with evFail := satAdd f.evFail 1 255, failLast := u.stream + 16384 * reason + 65536 * u.node } := ⟨_, rfl⟩
  have facts : a.ctx = s.ctx ∧ a.stp = s.stp ∧ a.lan = s.lan ∧ a.pending = s.pending ∧ a.variant = s.variant ∧ a.bel = s.bel ∧
      a.fin.egress = s.fin.egress ∧ a.fin.failLast = u.stream + 16384 * reason + 65536 * u.node := by
    rw [ha]
    exact ⟨rfl, rfl, rfl, rfl, rfl, rfl, rfl, rfl⟩
  rw [← ha]
  clear ha
  obtain ⟨ctx, stp, lan, pending, variant, bel, egress, last⟩ := facts
  have raised := raiseBy_raised a .finial 0x0101 u.stream u.step (reason + 256 * u.node)
  have keep := raiseBy_sansBel a .finial 0x0101 u.stream u.step (reason + 256 * u.node)
  generalize raiseBy a .finial 0x0101 u.stream u.step (reason + 256 * u.node) = b at raised keep
  have fin : b.fin = a.fin := by
    have e := congrArg State.fin keep
    exact e
  refine ⟨Eq.trans ?_ ctx, Eq.trans ?_ stp, Eq.trans ?_ lan, Eq.trans ?_ pending, Eq.trans ?_ variant, ?_, ?_, raised_between raised bel lan variant rfl⟩
  · have e := congrArg State.ctx keep
    exact e
  · have e := congrArg State.stp keep
    exact e
  · have e := congrArg State.lan keep
    exact e
  · have e := congrArg State.pending keep
    exact e
  · have e := congrArg State.variant keep
    exact e
  · exact (congrArg Machine.Fin.egress fin).trans egress
  · exact (congrArg Machine.Fin.failLast fin).trans last

/-- The plain step of a stream, whose unit fails, fails with it. -/
theorem failUnit_fails {s : State} {x : Stream} {u : SelUnit} (reason : Nat) (found : s.stream? u.stream = some x) (root : u.node = 0x7F)
    (next : x.next = u.step) (held : x.held = []) (tree : s.tree? x.id = none) (svc : x.svc = .build ∨ x.svc = .open) :
    failUnit s u reason = boundary (failStep (unitFailed s u reason) x) x.id := by
  have failed := unitFailed_fails s u reason
  have row : failUnit s u reason = match (unitFailed s u reason).stream? u.stream with
      | none => unitFailed s u reason
      | some x =>
        let s := if u.st == .open then freePages (unitFailed s u reason) x u.node else unitFailed s u reason
        if u.node ≠ 0x7F ∨ x.next ≠ u.step ∨ !x.held.isEmpty then s
        else match s.tree? x.id with
          | some t => if t.pos = 0x7F ∧ t.confirmed = 0 then boundary (failStep (endRound s { t with rootFailed := true }) x) x.id else s
          | none => if x.svc == .build || x.svc == .open then boundary (failStep s x) x.id else s := rfl
  rw [row]
  generalize unitFailed s u reason = a at failed ⊢
  have there : a.stream? u.stream = some x := (stream?_of_ctx failed.ctx u.stream).trans found
  have none : a.tree? x.id = none := by
    unfold State.tree? at tree ⊢
    rw [failed.stp]
    exact tree
  have pages : (if u.st == .open then freePages a x u.node else a) = a := by
    unfold freePages
    rw [none]
    exact ite_self _
  have open_ : (x.svc == .build || x.svc == .open) = true := by
    rcases svc with e | e <;> rw [e] <;> rfl
  rw [there]
  dsimp only
  rw [pages, none, if_neg (by simp [root, next, held])]
  exact if_pos open_

/-- What a failed step leaves: its stream in STEP_FAILED, the FAIL record at the egress port. -/
theorem failStep_leaves {s : State} {x : Stream} (found : s.stream? x.id = some x) (fenced : s.lan.fenced = false) :
    (∃ y, (failStep s x).stream? x.id = some y ∧ y.st = .stepFailed ∧ y.svc = .none ∧ y.next = x.next ∧ y.recorded = x.recorded ∧ y.endDue = x.endDue ∧
      y.zeroing = x.zeroing) ∧
      (failStep s x).fin.egress = s.fin.egress ++ [{ stream := x.id, step := x.next, token := 0xFFFFFFFF, flags := 2 }] ∧
      (failStep s x).fin.failLast = s.fin.failLast ∧ (∀ v ∈ (failStep s x).fin.units, v.stream ≠ x.id) ∧
      (failStep s x).bel = s.bel ∧ (failStep s x).lan = s.lan ∧ (failStep s x).pending = s.pending ∧ (failStep s x).variant = s.variant := by
  unfold failStep
  extract_lets a
  obtain ⟨d, hd⟩ : ∃ d, d = dropSpill (dropAllUnits s x.id) x.id := ⟨_, rfl⟩
  have there : d.stream? x.id = some { x with spill := [] } := by
    rw [hd]
    exact stream_onStream (s := dropAllUnits s x.id) (fun y => { y with spill := [] }) (fun _ => rfl) found
  have rest : d.fin.egress = s.fin.egress ∧ d.fin.failLast = s.fin.failLast ∧ (∀ v ∈ d.fin.units, v.stream ≠ x.id) ∧ d.bel = s.bel ∧ d.lan = s.lan ∧
      d.pending = s.pending ∧ d.variant = s.variant := by
    rw [hd]
    refine ⟨rfl, rfl, fun v mem => ?_, rfl, rfl, rfl, rfl⟩
    simpa using (List.mem_filter.mp mem).2
  obtain ⟨egress, last, units, bel, lan, pending, variant⟩ := rest
  have emitted : a = d.onFin fun f => { f with egress := f.egress ++ [{ stream := x.id, step := x.next, token := 0xFFFFFFFF, flags := 2 }] } := by
    have on : d.lan.fenced = false := by rw [lan]; exact fenced
    rw [hd] at on ⊢
    exact emitToken_open on ..
  clear_value a
  subst emitted
  clear hd
  have last' := stream_onStream (s := d.onFin fun f => { f with egress := f.egress ++ [{ stream := x.id, step := x.next, token := 0xFFFFFFFF, flags := 2 }] })
    (fun y => { y with st := .stepFailed, svc := .none, held := [], pagesResv := 0, waitPages := false, waitCup := false, forcedEos := false })
    (fun _ => rfl) there
  exact ⟨⟨_, last', rfl, rfl, rfl, rfl, rfl, rfl⟩, congrArg (· ++ [_]) egress, last, units, bel, lan, pending, variant⟩

/-- Settles O29. -/
theorem deadlineFailsTheStep : Obligations.DeadlineFailsTheStep := by
  unfold Obligations.DeadlineFailsTheStep
  intro s n x u carry found unit opened late part tree svc held alone due zero _
  obtain ⟨stepping, fenced⟩ := carrying_iff.mp carry
  obtain rfl := stream_id found
  obtain ⟨stream, step, node⟩ := unit_names unit
  have quiet : peerTimeout s x u = s := by
    unfold peerTimeout
    rw [opened, part]
    rfl
  have row : exec (.stepDeadlineExpire x.id x.next 0x7F) s = finish s (failUnit s u 3) := by
    refine congrArg (finish s) ?_
    rw [found, unit]
    dsimp only
    rw [quiet, stepping, late, opened]
    rfl
  rw [row, failUnit_fails 3 (by rw [stream]; exact found) node step.symm held tree (.inr svc)]
  obtain ⟨ctx, -, lan, pending, variant, egress, failLast, raised⟩ := unitFailed_fails s u 3
  rw [stream, step, node] at raised
  rw [stream, node] at failLast
  obtain ⟨⟨y, there, st, rests, next, recorded, endDue, zeroing⟩, egressF, lastF, units, belF, lanF, pendingF, variantF⟩ :=
    failStep_leaves (s := unitFailed s u 3) ((stream?_of_ctx ctx x.id).trans found) ((congrArg Lan.fenced lan).trans fenced)
  obtain ⟨house, -, z, final, same⟩ := boundary_still there (recorded.trans alone) (endDue.trans due) (zeroing.trans zero)
    (by unfold Stream.Still; rw [st]; exact ⟨nofun, nofun⟩)
  generalize unitFailed s u 3 = a at *
  generalize failStep a x = b at *
  generalize boundary b x.id = e at *
  have finE : e.fin = b.fin := house.fin
  have belE : e.bel = b.bel := by
    have k := congrArg State.bel house
    exact k
  have lanE : e.lan = b.lan := by
    have k := congrArg State.lan house
    exact k
  have pendingE : e.pending = b.pending := by
    have k := congrArg State.pending house
    exact k
  have variantE : e.variant = b.variant := by
    have k := congrArg State.variant house
    exact k
  obtain ⟨t, done, same'⟩ := finish_to (s := s) (E := e) (by rw [lanE, lanF, lan]; exact fenced) (pendingE.trans (pendingF.trans pending))
    (variantE.trans (variantF.trans variant))
  obtain ⟨-, -, -, -, -, -, -, -, ctxT, -, finT, -, -, -, -, -, -, -, belT, -⟩ := sansFab_ext same'
  have fin : t.fin = b.fin := finT.trans finE
  refine ⟨t, z, done, (stream?_of_ctx ctxT x.id).trans final, ?_, ?_, ?_, ?_, ?_, ?_, ?_⟩
  · have k := congrArg Stream.st same
    exact k.trans st
  · have k := congrArg Stream.svc same
    exact k.trans rests
  · have k := congrArg Stream.next same
    exact k.trans next
  · refine List.find?_eq_none.mpr fun v mem => ?_
    have other := units v (fin ▸ mem)
    simp [other]
  · rw [fin, egressF, egress]
  · rw [fin, lastF, failLast]
  · exact raised_between raised rfl rfl rfl (belT.trans (belE.trans belF))

end Sys2Proof.Machine
end

section
/-! Owner-wide epochs (10 R386 to R391). -/

namespace Sys2Proof.Machine

/-! ## Streams written one by one -/

/-- Writing the streams of a list without repetition one by one is writing each whose id stands in the list. -/
theorem foldl_onStream (f : Stream → Stream) (keeps : ∀ y, (f y).id = y.id) (ns : List Nat) (once : ns.Nodup) (s : State) :
    ns.foldl (fun s n => s.onStream n f) s =
      s.onCtx fun c => { c with streams := c.streams.map fun x => if x.id ∈ ns then f x else x } := by
  induction ns generalizing s with
  | nil => simp [State.onCtx]
  | cons n ns ih =>
    obtain ⟨first, rest⟩ := List.nodup_cons.mp once
    rw [List.foldl_cons, ih rest]
    simp only [State.onStream, State.onCtx, modWhere, List.map_map]
    congr 3
    funext x
    simp only [Function.comp, List.mem_cons, beq_iff_eq]
    by_cases a : x.id = n
    · subst a
      simp [keeps, first]
    · simp [a]

/-- Streams with different ids are in a list of ids of chosen ones exactly when they are chosen. -/
theorem mem_chosen_ids {xs : List Stream} (nodup : (xs.map (·.id)).Nodup) (p : Stream → Bool) {x : Stream} (mem : x ∈ xs) :
    x.id ∈ (xs.filter p).map (·.id) ↔ p x = true := by
  refine ⟨fun h => ?_, fun h => List.mem_map.mpr ⟨x, List.mem_filter.mpr ⟨mem, h⟩, rfl⟩⟩
  obtain ⟨y, chosen, id⟩ := List.mem_map.mp h
  obtain ⟨inside, holds⟩ := List.mem_filter.mp chosen
  rwa [← eq_of_nodup_map nodup inside mem id]

theorem chosen_ids_nodup {xs : List Stream} (nodup : (xs.map (·.id)).Nodup) (p : Stream → Bool) : ((xs.filter p).map (·.id)).Nodup :=
  nodup.sublist (List.filter_sublist.map _)

/-- Writing the chosen streams of a state one by one. -/
theorem foldl_onStream_chosen {s : State} (nodup : (s.ctx.streams.map (·.id)).Nodup) (p : Stream → Bool) (f : Stream → Stream)
    (keeps : ∀ y, (f y).id = y.id) :
    ((s.ctx.streams.filter p).map (·.id)).foldl (fun s n => s.onStream n f) s =
      s.onCtx fun c => { c with streams := modWhere c.streams p f } := by
  rw [foldl_onStream f keeps _ (chosen_ids_nodup nodup p)]
  simp only [State.onCtx, modWhere]
  congr 2
  refine List.map_congr_left fun x mem => ?_
  simp only [mem_chosen_ids nodup p mem]

/-- A stream with a step in flight has no boundary to serve, whatever is written to it. -/
theorem stream_onStream_flight {s : State} {f : Stream → Stream} (keeps : ∀ y, (f y).id = y.id) (flight : ∀ y, (f y).atBoundary = y.atBoundary)
    {n m : Nat} (away : ∀ x, s.stream? m = some x → x.atBoundary = false) : ∀ x, (s.onStream n f).stream? m = some x → x.atBoundary = false := by
  intro x found
  by_cases e : m = n
  · subst e
    rw [find_onStream s f keeps m] at found
    obtain ⟨y, old, rfl⟩ := Option.map_eq_some_iff.mp found
    exact (flight y).trans (away y old)
  · rw [stream_onStream_away f keeps e] at found
    exact away x found

/-- Streams with a step in flight that are written, each with its boundary, are written. -/
theorem boundaries_away {f : Stream → Stream} (keeps : ∀ y, (f y).id = y.id) (flight : ∀ y, (f y).atBoundary = y.atBoundary) (ns : List Nat) {s : State}
    (away : ∀ n ∈ ns, ∀ x, s.stream? n = some x → x.atBoundary = false) :
    ns.foldl (fun s n => boundary (s.onStream n f) n) s = ns.foldl (fun s n => s.onStream n f) s := by
  induction ns generalizing s with
  | nil => rfl
  | cons n ns ih =>
    have still : ∀ m ∈ n :: ns, ∀ x, (s.onStream n f).stream? m = some x → x.atBoundary = false :=
      fun m mem => stream_onStream_flight keeps flight (away m mem)
    rw [List.foldl_cons, List.foldl_cons, boundary_away (still n List.mem_cons_self)]
    exact ih fun m mem => still m (List.mem_cons_of_mem n mem)

/-! ## A command recorded against several streams -/

theorem cmd?_noted {s : State} {c : Cmd} {n k : Nat} (h : c.ticket = k) : (noted s c n).cmd? k = (s.cmd? k).map Cmd.noted := by
  subst h
  exact find?_modWhere (p := fun d : Cmd => d.ticket == c.ticket) (f := Cmd.noted) (fun _ e => e) s.rng.cmds

theorem noted_lists {s : State} {c : Cmd} (recorded : ∀ d ∈ s.rng.cmds, d.ticket = c.ticket → d.phase = .recorded) (n : Nat) :
    noted s c n = s.onStream n (Stream.lists c.ticket) := by
  have same : modWhere s.rng.cmds (·.ticket == c.ticket) (fun d => { d with phase := .recorded }) = s.rng.cmds := by
    unfold modWhere
    refine (List.map_congr_left fun d mem => ?_).trans (List.map_id _)
    by_cases e : d.ticket = c.ticket
    · rw [if_pos (beq_iff_eq.mpr e), ← recorded d mem e, id]
    · rw [if_neg (fun h => e (beq_iff_eq.mp h)), id]
  unfold noted State.onCmd State.onRng
  dsimp only
  rw [same]

/-- A recorded command that is recorded against streams with a step in flight waits at each. -/
theorem recordFor_foldl {k : Nat} (ns : List Nat) {s : State} (away : ∀ n ∈ ns, ∀ x, s.stream? n = some x → x.atBoundary = false)
    (there : (s.cmd? k).isSome = true) (recorded : ∀ d ∈ s.rng.cmds, d.ticket = k → d.phase = .recorded) :
    ns.foldl (fun s n => match s.cmd? k with
      | some d => recordFor s d n
      | none => s) s = ns.foldl (fun s n => s.onStream n (Stream.lists k)) s := by
  induction ns generalizing s with
  | nil => rfl
  | cons n ns ih =>
    obtain ⟨d, found⟩ := Option.isSome_iff_exists.mp there
    have ticket : d.ticket = k := by simpa using List.find?_some found
    subst ticket
    rw [List.foldl_cons, List.foldl_cons, found]
    dsimp only
    rw [recordFor_away (away n List.mem_cons_self), noted_lists recorded]
    refine ih (s := s.onStream n (Stream.lists d.ticket)) (fun m mem => ?_) there recorded
    exact stream_onStream_flight (f := Stream.lists d.ticket) (fun _ => rfl) (fun _ => rfl) (away m (List.mem_cons_of_mem n mem))

/-! ## EPOCH_SET with OWNER_WIDE -/

/-- A stream that takes an epoch at its next boundary, where a command waits for it. -/
def Stream.awaits (k e : Nat) (y : Stream) : Stream := { y with pendEpoch := some e, recorded := y.recorded ++ [k] }

/-- The streams of an owner, by their ids. -/
def State.idsOf (s : State) (o : Nat) : List Nat := (s.ctx.streams.filter (·.owner == o)).map (·.id)

section
variable {s : State} {k : Nat} {c : Cmd}

/-- An owner without streams: the epoch is set. -/
theorem epochWide_none (h : s.Accepted k 0x28 c) (wide : c.ownerWide = true) (valid : epochRevoked s c.owner (c.le 20 4) = false)
    (alone : ∀ x ∈ s.ctx.streams, x.owner ≠ c.owner) :
    ∃ t, exec (.epochSet k) s = .next t ∧ Completed s t c 0 0 0 0 ∧ { t with rng := s.rng }.sansFab = { s with ctx := { s.ctx with
      owners := modAt s.ctx.owners c.owner fun w => { w with epoch := c.le 20 4 } } }.sansFab := by
  obtain ⟨-, fenced, -, -, opcode, -⟩ := accepted_facts h
  have ids : wideTargets s c = [] := by
    have none : (s.ctx.streams.filter fun x => x.owner == c.owner && (c.opcode == 0x28 || streamTakes x c.opcode)) = [] :=
      List.filter_eq_nil_iff.mpr fun x mem => by simp [alone x mem]
    unfold wideTargets
    rw [none, List.map_nil]
  have row : exec (.epochSet k) s = finish s (complete (s.onOwner c.owner fun w => { w with epoch := c.le 20 4 }) c Status.ok.code) := by
    refine congrArg (finish s) ((runCmd_accepted h _).trans ?_)
    simp only [runEpochSet, wide, valid, ids, if_true, Bool.false_eq_true, if_false, List.foldl_nil, recordWide, List.isEmpty_nil]
  rw [row]
  exact finish_complete fenced rfl rfl rfl rfl

/-- A command that waits for streams, whose number it tells. -/
def Cmd.waitsFor (ids : List Nat) (d : Cmd) : Cmd := { d with phase := .recorded, waits := ids, n0 := ids.length }

/-- An owner whose streams all have a step in flight: the command waits for them. -/
theorem epochWide_waits (h : s.Accepted k 0x28 c) (wide : c.ownerWide = true) (valid : epochRevoked s c.owner (c.le 20 4) = false)
    (nodup : (s.ctx.streams.map (·.id)).Nodup)
    (away : ∀ x ∈ s.ctx.streams, x.owner = c.owner → x.atBoundary = false ∧ k ∉ x.recorded)
    (some : s.idsOf c.owner ≠ []) :
    ∃ t, exec (.epochSet k) s = .next t ∧ t.sansFab = { s with
      rng := { s.rng with cmds := modWhere s.rng.cmds (·.ticket == k) (Cmd.waitsFor (s.idsOf c.owner)) }
      ctx := { s.ctx with
        owners := modAt s.ctx.owners c.owner fun w => { w with epoch := c.le 20 4 }
        streams := modWhere s.ctx.streams (·.owner == c.owner) (Stream.awaits k (c.le 20 4)) } }.sansFab := by
  obtain ⟨-, fenced, found, ticket, opcode, -⟩ := accepted_facts h
  have targets : wideTargets s c = s.idsOf c.owner := by
    simp only [wideTargets, State.idsOf, opcode, beq_self_eq_true, Bool.true_or, Bool.and_true]
  obtain ⟨A, hA⟩ : ∃ A, A = (s.onOwner c.owner fun w => { w with epoch := c.le 20 4 }).onCtx fun x => { x with
      streams := modWhere x.streams (·.owner == c.owner) (Stream.pends (c.le 20 4)) } := ⟨_, rfl⟩
  obtain ⟨B, hB⟩ : ∃ B, B = A.onCmd k (Cmd.waitsFor (s.idsOf c.owner)) := ⟨_, rfl⟩
  obtain ⟨ids, hids⟩ : ∃ ids, ids = s.idsOf c.owner := ⟨_, rfl⟩
  have pend : (s.idsOf c.owner).foldl _ _ = _ := foldl_onStream_chosen (s := s.onOwner c.owner fun w => { w with epoch := c.le 20 4 }) nodup (fun x : Stream => x.owner == c.owner)
    (Stream.pends (c.le 20 4)) fun _ => rfl
  have mine : ∀ x ∈ s.ctx.streams, x.id ∈ ids ↔ (x.owner == c.owner) = true := fun x mem => hids ▸ mem_chosen_ids nodup _ mem
  have once : ids.Nodup := hids ▸ chosen_ids_nodup nodup _
  have foundB : (B.cmd? k).isSome = true := by
    have there : B.cmd? k = (s.cmd? k).map (Cmd.waitsFor ids) := by
      rw [hB, hA, hids]
      exact find?_modWhere (p := fun d : Cmd => d.ticket == k) (f := Cmd.waitsFor (s.idsOf c.owner)) (fun _ e => e) s.rng.cmds
    rw [there, found]
    rfl
  have phaseB : ∀ d ∈ B.rng.cmds, d.ticket = k → d.phase = .recorded := by
    intro d mem isK
    rw [hB, hA] at mem
    obtain ⟨old, -, rfl⟩ := List.mem_map.mp mem
    by_cases e : (old.ticket == k) = true
    · rw [if_pos e]
      rfl
    · rw [if_neg e] at isK
      exact absurd (beq_iff_eq.mpr isK) e
  have awayB : ∀ n ∈ ids, ∀ x, B.stream? n = Option.some x → x.atBoundary = false := by
    intro n mem x there
    rw [hB, hA] at there
    obtain ⟨old, inside, rfl⟩ := List.mem_map.mp (List.mem_of_find?_eq_some there)
    have id := stream_id there
    by_cases e : (old.owner == c.owner) = true
    · simp only [e, if_true]
      exact (away old inside (beq_iff_eq.mp e)).1
    · simp only [e, Bool.false_eq_true, if_false] at id
      exact absurd ((mine old inside).mp (id ▸ mem)) e
  have list := (recordFor_foldl ids awayB foundB phaseB).trans (foldl_onStream (Stream.lists k) (fun _ => rfl) ids once B)
  rw [← hids] at some ⊢
  have row : exec (.epochSet k) s = finish s (B.onCtx fun x => { x with
      streams := x.streams.map fun y => if y.id ∈ ids then y.lists k else y }) := by
    refine congrArg (finish s) ((runCmd_accepted h _).trans ?_)
    have nonempty : ids.isEmpty = false := by simpa using some
    rw [← hids] at targets
    simp only [runEpochSet, wide, valid, targets, if_true, Bool.false_eq_true, if_false, recordWide, nonempty]
    subst ticket
    rw [← list, hids, hB, hA, ← pend]
    rfl
  rw [row]
  obtain ⟨t, next, same⟩ := finish_to (s := s) (E := B.onCtx fun x => { x with streams := x.streams.map fun y => if y.id ∈ ids then y.lists k else y })
    (by rw [hB, hA]; exact fenced) (by rw [hB, hA]; rfl) (by rw [hB, hA]; rfl)
  have both : (modWhere s.ctx.streams (·.owner == c.owner) (Stream.pends (c.le 20 4))).map
      (fun y => if y.id ∈ ids then y.lists k else y) = modWhere s.ctx.streams (·.owner == c.owner) (Stream.awaits k (c.le 20 4)) := by
    rw [modWhere, List.map_map, modWhere]
    refine List.map_congr_left fun x mem => ?_
    have chosen := mine x mem
    by_cases e : (x.owner == c.owner) = true
    · have fresh := (away x mem (beq_iff_eq.mp e)).2
      simp [Function.comp, e, chosen.mpr e, Stream.lists, Stream.pends, Stream.awaits, fresh]
    · simp [Function.comp, e, mt chosen.mp e]
  refine ⟨t, next, same.trans ?_⟩
  rw [← both, hB, hA, hids]
  rfl

end

/-! ## EPOCH_REVOKE -/

/-- What marking the records of an epoch can change. -/
def MarksOnly (a b : State) : Prop := { b with rng := a.rng, pkr := a.pkr, cry := a.cry, fab := a.fab } = a

theorem MarksOnly.trans {a b c : State} (h : MarksOnly a b) (k : MarksOnly b c) : MarksOnly a c := by
  unfold MarksOnly at *
  rw [← congrArg (fun t : State => ({ t with rng := a.rng, pkr := a.pkr, cry := a.cry, fab := a.fab } : State)) k] at h
  exact h

theorem RingsOnly.marks {a b : State} (h : RingsOnly a b) : MarksOnly a b := by
  have e := congrArg (fun t : State => ({ t with rng := a.rng } : State)) h
  exact e

theorem MarksOnly.foldl {α : Type} {g : State → α → State} (k : ∀ s x, MarksOnly s (g s x)) (l : List α) (s : State) : MarksOnly s (l.foldl g s) := by
  induction l generalizing s with
  | nil => rfl
  | cons x r ih => exact (k s x).trans (ih (g s x))

theorem MarksOnly.of_sansFab {a b : State} (h : b.sansFab = a.sansFab) : MarksOnly a b := by
  have e := congrArg (fun t : State => ({ t with rng := a.rng, pkr := a.pkr, cry := a.cry, fab := a.fab } : State)) h
  exact e

theorem markStaged_marks (s : State) (t o e : Nat) : MarksOnly s (markStaged s t o e) := by
  unfold markStaged
  extract_lets p hit mine u v
  have first : MarksOnly s v := rfl
  exact first.trans (.foldl (fun s l => (writeRingLine_rings s o false l 0).marks) _ _)

theorem markLine_marks (s : State) (t o e l : Nat) (key line : List Byte) : MarksOnly s (markLine s t o e l key line) := by
  unfold markLine
  extract_lets p addr es hit n u
  split <;> rfl

theorem revokeEnd_marks (s : State) (t : Nat) : MarksOnly s (revokeEnd s t) := by
  unfold revokeEnd
  split
  · rfl
  · split <;> rfl

theorem markRing_marks (s : State) (c : Cmd) : MarksOnly s (markRing s c) := by
  unfold markRing
  extract_lets o r who lines marked bad u
  split
  · exact .foldl (fun s l => .of_sansFab (fetchBytes_sansFab ..)) _ _
  · have read : MarksOnly s marked := by
      dsimp only [marked]
      split
      · rfl
      · refine .foldl (fun s l => ?_) _ _
        split
        · exact markLine_marks ..
        · rfl
    have told : MarksOnly marked u := rfl
    exact (read.trans told).trans (revokeEnd_marks ..)

section
variable {a b : State} (h : MarksOnly a b)
include h

theorem MarksOnly.lan : b.lan = a.lan := by
  have e := congrArg State.lan h
  exact e

theorem MarksOnly.pending : b.pending = a.pending := by
  have e := congrArg State.pending h
  exact e

theorem MarksOnly.variant : b.variant = a.variant := by
  have e := congrArg State.variant h
  exact e

theorem MarksOnly.ctx : b.ctx = a.ctx := by
  have e := congrArg State.ctx h
  exact e

theorem MarksOnly.stores : b.mem = a.mem ∧ b.voc = a.voc ∧ b.aut = a.aut ∧ b.eqs = a.eqs := by
  have mem := congrArg State.mem h
  have voc := congrArg State.voc h
  have aut := congrArg State.aut h
  have eqs := congrArg State.eqs h
  exact ⟨mem, voc, aut, eqs⟩

end

/-- A stream that a revoked epoch concerns: it is at the epoch or will take it. -/
def Stream.hitBy (o e : Nat) (x : Stream) : Bool := x.owner == o && (x.epoch == e || x.pendEpoch == some e)

/-- The owner's epochs after an EPOCH_REVOKE. -/
def OwnerEpoch.without (e fallback : Nat) (w : OwnerEpoch) : OwnerEpoch :=
  { epoch := if w.epoch = e then fallback else w.epoch, revoked := ((e, fallback) :: w.revoked).take 16 }

/-- What an EPOCH_REVOKE notes of itself as it begins. -/
def Cmd.revokes (ids : List Nat) (upTo : Nat) (d : Cmd) : Cmd := { d with phase := .executing, waits := ids, n1 := ids.length, upTo := upTo }

/-- The state in which an EPOCH_REVOKE marks what staging holds. -/
def revoking (s : State) (c : Cmd) : State :=
  (s.onOwner c.owner (OwnerEpoch.without (c.le 20 4) (c.le 24 4))).onCmd c.ticket
    (Cmd.revokes ((s.ctx.streams.filter (Stream.hitBy c.owner (c.le 20 4))).map (·.id)) (stagedLine (s.ownPkr c.owner).recRing))

section
variable {s : State} {c : Cmd}

/-- EPOCH_REVOKE with a step in flight in every stream that it concerns: the streams wait, and the ring is marked. -/
theorem revokeBegin_away (nodup : (s.ctx.streams.map (·.id)).Nodup)
    (away : ∀ x ∈ s.ctx.streams, x.hitBy c.owner (c.le 20 4) = true → x.atBoundary = false) :
    ∃ A, A = (markStaged (revoking s c) c.ticket c.owner (c.le 20 4)).onCtx (fun x => { x with
        streams := modWhere x.streams (Stream.hitBy c.owner (c.le 20 4)) (Stream.awaits c.ticket (c.le 24 4)) }) ∧
      revokeBegin s c = match A.cmd? c.ticket with
        | some d => markRing A d
        | none => A := by
  refine ⟨_, rfl, ?_⟩
  obtain ⟨B, hB⟩ : ∃ B, B = markStaged (revoking s c) c.ticket c.owner (c.le 20 4) := ⟨_, rfl⟩
  have ctx : B.ctx.streams = s.ctx.streams := by
    rw [hB, (markStaged_marks ..).ctx]
    rfl
  obtain ⟨ids, hids⟩ : ∃ ids, ids = (s.ctx.streams.filter (Stream.hitBy c.owner (c.le 20 4))).map (·.id) := ⟨_, rfl⟩
  have apart := boundaries_away (s := B) (f := Stream.awaits c.ticket (c.le 24 4)) (fun _ => rfl) (fun _ => rfl) ids fun n mem x found => by
    obtain ⟨y, chosen, id⟩ := List.mem_map.mp (hids ▸ mem)
    obtain ⟨inside, hit⟩ := List.mem_filter.mp chosen
    have mem' : x ∈ s.ctx.streams := ctx ▸ List.mem_of_find?_eq_some found
    have same : x = y := eq_of_nodup_map nodup mem' inside ((stream_id found).trans id.symm)
    exact same ▸ away y inside hit
  have chosen := foldl_onStream_chosen (s := B) (ctx ▸ nodup) (Stream.hitBy c.owner (c.le 20 4)) (Stream.awaits c.ticket (c.le 24 4)) fun _ => rfl
  rw [ctx, ← hids] at chosen
  have both := apart.trans chosen
  rw [← hB, ← both, hids, hB]
  rfl

/-- A change of one item that keeps a view keeps the view of every item. -/
theorem view_modAt {α β : Type} [Inhabited α] (g : α → β) {f : α → α} (keeps : ∀ x, g (f x) = g x) (l : List α) (n m : Nat) :
    g (getN (modAt l n f) m) = g (getN l m) := by
  by_cases e : m = n
  · subst e
    by_cases inside : m < l.length
    · rw [getN_modAt f inside, keeps]
    · have out : modAt l m f = l := List.modify_eq_self (by omega)
      rw [out]
  · rw [getN_modAt_ne l f e]

/-- A command that marks no staged record, and waits for the lines below `line`. -/
def Cmd.marksNone (line : Nat) (d : Cmd) : Cmd := { d with n0 := d.n0 + 0, stagedTo := line }

/-- Without staged records there is nothing to mark but in the ring. -/
theorem markStaged_none {s : State} {t o e : Nat} (none : (s.ownPkr o).recRing.staged = []) :
    (markStaged s t o e).rng = (s.onCmd t (Cmd.marksNone (((s.ownPkr o).recRing.next + 3) / 4))).rng ∧
      (markStaged s t o e).fab = s.fab ∧ ((markStaged s t o e).ownPkr o).head = (s.ownPkr o).head := by
  unfold markStaged
  extract_lets p hit mine u v
  have mine_nil : mine = [] := by
    dsimp only [mine, p]
    rw [none, List.filter_nil]
  clear_value mine
  subst mine_nil
  refine ⟨rfl, rfl, ?_⟩
  exact view_modAt OwnerPkr.head (f := fun q => { q with recRing := { q.recRing with
    staged := modWhere q.recRing.staged hit fun g => { g with bytes := marked g.bytes } } }) (fun _ => rfl) s.pkr.owners o o

/-- The end of an EPOCH_REVOKE whose ring has no line to mark. -/
theorem markRing_none {s : State} {d : Cmd} (found : s.cmd? d.ticket = some d) (opcode : d.opcode = 0x29) (waits : d.waits = []) (failed : d.failed = false)
    (lines : d.upTo ≤ (s.ownPkr d.owner).head / 4) (quiet : ∀ r ∈ s.fab.stores ++ s.fab.waiting,
      (∀ p n, r.who ≠ .markLine d.ticket p n) ∧ ∀ stop tries, r.who ≠ .ringLine d.owner false stop tries) :
    markRing s d = complete (s.onCmd d.ticket fun c => { c with phase := .recorded, failed := c.failed || false }) d 0 0 d.n0 d.n1 := by
  have none : markLines s d = [] := by
    rw [markLines, Nat.sub_eq_zero_of_le lines]
    rfl
  have there : (s.onCmd d.ticket fun c => { c with phase := .recorded, failed := c.failed || false }).cmd? d.ticket =
      some { d with phase := .recorded, failed := d.failed || false } := cmd_onCmd _ (fun _ => rfl) found
  have out : marksOut (s.onCmd d.ticket fun c => { c with phase := .recorded, failed := c.failed || false })
      { d with phase := .recorded, failed := d.failed || false } = false := by
    unfold marksOut
    refine List.any_eq_false.mpr fun r mem => ?_
    obtain ⟨mark, line⟩ := quiet r mem
    cases hw : r.who <;> simp
    case markLine u p n => rintro rfl; exact mark p n hw
    case ringLine o replay stop tries =>
      intro same plain
      subst same plain
      exact absurd hw (line stop tries)
  unfold markRing
  rw [none]
  refine (if_neg Bool.false_ne_true).trans ?_
  have ended : revokeEnd (s.onCmd d.ticket fun c => { c with phase := .recorded, failed := c.failed || false }) d.ticket =
      complete (s.onCmd d.ticket fun c => { c with phase := .recorded, failed := c.failed || false }) d 0 0 d.n0 d.n1 := by
    unfold revokeEnd
    rw [there]
    dsimp only
    refine (if_neg ?_).trans ?_
    · show ¬ (d.opcode != 0x29 || false || !d.waits.isEmpty || marksOut _ _) = true
      rw [out, opcode, waits]
      decide
    · rw [failed]
      rfl
  cases key : s.key? d.owner with
  | none => exact ended
  | some k => exact ended

/-- EPOCH_REVOKE takes its first steps. -/
theorem epochRevoke_begins {k : Nat} (h : s.Accepted k 0x29 c) (valid : epochRevoked s c.owner (c.le 24 4) = false)
    (able : s.key? c.owner ≠ none ∨ (s.ownPkr c.owner).recRing.next ≤ (s.ownPkr c.owner).head) :
    exec (.epochRevoke k) s = finish s (revokeBegin s c) := by
  obtain ⟨-, -, -, -, -, phase⟩ := accepted_facts h
  refine congrArg (finish s) ((runCmd_accepted h _).trans ?_)
  have dispatched : (c.phase == .executing) = false := by rw [phase]; rfl
  have keyed : ((s.key? c.owner).isNone && decide ((s.ownPkr c.owner).head < (s.ownPkr c.owner).recRing.next)) = false := by
    rcases able with key | head
    · rw [Option.isNone_eq_false_iff.mpr (Option.isSome_iff_ne_none.mpr key), Bool.false_and]
    · rw [decide_eq_false (Nat.not_lt.mpr head), Bool.and_false]
  simp only [runRevoke, dispatched, valid, keyed, Bool.false_eq_true, if_false]

/-- An EPOCH_REVOKE with neither streams to wait for nor records to mark completes. -/
theorem epochRevoke_completes {k : Nat} (h : s.Accepted k 0x29 c) (unhit : ∀ x ∈ s.ctx.streams, x.hitBy c.owner (c.le 20 4) = false)
    (unstaged : (s.ownPkr c.owner).recRing.staged = []) (read : ((s.ownPkr c.owner).recRing.next + 3) / 4 ≤ (s.ownPkr c.owner).head / 4)
    (quiet : ∀ r ∈ s.fab.stores ++ s.fab.waiting, (∀ p n, r.who ≠ .markLine k p n) ∧ ∀ stop tries, r.who ≠ .ringLine c.owner false stop tries)
    (fresh : c.n0 = 0) (clean : c.failed = false) {A : State}
    (hA : A = (markStaged (revoking s c) c.ticket c.owner (c.le 20 4)).onCtx fun x => { x with
      streams := modWhere x.streams (Stream.hitBy c.owner (c.le 20 4)) (Stream.awaits c.ticket (c.le 24 4)) }) :
    ∃ B d, A.cmd? k = some d ∧ markRing A d = complete B c 0 0 0 0 ∧ B.rng.cmds.filter (·.ticket != k) = s.rng.cmds.filter (·.ticket != k) ∧
      { B.rng with cmds := s.rng.cmds } = s.rng ∧ MarksOnly A B := by
  obtain ⟨-, -, found, ticket, opcode, -⟩ := accepted_facts h
  subst ticket
  have ids : (s.ctx.streams.filter (Stream.hitBy c.owner (c.le 20 4))).map (·.id) = [] := by
    rw [List.filter_eq_nil_iff.mpr fun x mem => by simp [unhit x mem], List.map_nil]
  obtain ⟨rng, fab, head⟩ := markStaged_none (s := revoking s c) (t := c.ticket) (o := c.owner) (e := c.le 20 4) unstaged
  obtain ⟨upTo, hUp⟩ : ∃ n, n = stagedLine (s.ownPkr c.owner).recRing := ⟨_, rfl⟩
  have up : upTo = ((s.ownPkr c.owner).recRing.next + 3) / 4 := by rw [hUp, stagedLine, unstaged]; rfl
  have first : (revoking s c).cmd? c.ticket = some (Cmd.revokes [] upTo c) := by
    unfold revoking
    rw [ids, ← hUp]
    exact cmd_onCmd (s := s.onOwner c.owner (OwnerEpoch.without (c.le 20 4) (c.le 24 4))) _ (fun _ => rfl) found
  have second := cmd_onCmd (s := revoking s c) (Cmd.marksNone (((s.ownPkr c.owner).recRing.next + 3) / 4)) (fun _ => rfl) first
  have there : A.cmd? c.ticket = some ((c.revokes [] upTo).marksNone (((s.ownPkr c.owner).recRing.next + 3) / 4)) := by
    rw [hA]
    refine Eq.trans ?_ second
    exact congrArg (fun r : Rng => r.cmds.find? (·.ticket == c.ticket)) rng
  have fabA : A.fab = s.fab := by rw [hA]; exact fab
  have rngA : A.rng = ((revoking s c).onCmd c.ticket (Cmd.marksNone (((s.ownPkr c.owner).recRing.next + 3) / 4))).rng := by rw [hA]; exact rng
  have headA : (A.ownPkr c.owner).head = (s.ownPkr c.owner).head := by rw [hA]; exact head
  refine ⟨A.onCmd c.ticket fun c => { c with phase := .recorded, failed := c.failed || false }, _, there,
    (markRing_none (d := (c.revokes [] upTo).marksNone (((s.ownPkr c.owner).recRing.next + 3) / 4)) there opcode rfl clean ?_ (by rw [fabA]; exact quiet)).trans ?_, ?_, ?_, rfl⟩
  · show upTo ≤ (A.ownPkr c.owner).head / 4
    rw [headA, up]
    exact read
  · show complete _ _ 0 0 (c.n0 + 0) 0 = _
    rw [fresh]
    rfl
  · show (modWhere A.rng.cmds (·.ticket == c.ticket) _).filter (·.ticket != c.ticket) = _
    rw [filter_modWhere _ _ _ (by intro; rfl), rngA]
    exact (filter_modWhere _ _ _ (by intro; rfl)).trans (filter_modWhere _ _ _ (by intro; rfl))
  · have rest := congrArg (fun r : Rng => ({ r with cmds := s.rng.cmds } : Rng)) rngA
    exact rest

end

/-- Settles O18. That an EPOCH_REVOKE with records to mark and without a key is NO_KEY is the model's reading (log entry 42). -/
theorem ownerEpochs : Obligations.OwnerEpochs := by
  unfold Obligations.OwnerEpochs
  intro s k c o
  refine ⟨fun h wide => ⟨fun revoked => ?_, epochWide_none h wide, epochWide_waits h wide⟩, fun h => ⟨fun revoked => ?_, fun valid keyless unread => ?_,
    fun valid able nodup => ?_⟩⟩
  · have row : exec (.epochSet k) s = finish s (reject s c .epochRevoked) := by
      refine congrArg (finish s) ((runCmd_accepted h _).trans ?_)
      simp only [runEpochSet, wide, if_true]
      exact if_pos revoked
    rw [row]
    exact finish_refused h .epochRevoked 0
  · have row : exec (.epochRevoke k) s = finish s (reject s c .epochRevoked) := by
      obtain ⟨-, -, -, -, -, phase⟩ := accepted_facts h
      refine congrArg (finish s) ((runCmd_accepted h _).trans ?_)
      unfold runRevoke
      rw [phase]
      exact if_pos revoked
    rw [row]
    exact finish_refused h .epochRevoked 0
  · have row : exec (.epochRevoke k) s = finish s (reject s c .noKey) := by
      obtain ⟨-, -, -, -, -, phase⟩ := accepted_facts h
      refine congrArg (finish s) ((runCmd_accepted h _).trans ?_)
      have dispatched : (c.phase == .executing) = false := by rw [phase]; rfl
      have noKey : ((s.key? c.owner).isNone && decide ((s.ownPkr c.owner).head < (s.ownPkr c.owner).recRing.next)) = true := by
        rw [keyless, decide_eq_true unread]
        rfl
      simp only [runRevoke, dispatched, show epochRevoked s c.owner (c.le 24 4) = false from valid, noKey, Bool.false_eq_true, if_false, if_true]
    rw [row]
    exact finish_refused h .noKey 0
  · intro hit away
    obtain ⟨-, fenced, -, ticket, -⟩ := accepted_facts h
    obtain ⟨A, hA, begun⟩ := revokeBegin_away nodup away
    have first : MarksOnly (revoking s c) (markStaged (revoking s c) c.ticket c.owner (c.le 20 4)) := markStaged_marks ..
    have kept : MarksOnly A (revokeBegin s c) := by
      rw [begun]
      split
      · exact markRing_marks ..
      · rfl
    have lanA : A.lan = s.lan := by rw [hA]; exact first.lan
    have pendA : A.pending = s.pending := by rw [hA]; exact first.pending
    have varA : A.variant = s.variant := by rw [hA]; exact first.variant
    obtain ⟨t, next, same⟩ := finish_to (s := s) (E := revokeBegin s c) (by rw [kept.lan, lanA]; exact fenced) (kept.pending.trans pendA)
      (kept.variant.trans varA)
    have ctx : t.ctx = A.ctx := (congrArg State.ctx same).trans kept.ctx
    have lan : t.lan = s.lan := (congrArg State.lan same).trans (kept.lan.trans lanA)
    obtain ⟨mem, voc, aut, eqs⟩ := kept.stores
    obtain ⟨memA, vocA, autA, eqsA⟩ : A.mem = s.mem ∧ A.voc = s.voc ∧ A.aut = s.aut ∧ A.eqs = s.eqs := by rw [hA]; exact first.stores
    refine ⟨t, (epochRevoke_begins h valid able).trans next, ?_, lan, (congrArg State.mem same).trans (mem.trans memA),
      (congrArg State.voc same).trans (voc.trans vocA), (congrArg State.aut same).trans (aut.trans autA),
      (congrArg State.eqs same).trans (eqs.trans eqsA), fun unhit unstaged read quiet fresh clean => ?_⟩
    · have markedCtx := first.ctx
      rw [ctx, hA]
      subst ticket
      exact congrArg (fun x : Ctx => { x with
        streams := modWhere x.streams (Stream.hitBy c.owner (c.le 20 4)) (Stream.awaits c.ticket (c.le 24 4)) }) markedCtx
    · obtain ⟨B, d, there, ended, cmds, rest, onlyB⟩ := epochRevoke_completes h unhit unstaged read quiet fresh clean hA
      subst ticket
      rw [there] at begun
      obtain ⟨t', next', completed, -⟩ := finish_complete (s := s) (B := B) (c := c) (status := 0) (step := 0) (d0 := 0) (d1 := 0)
        (by rw [onlyB.lan, lanA]; exact fenced) (onlyB.pending.trans pendA) (onlyB.variant.trans varA) cmds rest
      have ends : finish s (complete B c 0 0 0 0) = .next t := by
        rw [← ended, ← next]
        exact congrArg (finish s) begun.symm
      cases ends.symm.trans next'
      exact completed

end Sys2Proof.Machine
end

section
/-! What the service of a step leaves alone (06 R245 to R248), and what one stream's boundary leaves of the others. -/

namespace Sys2Proof.Machine

/-! ## Looking the keys of a service up -/

/-- What looking up, building and reporting for a service can change: the streams, the Cupola, lanes, events and the counters of the grammar side. -/
def LookOnly (a b : State) : Prop := { b with
  ctx := a.ctx, cup := a.cup, cry := a.cry, tur := a.tur, bel := a.bel, fab := a.fab
  aut := { b.aut with spillReads := a.aut.spillReads, evConf := a.aut.evConf, evStack := a.aut.evStack, evDead := a.aut.evDead } } = a

/-- A state with the part that a service can change taken from another. -/
def lookFrom (a b : State) : State := { b with
  ctx := a.ctx, cup := a.cup, cry := a.cry, tur := a.tur, bel := a.bel, fab := a.fab
  aut := { b.aut with spillReads := a.aut.spillReads, evConf := a.aut.evConf, evStack := a.aut.evStack, evDead := a.aut.evDead } }

theorem LookOnly.refl (a : State) : LookOnly a a := rfl

theorem LookOnly.trans {a b c : State} (h : LookOnly a b) (k : LookOnly b c) : LookOnly a c := by
  have both : lookFrom a (lookFrom b c) = lookFrom a b := congrArg (lookFrom a) k
  exact Eq.trans (both : lookFrom a c = lookFrom a b) h

theorem LookOnly.foldl {α : Type} {g : State → α → State} (k : ∀ s x, LookOnly s (g s x)) (l : List α) (s : State) : LookOnly s (l.foldl g s) := by
  induction l generalizing s with
  | nil => rfl
  | cons x r ih => exact (k s x).trans (ih (g s x))

theorem LookOnly.of_sansBel {a b : State} (h : b.sansBel = a.sansBel) : LookOnly a b := by
  have e := congrArg (fun t : State => ({ t with bel := a.bel, fab := a.fab } : State)) h
  have f : LookOnly a ({ b with bel := a.bel, fab := a.fab } : State) := by rw [show ({ b with bel := a.bel, fab := a.fab } : State) = a from e]; rfl
  exact f

theorem LookOnly.of_sansFab {a b : State} (h : b.sansFab = a.sansFab) : LookOnly a b := .of_sansBel (sansFab_sansBel h)

theorem LookOnly.onCup (s : State) (f : Cup → Cup) : LookOnly s (s.onCup f) := rfl

theorem LookOnly.onStream (s : State) (n : Nat) (f : Stream → Stream) : LookOnly s (s.onStream n f) := rfl

section
variable {a b : State} (h : LookOnly a b)
include h

theorem LookOnly.fin : b.fin = a.fin := by
  have e := congrArg State.fin h
  exact e

theorem LookOnly.stp : b.stp = a.stp := by
  have e := congrArg State.stp h
  exact e

theorem LookOnly.eqs : b.eqs = a.eqs := by
  have e := congrArg State.eqs h
  exact e

theorem LookOnly.pkr : b.pkr = a.pkr := by
  have e := congrArg State.pkr h
  exact e

theorem LookOnly.voc : b.voc = a.voc := by
  have e := congrArg State.voc h
  exact e

theorem LookOnly.rng : b.rng = a.rng := by
  have e := congrArg State.rng h
  exact e

theorem LookOnly.lan : b.lan = a.lan := by
  have e := congrArg State.lan h
  exact e

theorem LookOnly.items : b.aut.auts = a.aut.auts ∧ b.aut.stops = a.aut.stops := by
  have auts := congrArg (fun t : State => t.aut.auts) h
  have stops := congrArg (fun t : State => t.aut.stops) h
  exact ⟨auts, stops⟩

end

theorem raiseHome_look (s : State) (x : Stream) (code step detail : Nat) : LookOnly s (raiseHome s x code step detail) :=
  .of_sansBel (raiseFrom_sansBel ..)

theorem fetchSpill_look (s : State) (id l : Nat) : LookOnly s (fetchSpill id s l) := by
  unfold fetchSpill
  extract_lets u
  have dropped : LookOnly s u := by
    dsimp only [u]
    split <;> rfl
  exact dropped.trans (.of_sansFab (fetchLine_sansFab ..))

theorem askSpill_look (s : State) (x : Stream) (qs : List Nat) : LookOnly s (askSpill s x qs) := by
  unfold askSpill
  extract_lets now ls
  have first : LookOnly s (s.onStream x.id fun y => { y with spill := ls }) := rfl
  exact first.trans (.foldl (fun s l => fetchSpill_look s x.id l) _ _)

theorem stepEvents_look (s : State) (x : Stream) (n : Nat) (r : Stepped) (step : Nat) : LookOnly s (stepEvents s x n r step) := by
  unfold stepEvents
  extract_lets a b c
  have cells : LookOnly s a := .foldl (fun s k => .trans (b := s.onAut fun a => { a with evStack := satAdd a.evStack 1 255 }) rfl (raiseHome_look ..)) _ _
  have drops : LookOnly a b := .foldl (fun s k => .trans (b := s.onAut fun a => { a with evConf := satAdd a.evConf 1 255 }) rfl (raiseHome_look ..)) _ _
  have reads : LookOnly b c := rfl
  clear_value a b c
  have all := (cells.trans drops).trans reads
  split
  · split
    · exact all
    · exact all.trans (.trans (b := c.onStream x.id fun y => { y with spillSaid := true }) rfl (raiseHome_look ..))
  · exact all

theorem fillEvents_look (s : State) (x : Stream) (fs : List (CupKey × Stepped)) : LookOnly s (fillEvents s x fs) := by
  refine .foldl (fun s f => ?_) fs s
  refine (askSpill_look s x f.2.read).trans ?_
  generalize askSpill s x f.2.read = u
  dsimp only
  split
  · exact stepEvents_look ..
  · rfl

theorem cupRoom_look (n : Nat) : ∀ (k : Nat) (s : State), ∀ t ∈ cupRoom n k s, LookOnly s t
  | 0, s, t, mem => by
    unfold cupRoom at mem
    split at mem
    · cases mem; rfl
    · cases mem
  | k + 1, s, t, mem => by
    unfold cupRoom at mem
    split at mem
    · cases mem; rfl
    · dsimp only at mem
      split at mem
      · cases mem
      · exact (LookOnly.onCup s _).trans (cupRoom_look n k _ t mem)

theorem postFill_look (s : State) (e : CupEntry) (kind : Nat) : LookOnly s (postFill s e kind) := by
  unfold postFill
  extract_lets now u w
  have same : LookOnly s u := by
    dsimp only [u]
    split <;> rfl
  have posted : LookOnly u w := rfl
  exact (same.trans posted).trans (LookOnly.onCup w _)

theorem startFill_look {s : State} {k : CupKey} {eager : Bool} {ticket : Option Nat} {poster : Nat} {r : State × Stepped}
    (h : startFill s k eager ticket poster = some r) : LookOnly s r.1 := by
  unfold startFill at h
  extract_lets a v f n e at h
  obtain ⟨t, room, rfl⟩ := Option.map_eq_some_iff.mp h
  refine (cupRoom_look _ _ _ t room).trans ?_
  have added : LookOnly t ((addEntry t e).onCup fun c => { c with fills := c.fills + 1 }) := rfl
  exact added.trans (postFill_look ..)

theorem lookupKey_look {s : State} {k : CupKey} {p : Nat} {r : State × Bool × List (CupKey × Stepped)} (h : lookupKey s k p = some r) : LookOnly s r.1 := by
  unfold lookupKey at h
  split at h
  · split at h
    · cases h; rfl
    · cases h; rfl
  · obtain ⟨q, filled, rfl⟩ := Option.map_eq_some_iff.mp h
    exact (LookOnly.onCup s _).trans (startFill_look filled)

theorem lookupKeys_look (p : Nat) : ∀ (ks : List CupKey) (s : State) (ok : Bool), LookOnly s (lookupKeys p ks s ok).1
  | [], s, ok => rfl
  | k :: ks, s, ok => by
    unfold lookupKeys
    split
    · rfl
    · next r found => exact (lookupKey_look found).trans (lookupKeys_look p ks r.1 _)

theorem waitSpace_look (s : State) (x : Stream) (root : Bool) : LookOnly s (waitSpace s x root) := by
  unfold waitSpace
  split
  · rfl
  · extract_lets u
    have waits : LookOnly s u := rfl
    clear_value u
    split
    · exact waits
    · exact waits.trans ((LookOnly.onCup u _).trans (raiseHome_look ..))

theorem lookService_look (s : State) (x : Stream) (keys : List CupKey) : LookOnly s (lookService s x keys).1 := by
  unfold lookService
  extract_lets r t
  have looked : LookOnly s t := (lookupKeys_look ..).trans (fillEvents_look ..)
  clear_value r t
  split
  · exact looked.trans (waitSpace_look ..)
  · exact looked.trans (LookOnly.onStream t x.id _)

/-! ## The other streams -/

/-- What one stream's boundary leaves of the others: their units and trees, and every item that a stream can be bound to. -/
structure Beside (id : Nat) (a b : State) : Prop where
  unit : ∀ n, n ≠ id → ∀ step node, b.unit? n step node = a.unit? n step node
  tree : ∀ n, n ≠ id → b.tree? n = a.tree? n
  voc : b.voc = a.voc
  auts : b.aut.auts = a.aut.auts
  stops : b.aut.stops = a.aut.stops

theorem Beside.refl (id : Nat) (a : State) : Beside id a a := ⟨fun _ _ _ _ => rfl, fun _ _ => rfl, rfl, rfl, rfl⟩

theorem Beside.trans {id : Nat} {a b c : State} (h : Beside id a b) (k : Beside id b c) : Beside id a c :=
  ⟨fun n e st nd => (k.unit n e st nd).trans (h.unit n e st nd), fun n e => (k.tree n e).trans (h.tree n e), k.voc.trans h.voc, k.auts.trans h.auts,
    k.stops.trans h.stops⟩

theorem Beside.of_eq {id : Nat} {a b : State} (fin : b.fin.units = a.fin.units) (stp : b.stp.trees = a.stp.trees) (voc : b.voc = a.voc)
    (auts : b.aut.auts = a.aut.auts) (stops : b.aut.stops = a.aut.stops) : Beside id a b :=
  ⟨fun n _ st nd => congrArg (List.find? fun u : SelUnit => u.stream == n && u.step == st && u.node == nd) fin,
    fun n _ => congrArg (List.find? fun t : Tree => t.stream == n) stp, voc, auts, stops⟩

theorem LookOnly.beside {a b : State} (id : Nat) (h : LookOnly a b) : Beside id a b :=
  .of_eq (congrArg Machine.Fin.units h.fin) (congrArg Stp.trees h.stp) h.voc h.items.1 h.items.2

theorem HouseOnly.beside {a b : State} (id : Nat) (h : HouseOnly a b) : Beside id a b :=
  .of_eq (congrArg Machine.Fin.units h.fin) (congrArg Stp.trees h.stp) h.voc (congrArg Aut.auts h.aut) (congrArg Aut.stops h.aut)

theorem boundFaulted_items {a b : State} (voc : b.voc = a.voc) (auts : b.aut.auts = a.aut.auts) (stops : b.aut.stops = a.aut.stops) (x : Stream) :
    boundFaulted b x = boundFaulted a x := by
  have slot : b.slot x.slot = a.slot x.slot := congrArg (fun v : Voc => getN v.slots x.slot) voc
  have aut : ∀ n, b.automaton n = a.automaton n := fun n => congrArg (fun l => getN l n) auts
  have stop : b.stopOf x = a.stopOf x := congrArg (fun l : List StopSet => x.stop.bind fun n => l.find? fun p : StopSet => p.owner == x.owner && p.id == n) stops
  simp only [boundFaulted, slot, aut, stop]

theorem boundFaulted_beside {id : Nat} {a b : State} (h : Beside id a b) (x : Stream) : boundFaulted b x = boundFaulted a x :=
  boundFaulted_items h.voc h.auts h.stops x

/-- A filter that keeps all that is sought does not hinder the search. -/
theorem find?_filter_blind {α : Type} {p q : α → Bool} (keeps : ∀ x, p x = true → q x = true) (l : List α) : (l.filter q).find? p = l.find? p := by
  rw [List.find?_filter]
  congr 1
  funext x
  cases found : p x with
  | false => simp
  | true => simp [keeps x found]

/-- A filter that keeps the units of a stream keeps what is found among them. -/
theorem find?_units_filter {us : List SelUnit} {p : SelUnit → Bool} {n step node : Nat} (keeps : ∀ u : SelUnit, u.stream = n → p u = true) :
    (us.filter p).find? (fun u => u.stream == n && u.step == step && u.node == node) =
      us.find? fun u => u.stream == n && u.step == step && u.node == node :=
  find?_filter_blind (fun u h => keeps u (by simp only [Bool.and_eq_true, beq_iff_eq] at h; exact h.1.1)) us

theorem dropAllUnits_beside (s : State) (id : Nat) : Beside id s (dropAllUnits s id) :=
  ⟨fun n e st nd => find?_units_filter fun u h => by simpa [h] using e, fun _ _ => rfl, rfl, rfl, rfl⟩

theorem dropUnits_beside (s : State) (id step : Nat) : Beside id s (dropUnits s id step) :=
  ⟨fun n e st nd => find?_units_filter fun u h => by simp [h, e], fun _ _ => rfl, rfl, rfl, rfl⟩

theorem endRound_beside (s : State) (t : Tree) : Beside t.stream s (endRound s t) := by
  refine (dropUnits_beside s t.stream t.step).trans ⟨fun _ _ _ _ => rfl, fun n e => ?_, rfl, rfl, rfl⟩
  exact find?_filter_blind (fun u h => by simp only [beq_iff_eq] at h; simpa [h] using e) s.stp.trees

theorem emitToken_beside (s : State) (id step token flags : Nat) : Beside id s (emitToken s id step token flags) := by
  unfold emitToken
  split
  · exact .refl id s
  · exact ⟨fun _ _ _ _ => rfl, fun _ _ => rfl, rfl, rfl, rfl⟩

theorem onStream_beside (s : State) (id : Nat) (f : Stream → Stream) : Beside id s (s.onStream id f) :=
  ⟨fun _ _ _ _ => rfl, fun _ _ => rfl, rfl, rfl, rfl⟩

theorem dropSpill_beside (s : State) (id : Nat) : Beside id s (dropSpill s id) := ⟨fun _ _ _ _ => rfl, fun _ _ => rfl, rfl, rfl, rfl⟩

theorem failStep_beside (s : State) (x : Stream) : Beside x.id s (failStep s x) :=
  (((dropAllUnits_beside s x.id).trans (dropSpill_beside ..)).trans (emitToken_beside ..)).trans (onStream_beside ..)

theorem faultedStep_beside (s : State) (x : Stream) : Beside x.id s (faultedStep s x) := by
  unfold faultedStep
  extract_lets u
  have ended : Beside x.id s u := by
    dsimp only [u]
    split
    · next t found => exact tree_stream found ▸ endRound_beside s t
    · exact .refl _ s
  exact ((ended.trans (dropAllUnits_beside ..)).trans (dropSpill_beside ..)).trans (onStream_beside ..)

theorem openUnit_beside (s : State) (id step node : Nat) : Beside id s (openUnit s id step node) := by
  refine ⟨fun n e st nd => ?_, fun _ _ => rfl, rfl, rfl, rfl⟩
  show (s.fin.units ++ _).find? _ = s.fin.units.find? _
  have no : ((id == n) && (step == st) && (node == nd)) = false := by simp [Ne.symm e]
  simp [List.find?_append, no]

theorem onUnit_beside (s : State) (id step node : Nat) {f : SelUnit → SelUnit} (keeps : ∀ u, (f u).stream = u.stream) :
    Beside id s (s.onUnit id step node f) := by
  refine ⟨fun n e st nd => find?_modWhere_other (fun u h => ?_) _, fun _ _ => rfl, rfl, rfl, rfl⟩
  simp only [Bool.and_eq_true, beq_iff_eq] at h
  simp [keeps, h.1.1, Ne.symm e]

theorem onTree_beside (s : State) (id : Nat) {f : Tree → Tree} (keeps : ∀ t, (f t).stream = t.stream) : Beside id s (s.onTree id f) := by
  refine ⟨fun _ _ _ _ => rfl, fun n e => find?_modWhere_other (fun t h => ?_) _, rfl, rfl, rfl⟩
  simp only [beq_iff_eq] at h
  simp [keeps, h, Ne.symm e]

theorem Beside.foldl {α : Type} {id : Nat} {g : State → α → State} (k : ∀ s x, Beside id s (g s x)) (l : List α) (s : State) : Beside id s (l.foldl g s) := by
  induction l generalizing s with
  | nil => exact .refl id s
  | cons x r ih => exact (k s x).trans (ih (g s x))

theorem formSets_beside (s : State) (x : Stream) : Beside x.id s (formSets s x) := by
  unfold formSets
  split
  · exact .refl _ s
  · next t found =>
    extract_lets ns u v
    have asked : Beside x.id s u := ((askSpill_look s x ns.2).beside x.id).trans ⟨fun _ _ _ _ => rfl, fun _ _ => rfl, rfl, rfl, rfl⟩
    have formed : Beside x.id u v := onTree_beside u x.id fun _ => rfl
    exact (asked.trans formed).trans (.foldl (fun s n => onUnit_beside s x.id t.step n (by intro; rfl)) _ _)

theorem buildStep_beside (s : State) (x : Stream) : Beside x.id s (buildStep s x) := by
  unfold buildStep
  extract_lets u
  have formed : Beside x.id s u := (LookOnly.beside x.id rfl : Beside x.id s (ungate s (s.physOf x.home))).trans (formSets_beside ..)
  exact (formed.trans (onStream_beside ..)).trans ((lookService_look ..).beside x.id)

theorem beginBuild_beside (s : State) (x : Stream) : Beside x.id s (beginBuild s x) := by
  rw [beginBuild_eq]
  split
  · exact faultedStep_beside ..
  · split
    · split
      · refine .trans ?_ (failStep_beside ..)
        split
        · next t found => exact tree_stream found ▸ endRound_beside s { t with rootFailed := true }
        · exact .refl _ s
      · exact buildStep_beside ..
    · split
      · exact onStream_beside ..
      · exact (openUnit_beside ..).trans (buildStep_beside ..)

theorem goOn_beside (s : State) {id : Nat} {x : Stream} (h : x.id = id) : Beside id s (goOn s id x) := by
  unfold goOn
  have next : Beside id s (if (s.tree? id).isSome || x.armed != some 0 || x.armSpent || x.rebuild then
      beginBuild (s.onStream id fun y => { y with rebuild := false }) { x with rebuild := false }
      else s.onStream id fun y => { y with st := .idle, svc := .none }) := by
    split
    · exact (onStream_beside ..).trans (by subst h; exact beginBuild_beside _ { x with rebuild := false })
    · exact onStream_beside ..
  split
  · exact next
  · exact next
  · exact .refl id s

end Sys2Proof.Machine
end

section
/-! RESUME, REATTACH and FLUSH (14 R508, R526, R527, 11 R421). -/

namespace Sys2Proof.Machine

/-! ## The state of a stream that is served again -/

theorem buildStep_running {s : State} {x y : Stream} (found : s.stream? x.id = some y) : ∃ z, (buildStep s x).stream? x.id = some z ∧ z.st = .running := by
  unfold buildStep
  extract_lets u
  have formed : Touches x.id (fun z => z.id) s u :=
    (Touches.of_ctx rfl : Touches x.id _ s (ungate s (s.physOf x.home))).trans (formSets_touches ⟨fun _ _ _ _ => rfl⟩ ..)
  obtain ⟨z, foundU, -⟩ := formed.found found
  clear_value u
  have begun := stream_onStream (fun y => { y with st := .running, svc := .build }) (fun _ => rfl) foundU
  obtain ⟨w, foundW, same⟩ := (lookService_touches (g := Stream.st) ⟨fun _ _ _ _ => rfl⟩
    (u.onStream x.id fun y => { y with st := .running, svc := .build }) x (serviceKeys u x)).found begun
  exact ⟨w, foundW, same⟩

/-- A stream with sound items and no failed unit begins its build, or waits for a unit: it is RUNNING. -/
theorem beginBuild_running {s : State} {x y : Stream} (found : s.stream? x.id = some y) (sound : boundFaulted s x = false)
    (live : ∀ u, s.unit? x.id x.next 0x7F = some u → u.st ≠ .failed) : ∃ z, (beginBuild s x).stream? x.id = some z ∧ z.st = .running := by
  rw [beginBuild_eq, sound, if_neg Bool.false_ne_true]
  split
  · next u unit =>
    rw [if_neg (by simpa using live u unit)]
    exact buildStep_running found
  · split
    · exact ⟨_, stream_onStream _ (fun _ => rfl) found, rfl⟩
    · exact buildStep_running (s := openUnit s x.id x.next 0x7F) found

/-- The parts of a stream that a boundary neither writes nor a build does. -/
theorem lasting_names {x y : Stream} (h : y.lasting = x.lasting) : y.slot = x.slot ∧ y.aut = x.aut ∧ y.stop = x.stop ∧ y.owner = x.owner ∧
    y.next = x.next ∧ y.armed = x.armed ∧ y.armSpent = x.armSpent := by
  have slot := congrArg Stream.slot h
  have aut := congrArg Stream.aut h
  have stop := congrArg Stream.stop h
  have owner := congrArg Stream.owner h
  have next := congrArg Stream.next h
  have armed := congrArg Stream.armed h
  have spent := congrArg Stream.armSpent h
  exact ⟨slot, aut, stop, owner, next, armed, spent⟩

theorem boundFaulted_names (s : State) {x y : Stream} (slot : y.slot = x.slot) (aut : y.aut = x.aut) (stop : y.stop = x.stop) (owner : y.owner = x.owner) :
    boundFaulted s y = boundFaulted s x := by
  simp only [boundFaulted, State.stopOf, slot, aut, stop, owner]

/-- A stream whose build does not begin anew. -/
def Stream.unrebuilt (y : Stream) : Stream := { y with rebuild := false }

theorem goOn_builds {s : State} {id : Nat} {x : Stream} (st : x.st = .idle ∨ x.st = .running)
    (steps : ((s.tree? id).isSome || x.armed != some 0 || x.armSpent || x.rebuild) = true) :
    goOn s id x = beginBuild (s.onStream id Stream.unrebuilt) x.unrebuilt := by
  unfold goOn
  rw [if_pos steps]
  split
  · rfl
  · rfl
  · next running idle => exact (st.elim idle running).elim

/-- A stream without recorded commands or an end to make goes on from the state that it is in. -/
theorem boundary_returns {s : State} {id : Nat} {x : Stream} (found : s.stream? id = some x) (none : x.recorded = []) (due : x.endDue = 0)
    (zero : x.zeroing = false) : ∃ y, (boundary s id).stream? id = some y ∧ y.lasting = x.lasting ∧ s.Returns x x.st y := by
  rw [boundary_serves found none due zero]
  obtain ⟨y, foundY, same⟩ := (serve_lasting s id).found found
  refine ⟨y, foundY, same, ?_⟩
  obtain rfl := stream_id found
  cases bound : x.atBoundary with
  | false =>
    have away : serve s x.id = s := by simp [serve, found, bound]
    rw [away, found] at foundY
    cases foundY
    exact ⟨fun _ => rfl, fun _ h => by rw [bound] at h; cases h⟩
  | true =>
    obtain ⟨C, z, served, foundC, sameC, house, -⟩ := serve_goesOn found bound none
    rw [served] at foundY
    have st : z.st = x.st := by
      have e := congrArg Stream.st sameC
      exact e
    refine ⟨fun stays => ?_, fun goes _ tree rebuild sound live => ?_⟩
    · have still : goOn C x.id z = C := by
        unfold goOn
        rcases stays with h | h | h <;> rw [st, h]
      rw [still, foundC] at foundY
      cases foundY
      exact st
    · have treeC : C.tree? x.id = .none := (tree_of_house house x.id).trans tree
      obtain ⟨slot, aut, stop, owner, next, armed, spent⟩ := lasting_names (x := x) (y := z) (by
        have e := congrArg (fun v : Stream => { v with
          st := .idle, svc := .none, rebuild := false, held := [], pagesResv := 0, waitPages := false, waitCup := false, forcedEos := false
          spill := [], spillSaid := false }) sameC
        exact e)
      have rebuildZ : z.rebuild = false := by
        have e := congrArg Stream.rebuild sameC
        exact e.trans rebuild
      have idZ : z.id = x.id := stream_id foundC
      by_cases rest : x.armed = some 0 ∧ x.armSpent = false
      · rw [goOn_rests (st ▸ goes) treeC (armed.trans rest.1) (spent.trans rest.2) rebuildZ,
          stream_onStream (fun y => { y with st := .idle, svc := .none }) (fun _ => rfl) foundC] at foundY
        cases foundY
        rw [if_pos rest]
      · rw [if_neg rest]
        have steps : goOn C x.id z = beginBuild (C.onStream x.id Stream.unrebuilt) z.unrebuilt := by
          refine goOn_builds (st ▸ goes) ?_
          rw [armed, spent, treeC, rebuildZ]
          refine Bool.not_eq_false _ |>.mp fun no => ?_
          simp only [ Bool.or_eq_false_iff, bne_eq_false_iff_eq] at no
          exact rest ⟨no.1.1.2, no.1.2⟩
        have soundC : boundFaulted (C.onStream x.id Stream.unrebuilt) z.unrebuilt = false := by
          rw [boundFaulted_beside ((house.beside x.id).trans (onStream_beside C x.id Stream.unrebuilt)) z.unrebuilt]
          exact (boundFaulted_names s slot aut stop owner).trans sound
        have liveC : ∀ u, (C.onStream x.id Stream.unrebuilt).unit? z.id z.next 0x7F = some u → u.st ≠ .failed := by
          intro u unit
          refine live u ?_
          rw [← idZ, ← next, ← unit]
          exact congrArg (fun f : Machine.Fin => f.units.find? fun v => v.stream == z.id && v.step == z.next && v.node == 0x7F) house.fin.symm
        obtain ⟨w, foundW, running⟩ := beginBuild_running (s := C.onStream x.id Stream.unrebuilt) (x := z.unrebuilt)
          (y := z.unrebuilt) ((congrArg (State.stream? _) idZ).trans (stream_onStream Stream.unrebuilt (fun _ => rfl) foundC)) soundC liveC
        rw [steps] at foundY
        cases foundY.symm.trans ((congrArg (State.stream? _) idZ.symm).trans foundW)
        exact running

/-! ## Streams resumed one after the other -/

/-- What a boundary of another stream leaves of a stream. -/
structure Spared (n : Nat) (a b : State) : Prop where
  stream : b.stream? n = a.stream? n
  unit : ∀ step node, b.unit? n step node = a.unit? n step node
  tree : b.tree? n = a.tree? n
  voc : b.voc = a.voc
  auts : b.aut.auts = a.aut.auts
  stops : b.aut.stops = a.aut.stops

theorem Spared.refl (n : Nat) (a : State) : Spared n a a := ⟨rfl, fun _ _ => rfl, rfl, rfl, rfl, rfl⟩

theorem Spared.trans {n : Nat} {a b c : State} (h : Spared n a b) (k : Spared n b c) : Spared n a c :=
  ⟨k.stream.trans h.stream, fun st nd => (k.unit st nd).trans (h.unit st nd), k.tree.trans h.tree, k.voc.trans h.voc, k.auts.trans h.auts,
    k.stops.trans h.stops⟩

theorem Spared.of_beside {n id : Nat} {a b : State} (ne : n ≠ id) (stream : b.stream? n = a.stream? n) (h : Beside id a b) : Spared n a b :=
  ⟨stream, h.unit n ne, h.tree n ne, h.voc, h.auts, h.stops⟩

theorem Spared.returns {n : Nat} {a b : State} (h : Spared n a b) {x y : Stream} (id : x.id = n) {st : StState} (r : b.Returns x st y) : a.Returns x st y := by
  subst id
  refine ⟨r.1, fun goes bound tree rebuild sound live => r.2 goes bound (h.tree.trans tree) rebuild ?_ ?_⟩
  · exact (boundFaulted_items h.voc h.auts h.stops x).trans sound
  · intro u unit
    exact live u ((h.unit _ _).symm.trans unit)

/-- A stream whose boundary only goes on. -/
def Stream.Plain (x : Stream) : Prop := x.recorded = [] ∧ x.endDue = 0 ∧ x.zeroing = false

theorem boundary_spares {s : State} {id n : Nat} (ne : n ≠ id) (plain : ∀ x, s.stream? id = some x → x.Plain) : Spared n s (boundary s id) := by
  cases found : s.stream? id with
  | none =>
    have gone : boundary s id = s := by simp [boundary, boundaryWith, found]
    rw [gone]
    exact .refl n s
  | some x =>
    obtain ⟨none, due, zero⟩ := plain x found
    rw [boundary_serves found none due zero]
    refine .of_beside ne ((serve_lasting s id).others n ne) ?_
    cases bound : x.atBoundary with
    | false =>
      have away : serve s id = s := by simp [serve, found, bound]
      rw [away]
      exact .refl id s
    | true =>
      obtain ⟨C, z, served, foundC, -, house, -⟩ := serve_goesOn found bound none
      exact served ▸ (house.beside id).trans (goOn_beside C (stream_id foundC))

/-- The state in which a RESUME lets a stream go on. -/
def Stream.resumed (y : Stream) : Stream :=
  if y.st == .stepFailed then { y with st := .running, armSpent := true, ckptDue := true, idleSaid := false }
  else { y with st := y.prior, ckptDue := true, idleSaid := false }

theorem resumed_keeps (y : Stream) : y.resumed.id = y.id ∧ (y.Plain → y.resumed.Plain) := by
  unfold Stream.resumed
  split <;> exact ⟨rfl, id⟩

theorem resumeStream_eq (s : State) (id : Nat) : resumeStream s id = boundary (s.onStream id Stream.resumed) id := rfl

theorem resumeStream_spares {s : State} {id n : Nat} (ne : n ≠ id) (plain : ∀ x, s.stream? id = some x → x.Plain) : Spared n s (resumeStream s id) := by
  have written : Spared n s (s.onStream id Stream.resumed) :=
    .of_beside ne (stream_onStream_away _ (fun y => (resumed_keeps y).1) ne) (onStream_beside ..)
  refine written.trans (boundary_spares ne fun x found => ?_)
  rw [find_onStream s _ (fun y => (resumed_keeps y).1)] at found
  obtain ⟨y, old, rfl⟩ := Option.map_eq_some_iff.mp found
  exact (resumed_keeps y).2 (plain y old)

/-- What a RESUME says of a stream. -/
def State.Resumes (s : State) (x y : Stream) : Prop :=
  (x.st = .suspended → s.Returns x x.prior y) ∧
    (x.st = .stepFailed → y.armSpent = true ∧ y.idleSaid = false ∧ s.Returns { x with armSpent := true } .running y)

theorem resumeStream_resumes {s : State} {id : Nat} {x : Stream} (found : s.stream? id = some x) (plain : x.Plain) :
    ∃ y, (resumeStream s id).stream? id = some y ∧ s.Resumes x y := by
  have there := stream_onStream Stream.resumed (fun y => (resumed_keeps y).1) found
  obtain ⟨none, due, zero⟩ := (resumed_keeps x).2 plain
  obtain ⟨y, foundY, same, returns⟩ := boundary_returns there none due zero
  refine ⟨y, foundY, fun sus => ?_, fun failed => ?_⟩
  · have kind : x.resumed = { x with st := x.prior, ckptDue := true, idleSaid := false } := by
      unfold Stream.resumed
      rw [sus]
      rfl
    rw [kind] at returns
    exact returns
  · have kind : x.resumed = { x with st := .running, armSpent := true, ckptDue := true, idleSaid := false } := by
      unfold Stream.resumed
      rw [failed]
      rfl
    rw [kind] at returns same
    have spent := congrArg Stream.armSpent same
    have said := congrArg Stream.idleSaid same
    exact ⟨spent, said, returns⟩

/-- The streams of a list are plain. -/
def State.PlainAll (s : State) (ids : List Nat) : Prop := ∀ m ∈ ids, ∀ x, s.stream? m = some x → x.Plain

theorem State.PlainAll.after {s : State} {m : Nat} {ids : List Nat} (first : m ∉ ids) (plain : s.PlainAll (m :: ids)) : (resumeStream s m).PlainAll ids := by
  intro k inside x found
  have ne : k ≠ m := fun e => first (e ▸ inside)
  rw [(resumeStream_spares ne (plain m List.mem_cons_self)).stream] at found
  exact plain k (List.mem_cons_of_mem m inside) x found

/-- Resuming streams one by one leaves every other stream alone. -/
theorem resume_foldl_spares {n : Nat} (ids : List Nat) {s : State} (nodup : ids.Nodup) (out : n ∉ ids) (plain : s.PlainAll ids) :
    Spared n s (ids.foldl resumeStream s) := by
  induction ids generalizing s with
  | nil => exact .refl n s
  | cons m ids ih =>
    obtain ⟨first, rest⟩ := List.nodup_cons.mp nodup
    obtain ⟨ne, out'⟩ := List.ne_and_not_mem_of_not_mem_cons out
    exact (resumeStream_spares ne (plain m List.mem_cons_self)).trans (ih rest out' (plain.after first))

/-- Each of several streams is resumed from the state before them all. -/
theorem resume_foldl_resumes (ids : List Nat) {s : State} (nodup : ids.Nodup) (plain : s.PlainAll ids) {n : Nat} (mem : n ∈ ids) {x : Stream}
    (found : s.stream? n = some x) : ∃ y, (ids.foldl resumeStream s).stream? n = some y ∧ s.Resumes x y := by
  induction ids generalizing s with
  | nil => cases mem
  | cons m ids ih =>
    obtain ⟨first, rest⟩ := List.nodup_cons.mp nodup
    have later : (resumeStream s m).PlainAll ids := plain.after first
    by_cases e : n = m
    · subst e
      obtain ⟨y, there, resumes⟩ := resumeStream_resumes found (plain n List.mem_cons_self x found)
      exact ⟨y, ((resume_foldl_spares ids rest first later).stream).trans there, resumes⟩
    · have spared := resumeStream_spares e (plain m List.mem_cons_self)
      obtain ⟨y, there, sus, failed⟩ := ih rest later ((List.mem_cons.mp mem).resolve_left e) (spared.stream.trans found)
      have id : x.id = n := stream_id found
      refine ⟨y, there, fun st => spared.returns id (sus st), fun st => ?_⟩
      obtain ⟨spent, said, returns⟩ := failed st
      exact ⟨spent, said, spared.returns (x := { x with armSpent := true }) id returns⟩

/-! ## RESUME -/

section
variable {s : State} {k : Nat} {c : Cmd}

theorem accepted_runs {op : Nat} {f : State → Cmd → State} (h : s.Accepted k op c) : finish s (runCmd s k op f) = finish s (f s c) :=
  congrArg (finish s) (runCmd_accepted h f)

/-- RESUME for every stream of its owner. -/
theorem resumeWide (h : s.Accepted k 0x43 c) (wide : c.ownerWide = true) (key : s.key? c.owner ≠ none) (nodup : (s.ctx.streams.map (·.id)).Nodup) :
    ∃ t, exec (.resume k) s = .next t ∧
      t.Answered c 0 0 (s.ctx.streams.filter fun x => x.owner == c.owner && streamTakes x 0x43).length 0 ∧
      ((∀ x ∈ s.ctx.streams.filter fun x => x.owner == c.owner && streamTakes x 0x43, x.Plain) →
        ∀ x ∈ s.ctx.streams.filter fun x => x.owner == c.owner && streamTakes x 0x43, ∃ y, t.stream? x.id = some y ∧ s.Resumes x y) := by
  obtain ⟨-, fenced, -, -, opcode, -⟩ := accepted_facts h
  obtain ⟨mine, hMine⟩ : ∃ mine, mine = s.ctx.streams.filter fun x => x.owner == c.owner && streamTakes x 0x43 := ⟨_, rfl⟩
  have ids : wideTargets s c = mine.map (·.id) := by
    have plain : ((0x43 : Nat) == 0x28) = false := rfl
    rw [hMine, wideTargets, opcode]
    simp only [plain, Bool.false_or]
  obtain ⟨A, hA⟩ : ∃ A, A = complete s c 0 0 mine.length 0 := ⟨_, rfl⟩
  have row : exec (.resume k) s = finish s ((mine.map (·.id)).foldl resumeStream A) := by
    refine (accepted_runs h).trans (congrArg (finish s) ?_)
    have keyed : (s.key? c.owner).isNone = false := Option.isNone_eq_false_iff.mpr (Option.isSome_iff_ne_none.mpr key)
    simp only [runResume, wide, keyed, ids, if_true, Bool.false_eq_true, if_false, List.length_map]
    rw [hA]
    rfl
  have fwdA : Fwd s A := hA ▸ complete_fwd (.refl s)
  have fwd : Fwd A ((mine.map (·.id)).foldl resumeStream A) := foldl_fwd (fun _ _ f => resumeStream_fwd f) (.refl A)
  obtain ⟨e, mem, isFor⟩ := complete_answers s c 0 0 mine.length 0
  obtain ⟨t, next, same⟩ := finish_to (s := s) (E := (mine.map (·.id)).foldl resumeStream A) (by rw [fwd.lan, fwdA.lan]; exact fenced)
    (fwd.pending.trans fwdA.pending) (fwd.variant.trans fwdA.variant)
  rw [← hMine, row]
  refine ⟨t, next, ⟨e, ?_, isFor⟩, fun plain x inside => ?_⟩
  · have rng := congrArg State.rng same
    rw [show t.rng = _ from rng]
    exact fwd.comps e (hA ▸ mem)
  · have once : (mine.map (·.id)).Nodup := hMine ▸ chosen_ids_nodup nodup _
    have foundS : ∀ x ∈ mine, s.stream? x.id = some x := fun x there => by
      have listed : x ∈ s.ctx.streams := (List.mem_filter.mp (hMine ▸ there)).1
      cases found : s.stream? x.id with
      | none => exact absurd (List.find?_eq_none.mp found x listed) (by simp)
      | some y => rw [eq_of_nodup_map nodup (List.mem_of_find?_eq_some found) listed (stream_id found)]
    have ctxA : A.ctx = s.ctx := hA ▸ complete_ctx ..
    have plainA : A.PlainAll (mine.map (·.id)) := fun m inside y found => by
      obtain ⟨z, there, rfl⟩ := List.mem_map.mp inside
      rw [stream?_of_ctx ctxA, foundS z there] at found
      cases found
      exact plain y there
    obtain ⟨y, found, resumes⟩ := resume_foldl_resumes (mine.map (·.id)) once plainA (List.mem_map.mpr ⟨x, inside, rfl⟩)
      ((stream?_of_ctx ctxA _).trans (foundS x inside))
    have ctx := congrArg State.ctx same
    refine ⟨y, (stream?_of_ctx ctx x.id).trans found, ?_⟩
    rw [hA] at resumes
    exact resumes

/-- RESUME for one stream. -/
theorem resumeOne {x : Stream} (h : s.Takes k 0x43 c x) (one : c.ownerWide = false) (key : s.key? c.owner ≠ none) (plain : x.Plain) :
    ∃ t y, exec (.resume k) s = .next t ∧ t.Answered c 0 x.next 0 0 ∧ t.stream? x.id = some y ∧ s.Resumes x y := by
  obtain ⟨acc, found, -⟩ := takes_facts h
  obtain ⟨-, fenced, -⟩ := accepted_facts acc
  obtain ⟨A, hA⟩ : ∃ A, A = complete s c 0 x.next 0 0 := ⟨_, rfl⟩
  have row : exec (.resume k) s = finish s (resumeStream A x.id) := by
    refine (accepted_runs acc).trans (congrArg (finish s) ?_)
    have keyed : (s.key? c.owner).isNone = false := Option.isNone_eq_false_iff.mpr (Option.isSome_iff_ne_none.mpr key)
    simp only [runResume, one, Bool.false_eq_true, if_false, withStream_takes h, keyed]
    rw [hA]
    rfl
  have fwdA : Fwd s A := hA ▸ complete_fwd (.refl s)
  have fwd : Fwd A (resumeStream A x.id) := resumeStream_fwd (.refl A)
  obtain ⟨e, mem, isFor⟩ := complete_answers s c 0 x.next 0 0
  obtain ⟨t, next, same⟩ := finish_to (s := s) (E := resumeStream A x.id) (by rw [fwd.lan, fwdA.lan]; exact fenced)
    (fwd.pending.trans fwdA.pending) (fwd.variant.trans fwdA.variant)
  have ctxA : A.ctx = s.ctx := hA ▸ complete_ctx ..
  obtain ⟨y, there, resumes⟩ := resumeStream_resumes ((stream?_of_ctx ctxA x.id).trans found) plain
  have ctx := congrArg State.ctx same
  have rng := congrArg State.rng same
  refine ⟨t, y, row.trans next, ⟨e, ?_, isFor⟩, (stream?_of_ctx ctx x.id).trans there, ?_⟩
  · rw [show t.rng = _ from rng]
    exact fwd.comps e (hA ▸ mem)
  · rw [hA] at resumes
    exact resumes

/-! ## REATTACH -/

theorem reattached_keeps (y : Stream) : y.reattached.id = y.id ∧ (y.Plain → y.reattached.Plain) := by
  unfold Stream.reattached
  split <;> exact ⟨rfl, id⟩

/-- The checks of a REATTACH that its stream takes. -/
theorem reattach_checks {x : Stream} (h : s.Takes k 0x44 c x) : exec (.reattach k) s = finish s (
    if c.le 20 4 ≠ x.next then reject s c .stepMismatch
    else if x.lost || c.le 24 8 != streamTag s x then reject s c .tagMismatch
    else boundary ((complete s c Status.ok.code x.next 0 0).onStream x.id Stream.reattached) x.id) := by
  obtain ⟨acc, found, id, -, owner⟩ := takes_facts h
  obtain ⟨-, -, -, closing, -, accepted⟩ := h
  refine (accepted_runs acc).trans (congrArg (finish s) ?_)
  unfold runReattach
  rw [← id, found]
  dsimp only
  rw [if_neg (by simpa using owner), if_neg (by rw [closing, accepted]; decide)]

/-- REATTACH with the stream's step and tag. -/
theorem reattachOne {x : Stream} (taken : s.Takes k 0x44 c x) (step : c.le 20 4 = x.next) (tag : c.le 24 8 = streamTag s x) (plain : x.Plain) :
    ∃ t y, exec (.reattach k) s = .next t ∧ t.Answered c 0 x.next 0 0 ∧ t.stream? x.id = some y ∧
      (x.inner = none → s.Returns x x.prior y) ∧
      ∀ i, x.inner = some i → y.st = .suspended ∧ y.cause = i.1 ∧ y.prior = i.2 ∧ y.inner = none := by
  obtain ⟨acc, found, -⟩ := takes_facts taken
  obtain ⟨-, fenced, -⟩ := accepted_facts acc
  have ⟨_, _, _, _, lost, accepted⟩ := taken
  obtain ⟨A, hA⟩ : ∃ A, A = complete s c 0 x.next 0 0 := ⟨_, rfl⟩
  have row : exec (.reattach k) s = finish s (boundary (A.onStream x.id Stream.reattached) x.id) := by
    have other : ¬ (x.lost || c.le 24 8 != streamTag s x) = true := by
      rw [lost, tag]
      simp
    rw [reattach_checks taken, if_neg (by simpa using step), if_neg other, hA]
    rfl
  have fwdA : Fwd s A := hA ▸ complete_fwd (.refl s)
  have fwd : Fwd A (boundary (A.onStream x.id Stream.reattached) x.id) := boundary_fwd (State.onStream_fwd (.refl A))
  obtain ⟨e, mem, isFor⟩ := complete_answers s c 0 x.next 0 0
  obtain ⟨t, next, same⟩ := finish_to (s := s) (E := boundary (A.onStream x.id Stream.reattached) x.id) (by rw [fwd.lan, fwdA.lan]; exact fenced)
    (fwd.pending.trans fwdA.pending) (fwd.variant.trans fwdA.variant)
  have ctxA : A.ctx = s.ctx := hA ▸ complete_ctx ..
  have there := stream_onStream Stream.reattached (fun y => (reattached_keeps y).1) ((stream?_of_ctx ctxA x.id).trans found)
  obtain ⟨none, due, zero⟩ := (reattached_keeps x).2 plain
  obtain ⟨y, foundY, -, returns⟩ := boundary_returns there none due zero
  have ctx := congrArg State.ctx same
  have rng := congrArg State.rng same
  refine ⟨t, y, row.trans next, ⟨e, ?_, isFor⟩, (stream?_of_ctx ctx x.id).trans foundY, fun outer => ?_, fun i inner => ?_⟩
  · rw [show t.rng = _ from rng]
    exact fwd.comps e (hA ▸ mem)
  · have kind : x.reattached = { x with st := x.prior, ckptDue := true, idleSaid := false } := by
      unfold Stream.reattached
      rw [outer]
    rw [kind, hA] at returns
    exact returns
  · have suspended : x.st = .suspended := by
      have both : (x.st == .suspended && x.cause == .byStart) = true := accepted
      rw [Bool.and_eq_true, beq_iff_eq] at both
      exact both.1
    have kind : x.reattached = { x with cause := i.1, prior := i.2, inner := .none, ckptDue := true, idleSaid := false } := by
      unfold Stream.reattached
      rw [inner]
    obtain ⟨-, -, z, foundZ, same⟩ := boundary_still there none due zero (by rw [kind]; simp [Stream.Still, suspended])
    cases foundZ.symm.trans foundY
    rw [kind] at same
    have st := congrArg Stream.st same
    have cause := congrArg Stream.cause same
    have prior := congrArg Stream.prior same
    have inner' := congrArg Stream.inner same
    exact ⟨Eq.trans st suspended, cause, prior, inner'⟩

end

/-! ## FLUSH -/

/-- What a queue's flush leaves: a record that is partly read, a FLUSHED record, the pending watermarks in force. -/
theorem flushOut_fields (q : EqQueue) :
    let keep := if q.partRead = 0 then [] else q.recs.take 1
    let gone := q.recs.length - keep.length
    let f := q.flushOut.1
    f.recs = keep ++ [egressRecord 4 false 0 0 gone []] ∧ f.partRead = q.partRead ∧ f.resv = q.resv ∧ f.records = wrap32 (q.records + 1) ∧
      f.flushed = min (q.flushed + gone) 65535 ∧ f.newWm = none ∧
      f.xoff = (q.xoffEn && (if f.high ≤ f.fill then true else if f.fill ≤ f.low then false else q.xoff)) := by
  intro keep gone f
  have taken : q.takeWm.partRead = q.partRead ∧ q.takeWm.resv = q.resv ∧ q.takeWm.newWm = none ∧ q.takeWm.xoffEn = q.xoffEn ∧ q.takeWm.xoff = q.xoff := by
    unfold EqQueue.takeWm
    cases wm : q.newWm with
    | none => exact ⟨rfl, rfl, wm, rfl, rfl⟩
    | some w => exact ⟨rfl, rfl, rfl, rfl, rfl⟩
  obtain ⟨partRead, resv, newWm, xoffEn, xoff⟩ := taken
  refine ⟨rfl, partRead, resv, rfl, rfl, newWm, ?_⟩
  rw [← xoffEn, ← xoff]
  rfl

/-- Queues flushed one by one. -/
theorem queue_flush_foldl (ns : List Nat) {s : State} (once : ns.Nodup) (inside : ∀ n ∈ ns, n < s.eqs.qs.length) (m : Nat) :
    (ns.foldl (fun s q => s.onQueue q fun e => e.flushOut.1) s).queue m = if m ∈ ns then (s.queue m).flushOut.1 else s.queue m := by
  induction ns generalizing s with
  | nil => rfl
  | cons n ns ih =>
    obtain ⟨first, rest⟩ := List.nodup_cons.mp once
    have long : (s.onQueue n fun e => e.flushOut.1).eqs.qs.length = s.eqs.qs.length := by simp [State.onQueue, State.onEqs, modAt]
    rw [List.foldl_cons, ih rest fun q mem => by rw [long]; exact inside q (List.mem_cons_of_mem n mem)]
    by_cases e : m = n
    · subst e
      rw [if_neg first, if_pos List.mem_cons_self]
      exact getN_modAt _ (inside m List.mem_cons_self)
    · have other : (s.onQueue n fun e => e.flushOut.1).queue m = s.queue m := getN_modAt_ne _ _ e
      rw [other]
      simp [e]

/-- Flushing queues changes the queues alone. -/
theorem flush_foldl_eqs (ns : List Nat) (s : State) : { ns.foldl (fun s q => s.onQueue q fun e => e.flushOut.1) s with eqs := s.eqs } = s :=
  foldl_keeps (fun (s : State) q => s.onQueue q fun e => e.flushOut.1) (fun t : State => { t with eqs := s.eqs }) (fun _ _ => rfl) ns s

section
variable {s : State} {k : Nat} {c : Cmd}

/-- A FLUSH that its owner may make. -/
theorem flush_completes (h : s.Accepted k 0x48 c) (allowed : (!c.bit 17 0 && (s.queue (c.b 16 % 64)).owner != c.owner) = false) (once : (flushed s c).Nodup)
    (inside : ∀ n ∈ flushed s c, n < s.eqs.qs.length) : ∃ t, exec (.flush k) s = .next t ∧
      Completed s t c 0 0 (((flushed s c).map fun n => (s.queue n).flushOut.2).sum) 0 ∧ { t with rng := s.rng, eqs := s.eqs }.sansFab = s.sansFab ∧
      ∀ m, t.queue m = if m ∈ flushed s c then (s.queue m).flushOut.1 else s.queue m := by
  obtain ⟨-, fenced, -⟩ := accepted_facts h
  obtain ⟨B, hB⟩ : ∃ B, B = (flushed s c).foldl (fun s q => s.onQueue q fun e => e.flushOut.1) s := ⟨_, rfl⟩
  have row : exec (.flush k) s = finish s (complete B c 0 0 (((flushed s c).map fun n => (s.queue n).flushOut.2).sum) 0) := by
    refine (accepted_runs h).trans (congrArg (finish s) ?_)
    unfold runFlush
    extract_lets qs n
    rw [allowed, if_neg Bool.false_ne_true, hB]
    rfl
  have only : { B with eqs := s.eqs } = s := hB ▸ flush_foldl_eqs (flushed s c) s
  have lan := congrArg State.lan only
  have pending := congrArg State.pending only
  have variant := congrArg State.variant only
  have cmds := congrArg (fun t : State => t.rng.cmds.filter (·.ticket != c.ticket)) only
  have rng := congrArg (fun t : State => ({ t.rng with cmds := s.rng.cmds } : Rng)) only
  obtain ⟨t, next, completed, same⟩ := finish_complete (s := s) (B := B) (c := c) (status := 0) (step := 0)
    (d0 := ((flushed s c).map fun n => (s.queue n).flushOut.2).sum) (d1 := 0) ((congrArg Lan.fenced lan).trans fenced) pending variant cmds rng
  refine ⟨t, row.trans next, completed, ?_, fun m => ?_⟩
  · have one := congrArg (fun v : State => ({ v with eqs := s.eqs } : State)) same
    have two := congrArg (fun v : State => ({ v with rng := s.rng } : State).sansFab) only
    exact one.trans two
  · have eqs := congrArg State.eqs same
    have queue : t.queue m = B.queue m := congrArg (fun q : Eqs => getN q.qs m) eqs
    rw [queue, hB]
    exact queue_flush_foldl _ once inside m

end

/-- Settles O20. That NO_KEY, STEP_MISMATCH and TAG_MISMATCH complete with STEP 0 is the model's reading (log entry 77). -/
theorem resumeReattachFlush : Obligations.ResumeReattachFlush := by
  unfold Obligations.ResumeReattachFlush
  refine ⟨fun s k c h wide => ⟨fun keyless => ?_, fun key nodup => ?_⟩, fun s k c x none due zero => ⟨fun h one => ⟨fun keyless => ?_, fun key => ?_⟩,
    fun h => ⟨fun step => ?_, fun step tag => ?_, fun step tag => ?_⟩⟩, fun s k c h all length => ?_, fun s k c h one => ?_⟩
  · have row : exec (.resume k) s = finish s (reject s c .noKey) := by
      refine (accepted_runs h).trans (congrArg (finish s) ?_)
      simp [runResume, wide, keyless]
    rw [row]
    exact finish_refused h .noKey 0
  · obtain ⟨t, next, answered, each⟩ := resumeWide h wide key nodup
    exact ⟨t, next, answered, fun plain => each plain⟩
  · obtain ⟨acc, -⟩ := takes_facts h
    have row : exec (.resume k) s = finish s (reject s c .noKey) := by
      refine (accepted_runs acc).trans (congrArg (finish s) ?_)
      simp [runResume, one, withStream_takes h, keyless]
    rw [row]
    exact finish_refused acc .noKey 0
  · exact resumeOne h one key ⟨none, due, zero⟩
  · obtain ⟨acc, -⟩ := takes_facts h
    rw [reattach_checks h, if_pos step]
    exact finish_refused acc .stepMismatch 0
  · obtain ⟨acc, -⟩ := takes_facts h
    have other : (x.lost || c.le 24 8 != streamTag s x) = true := by
      rw [Bool.or_eq_true, bne_iff_ne]
      exact .inr tag
    rw [reattach_checks h, if_neg (by simpa using step), if_pos other]
    exact finish_refused acc .tagMismatch 0
  · exact reattachOne h step tag ⟨none, due, zero⟩
  · have qs : flushed s c = (List.range 64).filter fun q => (s.queue q).owner == c.owner := by rw [flushed, if_pos all]
    obtain ⟨t, next, completed, same, queues⟩ := flush_completes h (by rw [all]; rfl) (qs ▸ List.nodup_range.filter _) fun n mem => by
      rw [length]
      exact List.mem_range.mp (List.mem_filter.mp (qs ▸ mem)).1
    rw [qs] at completed
    refine ⟨t, next, completed, same, fun n => (queues n).trans ?_⟩
    rw [qs]
    simp only [List.mem_filter, List.mem_range, beq_iff_eq]
  · intro n q
    have qs : flushed s c = [n] := by rw [flushed, one, if_neg Bool.false_ne_true]
    refine ⟨fun foreign => ?_, fun owner inside => ?_⟩
    · have row : exec (.flush k) s = finish s (reject s c .ownerMismatch) := by
        refine (accepted_runs h).trans (congrArg (finish s) ?_)
        have other : (!c.bit 17 0 && (s.queue (c.b 16 % 64)).owner != c.owner) = true := by
          rw [one, Bool.not_false, Bool.true_and, bne_iff_ne]
          exact foreign
        unfold runFlush
        rw [other]
        rfl
      rw [row]
      exact finish_refused h .ownerMismatch 0
    · obtain ⟨t, next, completed, same, queues⟩ := flush_completes h (by
        rw [one, Bool.not_false, Bool.true_and, bne_eq_false_iff_eq]
        exact owner) (qs ▸ List.nodup_cons.mpr ⟨List.not_mem_nil, List.nodup_nil⟩) (by rw [qs]; simpa using inside)
      rw [qs] at completed queues
      have mine : t.queue n = q.flushOut.1 := (queues n).trans (if_pos List.mem_cons_self)
      intro keep gone
      refine ⟨t, next, ?_, same, fun m ne => (queues m).trans (if_neg (by simpa using ne)), ?_⟩
      · rw [List.map_singleton, List.sum_singleton] at completed
        exact completed
      · rw [mine]
        exact flushOut_fields q

end Sys2Proof.Machine
end

section
/-! A mask is built: MASK_RDY is raised, or the stream is at a dead end (06 R247 to R249, 08 R331, 10 R384). -/

namespace Sys2Proof.Machine

theorem raiseHome_cup (s : State) (x : Stream) (code step detail : Nat) : (raiseHome s x code step detail).cup = s.cup :=
  show (raiseHome s x code step detail).sansBel.cup = s.sansBel.cup by rw [raiseHome, raiseFrom_sansBel]

theorem onAut_cup (s : State) (f : Aut → Aut) : (s.onAut f).cup = s.cup := rfl

theorem stepEvents_cup (s : State) (x : Stream) (n : Nat) (r : Stepped) (step : Nat) : (stepEvents s x n r step).cup = s.cup := by
  unfold stepEvents
  extract_lets a b c
  have cells : a.cup = s.cup := foldl_keeps _ State.cup (fun t k => (raiseHome_cup _ x _ _ _).trans (onAut_cup ..)) _ _
  have drops : b.cup = a.cup := foldl_keeps _ State.cup (fun t _ => (raiseHome_cup _ x _ _ _).trans (onAut_cup ..)) _ _
  have reads : c.cup = b.cup := rfl
  clear_value a b c
  have all := reads.trans (drops.trans cells)
  split
  · split
    · exact all
    · exact (raiseHome_cup ..).trans all
  · exact all

theorem takeSpill_cup (s : State) (id : Nat) : (takeSpill s id).cup = s.cup := by
  unfold takeSpill
  extract_lets n
  split <;> rfl

theorem takeSpill_look (s : State) (id : Nat) : LookOnly s (takeSpill s id) := by
  unfold takeSpill
  extract_lets n
  split <;> rfl

/-- A stream without a tree has none to write. -/
theorem onTree_none {s : State} {id : Nat} (none : s.tree? id = none) (f : Tree → Tree) : s.onTree id f = s := by
  have same : modWhere s.stp.trees (·.stream == id) f = s.stp.trees := by
    unfold modWhere
    refine (List.map_congr_left fun t mem => ?_).trans (List.map_id _)
    have no := List.find?_eq_none.mp none t mem
    rw [if_neg no, id_eq]
  unfold State.onTree State.onStp
  dsimp only
  rw [same]

/-! ## Masks from entries -/

/-- Entries that differ in pins alone. -/
theorem find?_pinned {p : CupEntry → Bool} {f : CupEntry → CupEntry} (blind : ∀ e, p (f e) = p e) (value : ∀ e, (f e).a = e.a) (l : List CupEntry) :
    ((l.map f).find? p).map (·.a) = (l.find? p).map (·.a) := by
  rw [List.find?_map, show p ∘ f = p from funext blind, Option.map_map]
  exact congrArg (fun g => (l.find? p).map g) (funext value)

/-- What a selector reads of a descriptor depends on the values of the entries alone. -/
theorem descMask_values {a b : State} (v : VocImage) (d : MaskDesc) (keyed : ∀ k, (b.cupEntry? k).map (·.a) = (a.cupEntry? k).map (·.a))
    (priv : ∀ p, (b.cup.entries.find? fun e => e.priv == some p).map (·.a) = (a.cup.entries.find? fun e => e.priv == some p).map (·.a)) :
    descMask b v d = descMask a v d := by
  unfold descMask refsMask
  simp only [keyed, priv]

theorem descMask_pinKeys (s : State) (ks : List CupKey) (id step : Nat) (v : VocImage) (d : MaskDesc) :
    descMask (pinKeys s ks id step) v d = descMask s v d := by
  refine descMask_values v d (fun k => ?_) fun p => ?_
  · exact find?_pinned (f := fun e => if (ks.any fun k => e.key == some k) then { e with pins := (e.pins ++ [(id, step)]).eraseDups } else e)
      (fun e => by split <;> rfl) (fun e => by split <;> rfl) _
  · exact find?_pinned (f := fun e => if (ks.any fun k => e.key == some k) then { e with pins := (e.pins ++ [(id, step)]).eraseDups } else e)
      (fun e => by split <;> rfl) (fun e => by split <;> rfl) _

theorem descMask_of_cup {a b : State} (h : b.cup = a.cup) (v : VocImage) (d : MaskDesc) : descMask b v d = descMask a v d :=
  descMask_values v d (fun k => congrArg (fun c : Cup => (c.entries.find? fun e => e.key == some k).map (·.a)) h)
    fun p => congrArg (fun c : Cup => (c.entries.find? fun e => e.priv == some p).map (·.a)) h

/-- Evicting entries makes none. -/
theorem cupRoom_sub (n : Nat) : ∀ (k : Nat) (s : State), ∀ t ∈ cupRoom n k s, ∀ e ∈ t.cup.entries, e ∈ s.cup.entries
  | 0, s, t, mem => by
    unfold cupRoom at mem
    split at mem
    · cases mem; exact fun _ h => h
    · cases mem
  | k + 1, s, t, mem => by
    unfold cupRoom at mem
    split at mem
    · cases mem; exact fun _ h => h
    · dsimp only at mem
      split at mem
      · cases mem
      · exact fun e inside => (List.mem_filter.mp (cupRoom_sub n k _ t mem e inside)).1

/-- The mask of a build is below V. -/
theorem setMask_below {s : State} {x : Stream} (slot : ∀ a, x.aut = some a → (s.automaton a).slot = x.slot) (cs : ConfSet) :
    (setMask s x cs).mask &&& allOnes (s.vocOf x) = (setMask s x cs).mask := by
  unfold setMask
  split
  · exact Nat.and_self _
  · next a bound =>
    have voc : (s.slot (s.automaton a).slot).img = s.vocOf x := by rw [slot a bound]; rfl
    unfold buildMask refsMask
    dsimp only
    rw [voc, Nat.and_assoc, Nat.and_self]

/-- The descriptor of a build that is not wide spells its mask. -/
theorem descMask_narrow {s : State} {x : Stream} (slot : ∀ a, x.aut = some a → (s.automaton a).slot = x.slot) {cs : ConfSet}
    (narrow : (setMask s x cs).wide = false) (p : Nat × Nat × Nat) : descMask s (s.vocOf x) ((setMask s x cs).desc p) = (setMask s x cs).mask := by
  unfold Built.desc
  rw [narrow, if_neg Bool.false_ne_true]
  unfold setMask
  split
  · rfl
  · next a bound =>
    have voc : (s.slot (s.automaton a).slot).img = s.vocOf x := by rw [slot a bound]; rfl
    unfold buildMask
    dsimp only
    rw [voc]
    rfl

/-! ## The descriptor is staged -/

/-- The positions of a plain service: the root. -/
def rootOnly (b : Built) : List Position := [{ node := 0x7F, built := b }]

/-- The entry of its own that a wide build needs is made; the values of the others stay, as far as they are still there. -/
theorem privateEntries_root {s : State} {x : Stream} {b : Built} (below : b.mask &&& allOnes (s.vocOf x) = b.mask)
    (narrow : b.wide = false → descMask s (s.vocOf x) (b.desc (x.id, x.next, 0x7F)) = b.mask)
    (room : b.wide = true → (∀ e ∈ s.cup.entries, e.priv ≠ some (x.id, x.next, 0x7F)) ∧ makeRoom s (ceilDiv (s.vocOf x).v 1024 * 128) ≠ none) :
    ∃ P, privateEntries s x (rootOnly b) = .ok P ∧ LookOnly s P ∧ P.ctx = s.ctx ∧ descMask P (s.vocOf x) (b.desc (x.id, x.next, 0x7F)) = b.mask := by
  cases wide : b.wide with
  | false =>
    refine ⟨s, ?_, .refl s, rfl, narrow wide⟩
    simp [privateEntries, rootOnly, wide]
  | true =>
    obtain ⟨none, some⟩ := room wide
    obtain ⟨t, made⟩ := Option.ne_none_iff_exists'.mp some
    have absent : ∀ e ∈ t.cup.entries, e.priv ≠ Option.some (x.id, x.next, 0x7F) := fun e inside => none e (cupRoom_sub _ _ s t made e inside)
    obtain ⟨e, he⟩ : ∃ e : CupEntry, e = {
        priv := Option.some (x.id, x.next, 0x7F), a := b.mask, pins := [(x.id, x.next)], bytes := ceilDiv (s.vocOf x).v 1024 * 128 } := ⟨_, rfl⟩
    have entry : privateEntry s (s.vocOf x).v b.mask (x.id, x.next, 0x7F) = Option.some (addEntry t e) := by
      rw [privateEntry, made, he]
      rfl
    refine ⟨addEntry t e, ?_, (cupRoom_look _ _ _ t made).trans (LookOnly.onCup t _), ?_, ?_⟩
    · have lacks : (s.cup.entries.any fun e => e.priv == Option.some (x.id, x.next, 0x7F)) = false :=
        List.any_eq_false.mpr fun e inside => by simpa using none e inside
      unfold rootOnly privateEntries
      rw [wide, lacks, if_neg (by decide), entry]
      rfl
    · exact cupRoom_ctx _ _ s t made
    · unfold Built.desc
      rw [wide, if_pos rfl]
      have found : (addEntry t e).cup.entries.find? (fun e => e.priv == Option.some (x.id, x.next, 0x7F)) =
          Option.some { e with used := t.cup.clock } := by
        have old : t.cup.entries.find? (fun e => e.priv == Option.some (x.id, x.next, 0x7F)) = Option.none :=
          List.find?_eq_none.mpr fun e inside => by simpa using absent e inside
        show (t.cup.entries ++ [{ e with used := t.cup.clock }]).find? _ = _
        rw [List.find?_append, old, he]
        simp
      unfold descMask
      dsimp only
      rw [if_neg Bool.false_ne_true, found, he]
      exact below

/-- A stream whose step is raised: the first one spends an armed step (10 R384). -/
def Stream.raised (d : MaskDesc) (y : Stream) : Stream := { y with
  desc := d, svc := .open, waitPages := false, waitCup := false, armedAt := y.armed
  armed := if y.armSpent then y.armed else y.armed.map (· - 1), armSpent := true }

/-- A unit whose descriptor is staged before its first shard. -/
def SelUnit.staged (d : MaskDesc) (u : SelUnit) : SelUnit := { u with mask := some d, sources := [] }

/-- What raising MASK_RDY leaves alone. -/
def RaiseOnly (a b : State) : Prop := { b with ctx := a.ctx, cup := a.cup, fin := a.fin } = a

/-- The range of a stream's values depends on its slot, the peer parts and the configuration alone. -/
theorem coverRange_of {a b : State} {x y : Stream} (part : b.fin.part = a.fin.part) (variant : b.variant = a.variant) (lan : b.lan = a.lan)
    (voc : b.voc = a.voc) (slot : y.slot = x.slot) : coverRange b y = coverRange a x := by
  have image : b.vocOf y = a.vocOf x := by rw [State.vocOf, State.slot, voc, slot]; rfl
  have peer : b.hasPeer = a.hasPeer := by rw [State.hasPeer, variant, lan]; rfl
  unfold coverRange isSender partOf
  rw [part, image, peer, slot]

section
variable {P : State} {x y : Stream} {u : SelUnit} {b : Built}

theorem stageMask_empty (unit : P.unit? x.id x.next 0x7F = some u) (empty : u.sources = []) :
    stageMask P x { node := 0x7F, built := b } = P.onUnit x.id x.next 0x7F (SelUnit.staged (b.desc (x.id, x.next, 0x7F))) := by
  unfold stageMask
  dsimp only
  rw [unit]
  dsimp only
  rw [empty]
  rfl

theorem raiseMask_plain (found : P.stream? x.id = some y) (tree : P.tree? x.id = none) (d : MaskDesc) :
    (raiseMask (P.onStream x.id fun y => { y with desc := d }) x).stream? x.id = some (y.raised d) := by
  unfold raiseMask
  extract_lets plain a
  have isPlain : plain = true := by
    dsimp only [plain]
    rw [show (P.onStream x.id fun y => { y with desc := d }).tree? x.id = none from tree]
    rfl
  have first : a.stream? x.id = some { y with desc := d } := stream_onStream (fun y => { y with desc := d }) (fun _ => rfl) found
  clear_value plain a
  subst isPlain
  refine (stream_onStream _ (by intro; rfl) first).trans ?_
  cases spent : y.armSpent <;> simp [Stream.raised, spent]

/-- The root's descriptor is staged, and MASK_RDY is raised. -/
theorem raiseService_root (found : P.stream? x.id = some y) (tree : P.tree? x.id = none) (unit : P.unit? x.id x.next 0x7F = some u) (empty : u.sources = [])
    (lacks : (uncovered [] (coverRange P y).1 (coverRange P y).2).isSome = true) :
    ∃ t, raiseService P x (rootOnly b) = t ∧ RaiseOnly P t ∧ t.fin.maskQueue = P.fin.maskQueue ++ [(x.id, x.next)] ∧
      t.stream? x.id = some (y.raised (b.desc (x.id, x.next, 0x7F))) ∧
      t.unit? x.id x.next 0x7F = some (u.staged (b.desc (x.id, x.next, 0x7F))) ∧ ∀ v d, descMask t v d = descMask P v d := by
  obtain ⟨D, hD⟩ : ∃ D, D = b.desc (x.id, x.next, 0x7F) := ⟨_, rfl⟩
  obtain ⟨A, hA⟩ : ∃ A, A = pinKeys P ((rootOnly b).flatMap fun p => (p.desc x).refs) x.id x.next := ⟨_, rfl⟩
  have unitA : A.unit? x.id x.next 0x7F = some u := hA ▸ unit
  obtain ⟨B, hB⟩ : ∃ B, B = A.onUnit x.id x.next 0x7F (SelUnit.staged D) := ⟨_, rfl⟩
  have foundB : B.stream? x.id = some y := by rw [hB, hA]; exact found
  have treeB : B.tree? x.id = none := by rw [hB, hA]; exact tree
  have unitB : B.unit? x.id x.next 0x7F = some (u.staged D) := hB ▸ unit_onUnit (SelUnit.staged D) (fun _ => ⟨rfl, rfl, rfl⟩) unitA
  have maskB : ∀ v d, descMask B v d = descMask P v d := fun v d => by
    rw [hB, hA]
    exact (descMask_of_cup rfl v d).trans (descMask_pinKeys ..)
  have onlyB : RaiseOnly P B ∧ B.fin.maskQueue = P.fin.maskQueue := by rw [hB, hA]; exact ⟨rfl, rfl⟩
  obtain ⟨C, hC⟩ : ∃ C, C = raiseMask (B.onStream x.id fun y => { y with desc := D }) x := ⟨_, rfl⟩
  have foundC : C.stream? x.id = some (y.raised D) := hC ▸ raiseMask_plain foundB treeB D
  have unitC : C.unit? x.id x.next 0x7F = some (u.staged D) := hC ▸ unitB
  have onlyC : RaiseOnly P C := by rw [hC]; exact onlyB.1
  have rangeC : coverRange C (y.raised D) = coverRange P y := by
    have lan := congrArg State.lan onlyC
    have variant := congrArg State.variant onlyC
    have voc := congrArg State.voc onlyC
    have part : C.fin.part = P.fin.part := by
      rw [hC]
      exact (congrArg Machine.Fin.part (show B.fin = _ from congrArg State.fin hB)).trans (by rw [hA]; rfl)
    exact coverRange_of part variant lan voc rfl
  have waits : tryClose C x.id x.next 0x7F = C := by
    unfold tryClose
    rw [foundC, unitC]
    refine if_neg fun closes => ?_
    have none : (uncovered [] (coverRange C (y.raised D)).1 (coverRange C (y.raised D)).2).isNone = true := by
      simp only [canClose, Bool.and_eq_true] at closes
      exact closes.1.2
    rw [rangeC, Option.isNone_iff_eq_none] at none
    rw [none] at lacks
    cases lacks
  refine ⟨C, ?_, onlyC, ?_, hD ▸ foundC, hD ▸ unitC, fun v d => ?_⟩
  · have parts : raiseService P x (rootOnly b) = tryClose (raiseMask ((stageMask (pinKeys P ((rootOnly b).flatMap fun p => (p.desc x).refs) x.id x.next) x
        { node := 0x7F, built := b }).onStream x.id fun y => { y with desc := b.desc (x.id, x.next, 0x7F) }) x) x.id x.next 0x7F := rfl
    rw [parts, ← hA, stageMask_empty unitA empty, ← hD, ← hB, ← hC]
    exact waits
  · rw [hC, ← onlyB.2]
    rfl
  · refine Eq.trans ?_ (maskB v d)
    rw [hC]
    exact descMask_of_cup rfl v d

end

/-! ## A build completes -/

/-- A stream without what a build that completes writes before MASK_RDY. -/
def Stream.unbuilt (y : Stream) : Stream := { y with pagesResv := 0, waitCup := false, spill := [], spillSaid := false }

section
variable {s : State} {x : Stream}

theorem finishBuild_here (here : ∀ k ∈ serviceKeys s x, ∃ e, s.cupEntry? k = some e ∧ e.filling = false) (plain : x.forcedEos = false)
    (tree : s.tree? x.id = none) (read : spillHere s x (setMask s x x.set).ev.read = true) : finishBuild s x =
      if (setMask s x x.set).mask = 0 then deadEnd s x (setMask s x x.set)
      else if restsAfter s x then restAfter (stepEvents s x (x.aut.getD 0) (setMask s x x.set).ev x.next) x
      else stageService s x (setMask s x x.set) := by
  have missing : ((serviceKeys s x).filter fun k => (s.cupEntry? k).isNone) = [] := List.filter_eq_nil_iff.mpr fun k mem => by
    obtain ⟨e, found, -⟩ := here k mem
    simp [found]
  have all : ((serviceKeys s x).all fun k => ((s.cupEntry? k).map fun e => !e.filling).getD false) = true := List.all_eq_true.mpr fun k mem => by
    obtain ⟨e, found, full⟩ := here k mem
    simp [found, full]
  have root : rootBuild s x = setMask s x x.set := by rw [rootBuild, plain, if_neg Bool.false_ne_true]
  have reads : buildReads s x (setMask s x x.set) = (setMask s x x.set).ev.read := by
    simp [buildReads, nodeBuilds, tree]
  unfold finishBuild
  extract_lets keys gone b rs
  have one : b = setMask s x x.set := root
  have two : rs = (setMask s x x.set).ev.read := by
    dsimp only [rs]
    rw [one]
    exact reads
  clear_value b rs
  subst one two
  rw [show gone = [] from missing, show (keys.all fun k => ((s.cupEntry? k).map fun e => !e.filling).getD false) = true from all, read]
  rfl

theorem stageService_plain (tree : s.tree? x.id = none) (b : Built) : stageService s x b = reserveService s x (rootOnly b) 1 := by
  have none : nodeBuilds s x b.mask = [] := by simp [nodeBuilds, tree]
  unfold stageService
  rw [none]
  dsimp only
  rw [onTree_none tree]
  rfl

/-- The state in which a build that completes raises MASK_RDY. -/
def builtState (P : State) (x : Stream) (need : Nat) (b : Built) : State :=
  stepEvents (takeSpill (P.onStream x.id fun y => { y with pagesResv := need }) x.id) x (x.aut.getD 0) b.ev x.next

theorem reserveService_raises {b : Built} {P : State} (room : needsValues s x = true → unitPages (s.vocOf x).v ≤ pagesFree s)
    (made : privateEntries s x (rootOnly b) = .ok P) :
    reserveService s x (rootOnly b) 1 = raiseService (builtState P x (if needsValues s x then 1 * unitPages (s.vocOf x).v else 0) b) x (rootOnly b) := by
  have free : ¬ pagesFree s < if needsValues s x then 1 * unitPages (s.vocOf x).v else 0 := by
    cases needs : needsValues s x with
    | false => simp
    | true => simpa using room needs
  unfold reserveService
  dsimp only
  rw [if_neg free, made]
  rfl

theorem builtState_look (P : State) (x : Stream) (need : Nat) (b : Built) : LookOnly P (builtState P x need b) ∧ (builtState P x need b).cup = P.cup ∧
    Touches x.id Stream.unbuilt P (builtState P x need b) := by
  refine ⟨((LookOnly.onStream P x.id _).trans (takeSpill_look ..)).trans (stepEvents_look ..), (stepEvents_cup ..).trans (takeSpill_cup ..), ?_⟩
  have first : Touches x.id Stream.unbuilt P (P.onStream x.id fun y => { y with pagesResv := need }) := .onStream P (fun _ => rfl) fun _ => rfl
  exact (first.trans (takeSpill_touches ⟨fun _ _ _ _ => rfl⟩ _ x.id)).trans (stepEvents_touches ⟨fun _ _ _ _ => rfl⟩ ..)

/-- MASK_RDY of a plain step whose keys are all there. -/
theorem maskRdy_raises {n : Nat} {u : SelUnit} (serving : s.Serving) (found : s.stream? n = some x) (svc : x.svc = .build) (still : x.restoring = false)
    (written : epochUnwritten s n = false) (tree : s.tree? x.id = none) (unit : s.unit? x.id x.next 0x7F = some u) (empty : u.sources = [])
    (lacks : (uncovered [] (coverRange s x).1 (coverRange s x).2).isSome = true) (slot : ∀ a, x.aut = some a → (s.automaton a).slot = x.slot)
    (here : ∀ k ∈ serviceKeys s x, ∃ e, s.cupEntry? k = some e ∧ e.filling = false) (plain : x.forcedEos = false)
    (some_ : (setMask s x x.set).mask ≠ 0) (read : spillHere s x (setMask s x x.set).ev.read = true) (armed : x.armed ≠ some 0 ∨ x.armSpent = true)
    (wide : (setMask s x x.set).wide = true →
      (∀ e ∈ s.cup.entries, e.priv ≠ some (x.id, x.next, 0x7F)) ∧ makeRoom s (ceilDiv (s.vocOf x).v 1024 * 128) ≠ none)
    (pages : needsValues s x = true → unitPages (s.vocOf x).v ≤ pagesFree s) :
    ∃ t y v, exec (.maskRdy n) s = .next t ∧ t.fin.maskQueue = s.fin.maskQueue ++ [(x.id, x.next)] ∧
      t.stream? n = some y ∧ y.svc = .open ∧ y.armSpent = true ∧ y.armed = (if x.armSpent then x.armed else x.armed.map (· - 1)) ∧
      y.next = x.next ∧ y.set = x.set ∧ t.unit? x.id x.next 0x7F = some v ∧ v.mask = some ((setMask s x x.set).desc (x.id, x.next, 0x7F)) ∧
      descMask t (s.vocOf x) ((setMask s x x.set).desc (x.id, x.next, 0x7F)) = (setMask s x x.set).mask ∧ v.st = u.st ∧ t.rng = s.rng ∧ t.eqs = s.eqs := by
  obtain rfl := stream_id found
  obtain ⟨P, made, look, ctx, masks⟩ := privateEntries_root (setMask_below slot x.set) (fun narrow => descMask_narrow slot narrow _) wide
  obtain ⟨S, hS⟩ : ∃ S, S = builtState P x (if needsValues s x then 1 * unitPages (s.vocOf x).v else 0) (setMask s x x.set) := ⟨_, rfl⟩
  obtain ⟨lookS, cupS, touched⟩ := builtState_look P x (if needsValues s x then 1 * unitPages (s.vocOf x).v else 0) (setMask s x x.set)
  rw [← hS] at lookS cupS touched
  have all := look.trans lookS
  obtain ⟨y, foundS, same⟩ := touched.found ((stream?_of_ctx ctx x.id).trans found)
  have unitS : S.unit? x.id x.next 0x7F = some u := (unit?_of_fin all.fin ..).trans unit
  have treeS : S.tree? x.id = none := (congrArg (fun p : Stp => p.trees.find? fun v : Tree => v.stream == x.id) all.stp).trans tree
  have rangeS : coverRange S y = coverRange s x := coverRange_of (congrArg Machine.Fin.part all.fin)
    (by have e := congrArg State.variant all; exact e) all.lan all.voc (by have e := congrArg Stream.slot same; exact e)
  obtain ⟨t', raise, only, queue, foundT, unitT, maskT⟩ := raiseService_root (b := setMask s x x.set) foundS treeS unitS empty (by rw [rangeS]; exact lacks)
  have rests : restsAfter s x = false := by
    unfold restsAfter
    rcases armed with no | spent
    · simp [no]
    · simp [spent]
  have built : finishBuild s x = t' := by
    rw [finishBuild_here here plain tree read, if_neg some_, rests, if_neg Bool.false_ne_true, stageService_plain tree,
      reserveService_raises pages made, ← hS]
    exact raise
  have row : exec (.maskRdy x.id) s = finish s t' := by
    show finish s _ = _
    rw [found]
    dsimp only
    rw [serving.1, svc, still, written, if_pos (by decide), built]
  have lanT : t'.lan = s.lan := by
    have e := congrArg State.lan only
    exact Eq.trans e all.lan
  have pendT : t'.pending = s.pending := by
    have e := congrArg State.pending only
    have f := congrArg State.pending all
    exact Eq.trans e f
  have varT : t'.variant = s.variant := by
    have e := congrArg State.variant only
    have f := congrArg State.variant all
    exact Eq.trans e f
  have rngT : t'.rng = s.rng := by
    have e := congrArg State.rng only
    exact Eq.trans e all.rng
  have eqsT : t'.eqs = s.eqs := by
    have e := congrArg State.eqs only
    exact Eq.trans e all.eqs
  obtain ⟨t, next, sames⟩ := finish_to (s := s) (E := t') (by rw [lanT]; exact serving.2) pendT varT
  have fin := congrArg State.fin sames
  have ctxT := congrArg State.ctx sames
  have cup := congrArg State.cup sames
  have rng := congrArg State.rng sames
  have eqs := congrArg State.eqs sames
  have spent := congrArg Stream.armSpent same
  have arms := congrArg Stream.armed same
  have nexts := congrArg Stream.next same
  have sets := congrArg Stream.set same
  refine ⟨t, y.raised _, u.staged _, row.trans next, ?_, (stream?_of_ctx ctxT x.id).trans foundT, rfl, rfl, ?_, nexts, sets,
    (unit?_of_fin fin ..).trans unitT, rfl, ?_, rfl, Eq.trans rng rngT, Eq.trans eqs eqsT⟩
  · rw [show t.fin = t'.fin from fin, queue, all.fin]
  · show (if y.armSpent = true then y.armed else y.armed.map (· - 1)) = _
    rw [show y.armSpent = x.armSpent from spent, show y.armed = x.armed from arms]
  · rw [descMask_of_cup (show t.cup = t'.cup from cup), maskT, descMask_of_cup cupS]
    exact masks

/-! ## A dead end -/

/-- A build that drops, overflows and reads nothing reports nothing. -/
theorem stepEvents_quiet (s : State) (x : Stream) (n step : Nat) {r : Stepped} (cells : r.cells = []) (drops : r.confDrops = []) (read : r.read = []) :
    stepEvents s x n r step = s.onAut fun a => { a with spillReads := wrap32 (a.spillReads + 0) } := by
  unfold stepEvents countReads
  rw [cells, drops, read]
  rfl

/-- The state of a stream at a dead end. -/
def Stream.dead (y : Stream) : Stream := { y with st := .deadEnd, svc := .none, waitPages := false, waitCup := false }

theorem dropUnits_gone (s : State) (id step node : Nat) : (dropUnits s id step).unit? id step node = none := by
  refine List.find?_eq_none.mpr fun u mem h => ?_
  have kept := (List.mem_filter.mp mem).2
  simp only [Bool.and_eq_true, beq_iff_eq] at h
  simp [h.1.1, h.1.2] at kept

/-- A dead end under policy 0, in a step without a tree. -/
theorem deadEnd_stops {b : Built} (found : s.stream? x.id = some x) (tree : s.tree? x.id = none) (cells : b.ev.cells = []) (drops : b.ev.confDrops = [])
    (read : b.ev.read = []) (policy : x.deadPolicy = 0) (plain : x.Plain) :
    ∃ t y, deadEnd s x b = t ∧ t.lan = s.lan ∧ t.pending = s.pending ∧ t.variant = s.variant ∧ t.stream? x.id = some y ∧ y.st = .deadEnd ∧
      y.svc = .none ∧ y.next = x.next ∧ t.unit? x.id x.next 0x7F = none ∧ t.fin.maskQueue = s.fin.maskQueue ∧
      RaisedFrom s t (s.physOf x.home) 0x0001 x.id x.next (x.aut.getD 0 + 256 * x.set.length) := by
  obtain ⟨A, hA⟩ : ∃ A, A = (s.onAut fun a => { a with spillReads := wrap32 (a.spillReads + 0) }).onAut fun a => { a with
    evDead := satAdd a.evDead 1 255 } := ⟨_, rfl⟩
  obtain ⟨B, hB⟩ : ∃ B, B = raiseHome A x 0x0001 x.next (x.aut.getD 0 + 256 * x.set.length) := ⟨_, rfl⟩
  obtain ⟨C, hC⟩ : ∃ C, C = takeSpill B x.id := ⟨_, rfl⟩
  obtain ⟨D, hD⟩ : ∃ D, D = (dropUnits C x.id x.next).onStream x.id Stream.dead := ⟨_, rfl⟩
  have lookB : LookOnly s B := by
    have first : LookOnly s A := hA ▸ rfl
    exact first.trans (hB ▸ raiseHome_look ..)
  have treeB : B.tree? x.id = none := (congrArg (fun p : Stp => p.trees.find? fun v : Tree => v.stream == x.id) lookB.stp).trans tree
  have ends : deadEnd s x b = boundary D x.id := by
    unfold deadEnd
    extract_lets a1 a2 a3 v z w1 w2
    have e3 : a3 = B := by
      dsimp only [a3, a2, a1]
      rw [stepEvents_quiet s x (x.aut.getD 0) x.next cells drops read, hB, hA]
    have e2 : w2 = C := by
      dsimp only [w2, w1]
      rw [e3, treeB, hC]
    clear_value a3 v w2
    rw [if_neg (by rw [policy]; simp), if_pos policy, e2, hD]
    rfl
  have lookC : LookOnly s C := lookB.trans (hC ▸ takeSpill_look ..)
  have foundB : B.stream? x.id = some x := by
    rw [stream?_of_ctx (hB ▸ raiseHome_ctx ..), hA]
    exact found
  obtain ⟨z, foundC, sameC⟩ := (takeSpill_touches (g := Stream.unbuilt) ⟨fun _ _ _ _ => rfl⟩ B x.id).found foundB
  rw [← hC] at foundC
  have foundD : D.stream? x.id = some z.dead := by
    rw [hD]
    exact stream_onStream Stream.dead (fun _ => rfl) foundC
  have recorded := congrArg Stream.recorded sameC
  have due := congrArg Stream.endDue sameC
  have zero := congrArg Stream.zeroing sameC
  have nextZ := congrArg Stream.next sameC
  obtain ⟨none, noEnd, noZero⟩ := plain
  obtain ⟨house, -, y, foundE, sameE⟩ := boundary_still foundD (Eq.trans recorded none) (Eq.trans due noEnd) (Eq.trans zero noZero)
    (by simp [Stream.Still, Stream.dead])
  have st := congrArg Stream.st sameE
  have svc := congrArg Stream.svc sameE
  have nextY := congrArg Stream.next sameE
  have finE : (boundary D x.id).fin = (dropUnits C x.id x.next).fin := house.fin.trans (by rw [hD]; rfl)
  have lan := congrArg State.lan house
  have pending := congrArg State.pending house
  have variant := congrArg State.variant house
  have bel := congrArg State.bel house
  have pendC := congrArg State.pending lookC
  have varC := congrArg State.variant lookC
  refine ⟨_, y, ends, ?_, ?_, ?_, foundE, st, svc, Eq.trans nextY nextZ, ?_, ?_, ?_⟩
  · exact Eq.trans lan (by rw [hD]; exact lookC.lan)
  · exact Eq.trans pending (by rw [hD]; exact pendC)
  · exact Eq.trans variant (by rw [hD]; exact varC)
  · rw [unit?_of_fin finE]
    exact dropUnits_gone C x.id x.next 0x7F
  · rw [finE]
    have queue := congrArg Machine.Fin.maskQueue lookC.fin
    exact queue
  · have raised : RaisedFrom A B (A.physOf x.home) 0x0001 x.id x.next (x.aut.getD 0 + 256 * x.set.length) := hB ▸ raiseFrom_raised ..
    have belC : C.bel = B.bel := by
      rw [hC]
      unfold takeSpill
      extract_lets k
      split <;> rfl
    have belE : (boundary D x.id).bel = B.bel := Eq.trans bel ((by rw [hD]; rfl : D.bel = C.bel).trans belC)
    unfold RaisedFrom at raised ⊢
    rw [belE]
    rw [hA] at raised
    exact raised

end

/-- Settles O25. -/
theorem maskReadyOrDeadEnd : Obligations.MaskReadyOrDeadEnd := by
  unfold Obligations.MaskReadyOrDeadEnd
  refine ⟨fun s n x u serving found svc still written tree unit empty lacks slot here plain => ?_,
    fun s n x serving found svc still written tree here plain dead cells drops read spill policy none due zero => ?_⟩
  · intro b at_ some_ read armed wide pages
    exact maskRdy_raises serving found svc still written tree unit empty lacks slot here plain some_ read armed wide pages
  · obtain rfl := stream_id found
    obtain ⟨E, y, ends, lan, pending, variant, foundE, st, svcE, next, unit, queue, raised⟩ :=
      deadEnd_stops (b := setMask s x x.set) found tree cells drops read policy ⟨none, due, zero⟩
    have row : exec (.maskRdy x.id) s = finish s E := by
      show finish s _ = _
      rw [found]
      dsimp only
      rw [serving.1, svc, still, written, if_pos (by decide), finishBuild_here here plain tree (by rw [read]; exact spill), if_pos dead, ends]
    obtain ⟨t, nextT, same⟩ := finish_to (s := s) (E := E) (by rw [lan]; exact serving.2) pending variant
    have fin := congrArg State.fin same
    have ctx := congrArg State.ctx same
    have bel := congrArg State.bel same
    refine ⟨t, y, row.trans nextT, (stream?_of_ctx ctx x.id).trans foundE, st, svcE, next, (unit?_of_fin fin ..).trans unit, ?_, ?_⟩
    · exact (congrArg Machine.Fin.maskQueue (show t.fin = E.fin from fin)).trans queue
    · unfold RaisedFrom at raised ⊢
      rw [show t.bel = E.bel from bel]
      exact raised

end Sys2Proof.Machine
end

section
/-! TOKEN_COMMIT: a held result is committed whole (01 R27, 05 R203, 10 R392, 11 R412 to R414). -/

namespace Sys2Proof.Machine

/-! ## Queues and ring positions -/

/-- The queues and the next sequence number of every ring are as they were. -/
structure SameRecords (a b : State) : Prop where
  eqs : b.eqs = a.eqs
  next : ∀ o replay, ((b.ownPkr o).ring replay).next = ((a.ownPkr o).ring replay).next

theorem SameRecords.refl (a : State) : SameRecords a a := ⟨rfl, fun _ _ => rfl⟩

theorem SameRecords.trans {a b c : State} (h : SameRecords a b) (k : SameRecords b c) : SameRecords a c :=
  ⟨k.eqs.trans h.eqs, fun o replay => (k.next o replay).trans (h.next o replay)⟩

theorem SameRecords.of_eq {a b : State} (eqs : b.eqs = a.eqs) (pkr : b.pkr = a.pkr) : SameRecords a b :=
  ⟨eqs, fun o replay => congrArg (fun p : Pkr => ((getN p.owners o).ring replay).next) pkr⟩

theorem LookOnly.records {a b : State} (h : LookOnly a b) : SameRecords a b := .of_eq h.eqs h.pkr

theorem SameRecords.foldl {α : Type} {g : State → α → State} (k : ∀ s x, SameRecords s (g s x)) (l : List α) (s : State) : SameRecords s (l.foldl g s) := by
  induction l generalizing s with
  | nil => exact .refl s
  | cons x r ih => exact (k s x).trans (ih (g s x))

theorem SameRecords.onOwnPkr (s : State) (o : Nat) {f : OwnerPkr → OwnerPkr} (keeps : ∀ p replay, ((f p).ring replay).next = (p.ring replay).next) :
    SameRecords s (s.onOwnPkr o f) :=
  ⟨rfl, fun m replay => view_modAt (fun p : OwnerPkr => (p.ring replay).next) (fun p => keeps p replay) s.pkr.owners o m⟩

theorem SameRecords.onOwnRing (s : State) (o : Nat) (replay : Bool) {f : OwnRing → OwnRing} (keeps : ∀ r, (f r).next = r.next) :
    SameRecords s (s.onOwnRing o replay f) := by
  refine .onOwnPkr s o fun p which => ?_
  cases replay <;> cases which
  · exact keeps p.recRing
  · rfl
  · rfl
  · exact keeps p.rplRing

theorem writeRingLine_records (s : State) (o : Nat) (replay : Bool) (line tries : Nat) : SameRecords s (writeRingLine s o replay line tries) := by
  unfold writeRingLine
  extract_lets r es stop bs hit u
  have hits : SameRecords s u := .onOwnRing s o replay fun _ => rfl
  clear_value u
  split
  · exact .refl s
  · split
    · have first : SameRecords s (s.onCry fun c => { c with zeroDrops := wrap32 (c.zeroDrops + 1) }) := .of_eq rfl rfl
      refine first.trans (.onOwnRing _ o replay fun r => ?_)
      rfl
    · exact hits.trans (.of_eq rfl rfl)

theorem writeLines_records (s : State) (o : Nat) (replay part : Bool) : SameRecords s (writeLines s o replay part) :=
  .foldl (fun s l => writeRingLine_records s o replay l 0) _ _

theorem ckptOver_records (s : State) (id bytes : Nat) : SameRecords s (ckptOver s id bytes) := by
  refine .foldl (fun s c => ?_) _ s
  split
  · exact .refl s
  · dsimp only
    split <;> exact .of_eq rfl rfl

theorem onStream_records (s : State) (id : Nat) (f : Stream → Stream) : SameRecords s (s.onStream id f) := .of_eq rfl rfl

theorem writeSecret_records (s : State) (who : Req) (key : List Byte) (addr domain owner : Nat) (line : List Byte) :
    SameRecords s (writeSecret s who key addr domain owner line) := .of_eq rfl rfl

theorem onUnit_records (s : State) (id step node : Nat) (f : SelUnit → SelUnit) : SameRecords s (s.onUnit id step node f) := .of_eq rfl rfl

theorem dropped_records (s : State) (id : Nat) : SameRecords s (dropSpill (dropAllUnits s id) id) := .of_eq rfl rfl

theorem takeCkpt_records (s : State) (x : Stream) : SameRecords s (takeCkpt s x) := by
  unfold takeCkpt
  extract_lets serial seq u w img v
  have written : SameRecords s w := writeLines_records ..
  have imaged : SameRecords w v := .of_eq rfl rfl
  have missed : SameRecords s u := .onOwnPkr s x.owner fun _ _ => rfl
  clear_value u w v
  split
  · exact missed.trans ((onStream_records u x.id _).trans (ckptOver_records ..))
  · refine written.trans ?_
    split
    · exact (onStream_records w x.id _).trans (ckptOver_records ..)
    · exact imaged.trans (.foldl (fun s i => writeSecret_records ..) _ v)

theorem emitToken_records (s : State) (id step token flags : Nat) : SameRecords s (emitToken s id step token flags) := by
  unfold emitToken
  split
  · exact .refl s
  · exact .of_eq rfl rfl

theorem failStep_records (s : State) (x : Stream) : SameRecords s (failStep s x) := by
  unfold failStep
  extract_lets u
  have first : SameRecords s u := (dropped_records s x.id).trans (emitToken_records ..)
  exact first.trans (onStream_records ..)

theorem faultedStep_records (s : State) (x : Stream) : SameRecords s (faultedStep s x) := by
  unfold faultedStep
  extract_lets u
  have ended : SameRecords s u := by
    dsimp only [u]
    split
    · exact .of_eq rfl rfl
    · exact .refl s
  exact (ended.trans (dropped_records ..)).trans (onStream_records ..)

theorem formSets_records (s : State) (x : Stream) : SameRecords s (formSets s x) := by
  unfold formSets
  split
  · exact .refl s
  · next t found =>
    extract_lets ns u v
    have asked : SameRecords s u := (askSpill_look s x ns.2).records.trans (.of_eq rfl rfl)
    have formed : SameRecords u v := .of_eq rfl rfl
    exact (asked.trans formed).trans (.foldl (fun s n => onUnit_records ..) _ _)

theorem buildStep_records (s : State) (x : Stream) : SameRecords s (buildStep s x) := by
  unfold buildStep
  extract_lets u
  have formed : SameRecords s u := (SameRecords.of_eq rfl rfl : SameRecords s (ungate s (s.physOf x.home))).trans (formSets_records ..)
  clear_value u
  have begun : SameRecords u (u.onStream x.id fun y => { y with st := .running, svc := .build }) := .of_eq rfl rfl
  exact (formed.trans begun).trans (lookService_look ..).records

theorem beginBuild_records (s : State) (x : Stream) : SameRecords s (beginBuild s x) := by
  rw [beginBuild_eq]
  split
  · exact faultedStep_records ..
  · split
    · split
      · refine .trans ?_ (failStep_records ..)
        split
        · exact .of_eq rfl rfl
        · exact .refl s
      · exact buildStep_records ..
    · split
      · exact .of_eq rfl rfl
      · exact (SameRecords.of_eq rfl rfl : SameRecords s (openUnit s x.id x.next 0x7F)).trans (buildStep_records ..)

theorem goOn_records (s : State) (id : Nat) (x : Stream) : SameRecords s (goOn s id x) := by
  have next : SameRecords s (if (s.tree? id).isSome || x.armed != some 0 || x.armSpent || x.rebuild then
      beginBuild (s.onStream id Stream.unrebuilt) x.unrebuilt else s.onStream id fun y => { y with st := .idle, svc := .none }) := by
    split
    · exact (SameRecords.of_eq rfl rfl : SameRecords s (s.onStream id Stream.unrebuilt)).trans (beginBuild_records ..)
    · exact .of_eq rfl rfl
  unfold goOn
  split
  · exact next
  · exact next
  · exact .refl s

/-- A boundary without recorded commands publishes nothing and stages nothing. -/
theorem serve_records (s : State) (id : Nat) : SameRecords s (serve s id) := by
  rw [serve_eq]
  split
  · exact .refl s
  · next x found =>
    split
    · exact .refl s
    · have taken : SameRecords s (takeEpoch s x) := by
        unfold takeEpoch
        split
        · exact .refl s
        · split
          · exact .refl s
          · exact .of_eq rfl rfl
      have told : SameRecords (takeEpoch s x) (resultControl (takeEpoch s x) id) := .of_eq rfl rfl
      have kept : ∀ (u : State) (y : Stream), SameRecords u (ckptTurn u y) := fun u y => by
        unfold ckptTurn
        split
        · exact takeCkpt_records u y
        · exact .refl u
      refine (taken.trans told).trans ?_
      generalize resultControl (takeEpoch s x) id = u
      unfold serveOn
      split
      · exact .refl u
      · split
        · exact kept ..
        · split
          · exact kept ..
          · exact (kept ..).trans (goOn_records ..)

/-! ## The commit of a held result -/

/-- A stream without what publishing and reporting write. -/
def Stream.loose (y : Stream) : Stream := { y with waitQueue := false, queueSaid := false, spill := [], spillSaid := false, waitCup := false }

/-- A stream after the commit of its one held result. -/
def Stream.committed (p : CommitPlan) (r : Result) (y : Stream) : Stream := { y.switchArea with
  next := y.next + 1, gen := y.gen + 1, token := some r.token, text := p.feed.text, held := [], armSpent := false
  forcedEos := false, waitRing := false, waitQueue := false, ckptSteps := y.ckptSteps + 1, idleSaid := false }

/-- The Finial, the rounds and the Lantern are as they were. -/
def SameStep (a b : State) : Prop := b.fin = a.fin ∧ b.stp = a.stp ∧ b.lan = a.lan

theorem SameStep.trans {a b c : State} (h : SameStep a b) (k : SameStep b c) : SameStep a c :=
  ⟨k.1.trans h.1, k.2.1.trans h.2.1, k.2.2.trans h.2.2⟩

theorem LookOnly.step {a b : State} (h : LookOnly a b) : SameStep a b := ⟨h.fin, h.stp, h.lan⟩

theorem publish_step (s : State) (x : Stream) (rs : List (List Byte)) : SameStep s (publish s x rs) ∧ (publish s x rs).pkr = s.pkr := by
  have waited : SameStep s (endWait s x) ∧ (endWait s x).pkr = s.pkr := by
    unfold endWait
    split <;> exact ⟨⟨rfl, rfl, rfl⟩, rfl⟩
  unfold publish
  extract_lets w e
  have drops : SameStep s e ∧ e.pkr = s.pkr := ⟨waited.1.trans ⟨rfl, rfl, rfl⟩, waited.2⟩
  clear_value e
  split
  · exact waited
  · split
    · exact ⟨waited.1.trans ⟨rfl, rfl, rfl⟩, waited.2⟩
    · split
      · exact drops
      · have said := (LookOnly.onStream e x.id fun y => { y with queueSaid := true }).trans (raiseHome_look _ x 0x0A04 x.next (x.queue + 256 * x.owner))
        exact ⟨drops.1.trans said.step, said.pkr.trans drops.2⟩

theorem RingsOnly.step {a b : State} (h : RingsOnly a b) : SameStep a b ∧ b.eqs = a.eqs := by
  have eqs := congrArg State.eqs h
  exact ⟨⟨h.fin, h.stp, h.lan⟩, eqs⟩

theorem stage_step (s : State) (o : Nat) (replay : Bool) (es : List Staged) : SameStep s (stage s o replay es) ∧ (stage s o replay es).eqs = s.eqs :=
  (writeLines_rings ..).step

/-- Entries that are staged take the next sequence numbers. -/
theorem stage_next {s : State} {o : Nat} (inside : o < s.pkr.owners.length) (replay : Bool) (es : List Staged) :
    (((stage s o replay es).ownPkr o).ring replay).next = ((s.ownPkr o).ring replay).next + es.length := by
  refine ((writeLines_records ..).next o replay).trans ?_
  rw [ring_onOwnRing inside]

theorem countRevoked_step (s : State) (x : Stream) (n : Nat) : SameStep s (countRevoked s x n) ∧ SameRecords s (countRevoked s x n) := by
  unfold countRevoked
  split
  · exact ⟨⟨rfl, rfl, rfl⟩, .refl s⟩
  · exact ⟨⟨rfl, rfl, rfl⟩, rfl, fun _ _ => rfl⟩

/-- A result with room for all that its commit makes is committed. -/
theorem commitHeld_commits {s : State} {x : Stream} {r : Result} (found : s.stream? x.id = some x) (ckpt : x.waitCkpt = false)
    (room : queueRoom s x (commitPlan s x r).group = true) (ring : ringRoom s x.owner (!x.record) (commitPlan s x r).entries.length = true)
    (owner : x.owner < s.pkr.owners.length) (queue : x.queue < s.eqs.qs.length) (spill : spillHere s x (commitPlan s x r).stepped.read = true) :
    ∃ (A : State) (z : Stream), commitHeld s x r [] = afterCommit A x.id [] (commitPlan s x r).reason ∧ A.stream? x.id = some (z.committed (commitPlan s x r) r) ∧
      z.loose = (x.stageSet (commitPlan s x r).stepped.set).loose ∧ SameStep s A ∧
      ((A.ownPkr x.owner).ring (!x.record)).next = ((s.ownPkr x.owner).ring (!x.record)).next + (commitPlan s x r).entries.length ∧
      (queueOwned s x = true → (∀ g ∈ (s.queue x.queue).resv, g.lost = false) →
        (A.queue x.queue).recs = (s.queue x.queue).recs ++ (commitPlan s x r).group) := by
  obtain ⟨p, hp⟩ : ∃ p, p = commitPlan s x r := ⟨_, rfl⟩
  obtain ⟨S, hS⟩ : ∃ S, S = s.onStream x.id fun y => y.stageSet p.stepped.set := ⟨_, rfl⟩
  obtain ⟨T, hT⟩ : ∃ T, T = publish (takeSpill S x.id) x p.group := ⟨_, rfl⟩
  obtain ⟨U, hU⟩ : ∃ U, U = stepEvents T x (x.aut.getD 0) p.stepped r.step := ⟨_, rfl⟩
  obtain ⟨V, hV⟩ : ∃ V, V = stage (U.onStream x.id (Stream.committed p r)) x.owner (!x.record) p.entries := ⟨_, rfl⟩
  obtain ⟨A, hA⟩ : ∃ A, A = countRevoked V x 1 := ⟨_, rfl⟩
  rw [← hp] at room ring spill ⊢
  have keeps : ∀ y : Stream, (y.stageSet p.stepped.set).id = y.id ∧ (y.stageSet p.stepped.set).floorKey = y.floorKey := by
    intro y
    unfold Stream.stageSet
    split <;> exact ⟨rfl, rfl⟩
  have roomS : queueRoom S x p.group = true := by rw [hS]; exact room
  have ringS : ringRoom S x.owner (!x.record) p.entries.length = true := by
    rw [ringRoom_of_keys (a := s) (by rw [hS]; rfl) (by rw [hS]; exact onStream_keys Stream.floorKey s x.id fun y => (keeps y).2)]
    exact ring
  have row : commitHeld s x r [] = afterCommit A x.id [] p.reason := by
    unfold commitHeld
    rw [← hp]
    extract_lets q S' U' W' A'
    have eS : S' = S := hS.symm
    have eA : A' = A := by
      dsimp only [A', W', U']
      rw [eS, hA, hV, hU, hT]
      rfl
    clear_value S' A'
    subst eS eA
    rw [show spillHere s x q.stepped.read = true from spill, show queueRoom S' x q.group = true from roomS,
      show ringRoom S' x.owner (!x.record) q.entries.length = true from ringS, ckpt]
    rfl
  have foundS : S.stream? x.id = some (x.stageSet p.stepped.set) := by
    rw [hS]
    exact stream_onStream _ (fun y => (keeps y).1) found
  have lookS : LookOnly S (takeSpill S x.id) := takeSpill_look ..
  have lookU : LookOnly T U := hU ▸ stepEvents_look ..
  have touched : Touches x.id Stream.loose S U := by
    rw [hU, hT]
    exact ((takeSpill_touches ⟨fun _ _ _ _ => rfl⟩ S x.id).trans (publish_touches (fun _ _ _ => rfl) _ x p.group)).trans
      (stepEvents_touches ⟨fun _ _ _ _ => rfl⟩ ..)
  obtain ⟨z, foundU, same⟩ := touched.found foundS
  have ctxA : A.ctx = (U.onStream x.id (Stream.committed p r)).ctx := by
    rw [hA, hV]
    exact (countRevoked_ctx ..).trans (stage_ctx ..)
  have stepS : SameStep s S := hS ▸ ⟨rfl, rfl, rfl⟩
  have stepT : SameStep s T := (stepS.trans lookS.step).trans (hT ▸ (publish_step ..).1)
  have stepU : SameStep s U := stepT.trans lookU.step
  have stepV : SameStep s V := stepU.trans (hV ▸ (stage_step (U.onStream x.id (Stream.committed p r)) ..).1)
  have pkrS : S.pkr = s.pkr := hS ▸ rfl
  have pkrT : T.pkr = s.pkr := by
    rw [hT, (publish_step ..).2, lookS.pkr, pkrS]
  have pkrU : U.pkr = s.pkr := lookU.pkr.trans pkrT
  refine ⟨A, z, row, (stream?_of_ctx ctxA x.id).trans ?_, same, hA ▸ stepV.trans (countRevoked_step ..).1, ?_, fun owned whole => ?_⟩
  · exact stream_onStream (Stream.committed p r) (fun y => by unfold Stream.committed Stream.switchArea; rfl) foundU
  · rw [hA, (countRevoked_step V x 1).2.next, hV, stage_next (by show x.owner < U.pkr.owners.length; rw [pkrU]; exact owner)]
    exact congrArg (fun q : Pkr => ((getN q.owners x.owner).ring (!x.record)).next + p.entries.length) pkrU
  · have eqsTake : (takeSpill S x.id).eqs = s.eqs := lookS.eqs.trans (hS ▸ rfl)
    have queueTake : (takeSpill S x.id).queue x.queue = s.queue x.queue := congrArg (fun e : Eqs => getN e.qs x.queue) eqsTake
    have eqsA : A.eqs = T.eqs := by
      rw [hA, (countRevoked_step V x 1).2.eqs, hV, (stage_step ..).2]
      exact lookU.eqs
    have recs := publish_recs (s := takeSpill S x.id) (x := x) (rs := p.group)
      (by unfold queueOwned at owned ⊢; rw [queueTake]; exact owned) (by rw [eqsTake]; exact queue) (by rw [queueTake]; exact whole)
    rw [← hT, queueTake] at recs
    exact (congrArg (fun e : Eqs => (getN e.qs x.queue).recs) eqsA).trans recs

/-! ## After the commit -/

/-- A stream that no step serves. -/
def Stream.offDuty (y : Stream) : Stream := { y with svc := .none }

/-- A stream as its end leaves it (05 R203). -/
def Stream.endedBy (reason : Nat) (y : Stream) : Stream :=
  let y := { y with
    endReason := reason, armed := some 0, armSpent := false, svc := .none, text := {}, held := [], pagesResv := 0
    waitPages := false, waitCup := false, forcedEos := false, endDue := 0, endOut := false }
  if y.st == .suspended then { y with prior := .ended } else { y with st := .ended }

theorem endedBy_running {y : Stream} (running : y.st ≠ .suspended) (reason : Nat) : y.endedBy reason = { y with
    endReason := reason, armed := some 0, armSpent := false, svc := .none, text := {}, held := [], pagesResv := 0
    waitPages := false, waitCup := false, forcedEos := false, endDue := 0, endOut := false, st := .ended } := by
  unfold Stream.endedBy
  exact if_neg (by simpa using running)

/-- The units of a stream at its boundary go. -/
def clearRests (s : State) (id : Nat) : State :=
  match s.stream? id with
  | some y => if y.svc == .none || y.svc == .waitUnit then dropAllUnits s id else s
  | none => s

theorem clearRests_keeps (s : State) (id : Nat) : (clearRests s id).ctx = s.ctx ∧ (clearRests s id).fin.egress = s.fin.egress ∧
    SameRecords s (clearRests s id) := by
  unfold clearRests
  split
  · split
    · exact ⟨rfl, rfl, .of_eq rfl rfl⟩
    · exact ⟨rfl, rfl, .refl s⟩
  · exact ⟨rfl, rfl, .refl s⟩

/-- A stream told what its results carry. -/
def Stream.told (s : State) (y : Stream) : Stream :=
  { y with resultOn := getN s.fin.resultCtl y.owner % 2 == 1, resultTop := getN s.fin.resultCtl y.owner / 2 % 128 }

/-- The end of the last commit of a plain step. -/
theorem afterCommit_plain {A : State} {x : Stream} (found : A.stream? x.id = some x) (tree : A.tree? x.id = none) (due : x.endDue = 0) (out : x.endOut = false)
    (reason : Nat) : ∃ R, (R = if reason = 0 then resultControl A x.id else (emitEnd (resultControl A x.id) x (x.next)).onStream x.id (Stream.endedBy reason)) ∧
      afterCommit A x.id [] reason = clearRests (boundary (R.onStream x.id Stream.offDuty) x.id) x.id := by
  refine ⟨_, rfl, ?_⟩
  have foundR : (resultControl A x.id).stream? x.id = some (x.told A) := stream_onStream (Stream.told A) (fun _ => rfl) found
  unfold afterCommit
  dsimp only
  rw [foundR]
  dsimp only
  by_cases none : reason = 0
  · subst none
    rw [if_pos rfl, if_pos rfl, show (resultControl A x.id).tree? x.id = Option.none from tree]
    have off : ((resultControl A x.id).onStream x.id Stream.offDuty).stream? x.id = some (x.told A).offDuty :=
      stream_onStream Stream.offDuty (fun _ => rfl) foundR
    have ends : tryEnd ((resultControl A x.id).onStream x.id Stream.offDuty) x.id =
        boundary ((resultControl A x.id).onStream x.id Stream.offDuty) x.id := by
      unfold tryEnd
      rw [off]
      exact if_pos due
    exact congrArg (fun t => clearRests t x.id) ends
  · obtain ⟨M, hM⟩ : ∃ M, M = (emitEnd (resultControl A x.id) x x.next).onStream x.id (Stream.endedBy reason) := ⟨_, rfl⟩
    have marks : markEnd (resultControl A x.id) { x.told A with endOut := (x.told A).endOut && ([] : List Result).isEmpty } reason (x.told A).next = M := by
      unfold markEnd
      rw [show ({ x.told A with endOut := (x.told A).endOut && ([] : List Result).isEmpty } : Stream).endOut = false by
        show (x.endOut && true) = false
        rw [out]
        rfl, hM]
      rfl
    have foundE : (emitEnd (resultControl A x.id) x x.next).stream? x.id = some (x.told A) := (stream?_of_ctx (emitToken_ctx ..) x.id).trans foundR
    have foundM : M.stream? x.id = some ((x.told A).endedBy reason) := by
      rw [hM]
      exact stream_onStream (Stream.endedBy reason) (fun y => by unfold Stream.endedBy; dsimp only; split <;> rfl) foundE
    have treeM : M.tree? x.id = Option.none := by
      rw [hM]
      refine Eq.trans ?_ tree
      unfold emitEnd emitToken
      split <;> rfl
    have done : (reason != 0 || (([] : List Result).isEmpty && !((M.tree? x.id).map (·.walking)).getD false)) = true := by
      rw [bne_iff_ne.mpr none, Bool.true_or]
    have off : (M.onStream x.id Stream.offDuty).stream? x.id = some ((x.told A).endedBy reason).offDuty :=
      stream_onStream Stream.offDuty (fun _ => rfl) foundM
    have ends : tryEnd (M.onStream x.id Stream.offDuty) x.id = boundary (M.onStream x.id Stream.offDuty) x.id := by
      unfold tryEnd
      rw [off]
      refine if_pos ?_
      unfold Stream.offDuty Stream.endedBy
      dsimp only
      split <;> rfl
    rw [if_neg none, if_neg none, marks, done, treeM, ← hM, if_neg none]
    exact congrArg (fun t => clearRests t x.id) ends

section
variable {A : State} {x : Stream} (found : A.stream? x.id = some x) (tree : A.tree? x.id = none) (plain : x.Plain)
include found tree plain

/-- A commit that leaves its stream running goes on to the next step. -/
theorem afterCommit_goesOn (out : x.endOut = false) : ∃ y, (afterCommit A x.id [] 0).stream? x.id = some y ∧ y.lasting = x.lasting ∧
    SameRecords A (afterCommit A x.id [] 0) := by
  obtain ⟨none, due, zero⟩ := plain
  obtain ⟨R, hR, after⟩ := afterCommit_plain found tree due out 0
  rw [if_pos rfl] at hR
  have there : (R.onStream x.id Stream.offDuty).stream? x.id = some (x.told A).offDuty := by
    rw [hR]
    exact stream_onStream Stream.offDuty (fun _ => rfl) (stream_onStream (Stream.told A) (fun _ => rfl) found)
  have first : SameRecords A (R.onStream x.id Stream.offDuty) := hR ▸ .of_eq rfl rfl
  obtain ⟨ctx, -, records⟩ := clearRests_keeps (boundary (R.onStream x.id Stream.offDuty) x.id) x.id
  rw [after, stream?_of_ctx ctx]
  obtain ⟨y, foundY, same, -⟩ := boundary_returns there none due zero
  refine ⟨y, foundY, same, (first.trans ?_).trans records⟩
  rw [boundary_serves there none due zero]
  exact serve_records ..

/-- A commit that ends its stream: the stream is ENDED, and the END record of the following step is on its way (R41). -/
theorem afterCommit_ends (out : x.endOut = false) (open_ : A.lan.fenced = false) (running : x.st ≠ .suspended) {reason : Nat} (ends : reason ≠ 0) :
    ∃ y, (afterCommit A x.id [] reason).stream? x.id = some y ∧ y.st = .ended ∧ y.unkept = ((x.told A).endedBy reason).unkept ∧
      SameRecords A (afterCommit A x.id [] reason) ∧
      (afterCommit A x.id [] reason).fin.egress = A.fin.egress ++ [{ stream := x.id, step := x.next, token := 0xFFFFFFFF, flags := 1 }] := by
  obtain ⟨none, due, zero⟩ := plain
  obtain ⟨R, hR, after⟩ := afterCommit_plain found tree due out reason
  rw [if_neg ends] at hR
  have kind := endedBy_running (y := x.told A) running reason
  have foundE : (emitEnd (resultControl A x.id) x x.next).stream? x.id = some (x.told A) :=
    (stream?_of_ctx (emitToken_ctx ..) x.id).trans (stream_onStream (Stream.told A) (fun _ => rfl) found)
  have foundR : R.stream? x.id = some ((x.told A).endedBy reason) := by
    rw [hR]
    exact stream_onStream (Stream.endedBy reason) (fun y => by unfold Stream.endedBy; dsimp only; split <;> rfl) foundE
  have there : (R.onStream x.id Stream.offDuty).stream? x.id = some ((x.told A).endedBy reason) := by
    rw [stream_onStream Stream.offDuty (fun _ => rfl) foundR, kind]
    rfl
  have first : SameRecords A (R.onStream x.id Stream.offDuty) := by
    rw [hR]
    have told : SameRecords A (resultControl A x.id) := .of_eq rfl rfl
    exact ((told.trans (emitToken_records ..)).trans (onStream_records ..)).trans (onStream_records ..)
  have egress : (R.onStream x.id Stream.offDuty).fin.egress = A.fin.egress ++ [{ stream := x.id, step := x.next, token := 0xFFFFFFFF, flags := 1 }] := by
    rw [hR]
    have emitted := emitToken_open (s := resultControl A x.id) open_ x.id x.next 0xFFFFFFFF (tokenFlags true false false false)
    show (emitEnd (resultControl A x.id) x x.next).fin.egress = _
    rw [emitEnd, emitted]
    rfl
  obtain ⟨ctx, out', records⟩ := clearRests_keeps (boundary (R.onStream x.id Stream.offDuty) x.id) x.id
  have fields : ((x.told A).endedBy reason).recorded = [] ∧ ((x.told A).endedBy reason).endDue = 0 ∧ ((x.told A).endedBy reason).zeroing = false ∧
      ((x.told A).endedBy reason).Still := by
    rw [kind]
    exact ⟨none, rfl, zero, by simp [Stream.Still]⟩
  obtain ⟨none', due', zero', still'⟩ := fields
  obtain ⟨house, -, y, foundY, same⟩ := boundary_still there none' due' zero' still'
  rw [after, stream?_of_ctx ctx, out']
  refine ⟨y, foundY, ?_, same, (first.trans ?_).trans records, ?_⟩
  · have st := congrArg Stream.st same
    rw [kind] at st
    exact st
  · rw [boundary_serves there none' due' zero']
    exact serve_records ..
  · rw [house.fin]
    exact egress

end

/-! ## The row -/

theorem set_staged (x : Stream) (cs : ConfSet) : (x.stageSet cs).switchArea.set = cs := by
  unfold Stream.stageSet Stream.switchArea Stream.set
  cases x.area1 <;> rfl

/-- A stream that commits: what its commit keeps of it, and what it makes new. -/
theorem committed_fields {x z : Stream} {p : CommitPlan} {r : Result} (same : z.loose = (x.stageSet p.stepped.set).loose) :
    (z.committed p r).id = x.id ∧ ((z.committed p r).Plain ↔ x.Plain) ∧ (z.committed p r).endOut = x.endOut ∧ (z.committed p r).st = x.st ∧
      (z.committed p r).next = x.next + 1 ∧ (z.committed p r).gen = x.gen + 1 ∧ (z.committed p r).set = p.stepped.set ∧
      (z.committed p r).area1 = !x.area1 ∧ (z.committed p r).endReason = x.endReason := by
  have kept : ∀ {α : Type} (g : Stream → α), (∀ y : Stream, g y.loose = g y) → (∀ cs, g (x.stageSet cs) = g x) → g z = g x := fun g blind staged =>
    (blind z).symm.trans ((congrArg g same).trans ((blind _).trans (staged _)))
  have staged : ∀ {α : Type} (g : Stream → α), (∀ a b, g { x with stack0 := a, stack1 := b } = g x) → ∀ cs, g (x.stageSet cs) = g x := by
    intro α g blind cs
    unfold Stream.stageSet
    split
    · exact blind cs x.stack1
    · exact blind x.stack0 cs
  have id := kept Stream.id (fun _ => rfl) (staged _ fun _ _ => rfl)
  have recorded := kept Stream.recorded (fun _ => rfl) (staged _ fun _ _ => rfl)
  have due := kept Stream.endDue (fun _ => rfl) (staged _ fun _ _ => rfl)
  have zero := kept Stream.zeroing (fun _ => rfl) (staged _ fun _ _ => rfl)
  have out := kept Stream.endOut (fun _ => rfl) (staged _ fun _ _ => rfl)
  have st := kept Stream.st (fun _ => rfl) (staged _ fun _ _ => rfl)
  have next := kept Stream.next (fun _ => rfl) (staged _ fun _ _ => rfl)
  have gen := kept Stream.gen (fun _ => rfl) (staged _ fun _ _ => rfl)
  have area := kept Stream.area1 (fun _ => rfl) (staged _ fun _ _ => rfl)
  have reason := kept Stream.endReason (fun _ => rfl) (staged _ fun _ _ => rfl)
  have sets := congrArg (fun y : Stream => y.switchArea.set) same
  refine ⟨id, ?_, out, st, congrArg (· + 1) next, congrArg (· + 1) gen, Eq.trans sets (set_staged x _), congrArg (!·) area, reason⟩
  unfold Stream.Plain
  rw [show (z.committed p r).recorded = x.recorded from recorded, show (z.committed p r).endDue = x.endDue from due,
    show (z.committed p r).zeroing = x.zeroing from zero]

/-- Settles O32. -/
theorem tokenCommits : Obligations.TokenCommits := by
  unfold Obligations.TokenCommits
  intro s n x r carrying found still held ckpt tree none due zero running p room ring owner queue spill out
  obtain rfl := stream_id found
  obtain ⟨stepping, fenced⟩ := carrying_iff.mp carrying
  obtain ⟨A, z, row, there, same, step, next, recs⟩ := commitHeld_commits (r := r) found ckpt room ring owner queue spill
  obtain ⟨id, plain, out', st, nextZ, genZ, setZ, areaZ, reasonZ⟩ := committed_fields (r := r) same
  have tokenZ : (z.committed p r).token = some r.token := rfl
  have textZ : (z.committed p r).text = p.feed.text := rfl
  obtain ⟨C, hC⟩ : ∃ C, C = z.committed p r := ⟨_, rfl⟩
  rw [← hC] at id plain out' st nextZ genZ setZ areaZ reasonZ tokenZ textZ
  have foundA : A.stream? C.id = some C := by
    rw [id, hC]
    exact there
  have treeA : A.tree? C.id = .none := by
    rw [id]
    exact (congrArg (fun p : Stp => p.trees.find? fun v : Tree => v.stream == x.id) step.2.1).trans tree
  have plainC := plain.mpr ⟨none, due, zero⟩
  have openA : A.lan.fenced = false := by rw [step.2.2]; exact fenced
  have fwd : Fwd s (commitHeld s x r []) := commitHeld_fwd (.refl s)
  have exec_ : exec (.tokenCommit x.id) s = finish s (commitHeld s x r []) := by
    show finish s _ = _
    rw [found]
    dsimp only
    rw [stepping, still, held]
    rfl
  obtain ⟨t, nextT, sames⟩ := finish_to (s := s) (E := commitHeld s x r []) ((congrArg Lan.fenced fwd.lan).trans fenced) fwd.pending fwd.variant
  have ctx := congrArg State.ctx sames
  have fin := congrArg State.fin sames
  have pkr := congrArg State.pkr sames
  have eqs := congrArg State.eqs sames
  have ringT : SameRecords A (afterCommit A C.id [] p.reason) →
      ((t.ownPkr x.owner).ring (!x.record)).next = ((s.ownPkr x.owner).ring (!x.record)).next + p.entries.length ∧
      (queueOwned s x = true → (∀ g ∈ (s.queue x.queue).resv, g.lost = false) → (t.queue x.queue).recs = (s.queue x.queue).recs ++ p.group) := by
    intro kept
    have nextE := kept.next x.owner (!x.record)
    have eqsE := kept.eqs
    rw [id, ← show commitHeld s x r [] = afterCommit A x.id [] p.reason from row] at nextE eqsE
    refine ⟨?_, fun owned whole => ?_⟩
    · exact (congrArg (fun q : Pkr => ((getN q.owners x.owner).ring (!x.record)).next) pkr).trans (nextE.trans next)
    · exact (congrArg (fun q : Eqs => (getN q.qs x.queue).recs) (Eq.trans eqs eqsE)).trans (recs owned whole)
  by_cases reason : p.reason = 0
  · obtain ⟨y, foundY, last, kept⟩ := afterCommit_goesOn foundA treeA plainC (out'.trans out)
    obtain ⟨ringE, recsE⟩ := ringT (reason ▸ kept)
    rw [id, ← reason, ← show commitHeld s x r [] = afterCommit A x.id [] p.reason from row] at foundY
    have nextY := congrArg Stream.next last
    have genY := congrArg Stream.gen last
    have setY := congrArg Stream.set last
    have areaY := congrArg Stream.area1 last
    have tokenY := congrArg Stream.token last
    have textY := congrArg Stream.text last
    have reasonY := congrArg Stream.endReason last
    exact ⟨t, y, exec_.trans nextT, (stream?_of_ctx ctx x.id).trans foundY, Eq.trans nextY nextZ, Eq.trans genY genZ, Eq.trans setY setZ, Eq.trans areaY areaZ,
      Eq.trans tokenY tokenZ, fun _ => ⟨Eq.trans textY textZ, Eq.trans reasonY reasonZ⟩, fun no => absurd reason no, ringE, recsE⟩
  · obtain ⟨y, foundY, ended, last, kept, egress⟩ := afterCommit_ends foundA treeA plainC (out'.trans out) openA (by rw [st, running]; decide) reason
    obtain ⟨ringE, recsE⟩ := ringT kept
    rw [id, ← show commitHeld s x r [] = afterCommit A x.id [] p.reason from row] at foundY egress
    rw [endedBy_running (y := C.told A) (by show C.st ≠ _; rw [st, running]; decide)] at last
    have nextY := congrArg Stream.next last
    have genY := congrArg Stream.gen last
    have setY := congrArg Stream.set last
    have areaY := congrArg Stream.area1 last
    have tokenY := congrArg Stream.token last
    have reasonY := congrArg Stream.endReason last
    have armedY := congrArg Stream.armed last
    refine ⟨t, y, exec_.trans nextT, (stream?_of_ctx ctx x.id).trans foundY, Eq.trans nextY nextZ, Eq.trans genY genZ, Eq.trans setY setZ, Eq.trans areaY areaZ,
      Eq.trans tokenY tokenZ, fun no => absurd no reason, fun _ => ⟨ended, reasonY, armedY, ?_⟩, ringE, recsE⟩
    rw [show t.fin = (commitHeld s x r []).fin from fin, egress, step.1, nextZ]

end Sys2Proof.Machine
end

section
/-! Bulk jobs (04, 05, 06, 10): how their commands start them, and the plan of a job whose input has been read. -/

namespace Sys2Proof.Machine

/-! ## The command of a job -/

theorem runJob_accepted {s : State} {k op : Nat} {c : Cmd} (h : s.Accepted k op c) (start read : State → Cmd → State) :
    runJob s k op start read = start s c := by
  obtain ⟨steps, -, cmd, -, code, phase⟩ := accepted_facts h
  simp [runJob, steps, cmd, code, phase]

theorem runJob_reads {s : State} {k op : Nat} {c : Cmd} {j : Job} (steps : s.stepping = true) (cmd : s.cmd? k = some c) (code : c.opcode = op)
    (phase : c.phase = .recorded) (job : s.job? k = some j) (reading : j.reading = true) (start read : State → Cmd → State) :
    runJob s k op start read = read s c := by
  simp [runJob, steps, cmd, code, phase, job, reading]

/-- A failing check completes the command and leaves all but the Ring Unit as it was. -/
theorem finish_rejects {s : State} (c : Cmd) (st : Status) (d1 : Nat) (open_ : s.lan.fenced = false) :
    ∃ t, finish s (complete s c st.code 0 0 d1) = .next t ∧ Completed s t c st.code 0 0 d1 ∧ { t with rng := s.rng }.sansFab = s.sansFab :=
  finish_complete open_ rfl rfl rfl rfl

/-! ## Placing a job and asking for its input -/

theorem linesOf_empty (addr : Nat) : linesOf addr 0 = [] := rfl

theorem not_awaited_empty (s : State) (who : Req) (addr : Nat) : awaited s who addr 0 = false := rfl

theorem fetchSegs_sansFab (s : State) (who : Req) (xs : List (Nat × Nat)) : (fetchSegs s who xs).sansFab = s.sansFab :=
  foldl_keeps _ State.sansFab (fun _ _ => fetchBytes_sansFab ..) _ _

theorem le_sum_of_mem {n : Nat} {l : List Nat} (mem : n ∈ l) : n ≤ l.sum := by
  induction l with
  | nil => cases mem
  | cons m l ih =>
    rw [List.sum_cons]
    rcases List.mem_cons.mp mem with rfl | later
    · exact Nat.le_add_right ..
    · exact Nat.le_trans (ih later) (Nat.le_add_left ..)

/-- An input with an awaited piece is not empty. -/
theorem total_of_awaited {s : State} {who : Req} {segs : List (Nat × Nat)} (h : ∃ g ∈ segs, awaited s who g.1 g.2 = true) :
    (segs.map Prod.snd).sum ≠ 0 := by
  obtain ⟨⟨a, n⟩, mem, waits⟩ := h
  intro zero
  have none : n = 0 := Nat.le_zero.mp (zero ▸ le_sum_of_mem (List.mem_map.mpr ⟨(a, n), mem, rfl⟩))
  rw [none, not_awaited_empty] at waits
  exact absurd waits (by decide)

theorem tokenizeRead_asks {s : State} {c : Cmd}
    (waits : ∃ g ∈ segsOf (readable s (.command c.ticket) c.addr24 (16 * c.len32)).1, awaited s (.command c.ticket) g.1 g.2 = true) :
    (tokenizeRead s c).sansFab = s.sansFab := by
  unfold tokenizeRead
  dsimp only
  rw [if_pos (List.any_eq_true.mpr waits)]
  exact fetchSegs_sansFab ..

theorem detokRead_asks {s : State} {c : Cmd} (waits : awaited s (.command c.ticket) c.addr24 (4 * c.len32) = true) :
    (detokRead s c).sansFab = s.sansFab := by
  unfold detokRead
  dsimp only
  rw [if_pos waits]
  exact fetchBytes_sansFab ..

/-! ## The plan of a job -/

/-- What a job has planned: it does not depend on how its units are staged and posted. -/
def Job.planned (j : Job) : Nat × Nat × Nat × Option Nat × Bool × List (List (Nat × List Byte)) × Status × Nat × Nat :=
  (j.kind, j.lead, j.nextUnit, j.errUnit, j.reading, j.units.map JobUnit.out, j.result, j.d0, j.d1)

/-- The same, with which units are posted. -/
def Job.staged (j : Job) : (Nat × Nat × Nat × Option Nat × Bool × List (List (Nat × List Byte)) × Status × Nat × Nat) × List Bool :=
  (j.planned, j.units.map JobUnit.posted)

theorem map_modAt {α β : Type} (g : α → β) {f : α → α} (still : ∀ x, g (f x) = g x) (l : List α) (n : Nat) : (modAt l n f).map g = l.map g := by
  apply List.ext_getElem?
  intro i
  simp only [modAt, List.getElem?_map, List.getElem?_modify]
  cases l[i]? with
  | none => rfl
  | some x =>
    by_cases e : n = i
    · simp [e, still]
    · simp [e]

theorem jobView_onJobOf {β : Type} (view : Job → β) {s : State} (k t : Nat) {f : Job → Job} (keeps : ∀ j, (f j).ticket = j.ticket)
    (still : ∀ j, view (f j) = view j) : ((s.onJobOf t f).job? k).map view = (s.job? k).map view := by
  by_cases e : t = k
  · subst e
    rw [job_onJobOf s t keeps, Option.map_map]
    exact congrArg (Option.map · (s.job? t)) (funext still)
  · have other : (s.onJobOf t f).job? k = s.job? k := find?_modWhere_other (q := fun j : Job => j.ticket == k)
      (fun j h => by simp [keeps, beq_iff_eq.mp h, e]) _
    rw [other]

theorem stageUnits_staged (s : State) (t k : Nat) : ((stageUnits s t).job? k).map Job.staged = (s.job? k).map Job.staged := by
  unfold stageUnits
  split
  · rfl
  · refine foldl_keeps _ (fun s : State => (s.job? k).map Job.staged) (fun s n => ?_) _ _
    dsimp only
    split
    · rfl
    · refine jobView_onJobOf Job.staged k t (fun _ => rfl) fun j => ?_
      simp only [Job.staged, Job.planned]
      rw [map_modAt JobUnit.out (by intro; rfl), map_modAt JobUnit.posted (by intro; rfl)]

theorem stageUnits_rest (s : State) (t : Nat) : { stageUnits s t with job := s.job } = s := by
  unfold stageUnits
  split
  · rfl
  · refine foldl_keeps _ (fun u : State => { u with job := s.job }) (fun u n => ?_) _ _
    dsimp only
    split <;> rfl

theorem postUnits_planned (s : State) (t k : Nat) : ((postUnits s t).job? k).map Job.planned = (s.job? k).map Job.planned := by
  unfold postUnits
  split
  · rfl
  · next j _ =>
    extract_lets due u v
    have same : v.job = s.job := by
      dsimp only [v, u]
      split <;> rfl
    clear_value v
    refine Eq.trans (jobView_onJobOf Job.planned (s := v) k t (fun _ => rfl) fun j => ?_) (congrArg (Option.map Job.planned) (job?_of_job same k))
    simp only [Job.planned]
    rw [foldl_keeps (fun us n => modAt us n fun u => { u with posted := true }) (List.map JobUnit.out) (fun _ _ => map_modAt _ (by intro; rfl) _ _)]

theorem postUnits_rest (s : State) (t : Nat) : { postUnits s t with job := s.job, tur := s.tur } = s := by
  unfold postUnits
  split
  · rfl
  · dsimp only
    split <;> rfl

theorem ungateCluster_lane (s : State) (k p : Nat) : ((ungateCluster s k).turret p).lane = (s.turret p).lane := by
  by_cases len : p < s.tur.ts.length
  · simp only [ungateCluster, State.turret, State.onTur, getN, List.getD_eq_getElem?_getD, List.getElem?_map, List.getElem?_range len,
      Option.map_some, Option.getD_some]
    split <;> rfl
  · simp [ungateCluster, State.turret, State.onTur, getN, len]

/-- The first units of a job all go to its lead's empty lane. -/
theorem postUnits_first {s : State} {t : Nat} {j : Job} (job : s.job? t = some j) (first : j.nextUnit = 0)
    (unposted : ∀ b ∈ j.units.map JobUnit.posted, b = false) (some : j.units ≠ []) (lead : j.lead < s.tur.ts.length) (lane : (s.turret j.lead).lane = []) :
    ((postUnits s t).turret j.lead).lane = (List.range (min 64 j.units.length)).map fun n => { kind := j.kind, ticket := t, unit := n } := by
  have due : ((List.range (min (j.nextUnit + 64) j.units.length)).filter fun n =>
      decide (j.nextUnit ≤ n) && !(getN j.units n).posted).take (laneSize - (s.turret j.lead).lane.length) = List.range (min 64 j.units.length) := by
    rw [first, lane, List.filter_eq_self.mpr, Nat.zero_add]
    · exact List.take_of_length_le (by rw [List.length_range]; exact Nat.min_le_left ..)
    · intro n mem
      have inside : n < j.units.length := by
        have := List.mem_range.mp mem
        omega
      have plain : (getN j.units n).posted = false := by
        have e : getN j.units n = j.units[n] := by simp [getN, inside]
        rw [e]
        exact unposted _ (List.mem_map.mpr ⟨_, List.getElem_mem inside, rfl⟩)
      simp [plain]
  have unitsDue : (List.range (min 64 j.units.length)).isEmpty = false := by
    have := List.length_pos_iff.mpr some
    cases e : min 64 j.units.length with
    | zero => omega
    | succ n => rw [List.range_succ_eq_map]; rfl
  have posted := ungateCluster_posted s (j.lead / 17)
  have inside : j.lead < (ungateCluster s (j.lead / 17)).tur.ts.length := by rw [posted.len]; exact lead
  have empty : ((ungateCluster s (j.lead / 17)).turret j.lead).lane = [] := by rw [ungateCluster_lane, lane]
  have lanes : (postUnits s t).turret j.lead = ((ungateCluster s (j.lead / 17)).onTurret j.lead fun u =>
      { u with lane := u.lane ++ (List.range (min 64 j.units.length)).map fun n => { kind := j.kind, ticket := t, unit := n } }).turret j.lead := by
    unfold postUnits
    rw [job]
    dsimp only
    rw [due, unitsDue]
    rfl
  rw [lanes, turret_onTurret _ _ _ inside]
  dsimp only
  rw [empty, List.nil_append]

theorem jobEnd_goesOn {s : State} {k : Nat} {j : Job} (job : s.job? k = some j) (good : j.errUnit = none) (more : j.nextUnit < j.units.length) :
    jobEnd s k = s := by
  unfold jobEnd
  rw [job]
  simp [good, more]

/-- What a job whose input has been read has planned, and where its first units are. -/
theorem jobReady_plans {s : State} {k : Nat} {j : Job} {p : JobPlan} (job : s.job? k = some j) (first : j.nextUnit = 0) (good : j.errUnit = none)
    (some : p.units ≠ []) :
    (jobReady s k fun j => j.plan p).Planned k (p.units.map (·.out)) p.result p.d0 p.d1 ∧
      { jobReady s k (fun j => j.plan p) with job := s.job, tur := s.tur } = s ∧
      ((∀ u ∈ p.units, u.posted = false) → j.lead < s.tur.ts.length → (s.turret j.lead).lane = [] →
        ((jobReady s k fun j => j.plan p).turret j.lead).lane =
          (List.range (min 64 p.units.length)).map fun n => { kind := j.kind, ticket := k, unit := n }) := by
  obtain ⟨A, a⟩ : ∃ A, A = s.onJobOf k fun j => { j.plan p with reading := false } := ⟨_, rfl⟩
  have jobA : A.job? k = .some { j.plan p with reading := false } := by
    rw [a, job_onJobOf s k (by intro; rfl), job]
    rfl
  obtain ⟨B, b⟩ : ∃ B, B = stageUnits A k := ⟨_, rfl⟩
  have stagedB : (B.job? k).map Job.staged = .some (Job.staged { j.plan p with reading := false }) := by rw [b, stageUnits_staged, jobA]; rfl
  obtain ⟨jb, jobB, viewB⟩ := Option.map_eq_some_iff.mp stagedB
  have restB : { B with job := A.job } = A := by rw [b]; exact stageUnits_rest A k
  obtain ⟨C, c⟩ : ∃ C, C = postUnits B k := ⟨_, rfl⟩
  have plannedC : (C.job? k).map Job.planned = .some (Job.planned { j.plan p with reading := false }) := by
    rw [c, postUnits_planned, jobB]
    exact congrArg (fun v => Option.some v.1) viewB
  obtain ⟨jc, jobC, viewC⟩ := Option.map_eq_some_iff.mp plannedC
  have restC : { C with job := B.job, tur := B.tur } = B := by rw [c]; exact postUnits_rest B k
  simp only [Job.staged, Job.planned, Prod.mk.injEq] at viewB viewC
  obtain ⟨⟨kindB, leadB, firstB, -, -, outB, -⟩, postedB⟩ := viewB
  obtain ⟨-, -, firstC, goodC, readC, outC, resC, d0C, d1C⟩ := viewC
  have lenB : jb.units.length = p.units.length := by simpa [Job.plan] using congrArg List.length outB
  have lenC : jc.units.length = p.units.length := by simpa [Job.plan] using congrArg List.length outC
  have pos : 0 < p.units.length := List.length_pos_iff.mpr some
  have ends : jobReady s k (fun j => j.plan p) = C := by
    unfold jobReady
    rw [← a, ← b, ← c]
    exact jobEnd_goesOn jobC (goodC.trans good) (by rw [firstC, lenC]; exact first ▸ pos)
  have turB : B.tur = s.tur := by
    have e := congrArg State.tur restB
    rw [a] at e
    exact e
  refine ⟨⟨jc, ends ▸ jobC, readC, outC, resC, d0C, d1C⟩, ?_, fun unposted lead lane => ?_⟩
  · rw [ends]
    have restA : { A with job := s.job } = s := by rw [a]; rfl
    have e := congrArg (fun u : State => { u with job := s.job, tur := s.tur }) restC
    have f := congrArg (fun u : State => { u with job := s.job, tur := s.tur }) restB
    have g := congrArg (fun u : State => { u with job := s.job, tur := s.tur }) restA
    exact (e.trans f).trans g
  · rw [ends, c]
    have sameB : B.turret j.lead = s.turret j.lead := by rw [State.turret, turB]; rfl
    have postB := postUnits_first (s := B) jobB (firstB.trans first) (by rw [postedB]; simpa [Job.plan] using unposted)
      (List.length_pos_iff.mp (by rw [lenB]; exact pos)) (by rw [leadB, turB]; exact lead) (by rw [leadB]; exact (congrArg Turret.lane sameB).trans lane)
    rw [lenB, kindB, leadB] at postB
    exact postB

/-! ## DETOKENIZE and MASK_REPLAY -/

theorem detokUnits_unposted (l : List (List (List Byte))) : ∀ k n, ∀ u ∈ (detokUnits l k n).units, u.posted = false := by
  induction l with
  | nil => simp [detokUnits]
  | cons g gs ih =>
    intro k n u mem
    rcases List.mem_cons.mp mem with rfl | later
    · rfl
    · exact ih _ _ u later

theorem detokPlan_unposted (d : DetokRes) (n : Nat) (whole : Bool) : ∀ u ∈ (detokPlan d n whole).units, u.posted = false := by
  unfold detokPlan
  dsimp only
  split <;> exact fun u mem => detokUnits_unposted _ _ _ u mem

theorem dropJob_left (s : State) (k : Nat) : (dropJob s k).job? k = none ∧ (dropJob s k).lan = s.lan ∧ (dropJob s k).rng = s.rng ∧
    (dropJob s k).pending = s.pending ∧ (dropJob s k).variant = s.variant := by
  refine ⟨?_, rfl, rfl, rfl, rfl⟩
  refine List.find?_eq_none.mpr fun j mem => ?_
  have other := (List.mem_filter.mp mem).2
  simpa using other

theorem ownPkr_placed (s : State) (c : Cmd) (n : Nat) (names : Job) (o : Nat) : (placeJob s c n names).ownPkr o = s.ownPkr o := rfl

theorem ringEntry_placed (s : State) (c d : Cmd) (n : Nat) (names : Job) (o m : Nat) :
    ringEntry (placeJob s c n names) d.ticket o m = ringEntry s d.ticket o m := by
  have key : (placeJob s c n names).key? o = s.key? o := rfl
  unfold ringEntry
  simp only [readBytes_fab (a := s) (b := placeJob s c n names) rfl, ownPkr_placed, key]

theorem ringEntries_placed (s : State) (c d : Cmd) (n : Nat) (names : Job) (o : Nat) (l : List Nat) :
    ringEntries (placeJob s c n names) d.ticket o l = ringEntries s d.ticket o l := by
  induction l with
  | nil => rfl
  | cons m l ih => simp only [ringEntries, ih, ringEntry_placed]

theorem loggedSet_placed (s : State) (c d : Cmd) (n : Nat) (names : Job) (a : Automaton) (ref : Nat) :
    loggedSet (placeJob s c n names) d a ref = loggedSet s d a ref := by
  -- The kernel may not look into the match of `loggedSet`, so its body is compared with its `have`s in place.
  have whole : loggedSet = loggedSet := rfl
  conv at whole => rhs; delta loggedSet
  have at_ : ∀ u : State, _ := fun u => congrFun (congrFun (congrFun (congrFun whole u) d) a) ref
  refine (at_ (placeJob s c n names)).trans (Eq.trans ?_ (at_ s).symm)
  clear at_ whole
  simp -zeta only [ringEntry_placed, ringEntries_placed, ownPkr_placed]

theorem replayRef_placed (s : State) (c d : Cmd) (n : Nat) (names : Job) (ref : Nat) : replayRef (placeJob s c n names) d ref = replayRef s d ref := by
  unfold replayRef
  simp only [loggedSet_placed]
  rfl

theorem replayRefs_placed (s : State) (c d : Cmd) (n : Nat) (names : Job) (refs : List Nat) :
    replayRefs (placeJob s c n names) d refs = replayRefs s d refs := by
  induction refs with
  | nil => rfl
  | cons r refs ih => simp only [replayRefs, ih, replayRef_placed]

theorem groupsBy_ne_nil {α : Type} {n k : Nat} {l : List α} (some : l ≠ []) (room : 0 < k) : groupsBy n k l ≠ [] := by
  obtain ⟨x, xs, rfl⟩ := List.exists_cons_of_ne_nil some
  obtain ⟨k, rfl⟩ := Nat.exists_eq_succ_of_ne_zero (Nat.ne_of_gt room)
  simp [groupsBy]

/-! ## The obligation -/

theorem tokenize_starts {s : State} {k : Nat} {c : Cmd} (h : s.Accepted k 0x30 c) : exec (.tokenize k) s = finish s (tokenizeStart s c) :=
  congrArg (finish s) (runJob_accepted h tokenizeStart tokenizeRead)

theorem detokenize_starts {s : State} {k : Nat} {c : Cmd} (h : s.Accepted k 0x31 c) : exec (.detokenize k) s = finish s (detokStart s c) :=
  congrArg (finish s) (runJob_accepted h detokStart detokRead)

theorem tokenizeStart_rejects {s : State} {c : Cmd} {st : Status} (bad : tokenizeStatus s c = some st) : tokenizeStart s c = reject s c st := by
  unfold tokenizeStart
  rw [bad]

theorem tokenizeStart_empty {s : State} {c : Cmd} {bs : List Byte} (good : tokenizeStatus s c = none)
    (got : readBytes s (.command c.ticket) c.addr24 (16 * c.len32) = .got bs) (scatter : scatterOk bs = true) (empty : ((segsOf bs).map Prod.snd).sum = 0) :
    tokenizeStart s c = complete s c Status.ok.code := by
  unfold tokenizeStart
  rw [good]
  dsimp only
  rw [got]
  simp [scatter, empty]

theorem tokenizeStart_places {s : State} {c : Cmd} {bs : List Byte} (good : tokenizeStatus s c = none)
    (got : readBytes s (.command c.ticket) c.addr24 (16 * c.len32) = .got bs) (scatter : scatterOk bs = true)
    (waits : ∃ g ∈ segsOf bs, awaited s (.command c.ticket) g.1 g.2 = true) (read : (readable s (.command c.ticket) c.addr24 (16 * c.len32)).1 = bs) :
    (tokenizeStart s c).sansFab = (placeJob s c ((segsOf bs).map Prod.snd).sum {
      slots := if c.slotless then [] else [c.slot16], prog := some (tokenizeProgram s c) }).sansFab := by
  have some := total_of_awaited waits
  unfold tokenizeStart
  rw [good]
  dsimp only
  rw [got]
  simp only [scatter, Bool.not_true, Bool.false_eq_true, if_false, if_neg some]
  exact tokenizeRead_asks (c := { c with phase := .recorded }) (by rw [← read] at waits; exact waits)

theorem detokStart_rejects {s : State} {c : Cmd} {st : Status} (bad : detokStatus s c = some st) : detokStart s c = reject s c st := by
  unfold detokStart
  rw [bad]

theorem detokStart_empty {s : State} {c : Cmd} (good : detokStatus s c = none) (empty : c.len32 = 0) :
    detokStart s c = complete s c Status.ok.code := by
  unfold detokStart
  rw [good]
  exact if_pos empty

theorem detokStart_places {s : State} {c : Cmd} (good : detokStatus s c = none) (long : c.len32 ≠ 0)
    (waits : awaited s (.command c.ticket) c.addr24 (4 * c.len32) = true) :
    (detokStart s c).sansFab = (placeJob s c (4 * c.len32) {
      slots := if c.slotless then [] else [c.slot16], stop := if c.bit 17 2 then some (c.owner, c.b 19) else none }).sansFab := by
  unfold detokStart
  rw [good]
  dsimp only
  rw [if_neg long]
  exact detokRead_asks (c := { c with phase := .recorded }) waits

theorem detokRead_faulted {s : State} {c : Cmd} {j : Job} (here : awaited s (.command c.ticket) c.addr24 (4 * c.len32) = false)
    (job : s.job? c.ticket = some j) (bad : jobFaulted s j = true) : detokRead s c = reject (dropJob s c.ticket) c .digestMismatch := by
  unfold detokRead
  simp [here, job, bad]

/-- The plan of a DETOKENIZE whose input is there. -/
def detokPlanned (s : State) (c : Cmd) : JobPlan :=
  let r := readable s (.command c.ticket) c.addr24 (4 * c.len32)
  let ids := leWords 4 (r.1.take (r.1.length / 4 * 4))
  detokPlan (detokGo (c.bit 17 1) (if c.bit 17 2 then s.stop? c.owner (c.b 19) else none) (jobVoc s c)
    (if c.fmtB then c.outLen else 64 * c.len32) r.2 ids {} 0 0) ids.length r.2

theorem detokRead_plans {s : State} {c : Cmd} {j : Job} (here : awaited s (.command c.ticket) c.addr24 (4 * c.len32) = false)
    (job : s.job? c.ticket = some j) (good : jobFaulted s j = false) : detokRead s c = jobReady s c.ticket fun j => j.plan (detokPlanned s c) := by
  unfold detokRead
  simp only [here, job, good, Option.map_some, Option.getD_some, Bool.false_eq_true, if_false]
  rfl

theorem runReplay_plans {s : State} {c : Cmd} {bs : List Byte} {ms : List (List Byte)} (phase : c.phase = .dispatched) (input : c.addr24 % 8 = 0)
    (output : c.outAddr % 128 = 0) (got : readBytes s (.command c.ticket) c.addr24 (8 * c.len32) = .got bs)
    (refs : replayRefs s c (leWords 8 bs) = .got ms) :
    runReplay s c = jobReady (countDecrypted (placeJob s c (8 * c.len32) (replayNames (leWords 8 bs))) c) c.ticket fun j =>
      j.plan (replayPlan (masksFit c.outLen ms 0) ((masksFit c.outLen ms 0).length == ms.length)) := by
  unfold runReplay
  simp only [input, output, ne_eq, not_true_eq_false, or_self, if_false, got, phase, show (CmdPhase.dispatched == CmdPhase.recorded) = false from rfl,
    Bool.false_eq_true, replayRefs_placed, refs]

/-- A job that is placed, its input asked for. -/
theorem finish_places {s u : State} {k : Nat} {c : Cmd} {input : Nat} {names : Job} (on : s.lan.fenced = false) (ticket : c.ticket = k)
    (placed : u.sansFab = (placeJob s c input names).sansFab) : ∃ t, finish s u = .next t ∧ t.sansFab = { s with
      rng := { s.rng with cmds := modWhere s.rng.cmds (·.ticket == k) fun c => { c with phase := .recorded } }
      tur := { s.tur with ts := modAt s.tur.ts (pickLead s (pickCluster s)) fun u => { u with gated := false } }
      job := { s.job with js := s.job.js ++ [{ names with
        ticket := k, kind := jobKind c.opcode, cluster := pickCluster s, lead := pickLead s (pickCluster s), input := input, reading := true
        addr := c.outAddr }] } }.sansFab := by
  subst ticket
  obtain ⟨t, next, same, -⟩ := finish_fab (s := s) placed on rfl rfl
  exact ⟨t, next, same⟩

/-- What a job has planned, and where its units are, is as the meaning left it when the instruction ends. -/
theorem finish_planned {s E : State} (on : E.lan.fenced = false) (p : E.pending = s.pending) (v : E.variant = s.variant) {k : Nat}
    {outs : List (List (Nat × List Byte))} {st : Status} {d0 d1 : Nat} (planned : E.Planned k outs st d0 d1) :
    ∃ t, finish s E = .next t ∧ t.sansFab = E.sansFab ∧ t.Planned k outs st d0 d1 := by
  obtain ⟨t, next, same⟩ := finish_to on p v
  obtain ⟨j, job, rest⟩ := planned
  have jobs : t.job = E.job := by have e := congrArg State.job same; exact e
  exact ⟨t, next, same, j, (job?_of_job jobs k).trans job, rest⟩

theorem detokenize_reads {s : State} {k : Nat} {c : Cmd} {j : Job} (on : s.carrying = true) (cmd : s.cmd? k = some c) (code : c.opcode = 0x31)
    (phase : c.phase = .recorded) (job : s.job? k = some j) (reading : j.reading = true) : exec (.detokenize k) s = finish s (detokRead s c) := by
  have steps : s.stepping = true := (Bool.and_eq_true_iff.mp on).1
  exact congrArg (finish s) (runJob_reads steps cmd code phase job reading detokStart detokRead)

theorem detokenize_faulted {s : State} {k : Nat} {c : Cmd} {j : Job} (on : s.lan.fenced = false) (ticket : c.ticket = k)
    (here : awaited s (.command k) c.addr24 (4 * c.len32) = false) (job : s.job? k = some j) (bad : jobFaulted s j = true) :
    ∃ t, finish s (detokRead s c) = .next t ∧ Completed s t c 0x2013 0 0 0 ∧ t.job? k = none := by
  subst ticket
  obtain ⟨gone, lan, rng, pending, variant⟩ := dropJob_left s c.ticket
  rw [detokRead_faulted here job bad]
  obtain ⟨t, next, completed, same⟩ := finish_complete (s := s) (B := dropJob s c.ticket) (c := c) (status := Status.digestMismatch.code)
    (step := 0) (d0 := 0) (d1 := 0) (by rw [lan]; exact on) pending variant (by rw [rng]) (by rw [rng])
  exact ⟨t, next, completed, (job?_of_job (by have e := congrArg State.job same; exact e) c.ticket).trans gone⟩

theorem detokenize_plans {s : State} {k : Nat} {c : Cmd} {j : Job} (on : s.lan.fenced = false) (ticket : c.ticket = k)
    (here : awaited s (.command k) c.addr24 (4 * c.len32) = false) (job : s.job? k = some j) (good : jobFaulted s j = false)
    (units : (detokPlanned s c).units ≠ []) (first : j.nextUnit = 0) (fine : j.errUnit = none) :
    ∃ t, finish s (detokRead s c) = .next t ∧
      t.Planned k ((detokPlanned s c).units.map (·.out)) (detokPlanned s c).result (detokPlanned s c).d0 (detokPlanned s c).d1 ∧
      { t with job := s.job, tur := s.tur }.sansFab = s.sansFab ∧
      (j.lead < s.tur.ts.length → (s.turret j.lead).lane = [] → (t.turret j.lead).lane =
        (List.range (min 64 (detokPlanned s c).units.length)).map fun n => { kind := j.kind, ticket := k, unit := n }) := by
  subst ticket
  rw [detokRead_plans here job good]
  obtain ⟨planned, rest, lanes⟩ := jobReady_plans job first fine units
  generalize jobReady s c.ticket (fun j => j.plan (detokPlanned s c)) = E at planned rest lanes
  have lan : E.lan = s.lan := by have e := congrArg State.lan rest; exact e
  have pending : E.pending = s.pending := by have e := congrArg State.pending rest; exact e
  have variant : E.variant = s.variant := by have e := congrArg State.variant rest; exact e
  obtain ⟨t, next, same, plannedT⟩ := finish_planned (s := s) (by rw [lan]; exact on) pending variant planned
  have turT : t.turret j.lead = E.turret j.lead := by have e := congrArg (fun u : State => u.turret j.lead) same; exact e
  refine ⟨t, next, plannedT, ?_, fun lead lane => ?_⟩
  · have e := congrArg (fun u : State => { u with job := s.job, tur := s.tur }) same
    have r := congrArg State.sansFab rest
    exact e.trans r
  · rw [turT]
    exact lanes (fun u mem => detokPlan_unposted _ _ _ u mem) lead lane

theorem masksFit_units {ms : List (List Byte)} (some : ms ≠ []) (all : Bool) : (replayPlan ms all).units ≠ [] := by
  have pos := List.length_pos_iff.mpr some
  have items : (List.range ms.length).map (fun i => (i, getN ms i)) ≠ [] := by simpa using some
  simp only [replayPlan, ne_eq, List.map_eq_nil_iff]
  exact groupsBy_ne_nil items (by simpa using pos)

theorem placed_job (s : State) (c : Cmd) (n : Nat) (names : Job) (job : s.job? c.ticket = none) :
    (placeJob s c n names).job? c.ticket = some { names with
      ticket := c.ticket, kind := jobKind c.opcode, cluster := pickCluster s, lead := pickLead s (pickCluster s), input := n, reading := true
      addr := c.outAddr } := by
  have none' : s.job.js.find? (·.ticket == c.ticket) = none := job
  unfold placeJob
  simp [State.job?, State.onJob, State.onCmd, State.onRng, ungate, State.onTurret, State.onTur, List.find?_append, none']

theorem maskReplay_plans {s : State} {k : Nat} {c : Cmd} {bs : List Byte} {ms : List (List Byte)} (on : s.lan.fenced = false) (ticket : c.ticket = k)
    (phase : c.phase = .dispatched) (job : s.job? k = none) (input : c.addr24 % 8 = 0) (output : c.outAddr % 128 = 0)
    (got : readBytes s (.command k) c.addr24 (8 * c.len32) = .got bs) (refs : replayRefs s c (leWords 8 bs) = .got ms)
    (fits : masksFit c.outLen ms 0 ≠ []) :
    ∃ t, finish s (runReplay s c) = .next t ∧ { t with job := s.job, rng := s.rng, cry := s.cry, tur := s.tur }.sansFab = s.sansFab ∧
      t.Planned k ((replayPlan (masksFit c.outLen ms 0) ((masksFit c.outLen ms 0).length == ms.length)).units.map (·.out))
        (if (masksFit c.outLen ms 0).length = ms.length then .ok else .outputFull) (masksFit c.outLen ms 0).length
        ((masksFit c.outLen ms 0).map List.length).sum := by
  subst ticket
  rw [runReplay_plans phase input output got refs]
  generalize masksFit c.outLen ms 0 = fit at fits ⊢
  have units := masksFit_units fits (fit.length == ms.length)
  obtain ⟨A, a⟩ : ∃ A, A = countDecrypted (placeJob s c (8 * c.len32) (replayNames (leWords 8 bs))) c := ⟨_, rfl⟩
  obtain ⟨j, jobA, first, fine⟩ : ∃ j, A.job? c.ticket = some j ∧ j.nextUnit = 0 ∧ j.errUnit = none := by
    rw [a]
    exact ⟨_, placed_job s c (8 * c.len32) (replayNames (leWords 8 bs)) job, rfl, rfl⟩
  have restA : { A with job := s.job, rng := s.rng, cry := s.cry, tur := s.tur } = s := by rw [a]; rfl
  rw [← a]
  obtain ⟨planned, rest, -⟩ := jobReady_plans jobA first fine units
  generalize jobReady A c.ticket _ = E at planned rest
  have restE : { E with job := s.job, rng := s.rng, cry := s.cry, tur := s.tur } = s :=
    (congrArg (fun u : State => { u with job := s.job, rng := s.rng, cry := s.cry, tur := s.tur }) rest).trans restA
  have lan : E.lan = s.lan := by have e := congrArg State.lan restE; exact e
  have pending : E.pending = s.pending := by have e := congrArg State.pending restE; exact e
  have variant : E.variant = s.variant := by have e := congrArg State.variant restE; exact e
  obtain ⟨t, next, same, plannedT⟩ := finish_planned (s := s) (by rw [lan]; exact on) pending variant planned
  refine ⟨t, next, ?_, ?_⟩
  · have e := congrArg (fun u : State => { u with job := s.job, rng := s.rng, cry := s.cry, tur := s.tur }) same
    have r := congrArg State.sansFab restE
    exact e.trans r
  · simpa [replayPlan] using plannedT

/-- Settles O21. That a job has its whole plan in the row that reads its input is the model's reading (log entry 50). -/
theorem jobsStartAndPlan : Obligations.JobsStartAndPlan := by
  unfold Obligations.JobsStartAndPlan
  refine ⟨fun s k c => ?_, fun s k c on cmd => ?_⟩
  · extract_lets lead placed
    refine ⟨fun h => ?_, fun h => ?_, fun h bad => ?_, fun h bad => ?_⟩
    · obtain ⟨-, fence, -, rfl, code, -⟩ := accepted_facts h
      rw [tokenize_starts h]
      refine ⟨fun st bad => ?_, fun bs good got scatter => ⟨fun empty => ?_, fun waits read => ?_⟩⟩
      · rw [tokenizeStart_rejects bad]
        exact finish_rejects c st 0 fence
      · rw [tokenizeStart_empty good got scatter empty]
        exact finish_rejects c .ok 0 fence
      · obtain ⟨t, next, same⟩ := finish_places fence rfl (tokenizeStart_places good got scatter waits read)
        rw [show jobKind c.opcode = 0 from by rw [code]; rfl] at same
        exact ⟨t, next, same⟩
    · obtain ⟨-, fence, -, rfl, code, -⟩ := accepted_facts h
      rw [detokenize_starts h]
      refine ⟨fun st bad => ?_, fun good empty => ?_, fun good waits long => ?_⟩
      · rw [detokStart_rejects bad]
        exact finish_rejects c st 0 fence
      · rw [detokStart_empty good empty]
        exact finish_rejects c .ok 0 fence
      · obtain ⟨t, next, same⟩ := finish_places fence rfl (detokStart_places good long waits)
        rw [show jobKind c.opcode = 1 from by rw [code]; rfl] at same
        exact ⟨t, next, same⟩
    · have fence := (accepted_facts h).2.1
      have run : exec (.maskReplay k) s = finish s (reject s c .badField) :=
        congrArg (finish s) ((runJob_accepted h runReplay runReplay).trans (by unfold runReplay; exact if_pos bad))
      rw [run]
      exact finish_rejects c .badField 0 fence
    · have fence := (accepted_facts h).2.1
      have run : exec (.pack k) s = finish s (packFail s c .badField 0xFFFFFFFF) :=
        congrArg (finish s) ((runCmd_accepted h runPack).trans (by unfold runPack; exact if_pos bad))
      rw [run]
      exact finish_rejects c .badField 0xFFFFFFFF fence
  · have fence : s.lan.fenced = false := by simpa using (Bool.and_eq_true_iff.mp on).2
    have ticket : c.ticket = k := by simpa using List.find?_some cmd
    refine ⟨fun j code phase job reading here => ?_, fun bs ms code phase job input output got refs => ?_⟩
    · rw [detokenize_reads on cmd code phase job reading]
      refine ⟨fun bad => detokenize_faulted fence ticket here job bad, fun good units first fine => ?_⟩
      subst ticket
      exact detokenize_plans fence rfl here job good units first fine
    · intro fit fits
      have run : exec (.maskReplay k) s = finish s (runReplay s c) := congrArg (finish s) (runJob_accepted ⟨on, cmd, code, phase⟩ runReplay runReplay)
      rw [run]
      exact maskReplay_plans fence ticket phase job input output got refs fits

end Sys2Proof.Machine
end

section
/-! Draft trees: attached at a boundary, verified position by position (09 R351 to R366). -/

namespace Sys2Proof.Machine

/-! ## A walk confirms a token -/

theorem find?_onTree (s : State) {f : Tree → Tree} (keeps : ∀ t, (f t).stream = t.stream) (id : Nat) :
    (s.onTree id f).tree? id = (s.tree? id).map f :=
  find?_modWhere (p := fun t : Tree => t.stream == id) (fun t h => by rw [keeps]; exact h) s.stp.trees

/-- What confirming a token leaves: its entry at the egress port, its result held. -/
theorem confirm_confirms {s : State} {x : Stream} (r : Result) (on : s.lan.fenced = false) (found : s.stream? x.id = some x) :
    (confirm s x r).fin.egress = s.fin.egress ++ [{ stream := x.id, step := r.step, token := r.token
                                                    flags := (if (s.vocOf x).isEos r.token then 4 else 0) + if r.draft then 8 else 0 }] ∧
      (confirm s x r).stream? x.id = some { x with held := x.held ++ [r] } := by
  have emitted := emitToken_open (s := ungate s (s.physOf x.home)) on x.id r.step r.token (tokenFlags false false ((s.vocOf x).isEos r.token) r.draft)
  have flags : tokenFlags false false ((s.vocOf x).isEos r.token) r.draft = (if (s.vocOf x).isEos r.token then 4 else 0) + if r.draft then 8 else 0 := by
    cases (s.vocOf x).isEos r.token <;> cases r.draft <;> rfl
  unfold confirm
  rw [emitted]
  refine ⟨?_, ?_⟩
  · rw [← flags]
    rfl
  · exact stream_onStream (s := (ungate s (s.physOf x.home)).onFin _) (fun y => { y with held := y.held ++ [r] }) (fun _ => rfl) found

/-- A step that opens after a walk opens a unit alone. -/
theorem openNext_keeps (s : State) (x : Stream) : (openNext s x).ctx = s.ctx ∧ (openNext s x).fin.egress = s.fin.egress := by
  unfold openNext
  split <;> exact ⟨rfl, rfl⟩

/-- A walk that is over with tokens to commit leaves the stream and the egress port alone. -/
theorem walkOver_keeps {s : State} {id : Nat} {x : Stream} (found : s.stream? id = some x) (held : x.held ≠ []) :
    (walkOver s id).ctx = s.ctx ∧ (walkOver s id).fin.egress = s.fin.egress := by
  unfold walkOver
  extract_lets u
  have foundU : u.stream? id = some x := found
  have ctx : u.ctx = s.ctx := rfl
  have fin : u.fin = s.fin := rfl
  clear_value u
  rw [foundU]
  split
  · next y t e there =>
    cases e
    rw [if_neg (by simpa using held)]
    split
    · obtain ⟨c, e⟩ := openNext_keeps u x
      exact ⟨c.trans ctx, e.trans (congrArg Machine.Fin.egress fin)⟩
    · exact ⟨ctx, congrArg Machine.Fin.egress fin⟩
  · exact ⟨ctx, congrArg Machine.Fin.egress fin⟩

section
variable {s : State} {x : Stream} {t : Tree} {u : SelUnit}

/-- What a walk leaves when it confirms a token. -/
def Confirms (s : State) (x : Stream) (r : Result) (t : State) : Prop :=
  t.stream? x.id = some { x with held := x.held ++ [r] } ∧
    t.fin.egress = s.fin.egress ++ [{ stream := x.id, step := r.step, token := r.token
                                      flags := (if (s.vocOf x).isEos r.token then 4 else 0) + if r.draft then 8 else 0 }]

theorem confirms_walkOver {r : Result} {v : State} (ctx : v.ctx = (confirm s x r).ctx) (fin : v.fin = (confirm s x r).fin)
    (on : s.lan.fenced = false) (found : s.stream? x.id = some x) : Confirms s x r v ∧ Confirms s x r (walkOver v x.id) := by
  obtain ⟨egress, there⟩ := confirm_confirms r on found
  have foundV := (stream?_of_ctx ctx x.id).trans there
  have first : Confirms s x r v := ⟨foundV, (congrArg Machine.Fin.egress fin).trans egress⟩
  obtain ⟨ctx', egress'⟩ := walkOver_keeps foundV (by simp)
  exact ⟨first, (stream?_of_ctx ctx' x.id).trans foundV, egress'.trans first.2⟩

theorem acceptChild_confirms (on : s.lan.fenced = false) (found : s.stream? x.id = some x) (n : Nat) :
    Confirms s x (unitResult s x u (u.list.find? (·.1 == (getN t.nodes n).token)) true) (acceptChild s x t u n) := by
  unfold acceptChild
  extract_lets tok r s' next
  have both := confirms_walkOver (s := s) (x := x) (r := r) (v := s') rfl rfl on found
  have failed := confirms_walkOver (s := s) (x := x) (r := r) (v := s'.onTree x.id fun t => { t with nodeFailed := true }) rfl rfl on found
  split
  · exact both.2
  · split
    · exact both.2
    · split
      · exact failed.2
      · exact both.1

/-- A result of a chosen token is of that token. -/
theorem unitResult_chosen (d : Bool) (c : Nat × Word) : (unitResult s x u (some c) d).token = c.1 ∧ (unitResult s x u (some c) d).draft = d := ⟨rfl, rfl⟩

/-- A walk under greedy verification confirms the token of the plain choice. -/
theorem walkPosition_greedy (on : s.lan.fenced = false) (found : s.stream? x.id = some x) (some_ : u.list ≠ []) (greedy : t.stochastic = false) :
    ∃ r, Confirms s x r (walkPosition s x t u) ∧ r.token = (unitResult s x u none false).token ∧
      r.draft = (childrenOf t.nodes t.pos).any fun i => (getN t.nodes i).token == (unitResult s x u none false).token && !(getN t.nodes i).pruned := by
  unfold walkPosition
  extract_lets kids plain q w
  rw [if_neg (by simpa using some_), greedy, Bool.not_false, if_pos rfl]
  split
  · next n child =>
    have likes := List.find?_some child
    have listed' : kids.any (fun i => (getN t.nodes i).token == plain.token && !(getN t.nodes i).pruned) = true :=
      List.any_eq_true.mpr ⟨n, List.mem_of_find?_eq_some child, likes⟩
    simp only [Bool.and_eq_true, beq_iff_eq, Bool.not_eq_true'] at likes
    refine ⟨_, acceptChild_confirms on found n, ?_, ?_⟩
    · cases listed : u.list.find? (·.1 == (getN t.nodes n).token) with
      | none => rfl
      | some c =>
        have tok : c.1 = (getN t.nodes n).token := by simpa using List.find?_some listed
        exact tok.trans likes.1
    · exact Eq.trans rfl listed'.symm
  · next none =>
    refine ⟨plain, (confirms_walkOver rfl rfl on found).2, rfl, ?_⟩
    refine Eq.trans rfl (List.any_eq_false.mpr fun n mem => ?_).symm
    exact List.find?_eq_none.mp none n mem

/-- DRAFT_VERIFY_STEP at a position whose unit has closed. -/
theorem verify_confirms {n : Nat} (carrying : s.carrying = true) (found : s.stream? n = some x) (tree : s.tree? n = some t)
    (unit : s.unit? n t.step t.pos = some u) (walking : t.walking = true) (svc : x.svc = .open) (closed : u.st = .closed) (own : u.awaitNotice = false)
    (some_ : u.list ≠ []) (greedy : t.stochastic = false) :
    ∃ v y r, exec (.draftVerifyStep n) s = .next v ∧ v.stream? n = some y ∧ y.held = x.held ++ [r] ∧
      r.token = (unitResult s x u none false).token ∧
      r.draft = ((childrenOf t.nodes t.pos).any fun i => (getN t.nodes i).token == (unitResult s x u none false).token && !(getN t.nodes i).pruned) ∧
      v.fin.egress = s.fin.egress ++ [{ stream := n, step := r.step, token := r.token
                                        flags := (if (s.vocOf x).isEos r.token then 4 else 0) + if r.draft then 8 else 0 }] := by
  obtain rfl := stream_id found
  obtain ⟨stepping, fenced⟩ := carrying_iff.mp carrying
  obtain ⟨r, ⟨there, egress⟩, token, draft⟩ := walkPosition_greedy (t := t) fenced found some_ greedy
  have row : exec (.draftVerifyStep x.id) s = finish s (walkPosition s x t u) := by
    show finish s _ = _
    rw [found, tree]
    dsimp only
    rw [unit]
    dsimp only
    rw [stepping, walking, svc, closed, own]
    rfl
  have fwd : Fwd s (walkPosition s x t u) := walkPosition_fwd (.refl s)
  obtain ⟨v, next, same⟩ := finish_to (s := s) (E := walkPosition s x t u) ((congrArg Lan.fenced fwd.lan).trans fenced) fwd.pending fwd.variant
  have ctx := congrArg State.ctx same
  have fin := congrArg State.fin same
  exact ⟨v, _, r, row.trans next, (stream?_of_ctx ctx x.id).trans there, rfl, token, draft,
    (congrArg Machine.Fin.egress (show v.fin = (walkPosition s x t u).fin from fin)).trans egress⟩

end

/-! ## A tree is attached -/

/-- Speculation gives every node a set: the tokens and the parents stay. -/
theorem speculate_names (s : State) (x : Stream) (ns : List DraftNode) :
    (speculate s x ns).1.map (fun d => (d.token, d.parent)) = ns.map fun d => (d.token, d.parent) := by
  have grows : ∀ (l : List DraftNode) (acc : List DraftNode × List Nat), (l.foldl (fun (acc : List DraftNode × List Nat) n =>
      let up := if n.parent = 0x7F then ({ set := x.set } : DraftNode) else getN acc.1 n.parent
      let r : Stepped := match x.aut with
        | none => {}
        | some a => stepToken (s.automaton a) (s.vocOf x) { set := up.set } n.token
      (acc.1 ++ [{ n with set := r.set, pruned := up.pruned || (x.aut.isSome && r.set.isEmpty) }], acc.2 ++ r.read)) acc).1.map (fun d => (d.token, d.parent)) =
        acc.1.map (fun d => (d.token, d.parent)) ++ l.map fun d => (d.token, d.parent) := by
    intro l
    induction l with
    | nil => exact fun acc => (List.append_nil _).symm
    | cons n l ih =>
      intro acc
      rw [List.foldl_cons, ih]
      simp
  exact grows ns ([], [])

theorem formSets_tree {s : State} {x : Stream} {t : Tree} (found : s.tree? x.id = some t) : ∃ ns, (formSets s x).tree? x.id = some { t with nodes := ns } ∧
    ns.map (fun d => (d.token, d.parent)) = t.nodes.map fun d => (d.token, d.parent) := by
  refine ⟨(speculate s x t.nodes).1, ?_, speculate_names s x t.nodes⟩
  unfold formSets
  rw [found]
  dsimp only
  have asked : (countReads (askSpill s x (speculate s x t.nodes).2) { read := (speculate s x t.nodes).2 }).tree? x.id = some t :=
    (congrArg (fun p : Stp => p.trees.find? fun v : Tree => v.stream == x.id) (askSpill_look s x (speculate s x t.nodes).2).stp).trans found
  have formed := find?_onTree (countReads (askSpill s x (speculate s x t.nodes).2) { read := (speculate s x t.nodes).2 })
    (f := fun u => { u with nodes := (speculate s x t.nodes).1 }) (fun _ => rfl) x.id
  rw [asked] at formed
  have kept := foldl_keeps (fun (u : State) (n : Nat) => u.onUnit x.id t.step n fun u => { u with noMask := (getN (speculate s x t.nodes).1 n).pruned })
    State.stp (fun _ _ => rfl) (List.range (speculate s x t.nodes).1.length)
    ((countReads (askSpill s x (speculate s x t.nodes).2) { read := (speculate s x t.nodes).2 }).onTree x.id fun u =>
      { u with nodes := (speculate s x t.nodes).1 })
  exact (congrArg (fun p : Stp => p.trees.find? fun v : Tree => v.stream == x.id) kept).trans formed

/-- A build keeps its stream's tree, but for the sets of its nodes. -/
theorem buildStep_tree {s : State} {x : Stream} {t : Tree} (found : s.tree? x.id = some t) : ∃ ns, (buildStep s x).tree? x.id = some { t with nodes := ns } ∧
    ns.map (fun d => (d.token, d.parent)) = t.nodes.map fun d => (d.token, d.parent) := by
  obtain ⟨ns, formed, names⟩ := formSets_tree (s := ungate s (s.physOf x.home)) (x := x) found
  refine ⟨ns, Eq.trans ?_ formed, names⟩
  exact congrArg (fun p : Stp => p.trees.find? fun v : Tree => v.stream == x.id)
    (((LookOnly.onStream _ x.id _).trans (lookService_look ..)).stp)

/-- A boundary makes no tree. -/
theorem beginBuild_stp {s : State} {x : Stream} (none : s.tree? x.id = none) : (beginBuild s x).stp = s.stp := by
  rw [beginBuild_eq]
  have built : ∀ u : State, u.tree? x.id = .none → (buildStep u x).stp = u.stp := by
    intro u none
    unfold buildStep
    have still : formSets (ungate u (u.physOf x.home)) x = ungate u (u.physOf x.home) := by
      unfold formSets
      rw [show (ungate u (u.physOf x.home)).tree? x.id = .none from none]
    rw [still]
    exact ((LookOnly.onStream _ x.id _).trans (lookService_look ..)).stp
  have failed : (failStep s x).stp = s.stp := by
    unfold failStep emitToken
    dsimp only
    split <;> rfl
  split
  · unfold faultedStep
    rw [none]
    rfl
  · split
    · split
      · rw [none]
        exact failed
      · exact built s none
    · split
      · rfl
      · exact built (openUnit s x.id x.next 0x7F) none

theorem serve_tree_none {s : State} {id : Nat} {x : Stream} (found : s.stream? id = some x) (none : x.recorded = []) (tree : s.tree? id = .none) :
    (serve s id).tree? id = .none := by
  cases bound : x.atBoundary with
  | false =>
    have away : serve s id = s := by simp [serve, found, bound]
    rw [away]
    exact tree
  | true =>
    obtain ⟨C, z, served, foundC, -, house, -⟩ := serve_goesOn found bound none
    have treeC : C.tree? id = .none := (tree_of_house house id).trans tree
    obtain rfl := stream_id foundC
    rw [served]
    unfold goOn
    have next : (if (C.tree? z.id).isSome || z.armed != some 0 || z.armSpent || z.rebuild then
        beginBuild (C.onStream z.id Stream.unrebuilt) z.unrebuilt else C.onStream z.id fun y => { y with st := .idle, svc := .none }).tree? z.id = .none := by
      split
      · exact (congrArg (fun p : Stp => p.trees.find? fun v : Tree => v.stream == z.id) (beginBuild_stp (s := C.onStream z.id Stream.unrebuilt)
          (x := z.unrebuilt) treeC)).trans treeC
      · exact treeC
    split
    · exact next
    · exact next
    · exact treeC

theorem beginBuild_tree {s : State} {x : Stream} {t : Tree} (found : s.tree? x.id = some t) (sound : boundFaulted s x = false)
    (live : ∀ u, s.unit? x.id x.next 0x7F = some u → u.st ≠ .failed) : ∃ ns, (beginBuild s x).tree? x.id = some { t with nodes := ns } ∧
      ns.map (fun d => (d.token, d.parent)) = t.nodes.map fun d => (d.token, d.parent) := by
  rw [beginBuild_eq, sound, if_neg Bool.false_ne_true]
  cases unit : s.unit? x.id x.next 0x7F with
  | some u =>
    dsimp only
    rw [if_neg (by simpa using live u unit)]
    exact buildStep_tree found
  | none =>
    dsimp only
    split
    · exact ⟨t.nodes, found, rfl⟩
    · exact buildStep_tree (s := openUnit s x.id x.next 0x7F) found

/-- A boundary leaves its stream's tree, but for the sets of its nodes, while nothing bound is FAULTED and the root has not failed. -/
theorem serve_tree {s : State} {id : Nat} {x : Stream} {t : Tree} (found : s.stream? id = some x) (none : x.recorded = [])
    (st : x.st = .idle ∨ x.st = .running) (tree : s.tree? id = some t) (sound : boundFaulted s x = false)
    (live : ∀ u, s.unit? id x.next 0x7F = some u → u.st ≠ .failed) : ∃ ns, (serve s id).tree? id = some { t with nodes := ns } ∧
      ns.map (fun d => (d.token, d.parent)) = t.nodes.map fun d => (d.token, d.parent) := by
  cases bound : x.atBoundary with
  | false =>
    have away : serve s id = s := by simp [serve, found, bound]
    exact ⟨t.nodes, by rw [away]; exact tree, rfl⟩
  | true =>
    obtain ⟨C, z, served, foundC, same, house, -⟩ := serve_goesOn found bound none
    have treeC : C.tree? id = some t := (tree_of_house house id).trans tree
    have stZ : z.st = x.st := by have e := congrArg Stream.st same; exact e
    obtain ⟨slot, aut, stop, owner, next, -⟩ := lasting_names (x := x) (y := z) (by
      have e := congrArg (fun v : Stream => { v with
        st := .idle, svc := .none, rebuild := false, held := [], pagesResv := 0, waitPages := false, waitCup := false, forcedEos := false
        spill := [], spillSaid := false }) same
      exact e)
    obtain rfl := stream_id foundC
    have steps : goOn C z.id z = beginBuild (C.onStream z.id Stream.unrebuilt) z.unrebuilt := goOn_builds (stZ ▸ st) (by rw [treeC]; rfl)
    have soundC : boundFaulted (C.onStream z.id Stream.unrebuilt) z.unrebuilt = false := by
      rw [boundFaulted_beside ((house.beside z.id).trans (onStream_beside C z.id Stream.unrebuilt)) z.unrebuilt]
      exact (boundFaulted_names s slot aut stop owner).trans sound
    have liveC : ∀ u, (C.onStream z.id Stream.unrebuilt).unit? z.id z.next 0x7F = some u → u.st ≠ .failed := by
      intro u unit
      refine live u ?_
      rw [← next, ← unit]
      exact congrArg (fun f : Machine.Fin => f.units.find? fun v => v.stream == z.id && v.step == z.next && v.node == 0x7F) house.fin.symm
    rw [served, steps]
    exact beginBuild_tree (x := z.unrebuilt) treeC soundC liveC

/-! ## Attaching a tree -/

theorem openUnit_finds {s : State} {id step node : Nat} {u : SelUnit} (found : s.unit? id step node = some u) (i j k : Nat) :
    (openUnit s i j k).unit? id step node = some u :=
  List.find?_append.trans (by rw [show s.fin.units.find? _ = some u from found]; rfl)

theorem openUnits_find {id step node : Nat} {u : SelUnit} {s : State} (found : s.unit? id step node = some u) (i j : Nat) (l : List Nat) :
    (l.foldl (fun s n => openUnit s i j n) s).unit? id step node = some u := by
  induction l generalizing s with
  | nil => exact found
  | cons n l ih => exact ih (openUnit_finds found i j n)

/-- An attached tree is its stream's tree, and its root's unit is open unless it was there before. -/
theorem attachTree_attaches {s : State} {t : Tree} (none : s.tree? t.stream = .none)
    (live : ∀ u, s.unit? t.stream t.step 0x7F = some u → u.st ≠ .failed) :
    (∃ w, (attachTree s t).tree? t.stream = some { t with waited := w }) ∧
      (∀ u, (attachTree s t).unit? t.stream t.step 0x7F = some u → u.st ≠ .failed) ∧
      { attachTree s t with stp := s.stp, fin := s.fin } = s := by
  unfold attachTree
  extract_lets a b
  have treeA : a.tree? t.stream = some { t with waited := s.stp.waiting.any fun w => w.stream == t.stream && w.pool } := by
    have old : s.stp.trees.find? (fun v => v.stream == t.stream) = .none := none
    refine List.find?_append.trans ?_
    rw [old]
    simp
  have restA : { a with stp := s.stp, fin := s.fin } = s := rfl
  have liveA : ∀ u, a.unit? t.stream t.step 0x7F = some u → u.st ≠ .failed := live
  clear_value a
  obtain ⟨u, foundB, liveB⟩ : ∃ u, b.unit? t.stream t.step 0x7F = some u ∧ u.st ≠ .failed := by
    cases old : a.unit? t.stream t.step 0x7F with
    | some u => exact ⟨u, by simp only [b, old, Option.isSome_some, if_true], liveA u old⟩
    | none =>
      refine ⟨{ stream := t.stream, step := t.step, node := 0x7F }, ?_, fun h => by cases h⟩
      have opened : b = openUnit a t.stream t.step 0x7F := by simp only [b, old, Option.isSome_none, Bool.false_eq_true, if_false]
      rw [opened]
      refine List.find?_append.trans ?_
      rw [show a.fin.units.find? _ = .none from old]
      simp
  have keptB : b.stp = a.stp ∧ { b with stp := s.stp, fin := s.fin } = { a with stp := s.stp, fin := s.fin } := by
    dsimp only [b]
    split <;> exact ⟨rfl, rfl⟩
  clear_value b
  have stp : ((List.range t.nodes.length).foldl (fun s n => openUnit s t.stream t.step n) b).stp = b.stp :=
    foldl_keeps _ State.stp (by intro _ _; rfl) _ _
  have rest : { (List.range t.nodes.length).foldl (fun s n => openUnit s t.stream t.step n) b with stp := s.stp, fin := s.fin } =
      { b with stp := s.stp, fin := s.fin } := foldl_keeps _ (fun u : State => { u with stp := s.stp, fin := s.fin }) (by intro _ _; rfl) _ _
  have unit := openUnits_find foundB t.stream t.step (List.range t.nodes.length)
  refine ⟨⟨s.stp.waiting.any fun w => w.stream == t.stream && w.pool, ?_⟩, fun v found => ?_, rest.trans (keptB.2.trans restA)⟩
  · exact (congrArg (fun p : Stp => p.trees.find? fun v : Tree => v.stream == t.stream) (stp.trans keptB.1)).trans treeA
  · cases unit.symm.trans found
    exact liveB

/-! ## A recorded DRAFT at its stream's turn -/

/-- A stream whose turn at its queue it may be. -/
def Stream.atTurn (s : State) (x : Stream) : Stream := { x with waitQueue := if hasTurn s x then false else x.waitQueue }

theorem inTurn_only (s : State) (x : Stream) : TurnOnly s (inTurn s x) := by
  unfold inTurn
  split <;> rfl

theorem inTurn_finds {s : State} {x : Stream} (found : s.stream? x.id = some x) : (inTurn s x).stream? x.id = some (x.atTurn s) := by
  unfold inTurn Stream.atTurn
  split
  · exact stream_onStream (s := s.onQueue x.queue fun q => { q with waiters := [] }) (fun y => { y with waitQueue := false }) (fun _ => rfl) found
  · exact found

theorem inTurn_cmds (s : State) (x : Stream) : (inTurn s x).rng = s.rng := by
  unfold inTurn
  split <;> rfl

theorem inTurn_pages (s : State) (x : Stream) : (inTurn s x).ctx.streams.map (·.pagesResv) = s.ctx.streams.map (·.pagesResv) := by
  unfold inTurn
  split
  · exact onStream_keys (·.pagesResv) (s.onQueue x.queue fun q => { q with waiters := [] }) x.id (f := fun y => { y with waitQueue := false })
      fun _ => rfl
  · rfl

theorem checkTree_turn {a b : State} (h : TurnOnly a b) (x : Stream) (w : Bool) (c : Cmd) (r : ReadRes) :
    checkTree b { x with waitQueue := w } c r = checkTree a x c r :=
  h.blind (fun t => checkTree t { x with waitQueue := w } c r) fun _ _ _ _ => rfl

theorem treeFits_turn {a b : State} (h : TurnOnly a b) (pages : b.ctx.streams.map (·.pagesResv) = a.ctx.streams.map (·.pagesResv)) (t : Tree) :
    treeFits b t = treeFits a t := by
  have units : unitsOpen b = unitsOpen a := h.blind unitsOpen fun _ _ _ _ => rfl
  have nodes : poolUsed b = poolUsed a := h.blind poolUsed fun _ _ _ _ => rfl
  have free : pagesFree b = pagesFree a := by
    have variant : b.variant = a.variant := h.blind State.variant fun _ _ _ _ => rfl
    have fin : b.fin = a.fin := h.blind State.fin fun _ _ _ _ => rfl
    unfold pagesFree pagesUsed
    rw [variant, pages, fin, h.stp]
  unfold treeFits
  rw [units, nodes, free, show b.variant = a.variant from h.blind State.variant fun _ _ _ _ => rfl]

/-- A tree that passes its checks is its stream's, for the next step, at its root. -/
theorem checkTree_ok {s : State} {x : Stream} {c : Cmd} {bs : List Byte} {t : Tree} (ok : checkTree s x c (.got bs) = .ok t) :
    t.stream = x.id ∧ t.step = x.next ∧ t.pos = 0x7F := by
  unfold checkTree at ok
  dsimp only at ok
  split at ok
  · cases ok
  · split at ok
    · cases ok
    · split at ok
      · cases ok
      · split at ok <;> split at ok <;> cases ok <;> exact ⟨rfl, rfl, rfl⟩

theorem outTurn_keeps (s t : State) (x : Stream) : TurnOnly t (outTurn s t x) ∧ (outTurn s t x).rng = t.rng := by
  unfold outTurn
  split <;> exact ⟨rfl, rfl⟩

section
variable {A : State} {X : Stream} {c : Cmd} (tree : A.tree? X.id = none) (st : X.st = .idle ∨ X.st = .running)
include tree st

theorem takes_draft : ¬ ((A.tree? X.id).isSome ∨ (X.st ≠ .idle ∧ X.st ≠ .running)) := by
  rintro (has | ⟨i, r⟩)
  · rw [tree] at has
    cases has
  · exact st.elim i r

theorem effectDraft_mismatches (other : c.le 16 4 ≠ X.next) : effectDraft A X c = .ok (complete A c Status.stepMismatch.code (c.le 16 4)) := by
  unfold effectDraft
  dsimp only
  rw [if_neg (takes_draft tree st), if_pos other]
  rfl

theorem effectDraft_attaches {tr : Tree} {bs : List Byte} (next : c.le 16 4 = X.next) (fields : draftFields c = true)
    (got : readBytes A (.command c.ticket) c.addr24 c.len32 = .got bs) (ok : checkTree A X c (.got bs) = .ok tr) (fits : treeFits A tr = true) :
    effectDraft A X c = .ok (complete ((attachTree A tr).onStream X.id fun y => { y with st := .running, idleSaid := false }) c Status.ok.code tr.step
      tr.nodes.length 0) := by
  unfold effectDraft
  dsimp only
  rw [if_neg (takes_draft tree st), if_neg (not_not_intro next), got, ok, fields, if_neg (by decide), if_neg (by simp)]
  dsimp only
  rw [if_pos fits]

end

section
variable {s : State} {x : Stream} {c : Cmd} (on : s.Serving) (found : s.stream? x.id = some x) (bound : x.atBoundary = true) (due : x.endDue = 0)
  (zero : x.zeroing = false) (list : x.recorded = [c.ticket]) (cmd : s.cmd? c.ticket = some c) (code : c.opcode = 0x24)
include on found bound due zero list cmd code

/-- A recorded DRAFT that takes effect at once: the row does that, and the stream goes on. -/
theorem draftTreeAttach_takes (tree : s.tree? x.id = none) {B : State} (effect : effectDraft (inTurn s x) (x.atTurn s) c = .ok B)
    (single : ∀ y, B.stream? x.id = some y → (y.recorded.filter (· != c.ticket)) = []) :
    exec (.draftTreeAttach x.id) s = finish s (serve (outTurn s (B.onStream x.id (Stream.unlists c.ticket)) x) x.id) := by
  have turn := inTurn_only s x
  have takes := boundary_takes (c := c) found list bound due zero effectDraft rfl (inTurn_finds found) (X := x.atTurn s) bound list
    ((congrArg (fun r : Rng => r.cmds.find? fun d : Cmd => d.ticket == c.ticket) (inTurn_cmds s x)).trans cmd)
    (by unfold behindDraft; rw [turn.tree]; simp only [Stream.atTurn, tree]; rfl) ((if_pos code).trans effect) single
  have any : (x.recorded.any fun t => ((s.cmd? t).map fun c => c.opcode == 0x24).getD false) = true := by
    simp [list, cmd, code]
  change finish s _ = _
  rw [found]
  simp only [on.1, bound, due, any, Bool.not_true, Bool.false_or, bne_self_eq_false, Bool.false_eq_true, if_false, if_true]
  rw [takes]

/-- What the row leaves when the DRAFT's effect is to complete it on the state A. -/
theorem draftTreeAttach_answers (tree : s.tree? x.id = none) {A : State} {status step d0 d1 : Nat}
    (effect : effectDraft (inTurn s x) (x.atTurn s) c = .ok (complete A c status step d0 d1)) {y : Stream} (foundA : A.stream? x.id = some y)
    (listA : y.recorded = [c.ticket]) (lan : A.lan = s.lan) (pending : A.pending = s.pending) (variant : A.variant = s.variant) :
    ∃ (t O : State), exec (.draftTreeAttach x.id) s = .next t ∧ t.Answered c status step d0 d1 ∧ t.sansFab = (serve O x.id).sansFab ∧
      O.stream? x.id = some (y.unlists c.ticket) ∧ O.stp = A.stp ∧ O.fin = A.fin ∧ O.voc = A.voc ∧ O.aut = A.aut := by
  have single : ∀ z, (complete A c status step d0 d1).stream? x.id = some z → (z.recorded.filter (· != c.ticket)) = [] := by
    intro z h
    cases foundA.symm.trans h
    simp [listA]
  have run := draftTreeAttach_takes on found bound due zero list cmd code tree effect single
  obtain ⟨e, isFor, posts⟩ := complete_posts A c status step d0 d1
  have ctxB := complete_ctx A c status step d0 d1
  generalize complete A c status step d0 d1 = B at run posts ctxB
  obtain ⟨turn, rng⟩ := outTurn_keeps s (B.onStream x.id (Stream.unlists c.ticket)) x
  have ctx := outTurn_ctx s (B.onStream x.id (Stream.unlists c.ticket)) x
  generalize outTurn s (B.onStream x.id (Stream.unlists c.ticket)) x = O at run turn rng ctx
  obtain ⟨variantB, pendingB, -, lanB, rngB, vocB, autB, -, -, -, finB, stpB, -⟩ := sansFab_ext posts
  have fwd := serve_fwd (id := x.id) (.refl O)
  have lanO : O.lan = s.lan := turn.lan.trans (lanB.trans lan)
  have pendingO : O.pending = s.pending := (turn.blind State.pending fun _ _ _ _ => rfl).trans (pendingB.trans pending)
  have variantO : O.variant = s.variant := (turn.blind State.variant fun _ _ _ _ => rfl).trans (variantB.trans variant)
  obtain ⟨t, next, sameT⟩ := finish_to (s := s) (E := serve O x.id) (by rw [fwd.lan, lanO]; exact on.2) (fwd.pending.trans pendingO)
    (fwd.variant.trans variantO)
  have posted : e ∈ O.rng.comps := by
    rw [rng]
    have comps : B.rng.comps = A.rng.comps ++ [e] := congrArg Rng.comps rngB
    exact (congrArg (e ∈ ·) comps).mpr (List.mem_append_right _ List.mem_cons_self)
  refine ⟨t, O, run.trans next, ⟨e, ?_, isFor⟩, sameT, ?_, turn.stp.trans stpB, (turn.blind State.fin fun _ _ _ _ => rfl).trans finB,
    (turn.blind State.voc fun _ _ _ _ => rfl).trans vocB, turn.aut.trans autB⟩
  · have rngT : t.rng = (serve O x.id).rng := by have e := congrArg State.rng sameT; exact e
    rw [rngT]
    exact fwd.comps e posted
  · rw [stream?_of_ctx ctx]
    exact stream_onStream (Stream.unlists c.ticket) (fun _ => rfl) ((stream?_of_ctx ctxB x.id).trans foundA)

/-- A DRAFT for another step attaches nothing. -/
theorem draft_mismatches (tree : s.tree? x.id = none) (st : x.st = .idle ∨ x.st = .running) (other : c.le 16 4 ≠ x.next) :
    ∃ t, exec (.draftTreeAttach x.id) s = .next t ∧ t.Answered c 0x2015 (c.le 16 4) 0 0 ∧ t.tree? x.id = none := by
  have turn := inTurn_only s x
  have treeA := (turn.tree x.id).trans tree
  have pending : (inTurn s x).pending = s.pending := turn.blind State.pending fun _ _ _ _ => rfl
  have variant : (inTurn s x).variant = s.variant := turn.blind State.variant fun _ _ _ _ => rfl
  have effect : effectDraft (inTurn s x) (x.atTurn s) c = .ok (complete (inTurn s x) c Status.stepMismatch.code (c.le 16 4)) :=
    effectDraft_mismatches (X := x.atTurn s) treeA st other
  obtain ⟨t, O, next, answered, same, foundO, stp, -⟩ :=
    draftTreeAttach_answers on found bound due zero list cmd code tree effect (inTurn_finds found) list turn.lan pending variant
  refine ⟨t, next, answered, ?_⟩
  have treeO : O.tree? x.id = none := (congrArg (fun p : Stp => p.trees.find? fun v : Tree => v.stream == x.id) stp).trans treeA
  have empty : ((x.atTurn s).unlists c.ticket).recorded = [] := by simp [Stream.unlists, Stream.atTurn, list]
  have stpT : t.stp = (serve O x.id).stp := by have e := congrArg State.stp same; exact e
  exact (congrArg (fun p : Stp => p.trees.find? fun v : Tree => v.stream == x.id) stpT).trans (serve_tree_none foundO empty treeO)

/-- A DRAFT whose tree passes its checks and finds room attaches it. -/
theorem draft_attaches {tr : Tree} {bs : List Byte} (tree : s.tree? x.id = none) (st : x.st = .idle ∨ x.st = .running) (next : c.le 16 4 = x.next)
    (fields : draftFields c = true) (got : readBytes s (.command c.ticket) c.addr24 c.len32 = .got bs) (ok : checkTree s x c (.got bs) = .ok tr)
    (fits : treeFits s tr = true) (sound : boundFaulted s x = false) (live : ∀ u, s.unit? x.id x.next 0x7F = some u → u.st ≠ .failed) :
    ∃ t y, exec (.draftTreeAttach x.id) s = .next t ∧ t.Answered c 0 x.next tr.nodes.length 0 ∧ t.tree? x.id = some y ∧
      y.nodes.map (fun d => (d.token, d.parent)) = tr.nodes.map (fun d => (d.token, d.parent)) ∧ y.step = x.next ∧ y.pos = 0x7F := by
  have turn := inTurn_only s x
  have foundTurn := inTurn_finds found
  have treeA := (turn.tree x.id).trans tree
  have gotA := (readBytes_fab turn.fab (.command c.ticket) c.addr24 c.len32).trans got
  have okA : checkTree (inTurn s x) (x.atTurn s) c (.got bs) = .ok tr := (checkTree_turn turn x _ c (.got bs)).trans ok
  have fitsA := (treeFits_turn turn (inTurn_pages s x) tr).trans fits
  have pending : (inTurn s x).pending = s.pending := turn.blind State.pending fun _ _ _ _ => rfl
  have variant : (inTurn s x).variant = s.variant := turn.blind State.variant fun _ _ _ _ => rfl
  have fin : (inTurn s x).fin = s.fin := turn.blind State.fin fun _ _ _ _ => rfl
  have voc : (inTurn s x).voc = s.voc := turn.blind State.voc fun _ _ _ _ => rfl
  have effect : effectDraft (inTurn s x) (x.atTurn s) c = .ok (complete ((attachTree (inTurn s x) tr).onStream x.id fun y =>
      { y with st := .running, idleSaid := false }) c Status.ok.code tr.step tr.nodes.length 0) :=
    effectDraft_attaches (X := x.atTurn s) treeA st next fields gotA okA fitsA
  obtain ⟨stream, step, pos⟩ := checkTree_ok ok
  obtain ⟨⟨w, treeB⟩, liveB, restB⟩ := attachTree_attaches (s := inTurn s x) (t := tr) (by rw [stream]; exact treeA) (by
    rw [stream, step]
    intro u unit
    exact live u ((unit?_of_fin fin x.id x.next 0x7F).symm.trans unit))
  have treeB : (attachTree (inTurn s x) tr).tree? x.id = some { tr with waited := w } := (congrArg (State.tree? _) stream.symm).trans treeB
  rw [stream, step] at liveB
  rw [step] at effect
  generalize attachTree (inTurn s x) tr = B at effect treeB liveB restB
  have ctxB : B.ctx = (inTurn s x).ctx := by have e := congrArg State.ctx restB; exact e
  have lanB : B.lan = (inTurn s x).lan := by have e := congrArg State.lan restB; exact e
  have pendingB : B.pending = (inTurn s x).pending := by have e := congrArg State.pending restB; exact e
  have variantB : B.variant = (inTurn s x).variant := by have e := congrArg State.variant restB; exact e
  have vocB : B.voc = (inTurn s x).voc := by have e := congrArg State.voc restB; exact e
  have autB : B.aut = (inTurn s x).aut := by have e := congrArg State.aut restB; exact e
  have foundB := stream_onStream (s := B) (fun y => { y with st := .running, idleSaid := false }) (fun _ => rfl)
    ((stream?_of_ctx ctxB x.id).trans foundTurn)
  obtain ⟨t, O, run, answered, same, foundO, stpO, finO, vocO, autO⟩ :=
    draftTreeAttach_answers on found bound due zero list cmd code tree effect foundB list (lanB.trans turn.lan) (pendingB.trans pending)
      (variantB.trans variant)
  have treeO : O.tree? x.id = some { tr with waited := w } :=
    (congrArg (fun p : Stp => p.trees.find? fun v : Tree => v.stream == x.id) stpO).trans treeB
  have soundO : boundFaulted O x = false := by
    have aut : O.aut = s.aut := autO.trans (autB.trans turn.aut)
    rw [boundFaulted_items (vocO.trans (vocB.trans voc)) (congrArg Aut.auts aut) (congrArg Aut.stops aut) x]
    exact sound
  have liveO : ∀ u, O.unit? x.id x.next 0x7F = some u → u.st ≠ .failed := by
    intro u unit
    exact liveB u ((unit?_of_fin finO x.id x.next 0x7F).symm.trans unit)
  obtain ⟨ns, treeT, names⟩ := serve_tree foundO (by simp [Stream.unlists, Stream.atTurn, list]) (.inr rfl) treeO
    ((boundFaulted_names O rfl rfl rfl rfl).trans soundO) liveO
  have stpT : t.stp = (serve O x.id).stp := by have e := congrArg State.stp same; exact e
  exact ⟨t, _, run, answered, (congrArg (fun p : Stp => p.trees.find? fun v : Tree => v.stream == x.id) stpT).trans treeT, names, step, pos⟩

end

/-- Settles O35. That a STEP_MISMATCH of DRAFT carries the tree's STEP is the model's reading (log entry 77). -/
theorem draftTrees : Obligations.DraftTrees := by
  unfold Obligations.DraftTrees
  refine ⟨fun s n x c k on found bound due zero list cmd code tree st sound live => ?_, ?_⟩
  · obtain rfl := stream_id found
    have ticket : c.ticket = k := by simpa using List.find?_some cmd
    subst ticket
    exact ⟨draft_mismatches on found bound due zero list cmd code tree st, fun tr bs next fields got ok fits =>
      draft_attaches on found bound due zero list cmd code tree st next fields got ok fits sound live⟩
  · intro s n x tr u on found tree unit walking svc closed notice some greedy
    obtain ⟨t, y, r, run, foundT, held, token, draft, egress⟩ := verify_confirms on found tree unit walking svc closed notice some greedy
    rw [token, draft] at egress
    exact ⟨t, y, r, run, foundT, held, token, draft, egress⟩

end Sys2Proof.Machine
end
